-- ==== Sys2Proof/Word.lean ====
section
/-!
DEFINITION. The words of Burut (R2): byte, half, word, dword and vector, as bit vectors.
-/

namespace Sys2Proof

/-- 8 bits (R2). -/
abbrev Byte := BitVec 8

/-- A word of 32 bits: the size of an instruction (R2, R26). -/
abbrev Word := BitVec 32

/-- A dword of 64 bits: a general register (R2, R34). -/
abbrev Dword := BitVec 64

/-- A vector of 512 bits (R2, R34). -/
abbrev Vec := BitVec 512

end Sys2Proof
end

