-- ==== Sys2Proof/Machine/Bits.lean ====
section
/-!
DEFINITION. Bit fields, extensions and byte order (R1, R9, R29): the helpers that decoding, memory and the
registers share.
-/

namespace Sys2Proof

/-- Bits lo + n - 1 : lo of a value. -/
def fld {m : Nat} (x : BitVec m) (lo n : Nat) : BitVec n := x.extractLsb' lo n

/-- The same field as a number. -/
def fldN {m : Nat} (x : BitVec m) (lo n : Nat) : Nat := (fld x lo n).toNat

/-- One bit of a value. -/
def bitAt {m : Nat} (x : BitVec m) (i : Nat) : Bool := x.getLsbD i

/-- A field widened to a dword with zero fill (ZExt of R9). -/
def zx {m : Nat} (x : BitVec m) : Dword := x.setWidth 64

/-- A field widened to a dword with sign fill (SExt of R9). -/
def sx {m : Nat} (x : BitVec m) : Dword := x.signExtend 64

/-- A number placed at bit lo of a dword. -/
def at64 (n lo : Nat) : Dword := BitVec.ofNat 64 (n * 2 ^ lo)

/-- A Bool as one bit of a dword. -/
def bit64 (b : Bool) (lo : Nat) : Dword := if b then BitVec.ofNat 64 (2 ^ lo) else 0

/-- The bits lo + n - 1 : lo of x replaced by those of v. -/
def putFld {m : Nat} (x : BitVec m) (lo n : Nat) (v : BitVec n) : BitVec m :=
  (x &&& ~~~(((BitVec.allOnes n).setWidth m) <<< lo)) ||| ((v.setWidth m) <<< lo)

/-- The bytes of a value in ascending order of address: the lowest byte first (R1). -/
def bytesOf {m : Nat} (x : BitVec m) : Nat → List Byte
  | 0 => []
  | n + 1 => x.setWidth 8 :: bytesOf (x >>> 8) n

/-- The value of a list of bytes, the lowest first (R1). -/
def natOfBytes : List Byte → Nat
  | [] => 0
  | b :: bs => b.toNat + 256 * natOfBytes bs

/-- The same as a bit vector of width m. -/
def ofBytes (m : Nat) (bs : List Byte) : BitVec m := BitVec.ofNat m (natOfBytes bs)

end Sys2Proof
end

