-- ==== Sys2Proof/Syntax.lean ====
section
/-!
DEFINITION. The operations of the part, one constructor per row of spec/opcode_table.json.

The first 235 rows are the encoded instructions of Burut (R54); their operands are the fields of the
instruction word, each a bit vector of the field's width, named as the table names them.
The last 83 rows are the table's events: the indivisible steps of the other agents (spec/95). They have
no encoding; their operands say which unit acts, which packet is handled, or what the outside brings.
-/

namespace Sys2Proof

/-- The kinds of access that translation distinguishes (R99, ecause.acc of R378). -/
inductive AccKind where
  | load | store | atomic | fetch
deriving DecidableEq, Repr, Inhabited

/-- A packet of the Kealia link as it arrives from another node (R413, R414): the 16-byte header and up
to five 16-byte body slots, little-endian. -/
structure FabricPacket where
  hdr  : BitVec 128
  body : BitVec 640
deriving DecidableEq, Repr, Inhabited

/-- Which packet an event handles: the n-th of the packets in flight inside the package, or one that
arrives from another node. -/
inductive PacketRef where
  | net (n : Nat)
  | fabric (p : FabricPacket)
deriving DecidableEq, Repr, Inhabited

/-- What the Starter's signed configuration image assigns to one Rind (R417). -/
structure RindImage where
  rind     : Nat
  clusters : List Nat
  regions  : List Nat
  rcfg     : List (BitVec 64)
  hwin     : BitVec 64
  peers    : List (BitVec 64)
  twin     : BitVec 64
  spoolBase : BitVec 64
  spoolCnt  : BitVec 64
deriving DecidableEq, Repr, Inhabited

/-- A register that the Starter or the host writes: a control-space register by its local address
(R66), xlat.twin of a Rind (R92), a word of a launch-port page (R409), or the weight of an energy event (R374). -/
inductive StarterReg where
  | control (addr : Nat)
  | twin (rind : Nat)
  | page (rind offset : Nat)
  | energyWeight (event : Nat)
deriving DecidableEq, Repr, Inhabited

/-- What the checksums of a K-block meet (R295): no mismatch, one that the rerun clears, one that names
a single column, or one that names none. -/
inductive PressDefect where
  | none
  | transient
  | column (n : Nat) (cured : Bool)
  | lasting
deriving DecidableEq, Repr, Inhabited

/-- What a patrol read finds (R86, R88, R392). -/
inductive PatrolFinding where
  | clean | corrected | uncorrectable
deriving DecidableEq, Repr, Inhabited

/-- One constructor per row of spec/opcode_table.json, in the table's order. -/
inductive Instr where
  /-- R237. Writes g[a] + g[b] modulo 2^64 to g[d], or the 32-bit sum sign-extended when w = 1. -/
  | add (d : BitVec 5) (a : BitVec 5) (b : BitVec 5) (w : BitVec 1)
  /-- R237. Writes g[a] − g[b] to g[d], at 64 or 32 bits. -/
  | sub (d : BitVec 5) (a : BitVec 5) (b : BitVec 5) (w : BitVec 1)
  /-- R237. Writes the bitwise AND of g[a] and g[b] to g[d]. -/
  | and (d : BitVec 5) (a : BitVec 5) (b : BitVec 5)
  /-- R237. Writes the bitwise OR of g[a] and g[b] to g[d]. -/
  | or (d : BitVec 5) (a : BitVec 5) (b : BitVec 5)
  /-- R237. Writes the bitwise XOR of g[a] and g[b] to g[d]. -/
  | xor (d : BitVec 5) (a : BitVec 5) (b : BitVec 5)
  /-- R237. Writes g[a] AND NOT g[b] to g[d]. -/
  | andn (d : BitVec 5) (a : BitVec 5) (b : BitVec 5)
  /-- R238. Shifts g[a] left by the low 8 bits of g[b], giving 0 for amounts at or above the width. -/
  | shl (d : BitVec 5) (a : BitVec 5) (b : BitVec 5) (w : BitVec 1)
  /-- R238. Shifts g[a] logically right by the low 8 bits of g[b]. -/
  | shr (d : BitVec 5) (a : BitVec 5) (b : BitVec 5) (w : BitVec 1)
  /-- R238. Shifts g[a] arithmetically right by the low 8 bits of g[b]. -/
  | sar (d : BitVec 5) (a : BitVec 5) (b : BitVec 5) (w : BitVec 1)
  /-- R237. Writes 1 to g[d] when g[a] < g[b] signed, else 0. -/
  | slt (d : BitVec 5) (a : BitVec 5) (b : BitVec 5)
  /-- R237. Writes 1 to g[d] when g[a] < g[b] unsigned, else 0. -/
  | sltn (d : BitVec 5) (a : BitVec 5) (b : BitVec 5)
  /-- R237. Writes the signed smaller of g[a] and g[b]. -/
  | min (d : BitVec 5) (a : BitVec 5) (b : BitVec 5)
  /-- R237. Writes the signed larger of g[a] and g[b]. -/
  | max (d : BitVec 5) (a : BitVec 5) (b : BitVec 5)
  /-- R237. Writes the unsigned smaller of g[a] and g[b]. -/
  | minn (d : BitVec 5) (a : BitVec 5) (b : BitVec 5)
  /-- R237. Writes the unsigned larger of g[a] and g[b]. -/
  | maxn (d : BitVec 5) (a : BitVec 5) (b : BitVec 5)
  /-- R237. Writes the low bits of g[a] × g[b] to g[d]. -/
  | mul (d : BitVec 5) (a : BitVec 5) (b : BitVec 5) (w : BitVec 1)
  /-- R237. Writes bits 127:64 of the signed product of g[a] and g[b]. -/
  | mulh (d : BitVec 5) (a : BitVec 5) (b : BitVec 5)
  /-- R237. Writes bits 127:64 of the unsigned product of g[a] and g[b]. -/
  | mulhn (d : BitVec 5) (a : BitVec 5) (b : BitVec 5)
  /-- R239. Writes the signed quotient rounded toward zero, all ones for a zero divisor, without trapping. -/
  | div (d : BitVec 5) (a : BitVec 5) (b : BitVec 5) (w : BitVec 1)
  /-- R239. Writes the unsigned quotient, all ones for a zero divisor. -/
  | divn (d : BitVec 5) (a : BitVec 5) (b : BitVec 5) (w : BitVec 1)
  /-- R239. Writes the signed remainder with the sign of x, x itself for a zero divisor. -/
  | rem (d : BitVec 5) (a : BitVec 5) (b : BitVec 5) (w : BitVec 1)
  /-- R239. Writes the unsigned remainder, x itself for a zero divisor. -/
  | remn (d : BitVec 5) (a : BitVec 5) (b : BitVec 5) (w : BitVec 1)
  /-- R237. Writes the number of leading zero bits of g[a], 64 when it is zero. -/
  | clz (d : BitVec 5) (a : BitVec 5)
  /-- R237. Writes the number of trailing zero bits of g[a], 64 when it is zero. -/
  | ctz (d : BitVec 5) (a : BitVec 5)
  /-- R237. Writes the number of one bits of g[a]. -/
  | popc (d : BitVec 5) (a : BitVec 5)
  /-- R240. Writes g[a] plus the sign-extended immediate, joined with any H.IMM payload. -/
  | addi (d : BitVec 5) (a : BitVec 5) (i : BitVec 16)
  /-- R240. Writes g[a] AND the zero-extended immediate. -/
  | andi (d : BitVec 5) (a : BitVec 5) (i : BitVec 16)
  /-- R240. Writes g[a] OR the zero-extended immediate. -/
  | ori (d : BitVec 5) (a : BitVec 5) (i : BitVec 16)
  /-- R240. Writes g[a] XOR the zero-extended immediate. -/
  | xori (d : BitVec 5) (a : BitVec 5) (i : BitVec 16)
  /-- R240. Writes 1 when g[a] is below the sign-extended immediate, signed. -/
  | slti (d : BitVec 5) (a : BitVec 5) (i : BitVec 16)
  /-- R240. Writes 1 when g[a] is below the zero-extended immediate, unsigned. -/
  | sltin (d : BitVec 5) (a : BitVec 5) (i : BitVec 16)
  /-- R240. Writes the address of the ADDPC word plus the sign-extended byte immediate. -/
  | addpc (d : BitVec 5) (i : BitVec 16)
  /-- R241. Shifts g[a] left by an immediate amount at 64 bits. -/
  | shli (d : BitVec 5) (a : BitVec 5) (m : BitVec 8)
  /-- R241. Shifts g[a] logically right by an immediate amount at 64 bits. -/
  | shri (d : BitVec 5) (a : BitVec 5) (m : BitVec 8)
  /-- R241. Shifts g[a] arithmetically right by an immediate amount at 64 bits. -/
  | sari (d : BitVec 5) (a : BitVec 5) (m : BitVec 8)
  /-- R241. Shifts the low word of g[a] left by an immediate and sign-extends the result. -/
  | shliW (d : BitVec 5) (a : BitVec 5) (m : BitVec 8)
  /-- R241. Shifts the low word of g[a] logically right by an immediate and sign-extends the result. -/
  | shriW (d : BitVec 5) (a : BitVec 5) (m : BitVec 8)
  /-- R241. Shifts the low word of g[a] arithmetically right by an immediate and sign-extends the result. -/
  | sariW (d : BitVec 5) (a : BitVec 5) (m : BitVec 8)
  /-- R242. Replaces 16-bit field q of g[d] with the immediate and keeps the other bits. -/
  | lhi (d : BitVec 5) (q : BitVec 2) (i : BitVec 16)
  /-- R114. Loads a byte, sign-extended, locally or by remote word access at its home. -/
  | ldb (d : BitVec 5) (a : BitVec 5) (o : BitVec 2) (s : BitVec 2) (k : BitVec 12)
  /-- R114. Loads a byte, zero-extended. -/
  | ldbn (d : BitVec 5) (a : BitVec 5) (o : BitVec 2) (s : BitVec 2) (k : BitVec 12)
  /-- R114. Loads a half, sign-extended. -/
  | ldh (d : BitVec 5) (a : BitVec 5) (o : BitVec 2) (s : BitVec 2) (k : BitVec 12)
  /-- R114. Loads a half, zero-extended. -/
  | ldhn (d : BitVec 5) (a : BitVec 5) (o : BitVec 2) (s : BitVec 2) (k : BitVec 12)
  /-- R114. Loads a word, sign-extended. -/
  | ldw (d : BitVec 5) (a : BitVec 5) (o : BitVec 2) (s : BitVec 2) (k : BitVec 12)
  /-- R114. Loads a word, zero-extended. -/
  | ldwn (d : BitVec 5) (a : BitVec 5) (o : BitVec 2) (s : BitVec 2) (k : BitVec 12)
  /-- R114. Loads a dword. -/
  | ldd (d : BitVec 5) (a : BitVec 5) (o : BitVec 2) (s : BitVec 2) (k : BitVec 12)
  /-- R114. Stores the low byte of g[d] at its home. -/
  | stb (d : BitVec 5) (a : BitVec 5) (o : BitVec 2) (s : BitVec 2) (k : BitVec 12)
  /-- R114. Stores the low half of g[d]. -/
  | sth (d : BitVec 5) (a : BitVec 5) (o : BitVec 2) (s : BitVec 2) (k : BitVec 12)
  /-- R114. Stores the low word of g[d]. -/
  | stw (d : BitVec 5) (a : BitVec 5) (o : BitVec 2) (s : BitVec 2) (k : BitVec 12)
  /-- R114. Stores g[d] as a dword. -/
  | std (d : BitVec 5) (a : BitVec 5) (o : BitVec 2) (s : BitVec 2) (k : BitVec 12)
  /-- R114. Loads 64 aligned bytes into v[d]. -/
  | vld (d : BitVec 5) (a : BitVec 5) (o : BitVec 2) (s : BitVec 2) (k : BitVec 12)
  /-- R114. Stores v[d] to 64 aligned bytes. -/
  | vst (d : BitVec 5) (a : BitVec 5) (o : BitVec 2) (s : BitVec 2) (k : BitVec 12)
  /-- R122. Loads from g[a] + g[b] × size, sign-extended. -/
  | ldx (d : BitVec 5) (a : BitVec 5) (b : BitVec 5) (o : BitVec 2) (s : BitVec 2) (z : BitVec 3)
  /-- R122. Loads from g[a] + g[b] × size, zero-extended. -/
  | ldxn (d : BitVec 5) (a : BitVec 5) (b : BitVec 5) (o : BitVec 2) (s : BitVec 2) (z : BitVec 3)
  /-- R122. Stores g[d] to g[a] + g[b] × size. -/
  | stx (d : BitVec 5) (a : BitVec 5) (b : BitVec 5) (o : BitVec 2) (s : BitVec 2) (z : BitVec 3)
  /-- R123. Loads 64 bytes at any alignment, split at the line boundary into parts on their own pages. -/
  | vldu (d : BitVec 5) (a : BitVec 5) (b : BitVec 5) (o : BitVec 2) (s : BitVec 2)
  /-- R123. Stores 64 bytes at any alignment, split at the line boundary. -/
  | vstu (d : BitVec 5) (a : BitVec 5) (b : BitVec 5) (o : BitVec 2) (s : BitVec 2)
  /-- R124. Loads each active lane from g[a] plus its scaled index. -/
  | vgath (d : BitVec 5) (a : BitVec 5) (b : BitVec 5) (m : BitVec 3) (z : BitVec 1) (s : BitVec 3)
  /-- R124. Stores each active lane to g[a] plus its scaled index, higher lanes last. -/
  | vscat (d : BitVec 5) (a : BitVec 5) (b : BitVec 5) (m : BitVec 3) (s : BitVec 3)
  /-- R127. Atomically writes g[b] at the home and returns the old value. -/
  | amoSwap (d : BitVec 5) (a : BitVec 5) (b : BitVec 5) (o : BitVec 2) (s : BitVec 2) (z : BitVec 1)
  /-- R127. Atomically writes g[b] when the old value equals g[d] and returns the old value. -/
  | amoCas (d : BitVec 5) (a : BitVec 5) (b : BitVec 5) (o : BitVec 2) (s : BitVec 2) (z : BitVec 1)
  /-- R127. Atomically adds g[b] and returns the old value. -/
  | amoAdd (d : BitVec 5) (a : BitVec 5) (b : BitVec 5) (o : BitVec 2) (s : BitVec 2) (z : BitVec 1)
  /-- R127. Atomically ANDs g[b] and returns the old value. -/
  | amoAnd (d : BitVec 5) (a : BitVec 5) (b : BitVec 5) (o : BitVec 2) (s : BitVec 2) (z : BitVec 1)
  /-- R127. Atomically ORs g[b] and returns the old value. -/
  | amoOr (d : BitVec 5) (a : BitVec 5) (b : BitVec 5) (o : BitVec 2) (s : BitVec 2) (z : BitVec 1)
  /-- R127. Atomically XORs g[b] and returns the old value. -/
  | amoXor (d : BitVec 5) (a : BitVec 5) (b : BitVec 5) (o : BitVec 2) (s : BitVec 2) (z : BitVec 1)
  /-- R127. Atomically keeps the signed smaller value and returns the old value. -/
  | amoSmin (d : BitVec 5) (a : BitVec 5) (b : BitVec 5) (o : BitVec 2) (s : BitVec 2) (z : BitVec 1)
  /-- R127. Atomically keeps the signed larger value and returns the old value. -/
  | amoSmax (d : BitVec 5) (a : BitVec 5) (b : BitVec 5) (o : BitVec 2) (s : BitVec 2) (z : BitVec 1)
  /-- R127. Atomically keeps the unsigned smaller value and returns the old value. -/
  | amoUmin (d : BitVec 5) (a : BitVec 5) (b : BitVec 5) (o : BitVec 2) (s : BitVec 2) (z : BitVec 1)
  /-- R127. Atomically keeps the unsigned larger value and returns the old value. -/
  | amoUmax (d : BitVec 5) (a : BitVec 5) (b : BitVec 5) (o : BitVec 2) (s : BitVec 2) (z : BitVec 1)
  /-- R127. Atomically adds an FP32 value with one rounding, joining both halves of a split word. -/
  | amoFadd (d : BitVec 5) (a : BitVec 5) (b : BitVec 5) (o : BitVec 2) (s : BitVec 2)
  /-- R129. Full fence ordering every access before it against every access after it at its scope. -/
  | fence (s : BitVec 2)
  /-- R129. Acquire fence ordering earlier loads before later accesses. -/
  | fenceAcq (s : BitVec 2)
  /-- R129. Release fence ordering earlier accesses before later stores. -/
  | fenceRel (s : BitVec 2)
  /-- R243. Branches when g[a] = 0. -/
  | beqz (a : BitVec 5) (o : BitVec 16)
  /-- R243. Branches when g[a] ≠ 0. -/
  | bnez (a : BitVec 5) (o : BitVec 16)
  /-- R243. Branches when g[a] < 0 signed. -/
  | bltz (a : BitVec 5) (o : BitVec 16)
  /-- R243. Branches when g[a] ≥ 0 signed. -/
  | bgez (a : BitVec 5) (o : BitVec 16)
  /-- R243. Branches when g[a] > 0 signed. -/
  | bgtz (a : BitVec 5) (o : BitVec 16)
  /-- R243. Branches when g[a] ≤ 0 signed. -/
  | blez (a : BitVec 5) (o : BitVec 16)
  /-- R243. Branches always. -/
  | br (o : BitVec 16)
  /-- R243. Branches when bit 0 of g[a] is 1. -/
  | bodd (a : BitVec 5) (o : BitVec 16)
  /-- R243. Branches when bit 0 of g[a] is 0. -/
  | bevn (a : BitVec 5) (o : BitVec 16)
  /-- R243. Branches when the full/empty bit of g[a] is empty, without parking. -/
  | bemp (a : BitVec 5) (o : BitVec 16)
  /-- R243. Branches when the full/empty bit of g[a] is full, without parking. -/
  | bful (a : BitVec 5) (o : BitVec 16)
  /-- R244. Jumps by a signed word offset from the jump word. -/
  | jmp (o : BitVec 26)
  /-- R244. Jumps by a word offset and writes the return address to g31. -/
  | call (o : BitVec 26)
  /-- R244. Jumps to the address in g[a]. -/
  | jr (a : BitVec 5)
  /-- R244. Jumps to g[a] and writes the return address to g31. -/
  | callr (a : BitVec 5)
  /-- R244. Jumps to the address in g31. -/
  | ret
  /-- R247. Sets up a hardware loop of g[a] iterations over the next L words. -/
  | rep (a : BitVec 5) (L : BitVec 10)
  /-- R247. Sets up a hardware loop whose trip count is the rem of a stream register. -/
  | reps (a : BitVec 5) (L : BitVec 10)
  /-- R266. Adds integer lanes modulo the lane width. -/
  | vadd (d : BitVec 5) (a : BitVec 5) (b : BitVec 5) (t : BitVec 3) (m : BitVec 3) (z : BitVec 1)
  /-- R266. Subtracts integer lanes. -/
  | vsub (d : BitVec 5) (a : BitVec 5) (b : BitVec 5) (t : BitVec 3) (m : BitVec 3) (z : BitVec 1)
  /-- R266. Adds integer lanes with saturation. -/
  | vadds (d : BitVec 5) (a : BitVec 5) (b : BitVec 5) (t : BitVec 3) (m : BitVec 3) (z : BitVec 1)
  /-- R266. Subtracts integer lanes with saturation. -/
  | vsubs (d : BitVec 5) (a : BitVec 5) (b : BitVec 5) (t : BitVec 3) (m : BitVec 3) (z : BitVec 1)
  /-- R266. Multiplies integer lanes, keeping the low bits. -/
  | vmul (d : BitVec 5) (a : BitVec 5) (b : BitVec 5) (t : BitVec 3) (m : BitVec 3) (z : BitVec 1)
  /-- R266. Multiplies integer lanes, keeping the high half of the exact product. -/
  | vmulh (d : BitVec 5) (a : BitVec 5) (b : BitVec 5) (t : BitVec 3) (m : BitVec 3) (z : BitVec 1)
  /-- R266. Takes the smaller integer lane. -/
  | vmin (d : BitVec 5) (a : BitVec 5) (b : BitVec 5) (t : BitVec 3) (m : BitVec 3) (z : BitVec 1)
  /-- R266. Takes the larger integer lane. -/
  | vmax (d : BitVec 5) (a : BitVec 5) (b : BitVec 5) (t : BitVec 3) (m : BitVec 3) (z : BitVec 1)
  /-- R266. ANDs vector lanes. -/
  | vand (d : BitVec 5) (a : BitVec 5) (b : BitVec 5) (t : BitVec 3) (m : BitVec 3) (z : BitVec 1)
  /-- R266. ORs vector lanes. -/
  | vor (d : BitVec 5) (a : BitVec 5) (b : BitVec 5) (t : BitVec 3) (m : BitVec 3) (z : BitVec 1)
  /-- R266. XORs vector lanes. -/
  | vxor (d : BitVec 5) (a : BitVec 5) (b : BitVec 5) (t : BitVec 3) (m : BitVec 3) (z : BitVec 1)
  /-- R266. Computes x AND NOT y per lane. -/
  | vandn (d : BitVec 5) (a : BitVec 5) (b : BitVec 5) (t : BitVec 3) (m : BitVec 3) (z : BitVec 1)
  /-- R266. Shifts lanes left by per-lane amounts under R238. -/
  | vshl (d : BitVec 5) (a : BitVec 5) (b : BitVec 5) (t : BitVec 3) (m : BitVec 3) (z : BitVec 1)
  /-- R266. Shifts lanes right, arithmetic for signed and logical for unsigned types. -/
  | vshr (d : BitVec 5) (a : BitVec 5) (b : BitVec 5) (t : BitVec 3) (m : BitVec 3) (z : BitVec 1)
  /-- R266. Takes the absolute value of signed integer lanes. -/
  | vabs (d : BitVec 5) (a : BitVec 5) (t : BitVec 3) (m : BitVec 3) (z : BitVec 1)
  /-- R266. Copies the low bits of g[va] into every active lane. -/
  | vsplat (d : BitVec 5) (a : BitVec 5) (t : BitVec 3) (m : BitVec 3) (z : BitVec 1)
  /-- R267. Adds floating-point lanes with one rounding. -/
  | vaddFp (d : BitVec 5) (a : BitVec 5) (b : BitVec 5) (t : BitVec 3) (m : BitVec 3) (z : BitVec 1)
  /-- R267. Subtracts floating-point lanes. -/
  | vsubFp (d : BitVec 5) (a : BitVec 5) (b : BitVec 5) (t : BitVec 3) (m : BitVec 3) (z : BitVec 1)
  /-- R267. Multiplies floating-point lanes. -/
  | vmulFp (d : BitVec 5) (a : BitVec 5) (b : BitVec 5) (t : BitVec 3) (m : BitVec 3) (z : BitVec 1)
  /-- R267. Computes x × y + d per lane with one rounding. -/
  | vfma (d : BitVec 5) (a : BitVec 5) (b : BitVec 5) (t : BitVec 3) (m : BitVec 3) (z : BitVec 1)
  /-- R267. Divides floating-point lanes. -/
  | vdiv (d : BitVec 5) (a : BitVec 5) (b : BitVec 5) (t : BitVec 3) (m : BitVec 3) (z : BitVec 1)
  /-- R267. Takes the square root of floating-point lanes. -/
  | vsqrt (d : BitVec 5) (a : BitVec 5) (t : BitVec 3) (m : BitVec 3) (z : BitVec 1)
  /-- R267. Takes the smaller floating-point lane, −0 below +0. -/
  | vminFp (d : BitVec 5) (a : BitVec 5) (b : BitVec 5) (t : BitVec 3) (m : BitVec 3) (z : BitVec 1)
  /-- R267. Takes the larger floating-point lane. -/
  | vmaxFp (d : BitVec 5) (a : BitVec 5) (b : BitVec 5) (t : BitVec 3) (m : BitVec 3) (z : BitVec 1)
  /-- R267. Clears the sign bit of floating-point lanes. -/
  | vabsFp (d : BitVec 5) (a : BitVec 5) (t : BitVec 3) (m : BitVec 3) (z : BitVec 1)
  /-- R267. Inverts the sign bit of floating-point lanes. -/
  | vneg (d : BitVec 5) (a : BitVec 5) (t : BitVec 3) (m : BitVec 3) (z : BitVec 1)
  /-- R269. Converts lanes between formats, narrowing into or widening from part q. -/
  | vcvt (d : BitVec 5) (a : BitVec 5) (k : BitVec 5) (q : BitVec 2) (m : BitVec 3) (z : BitVec 1)
  /-- R271. Selects lanes of v[va] by the indices in v[vb]. -/
  | vperm (d : BitVec 5) (a : BitVec 5) (b : BitVec 5) (w : BitVec 3) (m : BitVec 3) (z : BitVec 1)
  /-- R271. Packs the lanes selected by the mask into the low lanes. -/
  | vcmprs (d : BitVec 5) (a : BitVec 5) (w : BitVec 3) (m : BitVec 3)
  /-- R271. Spreads low lanes into the lanes selected by the mask. -/
  | vexpnd (d : BitVec 5) (a : BitVec 5) (w : BitVec 3) (m : BitVec 3) (z : BitVec 1)
  /-- R271. Slides lanes up by g[vb]. -/
  | vslup (d : BitVec 5) (a : BitVec 5) (b : BitVec 5) (w : BitVec 3) (m : BitVec 3) (z : BitVec 1)
  /-- R271. Slides lanes down by g[vb]. -/
  | vsldn (d : BitVec 5) (a : BitVec 5) (b : BitVec 5) (w : BitVec 3) (m : BitVec 3) (z : BitVec 1)
  /-- R271. Broadcasts lane g[vb] to every lane. -/
  | vbcst (d : BitVec 5) (a : BitVec 5) (b : BitVec 5) (w : BitVec 3) (m : BitVec 3) (z : BitVec 1)
  /-- R271. Extracts lane g[vb] into g[vd]. -/
  | vext (d : BitVec 5) (a : BitVec 5) (b : BitVec 5) (w : BitVec 3)
  /-- R271. Inserts g[va] into lane g[vb] of v[vd]. -/
  | vins (d : BitVec 5) (a : BitVec 5) (b : BitVec 5) (w : BitVec 3)
  /-- R271. Writes each lane's own index. -/
  | viota (d : BitVec 5) (w : BitVec 3) (m : BitVec 3) (z : BitVec 1)
  /-- R276. Sums integer lanes exactly into lane 0. -/
  | vraddInt (d : BitVec 5) (a : BitVec 5) (t : BitVec 3) (m : BitVec 3)
  /-- R276. Finds the smallest integer lane. -/
  | vrminInt (d : BitVec 5) (a : BitVec 5) (t : BitVec 3) (m : BitVec 3)
  /-- R276. Finds the largest integer lane. -/
  | vrmaxInt (d : BitVec 5) (a : BitVec 5) (t : BitVec 3) (m : BitVec 3)
  /-- R276. Sums floating-point lanes by the fixed pairwise tree into FP32. -/
  | vraddFp (d : BitVec 5) (a : BitVec 5) (t : BitVec 3) (m : BitVec 3)
  /-- R276. Finds the smallest floating-point lane. -/
  | vrminFp (d : BitVec 5) (a : BitVec 5) (t : BitVec 3) (m : BitVec 3)
  /-- R276. Finds the largest floating-point lane. -/
  | vrmaxFp (d : BitVec 5) (a : BitVec 5) (t : BitVec 3) (m : BitVec 3)
  /-- R276. Sums the rounded squares of the lanes by the tree. -/
  | vrssq (d : BitVec 5) (a : BitVec 5) (t : BitVec 3) (m : BitVec 3)
  /-- R278. Correctly rounded reciprocal per lane. -/
  | vrcp (d : BitVec 5) (a : BitVec 5) (t : BitVec 1) (m : BitVec 3) (z : BitVec 1)
  /-- R278. Correctly rounded reciprocal square root per lane. -/
  | vrsqrt (d : BitVec 5) (a : BitVec 5) (t : BitVec 1) (m : BitVec 3) (z : BitVec 1)
  /-- R278. Correctly rounded 2^x per lane. -/
  | vexp2 (d : BitVec 5) (a : BitVec 5) (t : BitVec 1) (m : BitVec 3) (z : BitVec 1)
  /-- R278. Correctly rounded log2 x per lane. -/
  | vlog2 (d : BitVec 5) (a : BitVec 5) (t : BitVec 1) (m : BitVec 3) (z : BitVec 1)
  /-- R278. Correctly rounded e^x per lane. -/
  | vexp (d : BitVec 5) (a : BitVec 5) (t : BitVec 1) (m : BitVec 3) (z : BitVec 1)
  /-- R278. Correctly rounded ln x per lane. -/
  | vlog (d : BitVec 5) (a : BitVec 5) (t : BitVec 1) (m : BitVec 3) (z : BitVec 1)
  /-- R278. Correctly rounded tanh x per lane. -/
  | vtanh (d : BitVec 5) (a : BitVec 5) (t : BitVec 1) (m : BitVec 3) (z : BitVec 1)
  /-- R278. Correctly rounded logistic sigmoid per lane. -/
  | vsigm (d : BitVec 5) (a : BitVec 5) (t : BitVec 1) (m : BitVec 3) (z : BitVec 1)
  /-- R279. Merges (max, sum) pairs by taking the maximum and adding the sums. -/
  | vpmrg (d : BitVec 5) (a : BitVec 5) (b : BitVec 5) (m : BitVec 3) (z : BitVec 1)
  /-- R279. Merges (max, sum) pairs, rescaling the smaller sum by 2^(difference). -/
  | vpmrge (d : BitVec 5) (a : BitVec 5) (b : BitVec 5) (m : BitVec 3) (z : BitVec 1)
  /-- R273. Sets predicate lanes where the lanes are equal. -/
  | vcmpeq (d : BitVec 5) (a : BitVec 5) (b : BitVec 5) (t : BitVec 4) (m : BitVec 3) (z : BitVec 1)
  /-- R273. Sets predicate lanes where the lanes differ. -/
  | vcmpne (d : BitVec 5) (a : BitVec 5) (b : BitVec 5) (t : BitVec 4) (m : BitVec 3) (z : BitVec 1)
  /-- R273. Sets predicate lanes where x < y. -/
  | vcmplt (d : BitVec 5) (a : BitVec 5) (b : BitVec 5) (t : BitVec 4) (m : BitVec 3) (z : BitVec 1)
  /-- R273. Sets predicate lanes where x ≤ y. -/
  | vcmple (d : BitVec 5) (a : BitVec 5) (b : BitVec 5) (t : BitVec 4) (m : BitVec 3) (z : BitVec 1)
  /-- R273. Sets predicate lanes where x > y. -/
  | vcmpgt (d : BitVec 5) (a : BitVec 5) (b : BitVec 5) (t : BitVec 4) (m : BitVec 3) (z : BitVec 1)
  /-- R273. Sets predicate lanes where x ≥ y. -/
  | vcmpge (d : BitVec 5) (a : BitVec 5) (b : BitVec 5) (t : BitVec 4) (m : BitVec 3) (z : BitVec 1)
  /-- R274. ANDs two predicate registers. -/
  | pand (d : BitVec 5) (a : BitVec 5) (b : BitVec 5)
  /-- R274. ORs two predicate registers. -/
  | por (d : BitVec 5) (a : BitVec 5) (b : BitVec 5)
  /-- R274. XORs two predicate registers. -/
  | pxor (d : BitVec 5) (a : BitVec 5) (b : BitVec 5)
  /-- R274. Computes p[va] AND NOT p[vb]. -/
  | pandn (d : BitVec 5) (a : BitVec 5) (b : BitVec 5)
  /-- R274. Inverts a predicate register. -/
  | pnot (d : BitVec 5) (a : BitVec 5)
  /-- R274. Copies g[va] into p[vd]. -/
  | pmovgp (d : BitVec 5) (a : BitVec 5)
  /-- R274. Copies p[va] into g[vd]. -/
  | pmovpg (d : BitVec 5) (a : BitVec 5)
  /-- R274. Counts set predicate lanes of 8-bit width into g[vd]. -/
  | vpcnt8 (d : BitVec 5) (a : BitVec 5)
  /-- R274. Counts set predicate lanes of 16-bit width. -/
  | vpcnt16 (d : BitVec 5) (a : BitVec 5)
  /-- R274. Counts set predicate lanes of 32-bit width. -/
  | vpcnt32 (d : BitVec 5) (a : BitVec 5)
  /-- R274. Counts set predicate lanes of 64-bit width. -/
  | vpcnt64 (d : BitVec 5) (a : BitVec 5)
  /-- R275. Marks 32-bit lanes of v[va] whose value appears among active lanes of v[vb]. -/
  | vxsectN32 (d : BitVec 5) (a : BitVec 5) (b : BitVec 5) (m : BitVec 3)
  /-- R275. Marks 64-bit lanes of v[va] whose value appears among active lanes of v[vb]. -/
  | vxsectN64 (d : BitVec 5) (a : BitVec 5) (b : BitVec 5) (m : BitVec 3)
  /-- R341. Sends a message built from a header register and six payload registers to a port. -/
  | send (a : BitVec 5) (b : BitVec 5) (f : BitVec 3) (s : BitVec 2) (o : BitVec 2)
  /-- R341. Sends a message whose payload is bytes 47:0 of a vector register. -/
  | sendv (a : BitVec 5) (b : BitVec 5) (f : BitVec 3) (s : BitVec 2) (o : BitVec 2)
  /-- R341. Sends to the reply port of the message held in a frame slot. -/
  | reply (a : BitVec 5) (b : BitVec 5) (f : BitVec 3) (s : BitVec 2) (o : BitVec 2)
  /-- R341. Sends a 64-byte message image read from memory. -/
  | pmsg (a : BitVec 5) (s : BitVec 2) (o : BitVec 2)
  /-- R346. Configures, enables or disables a port of this core and fills a status. -/
  | pcfg (d : BitVec 5) (a : BitVec 5)
  /-- R347. Reads a pattern block and binds it to a pattern index. -/
  | pbind (d : BitVec 5) (a : BitVec 5) (b : BitVec 5)
  /-- R347. Clears a pattern. -/
  | punbind (d : BitVec 5) (a : BitVec 5)
  /-- R348. Returns the state of a port without removing anything. -/
  | ppeek (d : BitVec 5) (a : BitVec 5)
  /-- R254. Suspends the context with every register kept until a fill of its generation arrives. -/
  | park
  /-- R254. Ends the handler, closing streams, freeing frame slots and advancing the generation. -/
  | exit
  /-- R350. Moves the context from running to runnable at the next word. -/
  | yield
  /-- R351. Makes the lowest dormant seated context of the launch on this core runnable at g[a]. -/
  | spawn (d : BitVec 5) (a : BitVec 5) (b : BitVec 5)
  /-- R351. Creates a roaming context by sending an arrival packet, placed here or at a home. -/
  | spawnr (d : BitVec 5) (a : BitVec 5) (b : BitVec 5) (h : BitVec 1)
  /-- R352. Moves a roaming context to the home core of an address. -/
  | migr (a : BitVec 5)
  /-- R353. Joins a Hoop atomically and returns the old member count. -/
  | hoopin (d : BitVec 5) (a : BitVec 5)
  /-- R353. Leaves the context's Hoop and returns the new member count. -/
  | hoopout (d : BitVec 5)
  /-- R355. Ends a named context of the launch or Rind and fills a status. -/
  | kill (d : BitVec 5) (a : BitVec 5)
  /-- R173. Posts an increment of 1 to a named mailbox counter. -/
  | cinc (a : BitVec 5) (s : BitVec 2) (o : BitVec 2)
  /-- R173. Posts g[b][31:0] to a named mailbox counter. -/
  | cadd (a : BitVec 5) (b : BitVec 5) (s : BitVec 2) (o : BitVec 2)
  /-- R174. Reads a mailbox counter, possibly as an acquire. -/
  | crdc (d : BitVec 5) (a : BitVec 5) (s : BitVec 2) (o : BitVec 2)
  /-- R175. Arms a watch on a counter target that sends a message to a port. -/
  | cwatch (d : BitVec 5) (a : BitVec 5) (b : BitVec 5)
  /-- R368. Arms an arming entry with a snapshot of a task control block. -/
  | tarm (d : BitVec 5) (a : BitVec 5) (b : BitVec 5)
  /-- R368. Posts one done to every successor named in a task control block. -/
  | tdone (d : BitVec 5) (a : BitVec 5) (s : BitVec 2) (o : BitVec 2)
  /-- R369. Takes the first ready task of the launch from this cluster's Rack, optionally waiting. -/
  | take (d : BitVec 5) (w : BitVec 1)
  /-- R369. Takes a ready task of the launch from other Racks in steal order. -/
  | steal (d : BitVec 5)
  /-- R368. Frees an arming entry owned by the launch. -/
  | tdisarm (d : BitVec 5) (a : BitVec 5)
  /-- R181. Sends a copy command naming a parameter block to a Ladle of the cluster. -/
  | cpy (d : BitVec 5) (a : BitVec 5) (l : BitVec 1) (s : BitVec 2) (o : BitVec 2)
  /-- R183. Sends a copy command that also posts a completion message to a port. -/
  | cpym (d : BitVec 5) (a : BitVec 5) (b : BitVec 5) (l : BitVec 1) (s : BitVec 2) (o : BitVec 2)
  /-- R190. Sends a copy command with a follow-on Press command. -/
  | cpyc (d : BitVec 5) (a : BitVec 5) (b : BitVec 5) (l : BitVec 1) (s : BitVec 2) (o : BitVec 2)
  /-- R186. Removes the cached parameter block holding an address from every Ladle of the Rind. -/
  | cpbiBlk (d : BitVec 5) (a : BitVec 5)
  /-- R186. Advances the Rind's block generation, discarding every cached parameter block. -/
  | cpbiAll (d : BitVec 5)
  /-- R191. Returns the state of the oldest Ladle command with a tag. -/
  | cstat (d : BitVec 5) (a : BitVec 5) (l : BitVec 1)
  /-- R192. Stops every Ladle command of the launch with a tag and returns their number. -/
  | cstatStop (d : BitVec 5) (a : BitVec 5) (l : BitVec 1)
  /-- R206. Reads a stream descriptor and binds a stream slot to a register v24 to v31. -/
  | scfg (d : BitVec 5) (a : BitVec 5) (b : BitVec 3)
  /-- R207. Closes a stream, draining a write stream first, and fills a status. -/
  | sclose (d : BitVec 5) (b : BitVec 3)
  /-- R208. Returns the state of a stream register. -/
  | sstat (d : BitVec 5) (b : BitVec 3)
  /-- R218. Acquire-tests whether all masked bits of a bitmap dword are set. -/
  | sstatBt (d : BitVec 5) (a : BitVec 5) (b : BitVec 5) (s : BitVec 2)
  /-- R219. Arms a watch on a bitmap dword that sends a message when the masked bits are set. -/
  | sstatBw (d : BitVec 5) (a : BitVec 5) (b : BitVec 5)
  /-- R289. Sends a command that copies bytes into a Press weight buffer. -/
  | pwld (d : BitVec 5) (a : BitVec 5) (b : BitVec 5) (p : BitVec 2) (s : BitVec 2) (o : BitVec 2)
  /-- R292. Sends a matrix multiply command to a Press. -/
  | pmma (d : BitVec 5) (a : BitVec 5) (b : BitVec 5) (p : BitVec 2) (s : BitVec 2) (o : BitVec 2)
  /-- R297. Stops every Press command of the launch with a tag. -/
  | pstop (d : BitVec 5) (a : BitVec 5) (p : BitVec 2)
  /-- R298. Resumes a stopped PMMA from its resume record. -/
  | pres (d : BitVec 5) (a : BitVec 5) (b : BitVec 5) (p : BitVec 2) (s : BitVec 2) (o : BitVec 2)
  /-- R299. Returns the state of a matching Press command or resume record. -/
  | pstat (d : BitVec 5) (a : BitVec 5) (p : BitVec 2)
  /-- R299. Returns the health word of a logical Press. -/
  | pstatHl (d : BitVec 5) (p : BitVec 2)
  /-- R310. Registers or empties a chain-tensor descriptor slot at the cluster's Harp. -/
  | cdesc (d : BitVec 5) (a : BitVec 5) (b : BitVec 5)
  /-- R311. Loads columns of a chain-tensor row into a vector register. -/
  | cld (d : BitVec 5) (a : BitVec 5) (s : BitVec 2) (o : BitVec 2)
  /-- R311. Loads one column of a chain-tensor row into a g register. -/
  | cldG (d : BitVec 5) (a : BitVec 5) (s : BitVec 2) (o : BitVec 2)
  /-- R313. Stores a vector gradient into every slice a chain-tensor row uses. -/
  | cstg (d : BitVec 5) (a : BitVec 5) (b : BitVec 5) (s : BitVec 2) (o : BitVec 2)
  /-- R313. Stores a single FP32 gradient into every slice a chain-tensor row uses. -/
  | cstgG (d : BitVec 5) (a : BitVec 5) (b : BitVec 5) (s : BitVec 2) (o : BitVec 2)
  /-- R315. Fills 0 once every earlier chain command and access of the context is performed. -/
  | cfnc (d : BitVec 5) (s : BitVec 2)
  /-- R158. Writes the dirty copies of a line, sector or page to the Cave or memory. -/
  | clean (d : BitVec 5) (a : BitVec 5) (l : BitVec 2) (u : BitVec 2)
  /-- R158. Cleans or discards and then invalidates a unit above the named level. -/
  | inval (d : BitVec 5) (a : BitVec 5) (c : BitVec 1) (l : BitVec 2) (u : BitVec 2)
  /-- R159. Prefetches a line or sector into a cache level without faulting. -/
  | pref (a : BitVec 5) (t : BitVec 2) (u : BitVec 2)
  /-- R160. Sets a sector's orientation to row or column, pinning it for column. -/
  | orient (d : BitVec 5) (a : BitVec 5) (o : BitVec 1)
  /-- R161. Returns a snapshot of a Cave sector tag. -/
  | dedupqSec (d : BitVec 5) (a : BitVec 5)
  /-- R162. Returns one of the Rind's Cave counters on a die. -/
  | dedupqCnt (d : BitVec 5) (a : BitVec 5)
  /-- R106. Removes TLB entries by page, ASID or Rind in the named groups and waits for annulled walks. -/
  | tlbi (d : BitVec 5) (a : BitVec 5) (b : BitVec 5) (k : BitVec 2)
  /-- R107. XORs a region mask into the Rind's live version table. -/
  | vflip (d : BitVec 5) (a : BitVec 5)
  /-- R107. Flips version regions only when a counter has reached its target and the flag is clear. -/
  | vflipc (d : BitVec 5) (a : BitVec 5) (b : BitVec 5)
  /-- R107. Copies masked bits of the live table into the launch's snapshot. -/
  | vpin (d : BitVec 5) (a : BitVec 5)
  /-- R110. Reads one dword of the live or snapshot version table. -/
  | vrd (d : BitVec 5) (s : BitVec 1) (w : BitVec 2)
  /-- R55. Advances the pc and takes one issue slot. -/
  | nop
  /-- R249. Enters the trap path with cause software-trap and the code in eaddr. -/
  | trap (c : BitVec 12)
  /-- R384. Returns from a trap, restoring g1, g2 and st and resuming at epc. -/
  | eret
  /-- R250. Reads a control register into g[d]. -/
  | crd (d : BitVec 5) (i : BitVec 12)
  /-- R250. Writes g[a] to a control register field by field. -/
  | cwr (a : BitVec 5) (i : BitVec 12)
  /-- R251. Raises the Rind's snapshot trigger after earlier accesses and returns its sequence number. -/
  | snap (d : BitVec 5)
  /-- R252. Reads the energy counted for the Rind by a named unit. -/
  | erd (d : BitVec 5) (a : BitVec 5)
  /-- R253. Parks the context and requests power gating of its core. -/
  | gate
  /-- R49. Hint joining a payload above the next instruction's immediate. -/
  | hImm (p : BitVec 23)
  /-- R50. Hint forcing placement or orientation for the next access. -/
  | hSched (l : BitVec 2) (o : BitVec 2)
  /-- R51. Hint setting a rounding mode or nalloc for the next instruction. -/
  | hMod (r : BitVec 3) (n : BitVec 1)
  /-- R260. CRD of csp.data reads the control-space dword at csp.addr after a package fence. -/
  | cspDataRead (d : BitVec 5)
  /-- R260. CWR of csp.data writes the control-space dword at csp.addr after a package fence. -/
  | cspDataWrite (a : BitVec 5)
  /-- R376. Writing ebud above eused replenishes a demoted launch. -/
  | ebudWrite (a : BitVec 5)
  /-- R72. Writing mc.cclr.aclr clears all 64 access counters of a stack. -/
  | aclr (stack : Nat)
  /-- R72. Writing mc.cclr.eclr clears the stack's error counts. -/
  | eclr (stack : Nat)
  /-- R261. Writing mc.hreq.go requests that the Starter install the staged hash masks. -/
  | go (stack : Nat)
  /-- R71. The Starter's write of mc.ctl.q holds or releases new accesses at a stack. -/
  | quiescence (stack : Nat) (q : Bool)
  /-- R71. mc.ctl.qd becomes 1 once no access is in flight at a quiesced stack. -/
  | quiesced (stack : Nat)
  /-- R261. The Starter copies mc.pcstage into mc.pcmask, sets done and releases quiescence. -/
  | hashChange (stack : Nat)
  /-- R71. A write of mc.pcmask takes effect only by the Starter while qd = 1, else sets werr. -/
  | pcmaskWrite (stack j : Nat) (value : BitVec 64) (starter : Bool)
  /-- R143. The Starter reassigns a Rind's Cave ways, banks and pin limit, moving or dropping sectors. -/
  | caveRcfgWrite (die rind : Nat) (value : BitVec 64)
  /-- R400. Writing snap.ctl.rel releases the Rind's held snapshot. -/
  | snapshotRelease (rind : Nat)
  /-- R410. A 64-byte host write to a launch-port page becomes a launch message for the Rind. -/
  | launchWrite (rind : Nat) (block : BitVec 512)
  /-- R411. A host write of the host queue head, ignored when it would exceed the ring. -/
  | headWrite (rind : Nat) (value : BitVec 32)
  /-- R3. A write to any other register or field under its access code. -/
  | registerWrite (reg : StarterReg) (value : BitVec 64)
  /-- R418. The Starter ROM verifies and measures firmware and configuration images before releasing blocks. -/
  | coldReset (ok : Bool) (digests : List (BitVec 512))
  /-- R422. After power is good the Starter verifies, trains memories, links and the host link, applies Rinds and opens launch windows. -/
  | powerGood (image : List RindImage)
  /-- R399. The external snapshot pin raises the trigger of every Rind. -/
  | snapshotPin
  /-- R399. Every block of the Rind latches its snapshot registers within 64 cycles of the trigger. -/
  | snapshotLatch (rind : Nat)
  /-- R422. A die above 105 °C runs at half clock until it falls below 95 °C. -/
  | thermalThrottle (die : Nat) (tenths : Nat)
  /-- R408. A host CXL.mem access is performed at the Cave slice of the holding die in link order. -/
  | cxlMemAccess (rind : Nat) (write : Bool) (addr : Nat) (data : BitVec 64)
  /-- R410. The host-link unit presents the oldest held launch message again every 256 cycles. -/
  | launchRetry (rind : Nat)
  /-- R359. The launcher checks a launch block, claims contexts, assigns a spill area, writes records and sends start messages. -/
  | launchAdmission (rind : Nat)
  /-- R359. A refused start message is sent again every 256 cycles. -/
  | startMessageResend (n : Nat)
  /-- R360. When the activity count reaches zero the launch's ports, patterns, contexts and spill area are released. -/
  | launchEnd (launch : Nat)
  /-- R361. A refused launch completion message is sent again every 256 cycles. -/
  | completionResend (n : Nat)
  /-- R333. An arrival is placed in a port or count port, or refused and counted. -/
  | messageArrival (src : PacketRef)
  /-- R336. The Rennet takes a complete pattern's messages and starts a dormant context at its handler. -/
  | patternFiring (core : Nat)
  /-- R44. A fill packet writes a register and sets it full, or is discarded for a stale generation. -/
  | fill (src : PacketRef)
  /-- R343. An acknowledgement or negative acknowledgement of a send or remote access reaches the context. -/
  | acknowledgement (src : PacketRef)
  /-- R382. A queued port-refused or scratchpad-refused trap is taken at an instruction boundary with st.trap = 0. -/
  | deferredTrap (core : Nat)
  /-- R17. A remote word access is performed at the line's home or scratchpad owner after window and peer checks. -/
  | remoteWordAccess (src : PacketRef)
  /-- R102. A walker reads table slots, checks the access and installs a translation or faults. -/
  | pageWalk (core ctx : Nat) (va : BitVec 64) (acc : AccKind)
  /-- R59. The scanner reads a code page in 4,096 cycles and sets scanned or refuses the page. -/
  | codePageScan (core : Nat) (va : BitVec 64)
  /-- R371. A roaming context's packet enters a free arrival-queue slot or the spill list. -/
  | arrivalPacket (src : PacketRef)
  /-- R117. Once earlier accesses are performed, a roaming context departs to the home core's arrival queue. -/
  | migration (core ctx : Nat)
  /-- R385. A trapped roaming context is seated in a dormant seated context and enters its trap. -/
  | roamingSeat (core slot : Nat)
  /-- R370. When the issue slot is free the core selects a runnable record by class, bypass, hit and arrival. -/
  | schedulerSelection (core : Nat)
  /-- R386. At quantum expiry or demotion a lower-class runnable record pre-empts a user-mode context. -/
  | preemption (core : Nat)
  /-- R375. Each unit reports its counted energy to the launch account at least every 256 cycles. -/
  | energyReport (launch : Nat)
  /-- R376. Within 512 cycles of eused reaching ebud the launch's contexts get st.dem = 1. -/
  | demotion (launch : Nat)
  /-- R377. After two quiet cycles without a cancelling event the core enters the gated state. -/
  | gatedEntry (core : Nat)
  /-- R173. A counter increment is applied atomically at the counter's core. -/
  | counterPost (src : PacketRef)
  /-- R175. At the counter's core a watch fires at once, is armed, or finds no slot. -/
  | watchRequest (src : PacketRef)
  /-- R219. At the dword's home a bitmap watch fires at once, is armed, or finds no slot. -/
  | bitmapWatchRequest (src : PacketRef)
  /-- R175. A refused watch message is sent again every 256 cycles. -/
  | watchResend (core slot : Nat)
  /-- R343. A refused member-lost or engine completion message is sent again every 256 cycles. -/
  | hardwareResend (n : Nat)
  /-- R365. A done post counts into an arming entry, making it Ready and placing it on the Rack at quota. -/
  | donePost (src : PacketRef)
  /-- R366. A waiting Ready entry is placed on the Rack when a place frees, serving a waiting TAKE. -/
  | rackPlacement (cluster : Nat)
  /-- R176. A Ladle with a free place accepts the oldest inbox command and snapshots its parameter block. -/
  | ladleAccept (cluster ladle : Nat) (cached : Bool)
  /-- R217. When every word of a 512-byte chunk is written its completion bitmap bit is posted. -/
  | chunkComplete (cluster ladle place chunk : Nat)
  /-- R183. At the end of a copy the Ladle posts the reply fill, message and counter increment. -/
  | ladleCompletion (cluster ladle place : Nat)
  /-- R190. A refused follow-on command is sent again every 64 cycles. -/
  | followOnResend (cluster ladle place : Nat)
  /-- R198. The Ladle refills a read-stream ring slot once its elements have been popped. -/
  | streamRefill (core slot : Nat)
  /-- R200. The Ladle drains a full write-stream slot to memory with byte enables. -/
  | streamDrain (core slot : Nat)
  /-- R285. A Press accepts the next command from its inbox in acceptance order and reads its block. -/
  | pressAccept (cluster press : Nat)
  /-- R283. The expander loads a tile image into a weight bank in N + 8 cycles. -/
  | bankLoad (cluster press : Nat)
  /-- R292. A K-block's exact sums leave the array, are checked and accumulated into FP32. -/
  | kBlock (cluster press : Nat) (defect : PressDefect)
  /-- R294. At a command's end the Press posts the reply fill, completion message and counter increment. -/
  | pressCompletion (cluster press : Nat)
  /-- R305. The front Harp accepts a chain command, splits digits, translates and sends slice requests. -/
  | harpAccept (cluster : Nat)
  /-- R316. A home Harp performs a slice read or slice update atomically for the whole slice. -/
  | sliceRequest (cluster cmd factor : Nat)
  /-- R311. The front Harp forms the row or gradients and fills the result or status. -/
  | harpCompletion (cluster cmd : Nat)
  /-- R146. The hash engine hashes one queued sector every 8 cycles and shares it with an equal entry. -/
  | caveHash (die : Nat)
  /-- R86. The patrol reads every granule once each 24 hours, correcting and writing back errors. -/
  | patrolScrub (pa : Nat) (found : PatrolFinding)
  /-- R88. The copy to a spare channel completes within 20 ms and the spare serves alone. -/
  | channelCopyComplete (stack : Nat)
  /-- R392. The Cave patrol reads every tag and data row once each 24 hours. -/
  | cavePatrol (die : Nat) (bank : Bool) (index : Nat) (found : PatrolFinding)
  /-- R393. A Kealia lane failing retraining or FEC limits is dropped, lowering the port's rate. -/
  | laneDrop (port : Nat)
  /-- R389. A checker mismatch or third uncorrectable register error retires the core and kills its contexts. -/
  | coreRetirement (core : Nat) (checker : Bool)
  /-- R390. The spare logic takes over the tile within 40,000 cycles and sets core.hlth.sp. -/
  | spareRun (core : Nat)
  /-- R399. A Kealia management snapshot request raises the triggers of the named Rinds. -/
  | snapshotRequest (mask : BitVec 16)
  /-- R395. A Kealia timestamp packet aligns the domain timestamp between nodes. -/
  | timestamp (ts : BitVec 64)
  /-- R415. A Kealia route update sets the ports that reach a node. -/
  | routeUpdate (port : Nat) (node : BitVec 16) (ports : BitVec 64)
  /-- R421. Management command 0x01 returns an event-log entry of each named Rind. -/
  | eventRead (mask : BitVec 16) (n : Nat)
  /-- R421. Management command 0x02 raises the snapshot trigger of each named Rind. -/
  | mgmtSnapshot (mask : BitVec 16)
  /-- R421. Management command 0x03 releases each named Rind's snapshot. -/
  | mgmtRelease (mask : BitVec 16)
  /-- R421. Management command 0x04 returns module power and hottest die temperature. -/
  | powerQuery
  /-- R421. Management command 0x05 resets each named Rind, ending every launch. -/
  | rindReset (mask : BitVec 16)
  /-- R419. An SPDM request returns signed measurements of the package and its Rinds. -/
  | attestation (index : Nat)
  /-- R412. A received Kealia flit whose CRC fails after FEC correction is replayed from its sequence number out of the sender's held flits. -/
  | flitReplay (port : Nat) (seq : BitVec 16)
  /-- R407. A host CXL.cache request acts on the host-link unit's 1 MiB cache of host lines to keep it coherent with the host. -/
  | cxlCacheSnoop (line : Nat) (inval : Bool) (data : Option (BitVec 1024))
  /-- R406. The CXL host link loses training and recovers as the standard defines. -/
  | hostLinkRecovery
  /-- R420. A PLDM type 5 firmware-update request over management delivers images, which is the only way a package left in recovery accepts images. -/
  | pldmFirmwareUpdate (ok : Bool) (digests : List (BitVec 512))
  /-- R420. A PLDM type 2 monitoring request over MCTP is answered by the Starter. -/
  | pldmMonitoring
deriving DecidableEq, Repr

end Sys2Proof
end

