-- ==== Sys2Proof/WellFormed.lean ====
section
/-!
DEFINITION. The well-formedness of an instruction: the limits on its fields that its encoding does not
already force, each by the rule that states it. A word whose fields break one of them is not an
instruction (R30, R31, R33, R56, R58). Events have no word, so every event is well formed.
-/

namespace Sys2Proof

/-- R31, R121, R177: a nonzero scope needs an order. -/
def scopeOk (o s : BitVec 2) : Bool := o != 0 || s == 0

/-- R56, R121: a load carries no release (ord 0b00 or 0b01), and R31. -/
def ldOrd (o s : BitVec 2) : Bool := (o == 0 || o == 1) && scopeOk o s

/-- R56, R121, R340: a store carries no acquire (ord 0b00 or 0b10), and R31. -/
def stOrd (o s : BitVec 2) : Bool := (o == 0 || o == 2) && scopeOk o s

/-- R30: when mask = 0b000 the zero bit must be 0. -/
def maskOk (m : BitVec 3) (z : BitVec 1) : Bool := m != 0 || z == 0

/-- R268: the ratio of the widths of a conversion kind: 4 for kinds 4 to 7 and 22, 1 for kinds 12 to 15,
and 2 for the others. -/
def cvtRatio (k : BitVec 5) : Nat :=
  match k.toNat with
  | 4 | 5 | 6 | 7 | 22 => 4
  | 12 | 13 | 14 | 15 => 1
  | _ => 2

/-- R268: kinds 23 to 31 are reserved, and the part q must be less than the ratio. -/
def cvtOk (k : BitVec 5) (q : BitVec 2) : Bool := k ≤ 22 && q.toNat < cvtRatio k

/-- The limits of each instruction's fields. -/
def Instr.wf : Instr → Bool
  | .add _ _ _ _ => true
  | .sub _ _ _ _ => true
  | .and _ _ _ => true
  | .or _ _ _ => true
  | .xor _ _ _ => true
  | .andn _ _ _ => true
  | .shl _ _ _ _ => true
  | .shr _ _ _ _ => true
  | .sar _ _ _ _ => true
  | .slt _ _ _ => true
  | .sltn _ _ _ => true
  | .min _ _ _ => true
  | .max _ _ _ => true
  | .minn _ _ _ => true
  | .maxn _ _ _ => true
  | .mul _ _ _ _ => true
  | .mulh _ _ _ => true
  | .mulhn _ _ _ => true
  | .div _ _ _ _ => true
  | .divn _ _ _ _ => true
  | .rem _ _ _ _ => true
  | .remn _ _ _ _ => true
  | .clz _ _ => true
  | .ctz _ _ => true
  | .popc _ _ => true
  | .addi _ _ _ => true
  | .andi _ _ _ => true
  | .ori _ _ _ => true
  | .xori _ _ _ => true
  | .slti _ _ _ => true
  | .sltin _ _ _ => true
  | .addpc _ _ => true
  | .shli _ _ _ => true
  | .shri _ _ _ => true
  | .sari _ _ _ => true
  | .shliW _ _ _ => true
  | .shriW _ _ _ => true
  | .sariW _ _ _ => true
  | .lhi _ _ _ => true
  | .ldb _ _ o s _ => ldOrd o s
  | .ldbn _ _ o s _ => ldOrd o s
  | .ldh _ _ o s _ => ldOrd o s
  | .ldhn _ _ o s _ => ldOrd o s
  | .ldw _ _ o s _ => ldOrd o s
  | .ldwn _ _ o s _ => ldOrd o s
  | .ldd _ _ o s _ => ldOrd o s
  | .stb _ _ o s _ => stOrd o s
  | .sth _ _ o s _ => stOrd o s
  | .stw _ _ o s _ => stOrd o s
  | .std _ _ o s _ => stOrd o s
  | .vld _ _ o s _ => ldOrd o s
  | .vst _ _ o s _ => stOrd o s
  | .ldx _ _ _ o s z => z ≤ 3 && ldOrd o s
  | .ldxn _ _ _ o s z => z ≤ 2 && ldOrd o s
  | .stx _ _ _ o s z => z ≤ 3 && stOrd o s
  | .vldu _ _ _ o s => ldOrd o s
  | .vstu _ _ _ o s => stOrd o s
  | .vgath _ _ _ m z s => (s == 2 || s == 3) && maskOk m z
  | .vscat _ _ _ _ s => s == 2 || s == 3
  | .amoSwap _ _ _ o s _ => scopeOk o s
  | .amoCas _ _ _ o s _ => scopeOk o s
  | .amoAdd _ _ _ o s _ => scopeOk o s
  | .amoAnd _ _ _ o s _ => scopeOk o s
  | .amoOr _ _ _ o s _ => scopeOk o s
  | .amoXor _ _ _ o s _ => scopeOk o s
  | .amoSmin _ _ _ o s _ => scopeOk o s
  | .amoSmax _ _ _ o s _ => scopeOk o s
  | .amoUmin _ _ _ o s _ => scopeOk o s
  | .amoUmax _ _ _ o s _ => scopeOk o s
  | .amoFadd _ _ _ o s => scopeOk o s
  | .fence _ => true
  | .fenceAcq _ => true
  | .fenceRel _ => true
  | .beqz _ _ => true
  | .bnez _ _ => true
  | .bltz _ _ => true
  | .bgez _ _ => true
  | .bgtz _ _ => true
  | .blez _ _ => true
  | .br _ => true
  | .bodd _ _ => true
  | .bevn _ _ => true
  | .bemp a _ => a != 0
  | .bful a _ => a != 0
  | .jmp _ => true
  | .call _ => true
  | .jr _ => true
  | .callr _ => true
  | .ret => true
  | .rep _ L => L != 0
  | .reps a L => L != 0 && 24 ≤ a
  | .vadd _ _ _ _ m z => maskOk m z
  | .vsub _ _ _ _ m z => maskOk m z
  | .vadds _ _ _ _ m z => maskOk m z
  | .vsubs _ _ _ _ m z => maskOk m z
  | .vmul _ _ _ _ m z => maskOk m z
  | .vmulh _ _ _ _ m z => maskOk m z
  | .vmin _ _ _ _ m z => maskOk m z
  | .vmax _ _ _ _ m z => maskOk m z
  | .vand _ _ _ _ m z => maskOk m z
  | .vor _ _ _ _ m z => maskOk m z
  | .vxor _ _ _ _ m z => maskOk m z
  | .vandn _ _ _ _ m z => maskOk m z
  | .vshl _ _ _ _ m z => maskOk m z
  | .vshr _ _ _ _ m z => maskOk m z
  | .vabs _ _ t m z => t ≤ 3 && maskOk m z
  | .vsplat _ _ _ m z => maskOk m z
  | .vaddFp _ _ _ t m z => t ≤ 2 && maskOk m z
  | .vsubFp _ _ _ t m z => t ≤ 2 && maskOk m z
  | .vmulFp _ _ _ t m z => t ≤ 2 && maskOk m z
  | .vfma _ _ _ t m z => t ≤ 2 && maskOk m z
  | .vdiv _ _ _ t m z => t ≤ 2 && maskOk m z
  | .vsqrt _ _ t m z => t ≤ 2 && maskOk m z
  | .vminFp _ _ _ t m z => t ≤ 2 && maskOk m z
  | .vmaxFp _ _ _ t m z => t ≤ 2 && maskOk m z
  | .vabsFp _ _ t m z => t ≤ 2 && maskOk m z
  | .vneg _ _ t m z => t ≤ 2 && maskOk m z
  | .vcvt _ _ k q m z => cvtOk k q && maskOk m z
  | .vperm _ _ _ w m z => w ≤ 3 && maskOk m z
  | .vcmprs _ _ w _ => w ≤ 3
  | .vexpnd _ _ w m z => w ≤ 3 && maskOk m z
  | .vslup _ _ _ w m z => w ≤ 3 && maskOk m z
  | .vsldn _ _ _ w m z => w ≤ 3 && maskOk m z
  | .vbcst _ _ _ w m z => w ≤ 3 && maskOk m z
  | .vext _ _ _ w => w ≤ 3
  | .vins _ _ _ w => w ≤ 3
  | .viota _ w m z => w ≤ 3 && maskOk m z
  | .vraddInt _ _ _ _ => true
  | .vrminInt _ _ _ _ => true
  | .vrmaxInt _ _ _ _ => true
  | .vraddFp _ _ t _ => t ≤ 2
  | .vrminFp _ _ t _ => t ≤ 2
  | .vrmaxFp _ _ t _ => t ≤ 2
  | .vrssq _ _ t _ => t ≤ 2
  | .vrcp _ _ _ m z => maskOk m z
  | .vrsqrt _ _ _ m z => maskOk m z
  | .vexp2 _ _ _ m z => maskOk m z
  | .vlog2 _ _ _ m z => maskOk m z
  | .vexp _ _ _ m z => maskOk m z
  | .vlog _ _ _ m z => maskOk m z
  | .vtanh _ _ _ m z => maskOk m z
  | .vsigm _ _ _ m z => maskOk m z
  | .vpmrg _ _ _ m z => maskOk m z
  | .vpmrge _ _ _ m z => maskOk m z
  | .vcmpeq d _ _ t m z => d ≤ 7 && t ≤ 10 && maskOk m z
  | .vcmpne d _ _ t m z => d ≤ 7 && t ≤ 10 && maskOk m z
  | .vcmplt d _ _ t m z => d ≤ 7 && t ≤ 10 && maskOk m z
  | .vcmple d _ _ t m z => d ≤ 7 && t ≤ 10 && maskOk m z
  | .vcmpgt d _ _ t m z => d ≤ 7 && t ≤ 10 && maskOk m z
  | .vcmpge d _ _ t m z => d ≤ 7 && t ≤ 10 && maskOk m z
  | .pand d a b => d ≤ 7 && a ≤ 7 && b ≤ 7
  | .por d a b => d ≤ 7 && a ≤ 7 && b ≤ 7
  | .pxor d a b => d ≤ 7 && a ≤ 7 && b ≤ 7
  | .pandn d a b => d ≤ 7 && a ≤ 7 && b ≤ 7
  | .pnot d a => d ≤ 7 && a ≤ 7
  | .pmovgp d _ => d ≤ 7
  | .pmovpg _ a => a ≤ 7
  | .vpcnt8 _ a => a ≤ 7
  | .vpcnt16 _ a => a ≤ 7
  | .vpcnt32 _ a => a ≤ 7
  | .vpcnt64 _ a => a ≤ 7
  | .vxsectN32 d _ _ _ => d ≤ 7
  | .vxsectN64 d _ _ _ => d ≤ 7
  | .send _ b f s o => 1 ≤ b && b ≤ 26 && f ≤ 6 && stOrd o s
  | .sendv _ _ f s o => f ≤ 6 && stOrd o s
  | .reply _ b f s o => 1 ≤ b && b ≤ 26 && f ≤ 6 && stOrd o s
  | .pmsg _ s o => stOrd o s
  | .pcfg _ _ => true
  | .pbind _ _ _ => true
  | .punbind _ _ => true
  | .ppeek _ _ => true
  | .park => true
  | .exit => true
  | .yield => true
  | .spawn _ _ b => 1 ≤ b && b ≤ 27
  | .spawnr _ _ b _ => 1 ≤ b && b ≤ 26
  | .migr _ => true
  | .hoopin _ _ => true
  | .hoopout _ => true
  | .kill _ _ => true
  | .cinc _ s o => stOrd o s
  | .cadd _ _ s o => stOrd o s
  | .crdc _ _ s o => ldOrd o s
  | .cwatch _ _ _ => true
  | .tarm _ _ _ => true
  | .tdone _ _ s o => stOrd o s
  | .take _ _ => true
  | .steal _ => true
  | .tdisarm _ _ => true
  | .cpy _ _ _ s o => scopeOk o s
  | .cpym _ _ _ _ s o => scopeOk o s
  | .cpyc _ _ _ _ s o => scopeOk o s
  | .cpbiBlk _ _ => true
  | .cpbiAll _ => true
  | .cstat _ _ _ => true
  | .cstatStop _ _ _ => true
  | .scfg _ _ _ => true
  | .sclose _ _ => true
  | .sstat _ _ => true
  | .sstatBt _ _ _ _ => true
  | .sstatBw _ _ _ => true
  | .pwld _ _ _ _ s o => scopeOk o s
  | .pmma _ _ _ _ s o => scopeOk o s
  | .pstop _ _ _ => true
  | .pres _ _ _ _ s o => scopeOk o s
  | .pstat _ _ _ => true
  | .pstatHl _ _ => true
  | .cdesc _ _ _ => true
  | .cld _ _ s o => ldOrd o s
  | .cldG _ _ s o => ldOrd o s
  | .cstg _ _ _ s o => scopeOk o s
  | .cstgG _ _ _ s o => scopeOk o s
  | .cfnc _ _ => true
  | .clean _ _ l u => u ≤ 2 && l ≤ 1
  | .inval _ _ _ l u => u ≤ 2 && l ≤ 1
  | .pref _ t u => u ≤ 1 && t ≤ 2
  | .orient _ _ _ => true
  | .dedupqSec _ _ => true
  | .dedupqCnt _ _ => true
  | .tlbi _ a _ k => k ≤ 2 && (k == 0 || a == 0)
  | .vflip _ _ => true
  | .vflipc _ _ _ => true
  | .vpin _ _ => true
  | .vrd _ _ _ => true
  | .nop => true
  | .trap _ => true
  | .eret => true
  | .crd _ _ => true
  | .cwr _ _ => true
  | .snap _ => true
  | .erd _ _ => true
  | .gate => true
  | .hImm _ => true
  | .hSched l o => l ≤ 2 && o ≤ 2
  | .hMod r n => r ≤ 4 && (r != 0 || n != 0)
  | .cspDataRead _ => true
  | .cspDataWrite _ => true
  | .ebudWrite _ => true
  | .aclr _ => true
  | .eclr _ => true
  | .go _ => true
  | .quiescence _ _ => true
  | .quiesced _ => true
  | .hashChange _ => true
  | .pcmaskWrite _ _ _ _ => true
  | .caveRcfgWrite _ _ _ => true
  | .snapshotRelease _ => true
  | .launchWrite _ _ => true
  | .headWrite _ _ => true
  | .registerWrite _ _ => true
  | .coldReset _ _ => true
  | .powerGood _ => true
  | .snapshotPin => true
  | .snapshotLatch _ => true
  | .thermalThrottle _ _ => true
  | .cxlMemAccess _ _ _ _ => true
  | .launchRetry _ => true
  | .launchAdmission _ => true
  | .startMessageResend _ => true
  | .launchEnd _ => true
  | .completionResend _ => true
  | .messageArrival _ => true
  | .patternFiring _ => true
  | .fill _ => true
  | .acknowledgement _ => true
  | .deferredTrap _ => true
  | .remoteWordAccess _ => true
  | .pageWalk _ _ _ _ => true
  | .codePageScan _ _ => true
  | .arrivalPacket _ => true
  | .migration _ _ => true
  | .roamingSeat _ _ => true
  | .schedulerSelection _ => true
  | .preemption _ => true
  | .energyReport _ => true
  | .demotion _ => true
  | .gatedEntry _ => true
  | .counterPost _ => true
  | .watchRequest _ => true
  | .bitmapWatchRequest _ => true
  | .watchResend _ _ => true
  | .hardwareResend _ => true
  | .donePost _ => true
  | .rackPlacement _ => true
  | .ladleAccept _ _ _ => true
  | .chunkComplete _ _ _ _ => true
  | .ladleCompletion _ _ _ => true
  | .followOnResend _ _ _ => true
  | .streamRefill _ _ => true
  | .streamDrain _ _ => true
  | .pressAccept _ _ => true
  | .bankLoad _ _ => true
  | .kBlock _ _ _ => true
  | .pressCompletion _ _ => true
  | .harpAccept _ => true
  | .sliceRequest _ _ _ => true
  | .harpCompletion _ _ => true
  | .caveHash _ => true
  | .patrolScrub _ _ => true
  | .channelCopyComplete _ => true
  | .cavePatrol _ _ _ _ => true
  | .laneDrop _ => true
  | .coreRetirement _ _ => true
  | .spareRun _ => true
  | .snapshotRequest _ => true
  | .timestamp _ => true
  | .routeUpdate _ _ _ => true
  | .eventRead _ _ => true
  | .mgmtSnapshot _ => true
  | .mgmtRelease _ => true
  | .powerQuery => true
  | .rindReset _ => true
  | .attestation _ => true
  | .flitReplay _ _ => true
  | .cxlCacheSnoop _ _ _ => true
  | .hostLinkRecovery => true
  | .pldmFirmwareUpdate _ _ => true
  | .pldmMonitoring => true

/-- The instructions that decoding may give. -/
def WellFormed (i : Instr) : Prop := i.wf = true

end Sys2Proof
end

