-- ==== Sys2Proof/Decode.lean ====
section
/-!
DEFINITION. Decoding and encoding of instruction words (R26 to R33, R54, R56).

A row of the opcode map is read by its major opcode and the fixed bits of its word; the fields are taken
out here, once. A word that matches no row, or whose fields break a limit of WellFormed, is not an
instruction (R58) and is rejected by name.
-/

namespace Sys2Proof

/-- Why bytes are no instruction. -/
inductive Reject where
  /-- Fewer than the four bytes of a word (R26). -/
  | short
  /-- Major opcode 0x00, 0x0B to 0x0F or 0x38 to 0x3E (R54, R58). -/
  | reservedOpcode
  /-- A reserved selector, or a nonzero bit where the word must hold zero (R33, R54). -/
  | reservedField
  /-- A field outside its limits: a p register, a mask, an order and scope, a reserved value (R30, R31, R56). -/
  | illFormed
deriving DecidableEq, Repr

/-- The group of major opcode 0x01 (R54). -/
def rawIntr (w : Word) : Option Instr :=
  if fldN w 0 6 == 0 && fldN w 7 4 == 0 then some (.add (fld w 21 5) (fld w 16 5) (fld w 11 5) (fld w 6 1))
  else if fldN w 0 6 == 1 && fldN w 7 4 == 0 then some (.sub (fld w 21 5) (fld w 16 5) (fld w 11 5) (fld w 6 1))
  else if fldN w 0 11 == 2 then some (.and (fld w 21 5) (fld w 16 5) (fld w 11 5))
  else if fldN w 0 11 == 3 then some (.or (fld w 21 5) (fld w 16 5) (fld w 11 5))
  else if fldN w 0 11 == 4 then some (.xor (fld w 21 5) (fld w 16 5) (fld w 11 5))
  else if fldN w 0 11 == 5 then some (.andn (fld w 21 5) (fld w 16 5) (fld w 11 5))
  else if fldN w 0 6 == 6 && fldN w 7 4 == 0 then some (.shl (fld w 21 5) (fld w 16 5) (fld w 11 5) (fld w 6 1))
  else if fldN w 0 6 == 7 && fldN w 7 4 == 0 then some (.shr (fld w 21 5) (fld w 16 5) (fld w 11 5) (fld w 6 1))
  else if fldN w 0 6 == 8 && fldN w 7 4 == 0 then some (.sar (fld w 21 5) (fld w 16 5) (fld w 11 5) (fld w 6 1))
  else if fldN w 0 11 == 9 then some (.slt (fld w 21 5) (fld w 16 5) (fld w 11 5))
  else if fldN w 0 11 == 10 then some (.sltn (fld w 21 5) (fld w 16 5) (fld w 11 5))
  else if fldN w 0 11 == 11 then some (.min (fld w 21 5) (fld w 16 5) (fld w 11 5))
  else if fldN w 0 11 == 12 then some (.max (fld w 21 5) (fld w 16 5) (fld w 11 5))
  else if fldN w 0 11 == 13 then some (.minn (fld w 21 5) (fld w 16 5) (fld w 11 5))
  else if fldN w 0 11 == 14 then some (.maxn (fld w 21 5) (fld w 16 5) (fld w 11 5))
  else if fldN w 0 6 == 15 && fldN w 7 4 == 0 then some (.mul (fld w 21 5) (fld w 16 5) (fld w 11 5) (fld w 6 1))
  else if fldN w 0 11 == 16 then some (.mulh (fld w 21 5) (fld w 16 5) (fld w 11 5))
  else if fldN w 0 11 == 17 then some (.mulhn (fld w 21 5) (fld w 16 5) (fld w 11 5))
  else if fldN w 0 6 == 18 && fldN w 7 4 == 0 then some (.div (fld w 21 5) (fld w 16 5) (fld w 11 5) (fld w 6 1))
  else if fldN w 0 6 == 19 && fldN w 7 4 == 0 then some (.divn (fld w 21 5) (fld w 16 5) (fld w 11 5) (fld w 6 1))
  else if fldN w 0 6 == 20 && fldN w 7 4 == 0 then some (.rem (fld w 21 5) (fld w 16 5) (fld w 11 5) (fld w 6 1))
  else if fldN w 0 6 == 21 && fldN w 7 4 == 0 then some (.remn (fld w 21 5) (fld w 16 5) (fld w 11 5) (fld w 6 1))
  else if fldN w 0 16 == 22 then some (.clz (fld w 21 5) (fld w 16 5))
  else if fldN w 0 16 == 23 then some (.ctz (fld w 21 5) (fld w 16 5))
  else if fldN w 0 16 == 24 then some (.popc (fld w 21 5) (fld w 16 5))
  else none

/-- The group of major opcode 0x0A (R54). -/
def rawAddpc (w : Word) : Option Instr :=
  if fldN w 16 5 == 0 then some (.addpc (fld w 21 5) (fld w 0 16))
  else none

/-- The group of major opcode 0x06 (R54). -/
def rawShi (w : Word) : Option Instr :=
  if fldN w 8 8 == 0 then some (.shli (fld w 21 5) (fld w 16 5) (fld w 0 8))
  else if fldN w 8 8 == 1 then some (.shri (fld w 21 5) (fld w 16 5) (fld w 0 8))
  else if fldN w 8 8 == 2 then some (.sari (fld w 21 5) (fld w 16 5) (fld w 0 8))
  else if fldN w 8 8 == 4 then some (.shliW (fld w 21 5) (fld w 16 5) (fld w 0 8))
  else if fldN w 8 8 == 5 then some (.shriW (fld w 21 5) (fld w 16 5) (fld w 0 8))
  else if fldN w 8 8 == 6 then some (.sariW (fld w 21 5) (fld w 16 5) (fld w 0 8))
  else none

/-- The group of major opcode 0x07 (R54). -/
def rawLhi (w : Word) : Option Instr :=
  if fldN w 18 3 == 0 then some (.lhi (fld w 21 5) (fld w 16 2) (fld w 0 16))
  else none

/-- The group of major opcode 0x1F (R54). -/
def rawMemx (w : Word) : Option Instr :=
  if fldN w 7 4 == 0 then some (.ldx (fld w 21 5) (fld w 16 5) (fld w 11 5) (fld w 5 2) (fld w 3 2) (fld w 0 3))
  else if fldN w 7 4 == 1 then some (.ldxn (fld w 21 5) (fld w 16 5) (fld w 11 5) (fld w 5 2) (fld w 3 2) (fld w 0 3))
  else if fldN w 7 4 == 2 then some (.stx (fld w 21 5) (fld w 16 5) (fld w 11 5) (fld w 5 2) (fld w 3 2) (fld w 0 3))
  else if fldN w 0 3 == 4 && fldN w 7 4 == 3 then some (.vldu (fld w 21 5) (fld w 16 5) (fld w 11 5) (fld w 5 2) (fld w 3 2))
  else if fldN w 0 3 == 4 && fldN w 7 4 == 4 then some (.vstu (fld w 21 5) (fld w 16 5) (fld w 11 5) (fld w 5 2) (fld w 3 2))
  else if fldN w 7 4 == 5 then some (.vgath (fld w 21 5) (fld w 16 5) (fld w 11 5) (fld w 4 3) (fld w 3 1) (fld w 0 3))
  else if fldN w 3 1 == 0 && fldN w 7 4 == 6 then some (.vscat (fld w 21 5) (fld w 16 5) (fld w 11 5) (fld w 4 3) (fld w 0 3))
  else none

/-- The group of major opcode 0x1D (R54). -/
def rawAmo (w : Word) : Option Instr :=
  if fldN w 1 1 == 1 && fldN w 6 5 == 0 then some (.amoSwap (fld w 21 5) (fld w 16 5) (fld w 11 5) (fld w 4 2) (fld w 2 2) (fld w 0 1))
  else if fldN w 1 1 == 1 && fldN w 6 5 == 1 then some (.amoCas (fld w 21 5) (fld w 16 5) (fld w 11 5) (fld w 4 2) (fld w 2 2) (fld w 0 1))
  else if fldN w 1 1 == 1 && fldN w 6 5 == 2 then some (.amoAdd (fld w 21 5) (fld w 16 5) (fld w 11 5) (fld w 4 2) (fld w 2 2) (fld w 0 1))
  else if fldN w 1 1 == 1 && fldN w 6 5 == 3 then some (.amoAnd (fld w 21 5) (fld w 16 5) (fld w 11 5) (fld w 4 2) (fld w 2 2) (fld w 0 1))
  else if fldN w 1 1 == 1 && fldN w 6 5 == 4 then some (.amoOr (fld w 21 5) (fld w 16 5) (fld w 11 5) (fld w 4 2) (fld w 2 2) (fld w 0 1))
  else if fldN w 1 1 == 1 && fldN w 6 5 == 5 then some (.amoXor (fld w 21 5) (fld w 16 5) (fld w 11 5) (fld w 4 2) (fld w 2 2) (fld w 0 1))
  else if fldN w 1 1 == 1 && fldN w 6 5 == 6 then some (.amoSmin (fld w 21 5) (fld w 16 5) (fld w 11 5) (fld w 4 2) (fld w 2 2) (fld w 0 1))
  else if fldN w 1 1 == 1 && fldN w 6 5 == 7 then some (.amoSmax (fld w 21 5) (fld w 16 5) (fld w 11 5) (fld w 4 2) (fld w 2 2) (fld w 0 1))
  else if fldN w 1 1 == 1 && fldN w 6 5 == 8 then some (.amoUmin (fld w 21 5) (fld w 16 5) (fld w 11 5) (fld w 4 2) (fld w 2 2) (fld w 0 1))
  else if fldN w 1 1 == 1 && fldN w 6 5 == 9 then some (.amoUmax (fld w 21 5) (fld w 16 5) (fld w 11 5) (fld w 4 2) (fld w 2 2) (fld w 0 1))
  else if fldN w 0 2 == 2 && fldN w 6 5 == 10 then some (.amoFadd (fld w 21 5) (fld w 16 5) (fld w 11 5) (fld w 4 2) (fld w 2 2))
  else none

/-- The group of major opcode 0x1E (R54). -/
def rawFence (w : Word) : Option Instr :=
  if fldN w 0 2 == 0 && fldN w 4 22 == 0 then some (.fence (fld w 2 2))
  else if fldN w 0 2 == 1 && fldN w 4 22 == 0 then some (.fenceAcq (fld w 2 2))
  else if fldN w 0 2 == 2 && fldN w 4 22 == 0 then some (.fenceRel (fld w 2 2))
  else none

/-- The group of major opcode 0x20 (R54). -/
def rawBcc (w : Word) : Option Instr :=
  if fldN w 21 5 == 0 then some (.beqz (fld w 16 5) (fld w 0 16))
  else if fldN w 21 5 == 1 then some (.bnez (fld w 16 5) (fld w 0 16))
  else if fldN w 21 5 == 2 then some (.bltz (fld w 16 5) (fld w 0 16))
  else if fldN w 21 5 == 3 then some (.bgez (fld w 16 5) (fld w 0 16))
  else if fldN w 21 5 == 4 then some (.bgtz (fld w 16 5) (fld w 0 16))
  else if fldN w 21 5 == 5 then some (.blez (fld w 16 5) (fld w 0 16))
  else if fldN w 16 10 == 192 then some (.br (fld w 0 16))
  else if fldN w 21 5 == 7 then some (.bodd (fld w 16 5) (fld w 0 16))
  else if fldN w 21 5 == 8 then some (.bevn (fld w 16 5) (fld w 0 16))
  else if fldN w 21 5 == 9 then some (.bemp (fld w 16 5) (fld w 0 16))
  else if fldN w 21 5 == 10 then some (.bful (fld w 16 5) (fld w 0 16))
  else none

/-- The group of major opcode 0x23 (R54). -/
def rawJr (w : Word) : Option Instr :=
  if fldN w 0 16 == 0 && fldN w 21 5 == 0 then some (.jr (fld w 16 5))
  else if fldN w 0 16 == 1 && fldN w 21 5 == 0 then some (.callr (fld w 16 5))
  else if fldN w 0 26 == 2 then some (.ret)
  else none

/-- The group of major opcode 0x24 (R54). -/
def rawLoop (w : Word) : Option Instr :=
  if fldN w 10 6 == 0 && fldN w 21 5 == 0 then some (.rep (fld w 16 5) (fld w 0 10))
  else if fldN w 10 6 == 0 && fldN w 21 5 == 1 then some (.reps (fld w 16 5) (fld w 0 10))
  else none

/-- The group of major opcode 0x25 (R54). -/
def rawVint (w : Word) : Option Instr :=
  if fldN w 7 4 == 0 then some (.vadd (fld w 21 5) (fld w 16 5) (fld w 11 5) (fld w 4 3) (fld w 1 3) (fld w 0 1))
  else if fldN w 7 4 == 1 then some (.vsub (fld w 21 5) (fld w 16 5) (fld w 11 5) (fld w 4 3) (fld w 1 3) (fld w 0 1))
  else if fldN w 7 4 == 2 then some (.vadds (fld w 21 5) (fld w 16 5) (fld w 11 5) (fld w 4 3) (fld w 1 3) (fld w 0 1))
  else if fldN w 7 4 == 3 then some (.vsubs (fld w 21 5) (fld w 16 5) (fld w 11 5) (fld w 4 3) (fld w 1 3) (fld w 0 1))
  else if fldN w 7 4 == 4 then some (.vmul (fld w 21 5) (fld w 16 5) (fld w 11 5) (fld w 4 3) (fld w 1 3) (fld w 0 1))
  else if fldN w 7 4 == 5 then some (.vmulh (fld w 21 5) (fld w 16 5) (fld w 11 5) (fld w 4 3) (fld w 1 3) (fld w 0 1))
  else if fldN w 7 4 == 6 then some (.vmin (fld w 21 5) (fld w 16 5) (fld w 11 5) (fld w 4 3) (fld w 1 3) (fld w 0 1))
  else if fldN w 7 4 == 7 then some (.vmax (fld w 21 5) (fld w 16 5) (fld w 11 5) (fld w 4 3) (fld w 1 3) (fld w 0 1))
  else if fldN w 7 4 == 8 then some (.vand (fld w 21 5) (fld w 16 5) (fld w 11 5) (fld w 4 3) (fld w 1 3) (fld w 0 1))
  else if fldN w 7 4 == 9 then some (.vor (fld w 21 5) (fld w 16 5) (fld w 11 5) (fld w 4 3) (fld w 1 3) (fld w 0 1))
  else if fldN w 7 4 == 10 then some (.vxor (fld w 21 5) (fld w 16 5) (fld w 11 5) (fld w 4 3) (fld w 1 3) (fld w 0 1))
  else if fldN w 7 4 == 11 then some (.vandn (fld w 21 5) (fld w 16 5) (fld w 11 5) (fld w 4 3) (fld w 1 3) (fld w 0 1))
  else if fldN w 7 4 == 12 then some (.vshl (fld w 21 5) (fld w 16 5) (fld w 11 5) (fld w 4 3) (fld w 1 3) (fld w 0 1))
  else if fldN w 7 4 == 13 then some (.vshr (fld w 21 5) (fld w 16 5) (fld w 11 5) (fld w 4 3) (fld w 1 3) (fld w 0 1))
  else if fldN w 7 9 == 14 then some (.vabs (fld w 21 5) (fld w 16 5) (fld w 4 3) (fld w 1 3) (fld w 0 1))
  else if fldN w 7 9 == 15 then some (.vsplat (fld w 21 5) (fld w 16 5) (fld w 4 3) (fld w 1 3) (fld w 0 1))
  else none

/-- The group of major opcode 0x26 (R54). -/
def rawVflt (w : Word) : Option Instr :=
  if fldN w 7 4 == 0 then some (.vaddFp (fld w 21 5) (fld w 16 5) (fld w 11 5) (fld w 4 3) (fld w 1 3) (fld w 0 1))
  else if fldN w 7 4 == 1 then some (.vsubFp (fld w 21 5) (fld w 16 5) (fld w 11 5) (fld w 4 3) (fld w 1 3) (fld w 0 1))
  else if fldN w 7 4 == 2 then some (.vmulFp (fld w 21 5) (fld w 16 5) (fld w 11 5) (fld w 4 3) (fld w 1 3) (fld w 0 1))
  else if fldN w 7 4 == 3 then some (.vfma (fld w 21 5) (fld w 16 5) (fld w 11 5) (fld w 4 3) (fld w 1 3) (fld w 0 1))
  else if fldN w 7 4 == 4 then some (.vdiv (fld w 21 5) (fld w 16 5) (fld w 11 5) (fld w 4 3) (fld w 1 3) (fld w 0 1))
  else if fldN w 7 9 == 5 then some (.vsqrt (fld w 21 5) (fld w 16 5) (fld w 4 3) (fld w 1 3) (fld w 0 1))
  else if fldN w 7 4 == 6 then some (.vminFp (fld w 21 5) (fld w 16 5) (fld w 11 5) (fld w 4 3) (fld w 1 3) (fld w 0 1))
  else if fldN w 7 4 == 7 then some (.vmaxFp (fld w 21 5) (fld w 16 5) (fld w 11 5) (fld w 4 3) (fld w 1 3) (fld w 0 1))
  else if fldN w 7 9 == 8 then some (.vabsFp (fld w 21 5) (fld w 16 5) (fld w 4 3) (fld w 1 3) (fld w 0 1))
  else if fldN w 7 9 == 9 then some (.vneg (fld w 21 5) (fld w 16 5) (fld w 4 3) (fld w 1 3) (fld w 0 1))
  else none

/-- The group of major opcode 0x27 (R54). -/
def rawVcvt (w : Word) : Option Instr :=
  if fldN w 11 5 == 0 then some (.vcvt (fld w 21 5) (fld w 16 5) (fld w 6 5) (fld w 4 2) (fld w 1 3) (fld w 0 1))
  else none

/-- The group of major opcode 0x28 (R54). -/
def rawVprm (w : Word) : Option Instr :=
  if fldN w 7 4 == 0 then some (.vperm (fld w 21 5) (fld w 16 5) (fld w 11 5) (fld w 4 3) (fld w 1 3) (fld w 0 1))
  else if fldN w 0 1 == 0 && fldN w 7 9 == 1 then some (.vcmprs (fld w 21 5) (fld w 16 5) (fld w 4 3) (fld w 1 3))
  else if fldN w 7 9 == 2 then some (.vexpnd (fld w 21 5) (fld w 16 5) (fld w 4 3) (fld w 1 3) (fld w 0 1))
  else if fldN w 7 4 == 3 then some (.vslup (fld w 21 5) (fld w 16 5) (fld w 11 5) (fld w 4 3) (fld w 1 3) (fld w 0 1))
  else if fldN w 7 4 == 4 then some (.vsldn (fld w 21 5) (fld w 16 5) (fld w 11 5) (fld w 4 3) (fld w 1 3) (fld w 0 1))
  else if fldN w 7 4 == 5 then some (.vbcst (fld w 21 5) (fld w 16 5) (fld w 11 5) (fld w 4 3) (fld w 1 3) (fld w 0 1))
  else if fldN w 0 4 == 0 && fldN w 7 4 == 6 then some (.vext (fld w 21 5) (fld w 16 5) (fld w 11 5) (fld w 4 3))
  else if fldN w 0 4 == 0 && fldN w 7 4 == 7 then some (.vins (fld w 21 5) (fld w 16 5) (fld w 11 5) (fld w 4 3))
  else if fldN w 7 14 == 8 then some (.viota (fld w 21 5) (fld w 4 3) (fld w 1 3) (fld w 0 1))
  else none

/-- The group of major opcode 0x29 (R54). -/
def rawVred (w : Word) : Option Instr :=
  if fldN w 0 1 == 0 && fldN w 7 9 == 0 then some (.vraddInt (fld w 21 5) (fld w 16 5) (fld w 4 3) (fld w 1 3))
  else if fldN w 0 1 == 0 && fldN w 7 9 == 1 then some (.vrminInt (fld w 21 5) (fld w 16 5) (fld w 4 3) (fld w 1 3))
  else if fldN w 0 1 == 0 && fldN w 7 9 == 2 then some (.vrmaxInt (fld w 21 5) (fld w 16 5) (fld w 4 3) (fld w 1 3))
  else if fldN w 0 1 == 0 && fldN w 7 9 == 4 then some (.vraddFp (fld w 21 5) (fld w 16 5) (fld w 4 3) (fld w 1 3))
  else if fldN w 0 1 == 0 && fldN w 7 9 == 5 then some (.vrminFp (fld w 21 5) (fld w 16 5) (fld w 4 3) (fld w 1 3))
  else if fldN w 0 1 == 0 && fldN w 7 9 == 6 then some (.vrmaxFp (fld w 21 5) (fld w 16 5) (fld w 4 3) (fld w 1 3))
  else if fldN w 0 1 == 0 && fldN w 7 9 == 7 then some (.vrssq (fld w 21 5) (fld w 16 5) (fld w 4 3) (fld w 1 3))
  else none

/-- The group of major opcode 0x2A (R54). -/
def rawVsfn (w : Word) : Option Instr :=
  if fldN w 5 11 == 0 then some (.vrcp (fld w 21 5) (fld w 16 5) (fld w 4 1) (fld w 1 3) (fld w 0 1))
  else if fldN w 5 11 == 4 then some (.vrsqrt (fld w 21 5) (fld w 16 5) (fld w 4 1) (fld w 1 3) (fld w 0 1))
  else if fldN w 5 11 == 8 then some (.vexp2 (fld w 21 5) (fld w 16 5) (fld w 4 1) (fld w 1 3) (fld w 0 1))
  else if fldN w 5 11 == 12 then some (.vlog2 (fld w 21 5) (fld w 16 5) (fld w 4 1) (fld w 1 3) (fld w 0 1))
  else if fldN w 5 11 == 16 then some (.vexp (fld w 21 5) (fld w 16 5) (fld w 4 1) (fld w 1 3) (fld w 0 1))
  else if fldN w 5 11 == 20 then some (.vlog (fld w 21 5) (fld w 16 5) (fld w 4 1) (fld w 1 3) (fld w 0 1))
  else if fldN w 5 11 == 24 then some (.vtanh (fld w 21 5) (fld w 16 5) (fld w 4 1) (fld w 1 3) (fld w 0 1))
  else if fldN w 5 11 == 28 then some (.vsigm (fld w 21 5) (fld w 16 5) (fld w 4 1) (fld w 1 3) (fld w 0 1))
  else if fldN w 4 7 == 64 then some (.vpmrg (fld w 21 5) (fld w 16 5) (fld w 11 5) (fld w 1 3) (fld w 0 1))
  else if fldN w 4 7 == 72 then some (.vpmrge (fld w 21 5) (fld w 16 5) (fld w 11 5) (fld w 1 3) (fld w 0 1))
  else none

/-- The group of major opcode 0x2B (R54). -/
def rawVpred (w : Word) : Option Instr :=
  if fldN w 8 3 == 0 then some (.vcmpeq (fld w 21 5) (fld w 16 5) (fld w 11 5) (fld w 4 4) (fld w 1 3) (fld w 0 1))
  else if fldN w 8 3 == 1 then some (.vcmpne (fld w 21 5) (fld w 16 5) (fld w 11 5) (fld w 4 4) (fld w 1 3) (fld w 0 1))
  else if fldN w 8 3 == 2 then some (.vcmplt (fld w 21 5) (fld w 16 5) (fld w 11 5) (fld w 4 4) (fld w 1 3) (fld w 0 1))
  else if fldN w 8 3 == 3 then some (.vcmple (fld w 21 5) (fld w 16 5) (fld w 11 5) (fld w 4 4) (fld w 1 3) (fld w 0 1))
  else if fldN w 8 3 == 4 then some (.vcmpgt (fld w 21 5) (fld w 16 5) (fld w 11 5) (fld w 4 4) (fld w 1 3) (fld w 0 1))
  else if fldN w 8 3 == 5 then some (.vcmpge (fld w 21 5) (fld w 16 5) (fld w 11 5) (fld w 4 4) (fld w 1 3) (fld w 0 1))
  else if fldN w 0 11 == 1792 then some (.pand (fld w 21 5) (fld w 16 5) (fld w 11 5))
  else if fldN w 0 11 == 1808 then some (.por (fld w 21 5) (fld w 16 5) (fld w 11 5))
  else if fldN w 0 11 == 1824 then some (.pxor (fld w 21 5) (fld w 16 5) (fld w 11 5))
  else if fldN w 0 11 == 1840 then some (.pandn (fld w 21 5) (fld w 16 5) (fld w 11 5))
  else if fldN w 0 16 == 1856 then some (.pnot (fld w 21 5) (fld w 16 5))
  else if fldN w 0 16 == 1872 then some (.pmovgp (fld w 21 5) (fld w 16 5))
  else if fldN w 0 16 == 1888 then some (.pmovpg (fld w 21 5) (fld w 16 5))
  else if fldN w 0 16 == 1904 then some (.vpcnt8 (fld w 21 5) (fld w 16 5))
  else if fldN w 0 16 == 1920 then some (.vpcnt16 (fld w 21 5) (fld w 16 5))
  else if fldN w 0 16 == 1936 then some (.vpcnt32 (fld w 21 5) (fld w 16 5))
  else if fldN w 0 16 == 1952 then some (.vpcnt64 (fld w 21 5) (fld w 16 5))
  else if fldN w 0 1 == 0 && fldN w 4 7 == 123 then some (.vxsectN32 (fld w 21 5) (fld w 16 5) (fld w 11 5) (fld w 1 3))
  else if fldN w 0 1 == 0 && fldN w 4 7 == 124 then some (.vxsectN64 (fld w 21 5) (fld w 16 5) (fld w 11 5) (fld w 1 3))
  else none

/-- The group of major opcode 0x2C (R54). -/
def rawMsg (w : Word) : Option Instr :=
  if fldN w 0 4 == 0 && fldN w 21 5 == 0 then some (.send (fld w 16 5) (fld w 11 5) (fld w 8 3) (fld w 6 2) (fld w 4 2))
  else if fldN w 0 4 == 1 && fldN w 21 5 == 0 then some (.sendv (fld w 16 5) (fld w 11 5) (fld w 8 3) (fld w 6 2) (fld w 4 2))
  else if fldN w 0 4 == 2 && fldN w 21 5 == 0 then some (.reply (fld w 16 5) (fld w 11 5) (fld w 8 3) (fld w 6 2) (fld w 4 2))
  else if fldN w 0 4 == 3 && fldN w 8 8 == 0 && fldN w 21 5 == 0 then some (.pmsg (fld w 16 5) (fld w 6 2) (fld w 4 2))
  else none

/-- The group of major opcode 0x2D (R54). -/
def rawPort (w : Word) : Option Instr :=
  if fldN w 0 16 == 0 then some (.pcfg (fld w 21 5) (fld w 16 5))
  else if fldN w 0 11 == 1 then some (.pbind (fld w 21 5) (fld w 16 5) (fld w 11 5))
  else if fldN w 0 16 == 2 then some (.punbind (fld w 21 5) (fld w 16 5))
  else if fldN w 0 16 == 3 then some (.ppeek (fld w 21 5) (fld w 16 5))
  else none

/-- The group of major opcode 0x2E (R54). -/
def rawCtx (w : Word) : Option Instr :=
  if fldN w 0 26 == 0 then some (.park)
  else if fldN w 0 26 == 1 then some (.exit)
  else if fldN w 0 26 == 2 then some (.yield)
  else if fldN w 0 11 == 3 then some (.spawn (fld w 21 5) (fld w 16 5) (fld w 11 5))
  else if fldN w 0 4 == 4 && fldN w 5 6 == 0 then some (.spawnr (fld w 21 5) (fld w 16 5) (fld w 11 5) (fld w 4 1))
  else if fldN w 0 16 == 5 && fldN w 21 5 == 0 then some (.migr (fld w 16 5))
  else if fldN w 0 16 == 6 then some (.hoopin (fld w 21 5) (fld w 16 5))
  else if fldN w 0 21 == 7 then some (.hoopout (fld w 21 5))
  else if fldN w 0 16 == 8 then some (.kill (fld w 21 5) (fld w 16 5))
  else none

/-- The group of major opcode 0x2F (R54). -/
def rawCtr (w : Word) : Option Instr :=
  if fldN w 0 4 == 0 && fldN w 8 8 == 0 && fldN w 21 5 == 0 then some (.cinc (fld w 16 5) (fld w 6 2) (fld w 4 2))
  else if fldN w 0 4 == 1 && fldN w 8 3 == 0 && fldN w 21 5 == 0 then some (.cadd (fld w 16 5) (fld w 11 5) (fld w 6 2) (fld w 4 2))
  else if fldN w 0 4 == 2 && fldN w 8 8 == 0 then some (.crdc (fld w 21 5) (fld w 16 5) (fld w 6 2) (fld w 4 2))
  else if fldN w 0 11 == 3 then some (.cwatch (fld w 21 5) (fld w 16 5) (fld w 11 5))
  else none

/-- The group of major opcode 0x30 (R54). -/
def rawTask (w : Word) : Option Instr :=
  if fldN w 0 11 == 0 then some (.tarm (fld w 21 5) (fld w 16 5) (fld w 11 5))
  else if fldN w 0 4 == 1 && fldN w 8 8 == 0 then some (.tdone (fld w 21 5) (fld w 16 5) (fld w 6 2) (fld w 4 2))
  else if fldN w 0 8 == 2 && fldN w 9 12 == 0 then some (.take (fld w 21 5) (fld w 8 1))
  else if fldN w 0 21 == 3 then some (.steal (fld w 21 5))
  else if fldN w 0 16 == 4 then some (.tdisarm (fld w 21 5) (fld w 16 5))
  else none

/-- The group of major opcode 0x31 (R54). -/
def rawLadle (w : Word) : Option Instr :=
  if fldN w 0 4 == 0 && fldN w 9 7 == 0 then some (.cpy (fld w 21 5) (fld w 16 5) (fld w 8 1) (fld w 6 2) (fld w 4 2))
  else if fldN w 0 4 == 1 && fldN w 9 2 == 0 then some (.cpym (fld w 21 5) (fld w 16 5) (fld w 11 5) (fld w 8 1) (fld w 6 2) (fld w 4 2))
  else if fldN w 0 4 == 2 && fldN w 9 2 == 0 then some (.cpyc (fld w 21 5) (fld w 16 5) (fld w 11 5) (fld w 8 1) (fld w 6 2) (fld w 4 2))
  else if fldN w 0 16 == 3 then some (.cpbiBlk (fld w 21 5) (fld w 16 5))
  else if fldN w 0 21 == 515 then some (.cpbiAll (fld w 21 5))
  else if fldN w 0 8 == 4 && fldN w 9 7 == 0 then some (.cstat (fld w 21 5) (fld w 16 5) (fld w 8 1))
  else if fldN w 0 8 == 4 && fldN w 9 7 == 1 then some (.cstatStop (fld w 21 5) (fld w 16 5) (fld w 8 1))
  else none

/-- The group of major opcode 0x32 (R54). -/
def rawStrm (w : Word) : Option Instr :=
  if fldN w 0 11 == 0 && fldN w 14 2 == 3 then some (.scfg (fld w 21 5) (fld w 16 5) (fld w 11 3))
  else if fldN w 0 11 == 1 && fldN w 14 7 == 3 then some (.sclose (fld w 21 5) (fld w 11 3))
  else if fldN w 0 11 == 2 && fldN w 14 7 == 3 then some (.sstat (fld w 21 5) (fld w 11 3))
  else if fldN w 0 6 == 18 && fldN w 8 3 == 0 then some (.sstatBt (fld w 21 5) (fld w 16 5) (fld w 11 5) (fld w 6 2))
  else if fldN w 0 11 == 34 then some (.sstatBw (fld w 21 5) (fld w 16 5) (fld w 11 5))
  else none

/-- The group of major opcode 0x33 (R54). -/
def rawPress (w : Word) : Option Instr :=
  if fldN w 0 4 == 0 && fldN w 10 1 == 0 then some (.pwld (fld w 21 5) (fld w 16 5) (fld w 11 5) (fld w 8 2) (fld w 6 2) (fld w 4 2))
  else if fldN w 0 4 == 1 && fldN w 10 1 == 0 then some (.pmma (fld w 21 5) (fld w 16 5) (fld w 11 5) (fld w 8 2) (fld w 6 2) (fld w 4 2))
  else if fldN w 0 8 == 2 && fldN w 10 6 == 0 then some (.pstop (fld w 21 5) (fld w 16 5) (fld w 8 2))
  else if fldN w 0 4 == 3 && fldN w 10 1 == 0 then some (.pres (fld w 21 5) (fld w 16 5) (fld w 11 5) (fld w 8 2) (fld w 6 2) (fld w 4 2))
  else if fldN w 0 8 == 4 && fldN w 10 6 == 0 then some (.pstat (fld w 21 5) (fld w 16 5) (fld w 8 2))
  else if fldN w 0 8 == 4 && fldN w 10 11 == 1 then some (.pstatHl (fld w 21 5) (fld w 8 2))
  else none

/-- The group of major opcode 0x34 (R54). -/
def rawHarp (w : Word) : Option Instr :=
  if fldN w 0 11 == 0 then some (.cdesc (fld w 21 5) (fld w 16 5) (fld w 11 5))
  else if fldN w 0 4 == 1 && fldN w 8 8 == 0 then some (.cld (fld w 21 5) (fld w 16 5) (fld w 6 2) (fld w 4 2))
  else if fldN w 0 4 == 1 && fldN w 8 8 == 1 then some (.cldG (fld w 21 5) (fld w 16 5) (fld w 6 2) (fld w 4 2))
  else if fldN w 0 4 == 2 && fldN w 8 3 == 0 then some (.cstg (fld w 21 5) (fld w 16 5) (fld w 11 5) (fld w 6 2) (fld w 4 2))
  else if fldN w 0 4 == 2 && fldN w 8 3 == 1 then some (.cstgG (fld w 21 5) (fld w 16 5) (fld w 11 5) (fld w 6 2) (fld w 4 2))
  else if fldN w 0 6 == 3 && fldN w 8 13 == 0 then some (.cfnc (fld w 21 5) (fld w 6 2))
  else none

/-- The group of major opcode 0x35 (R54). -/
def rawCache (w : Word) : Option Instr :=
  if fldN w 0 4 == 0 && fldN w 8 8 == 0 then some (.clean (fld w 21 5) (fld w 16 5) (fld w 6 2) (fld w 4 2))
  else if fldN w 0 4 == 1 && fldN w 9 7 == 0 then some (.inval (fld w 21 5) (fld w 16 5) (fld w 8 1) (fld w 6 2) (fld w 4 2))
  else if fldN w 0 4 == 2 && fldN w 8 8 == 0 && fldN w 21 5 == 0 then some (.pref (fld w 16 5) (fld w 6 2) (fld w 4 2))
  else if fldN w 0 4 == 3 && fldN w 5 11 == 0 then some (.orient (fld w 21 5) (fld w 16 5) (fld w 4 1))
  else if fldN w 0 16 == 4 then some (.dedupqSec (fld w 21 5) (fld w 16 5))
  else if fldN w 0 16 == 20 then some (.dedupqCnt (fld w 21 5) (fld w 16 5))
  else none

/-- The group of major opcode 0x36 (R54). -/
def rawXlat (w : Word) : Option Instr :=
  if fldN w 0 4 == 0 && fldN w 6 5 == 0 then some (.tlbi (fld w 21 5) (fld w 16 5) (fld w 11 5) (fld w 4 2))
  else if fldN w 0 16 == 1 then some (.vflip (fld w 21 5) (fld w 16 5))
  else if fldN w 0 11 == 2 then some (.vflipc (fld w 21 5) (fld w 16 5) (fld w 11 5))
  else if fldN w 0 16 == 3 then some (.vpin (fld w 21 5) (fld w 16 5))
  else if fldN w 0 4 == 4 && fldN w 7 14 == 0 then some (.vrd (fld w 21 5) (fld w 6 1) (fld w 4 2))
  else none

/-- The group of major opcode 0x37 (R54). -/
def rawSys (w : Word) : Option Instr :=
  if fldN w 0 26 == 0 then some (.nop)
  else if fldN w 12 14 == 1 then some (.trap (fld w 0 12))
  else if fldN w 0 26 == 8192 then some (.eret)
  else if fldN w 12 9 == 3 then some (.crd (fld w 21 5) (fld w 0 12))
  else if fldN w 12 4 == 4 && fldN w 21 5 == 0 then some (.cwr (fld w 16 5) (fld w 0 12))
  else if fldN w 0 21 == 20480 then some (.snap (fld w 21 5))
  else if fldN w 0 16 == 24576 then some (.erd (fld w 21 5) (fld w 16 5))
  else if fldN w 0 26 == 28672 then some (.gate)
  else none

/-- The group of major opcode 0x3F (R54). -/
def rawHint (w : Word) : Option Instr :=
  if fldN w 23 3 == 0 then some (.hImm (fld w 0 23))
  else if fldN w 0 19 == 0 && fldN w 23 3 == 1 then some (.hSched (fld w 21 2) (fld w 19 2))
  else if fldN w 0 19 == 0 && fldN w 23 3 == 2 then some (.hMod (fld w 20 3) (fld w 19 1))
  else none

/-- The row that a word matches, by its major opcode (R28). -/
def rawDecode (w : Word) : Except Reject Instr :=
  let pick (r : Option Instr) : Except Reject Instr :=
    match r with
    | some i => .ok i
    | none => .error .reservedField
  match fldN w 26 6 with
  | 0x01 => pick (rawIntr w)
  | 0x02 => .ok (.addi (fld w 21 5) (fld w 16 5) (fld w 0 16))
  | 0x03 => .ok (.andi (fld w 21 5) (fld w 16 5) (fld w 0 16))
  | 0x04 => .ok (.ori (fld w 21 5) (fld w 16 5) (fld w 0 16))
  | 0x05 => .ok (.xori (fld w 21 5) (fld w 16 5) (fld w 0 16))
  | 0x08 => .ok (.slti (fld w 21 5) (fld w 16 5) (fld w 0 16))
  | 0x09 => .ok (.sltin (fld w 21 5) (fld w 16 5) (fld w 0 16))
  | 0x0A => pick (rawAddpc w)
  | 0x06 => pick (rawShi w)
  | 0x07 => pick (rawLhi w)
  | 0x10 => .ok (.ldb (fld w 21 5) (fld w 16 5) (fld w 14 2) (fld w 12 2) (fld w 0 12))
  | 0x11 => .ok (.ldbn (fld w 21 5) (fld w 16 5) (fld w 14 2) (fld w 12 2) (fld w 0 12))
  | 0x12 => .ok (.ldh (fld w 21 5) (fld w 16 5) (fld w 14 2) (fld w 12 2) (fld w 0 12))
  | 0x13 => .ok (.ldhn (fld w 21 5) (fld w 16 5) (fld w 14 2) (fld w 12 2) (fld w 0 12))
  | 0x14 => .ok (.ldw (fld w 21 5) (fld w 16 5) (fld w 14 2) (fld w 12 2) (fld w 0 12))
  | 0x15 => .ok (.ldwn (fld w 21 5) (fld w 16 5) (fld w 14 2) (fld w 12 2) (fld w 0 12))
  | 0x16 => .ok (.ldd (fld w 21 5) (fld w 16 5) (fld w 14 2) (fld w 12 2) (fld w 0 12))
  | 0x17 => .ok (.stb (fld w 21 5) (fld w 16 5) (fld w 14 2) (fld w 12 2) (fld w 0 12))
  | 0x18 => .ok (.sth (fld w 21 5) (fld w 16 5) (fld w 14 2) (fld w 12 2) (fld w 0 12))
  | 0x19 => .ok (.stw (fld w 21 5) (fld w 16 5) (fld w 14 2) (fld w 12 2) (fld w 0 12))
  | 0x1A => .ok (.std (fld w 21 5) (fld w 16 5) (fld w 14 2) (fld w 12 2) (fld w 0 12))
  | 0x1B => .ok (.vld (fld w 21 5) (fld w 16 5) (fld w 14 2) (fld w 12 2) (fld w 0 12))
  | 0x1C => .ok (.vst (fld w 21 5) (fld w 16 5) (fld w 14 2) (fld w 12 2) (fld w 0 12))
  | 0x1F => pick (rawMemx w)
  | 0x1D => pick (rawAmo w)
  | 0x1E => pick (rawFence w)
  | 0x20 => pick (rawBcc w)
  | 0x21 => .ok (.jmp (fld w 0 26))
  | 0x22 => .ok (.call (fld w 0 26))
  | 0x23 => pick (rawJr w)
  | 0x24 => pick (rawLoop w)
  | 0x25 => pick (rawVint w)
  | 0x26 => pick (rawVflt w)
  | 0x27 => pick (rawVcvt w)
  | 0x28 => pick (rawVprm w)
  | 0x29 => pick (rawVred w)
  | 0x2A => pick (rawVsfn w)
  | 0x2B => pick (rawVpred w)
  | 0x2C => pick (rawMsg w)
  | 0x2D => pick (rawPort w)
  | 0x2E => pick (rawCtx w)
  | 0x2F => pick (rawCtr w)
  | 0x30 => pick (rawTask w)
  | 0x31 => pick (rawLadle w)
  | 0x32 => pick (rawStrm w)
  | 0x33 => pick (rawPress w)
  | 0x34 => pick (rawHarp w)
  | 0x35 => pick (rawCache w)
  | 0x36 => pick (rawXlat w)
  | 0x37 => pick (rawSys w)
  | 0x3F => pick (rawHint w)
  | _ => .error .reservedOpcode

/-- The instruction of a word (R58): the row it matches, when its fields keep their limits. -/
def decodeWord (w : Word) : Except Reject Instr :=
  match rawDecode w with
  | .error e => .error e
  | .ok i => if i.wf then .ok i else .error .illFormed

/-- Decoding of bytes, the lowest address first: one word and the bytes after it (R26). -/
def decode : List Byte → Except Reject (Instr × List Byte)
  | b0 :: b1 :: b2 :: b3 :: rest =>
    match decodeWord (ofBytes 32 [b0, b1, b2, b3]) with
    | .ok i => .ok (i, rest)
    | .error e => .error e
  | _ => .error .short

/-- The instruction that the decoder reads from the word w, numbered as spec/opcode_table.json numbers its
bits; the bits from nbits up are zero. -/
def decodeTableWord (nbits w : Nat) : Option Instr :=
  match decode (bytesOf (BitVec.ofNat 32 (w % 2 ^ nbits)) 4) with
  | .ok (i, _) => some i
  | .error _ => none

/-- A field's contribution to a word: its value at bit lo. -/
def place {n : Nat} (x : BitVec n) (lo : Nat) : Nat := x.toNat * 2 ^ lo

/-- The word of an instruction: the fixed bits of its row and each field at its place (R29). An event has
no word. -/
def encodeNat : Instr → Option Nat
  | .add d a b w => some (0x04000000 + place d 21 + place a 16 + place b 11 + place w 6)
  | .sub d a b w => some (0x04000001 + place d 21 + place a 16 + place b 11 + place w 6)
  | .and d a b => some (0x04000002 + place d 21 + place a 16 + place b 11)
  | .or d a b => some (0x04000003 + place d 21 + place a 16 + place b 11)
  | .xor d a b => some (0x04000004 + place d 21 + place a 16 + place b 11)
  | .andn d a b => some (0x04000005 + place d 21 + place a 16 + place b 11)
  | .shl d a b w => some (0x04000006 + place d 21 + place a 16 + place b 11 + place w 6)
  | .shr d a b w => some (0x04000007 + place d 21 + place a 16 + place b 11 + place w 6)
  | .sar d a b w => some (0x04000008 + place d 21 + place a 16 + place b 11 + place w 6)
  | .slt d a b => some (0x04000009 + place d 21 + place a 16 + place b 11)
  | .sltn d a b => some (0x0400000A + place d 21 + place a 16 + place b 11)
  | .min d a b => some (0x0400000B + place d 21 + place a 16 + place b 11)
  | .max d a b => some (0x0400000C + place d 21 + place a 16 + place b 11)
  | .minn d a b => some (0x0400000D + place d 21 + place a 16 + place b 11)
  | .maxn d a b => some (0x0400000E + place d 21 + place a 16 + place b 11)
  | .mul d a b w => some (0x0400000F + place d 21 + place a 16 + place b 11 + place w 6)
  | .mulh d a b => some (0x04000010 + place d 21 + place a 16 + place b 11)
  | .mulhn d a b => some (0x04000011 + place d 21 + place a 16 + place b 11)
  | .div d a b w => some (0x04000012 + place d 21 + place a 16 + place b 11 + place w 6)
  | .divn d a b w => some (0x04000013 + place d 21 + place a 16 + place b 11 + place w 6)
  | .rem d a b w => some (0x04000014 + place d 21 + place a 16 + place b 11 + place w 6)
  | .remn d a b w => some (0x04000015 + place d 21 + place a 16 + place b 11 + place w 6)
  | .clz d a => some (0x04000016 + place d 21 + place a 16)
  | .ctz d a => some (0x04000017 + place d 21 + place a 16)
  | .popc d a => some (0x04000018 + place d 21 + place a 16)
  | .addi d a i => some (0x08000000 + place d 21 + place a 16 + place i 0)
  | .andi d a i => some (0x0C000000 + place d 21 + place a 16 + place i 0)
  | .ori d a i => some (0x10000000 + place d 21 + place a 16 + place i 0)
  | .xori d a i => some (0x14000000 + place d 21 + place a 16 + place i 0)
  | .slti d a i => some (0x20000000 + place d 21 + place a 16 + place i 0)
  | .sltin d a i => some (0x24000000 + place d 21 + place a 16 + place i 0)
  | .addpc d i => some (0x28000000 + place d 21 + place i 0)
  | .shli d a m => some (0x18000000 + place d 21 + place a 16 + place m 0)
  | .shri d a m => some (0x18000100 + place d 21 + place a 16 + place m 0)
  | .sari d a m => some (0x18000200 + place d 21 + place a 16 + place m 0)
  | .shliW d a m => some (0x18000400 + place d 21 + place a 16 + place m 0)
  | .shriW d a m => some (0x18000500 + place d 21 + place a 16 + place m 0)
  | .sariW d a m => some (0x18000600 + place d 21 + place a 16 + place m 0)
  | .lhi d q i => some (0x1C000000 + place d 21 + place q 16 + place i 0)
  | .ldb d a o s k => some (0x40000000 + place d 21 + place a 16 + place o 14 + place s 12 + place k 0)
  | .ldbn d a o s k => some (0x44000000 + place d 21 + place a 16 + place o 14 + place s 12 + place k 0)
  | .ldh d a o s k => some (0x48000000 + place d 21 + place a 16 + place o 14 + place s 12 + place k 0)
  | .ldhn d a o s k => some (0x4C000000 + place d 21 + place a 16 + place o 14 + place s 12 + place k 0)
  | .ldw d a o s k => some (0x50000000 + place d 21 + place a 16 + place o 14 + place s 12 + place k 0)
  | .ldwn d a o s k => some (0x54000000 + place d 21 + place a 16 + place o 14 + place s 12 + place k 0)
  | .ldd d a o s k => some (0x58000000 + place d 21 + place a 16 + place o 14 + place s 12 + place k 0)
  | .stb d a o s k => some (0x5C000000 + place d 21 + place a 16 + place o 14 + place s 12 + place k 0)
  | .sth d a o s k => some (0x60000000 + place d 21 + place a 16 + place o 14 + place s 12 + place k 0)
  | .stw d a o s k => some (0x64000000 + place d 21 + place a 16 + place o 14 + place s 12 + place k 0)
  | .std d a o s k => some (0x68000000 + place d 21 + place a 16 + place o 14 + place s 12 + place k 0)
  | .vld d a o s k => some (0x6C000000 + place d 21 + place a 16 + place o 14 + place s 12 + place k 0)
  | .vst d a o s k => some (0x70000000 + place d 21 + place a 16 + place o 14 + place s 12 + place k 0)
  | .ldx d a b o s z => some (0x7C000000 + place d 21 + place a 16 + place b 11 + place o 5 + place s 3 + place z 0)
  | .ldxn d a b o s z => some (0x7C000080 + place d 21 + place a 16 + place b 11 + place o 5 + place s 3 + place z 0)
  | .stx d a b o s z => some (0x7C000100 + place d 21 + place a 16 + place b 11 + place o 5 + place s 3 + place z 0)
  | .vldu d a b o s => some (0x7C000184 + place d 21 + place a 16 + place b 11 + place o 5 + place s 3)
  | .vstu d a b o s => some (0x7C000204 + place d 21 + place a 16 + place b 11 + place o 5 + place s 3)
  | .vgath d a b m z s => some (0x7C000280 + place d 21 + place a 16 + place b 11 + place m 4 + place z 3 + place s 0)
  | .vscat d a b m s => some (0x7C000300 + place d 21 + place a 16 + place b 11 + place m 4 + place s 0)
  | .amoSwap d a b o s z => some (0x74000002 + place d 21 + place a 16 + place b 11 + place o 4 + place s 2 + place z 0)
  | .amoCas d a b o s z => some (0x74000042 + place d 21 + place a 16 + place b 11 + place o 4 + place s 2 + place z 0)
  | .amoAdd d a b o s z => some (0x74000082 + place d 21 + place a 16 + place b 11 + place o 4 + place s 2 + place z 0)
  | .amoAnd d a b o s z => some (0x740000C2 + place d 21 + place a 16 + place b 11 + place o 4 + place s 2 + place z 0)
  | .amoOr d a b o s z => some (0x74000102 + place d 21 + place a 16 + place b 11 + place o 4 + place s 2 + place z 0)
  | .amoXor d a b o s z => some (0x74000142 + place d 21 + place a 16 + place b 11 + place o 4 + place s 2 + place z 0)
  | .amoSmin d a b o s z => some (0x74000182 + place d 21 + place a 16 + place b 11 + place o 4 + place s 2 + place z 0)
  | .amoSmax d a b o s z => some (0x740001C2 + place d 21 + place a 16 + place b 11 + place o 4 + place s 2 + place z 0)
  | .amoUmin d a b o s z => some (0x74000202 + place d 21 + place a 16 + place b 11 + place o 4 + place s 2 + place z 0)
  | .amoUmax d a b o s z => some (0x74000242 + place d 21 + place a 16 + place b 11 + place o 4 + place s 2 + place z 0)
  | .amoFadd d a b o s => some (0x74000282 + place d 21 + place a 16 + place b 11 + place o 4 + place s 2)
  | .fence s => some (0x78000000 + place s 2)
  | .fenceAcq s => some (0x78000001 + place s 2)
  | .fenceRel s => some (0x78000002 + place s 2)
  | .beqz a o => some (0x80000000 + place a 16 + place o 0)
  | .bnez a o => some (0x80200000 + place a 16 + place o 0)
  | .bltz a o => some (0x80400000 + place a 16 + place o 0)
  | .bgez a o => some (0x80600000 + place a 16 + place o 0)
  | .bgtz a o => some (0x80800000 + place a 16 + place o 0)
  | .blez a o => some (0x80A00000 + place a 16 + place o 0)
  | .br o => some (0x80C00000 + place o 0)
  | .bodd a o => some (0x80E00000 + place a 16 + place o 0)
  | .bevn a o => some (0x81000000 + place a 16 + place o 0)
  | .bemp a o => some (0x81200000 + place a 16 + place o 0)
  | .bful a o => some (0x81400000 + place a 16 + place o 0)
  | .jmp o => some (0x84000000 + place o 0)
  | .call o => some (0x88000000 + place o 0)
  | .jr a => some (0x8C000000 + place a 16)
  | .callr a => some (0x8C000001 + place a 16)
  | .ret => some (0x8C000002)
  | .rep a L => some (0x90000000 + place a 16 + place L 0)
  | .reps a L => some (0x90200000 + place a 16 + place L 0)
  | .vadd d a b t m z => some (0x94000000 + place d 21 + place a 16 + place b 11 + place t 4 + place m 1 + place z 0)
  | .vsub d a b t m z => some (0x94000080 + place d 21 + place a 16 + place b 11 + place t 4 + place m 1 + place z 0)
  | .vadds d a b t m z => some (0x94000100 + place d 21 + place a 16 + place b 11 + place t 4 + place m 1 + place z 0)
  | .vsubs d a b t m z => some (0x94000180 + place d 21 + place a 16 + place b 11 + place t 4 + place m 1 + place z 0)
  | .vmul d a b t m z => some (0x94000200 + place d 21 + place a 16 + place b 11 + place t 4 + place m 1 + place z 0)
  | .vmulh d a b t m z => some (0x94000280 + place d 21 + place a 16 + place b 11 + place t 4 + place m 1 + place z 0)
  | .vmin d a b t m z => some (0x94000300 + place d 21 + place a 16 + place b 11 + place t 4 + place m 1 + place z 0)
  | .vmax d a b t m z => some (0x94000380 + place d 21 + place a 16 + place b 11 + place t 4 + place m 1 + place z 0)
  | .vand d a b t m z => some (0x94000400 + place d 21 + place a 16 + place b 11 + place t 4 + place m 1 + place z 0)
  | .vor d a b t m z => some (0x94000480 + place d 21 + place a 16 + place b 11 + place t 4 + place m 1 + place z 0)
  | .vxor d a b t m z => some (0x94000500 + place d 21 + place a 16 + place b 11 + place t 4 + place m 1 + place z 0)
  | .vandn d a b t m z => some (0x94000580 + place d 21 + place a 16 + place b 11 + place t 4 + place m 1 + place z 0)
  | .vshl d a b t m z => some (0x94000600 + place d 21 + place a 16 + place b 11 + place t 4 + place m 1 + place z 0)
  | .vshr d a b t m z => some (0x94000680 + place d 21 + place a 16 + place b 11 + place t 4 + place m 1 + place z 0)
  | .vabs d a t m z => some (0x94000700 + place d 21 + place a 16 + place t 4 + place m 1 + place z 0)
  | .vsplat d a t m z => some (0x94000780 + place d 21 + place a 16 + place t 4 + place m 1 + place z 0)
  | .vaddFp d a b t m z => some (0x98000000 + place d 21 + place a 16 + place b 11 + place t 4 + place m 1 + place z 0)
  | .vsubFp d a b t m z => some (0x98000080 + place d 21 + place a 16 + place b 11 + place t 4 + place m 1 + place z 0)
  | .vmulFp d a b t m z => some (0x98000100 + place d 21 + place a 16 + place b 11 + place t 4 + place m 1 + place z 0)
  | .vfma d a b t m z => some (0x98000180 + place d 21 + place a 16 + place b 11 + place t 4 + place m 1 + place z 0)
  | .vdiv d a b t m z => some (0x98000200 + place d 21 + place a 16 + place b 11 + place t 4 + place m 1 + place z 0)
  | .vsqrt d a t m z => some (0x98000280 + place d 21 + place a 16 + place t 4 + place m 1 + place z 0)
  | .vminFp d a b t m z => some (0x98000300 + place d 21 + place a 16 + place b 11 + place t 4 + place m 1 + place z 0)
  | .vmaxFp d a b t m z => some (0x98000380 + place d 21 + place a 16 + place b 11 + place t 4 + place m 1 + place z 0)
  | .vabsFp d a t m z => some (0x98000400 + place d 21 + place a 16 + place t 4 + place m 1 + place z 0)
  | .vneg d a t m z => some (0x98000480 + place d 21 + place a 16 + place t 4 + place m 1 + place z 0)
  | .vcvt d a k q m z => some (0x9C000000 + place d 21 + place a 16 + place k 6 + place q 4 + place m 1 + place z 0)
  | .vperm d a b w m z => some (0xA0000000 + place d 21 + place a 16 + place b 11 + place w 4 + place m 1 + place z 0)
  | .vcmprs d a w m => some (0xA0000080 + place d 21 + place a 16 + place w 4 + place m 1)
  | .vexpnd d a w m z => some (0xA0000100 + place d 21 + place a 16 + place w 4 + place m 1 + place z 0)
  | .vslup d a b w m z => some (0xA0000180 + place d 21 + place a 16 + place b 11 + place w 4 + place m 1 + place z 0)
  | .vsldn d a b w m z => some (0xA0000200 + place d 21 + place a 16 + place b 11 + place w 4 + place m 1 + place z 0)
  | .vbcst d a b w m z => some (0xA0000280 + place d 21 + place a 16 + place b 11 + place w 4 + place m 1 + place z 0)
  | .vext d a b w => some (0xA0000300 + place d 21 + place a 16 + place b 11 + place w 4)
  | .vins d a b w => some (0xA0000380 + place d 21 + place a 16 + place b 11 + place w 4)
  | .viota d w m z => some (0xA0000400 + place d 21 + place w 4 + place m 1 + place z 0)
  | .vraddInt d a t m => some (0xA4000000 + place d 21 + place a 16 + place t 4 + place m 1)
  | .vrminInt d a t m => some (0xA4000080 + place d 21 + place a 16 + place t 4 + place m 1)
  | .vrmaxInt d a t m => some (0xA4000100 + place d 21 + place a 16 + place t 4 + place m 1)
  | .vraddFp d a t m => some (0xA4000200 + place d 21 + place a 16 + place t 4 + place m 1)
  | .vrminFp d a t m => some (0xA4000280 + place d 21 + place a 16 + place t 4 + place m 1)
  | .vrmaxFp d a t m => some (0xA4000300 + place d 21 + place a 16 + place t 4 + place m 1)
  | .vrssq d a t m => some (0xA4000380 + place d 21 + place a 16 + place t 4 + place m 1)
  | .vrcp d a t m z => some (0xA8000000 + place d 21 + place a 16 + place t 4 + place m 1 + place z 0)
  | .vrsqrt d a t m z => some (0xA8000080 + place d 21 + place a 16 + place t 4 + place m 1 + place z 0)
  | .vexp2 d a t m z => some (0xA8000100 + place d 21 + place a 16 + place t 4 + place m 1 + place z 0)
  | .vlog2 d a t m z => some (0xA8000180 + place d 21 + place a 16 + place t 4 + place m 1 + place z 0)
  | .vexp d a t m z => some (0xA8000200 + place d 21 + place a 16 + place t 4 + place m 1 + place z 0)
  | .vlog d a t m z => some (0xA8000280 + place d 21 + place a 16 + place t 4 + place m 1 + place z 0)
  | .vtanh d a t m z => some (0xA8000300 + place d 21 + place a 16 + place t 4 + place m 1 + place z 0)
  | .vsigm d a t m z => some (0xA8000380 + place d 21 + place a 16 + place t 4 + place m 1 + place z 0)
  | .vpmrg d a b m z => some (0xA8000400 + place d 21 + place a 16 + place b 11 + place m 1 + place z 0)
  | .vpmrge d a b m z => some (0xA8000480 + place d 21 + place a 16 + place b 11 + place m 1 + place z 0)
  | .vcmpeq d a b t m z => some (0xAC000000 + place d 21 + place a 16 + place b 11 + place t 4 + place m 1 + place z 0)
  | .vcmpne d a b t m z => some (0xAC000100 + place d 21 + place a 16 + place b 11 + place t 4 + place m 1 + place z 0)
  | .vcmplt d a b t m z => some (0xAC000200 + place d 21 + place a 16 + place b 11 + place t 4 + place m 1 + place z 0)
  | .vcmple d a b t m z => some (0xAC000300 + place d 21 + place a 16 + place b 11 + place t 4 + place m 1 + place z 0)
  | .vcmpgt d a b t m z => some (0xAC000400 + place d 21 + place a 16 + place b 11 + place t 4 + place m 1 + place z 0)
  | .vcmpge d a b t m z => some (0xAC000500 + place d 21 + place a 16 + place b 11 + place t 4 + place m 1 + place z 0)
  | .pand d a b => some (0xAC000700 + place d 21 + place a 16 + place b 11)
  | .por d a b => some (0xAC000710 + place d 21 + place a 16 + place b 11)
  | .pxor d a b => some (0xAC000720 + place d 21 + place a 16 + place b 11)
  | .pandn d a b => some (0xAC000730 + place d 21 + place a 16 + place b 11)
  | .pnot d a => some (0xAC000740 + place d 21 + place a 16)
  | .pmovgp d a => some (0xAC000750 + place d 21 + place a 16)
  | .pmovpg d a => some (0xAC000760 + place d 21 + place a 16)
  | .vpcnt8 d a => some (0xAC000770 + place d 21 + place a 16)
  | .vpcnt16 d a => some (0xAC000780 + place d 21 + place a 16)
  | .vpcnt32 d a => some (0xAC000790 + place d 21 + place a 16)
  | .vpcnt64 d a => some (0xAC0007A0 + place d 21 + place a 16)
  | .vxsectN32 d a b m => some (0xAC0007B0 + place d 21 + place a 16 + place b 11 + place m 1)
  | .vxsectN64 d a b m => some (0xAC0007C0 + place d 21 + place a 16 + place b 11 + place m 1)
  | .send a b f s o => some (0xB0000000 + place a 16 + place b 11 + place f 8 + place s 6 + place o 4)
  | .sendv a b f s o => some (0xB0000001 + place a 16 + place b 11 + place f 8 + place s 6 + place o 4)
  | .reply a b f s o => some (0xB0000002 + place a 16 + place b 11 + place f 8 + place s 6 + place o 4)
  | .pmsg a s o => some (0xB0000003 + place a 16 + place s 6 + place o 4)
  | .pcfg d a => some (0xB4000000 + place d 21 + place a 16)
  | .pbind d a b => some (0xB4000001 + place d 21 + place a 16 + place b 11)
  | .punbind d a => some (0xB4000002 + place d 21 + place a 16)
  | .ppeek d a => some (0xB4000003 + place d 21 + place a 16)
  | .park => some (0xB8000000)
  | .exit => some (0xB8000001)
  | .yield => some (0xB8000002)
  | .spawn d a b => some (0xB8000003 + place d 21 + place a 16 + place b 11)
  | .spawnr d a b h => some (0xB8000004 + place d 21 + place a 16 + place b 11 + place h 4)
  | .migr a => some (0xB8000005 + place a 16)
  | .hoopin d a => some (0xB8000006 + place d 21 + place a 16)
  | .hoopout d => some (0xB8000007 + place d 21)
  | .kill d a => some (0xB8000008 + place d 21 + place a 16)
  | .cinc a s o => some (0xBC000000 + place a 16 + place s 6 + place o 4)
  | .cadd a b s o => some (0xBC000001 + place a 16 + place b 11 + place s 6 + place o 4)
  | .crdc d a s o => some (0xBC000002 + place d 21 + place a 16 + place s 6 + place o 4)
  | .cwatch d a b => some (0xBC000003 + place d 21 + place a 16 + place b 11)
  | .tarm d a b => some (0xC0000000 + place d 21 + place a 16 + place b 11)
  | .tdone d a s o => some (0xC0000001 + place d 21 + place a 16 + place s 6 + place o 4)
  | .take d w => some (0xC0000002 + place d 21 + place w 8)
  | .steal d => some (0xC0000003 + place d 21)
  | .tdisarm d a => some (0xC0000004 + place d 21 + place a 16)
  | .cpy d a l s o => some (0xC4000000 + place d 21 + place a 16 + place l 8 + place s 6 + place o 4)
  | .cpym d a b l s o => some (0xC4000001 + place d 21 + place a 16 + place b 11 + place l 8 + place s 6 + place o 4)
  | .cpyc d a b l s o => some (0xC4000002 + place d 21 + place a 16 + place b 11 + place l 8 + place s 6 + place o 4)
  | .cpbiBlk d a => some (0xC4000003 + place d 21 + place a 16)
  | .cpbiAll d => some (0xC4000203 + place d 21)
  | .cstat d a l => some (0xC4000004 + place d 21 + place a 16 + place l 8)
  | .cstatStop d a l => some (0xC4000204 + place d 21 + place a 16 + place l 8)
  | .scfg d a b => some (0xC800C000 + place d 21 + place a 16 + place b 11)
  | .sclose d b => some (0xC800C001 + place d 21 + place b 11)
  | .sstat d b => some (0xC800C002 + place d 21 + place b 11)
  | .sstatBt d a b s => some (0xC8000012 + place d 21 + place a 16 + place b 11 + place s 6)
  | .sstatBw d a b => some (0xC8000022 + place d 21 + place a 16 + place b 11)
  | .pwld d a b p s o => some (0xCC000000 + place d 21 + place a 16 + place b 11 + place p 8 + place s 6 + place o 4)
  | .pmma d a b p s o => some (0xCC000001 + place d 21 + place a 16 + place b 11 + place p 8 + place s 6 + place o 4)
  | .pstop d a p => some (0xCC000002 + place d 21 + place a 16 + place p 8)
  | .pres d a b p s o => some (0xCC000003 + place d 21 + place a 16 + place b 11 + place p 8 + place s 6 + place o 4)
  | .pstat d a p => some (0xCC000004 + place d 21 + place a 16 + place p 8)
  | .pstatHl d p => some (0xCC000404 + place d 21 + place p 8)
  | .cdesc d a b => some (0xD0000000 + place d 21 + place a 16 + place b 11)
  | .cld d a s o => some (0xD0000001 + place d 21 + place a 16 + place s 6 + place o 4)
  | .cldG d a s o => some (0xD0000101 + place d 21 + place a 16 + place s 6 + place o 4)
  | .cstg d a b s o => some (0xD0000002 + place d 21 + place a 16 + place b 11 + place s 6 + place o 4)
  | .cstgG d a b s o => some (0xD0000102 + place d 21 + place a 16 + place b 11 + place s 6 + place o 4)
  | .cfnc d s => some (0xD0000003 + place d 21 + place s 6)
  | .clean d a l u => some (0xD4000000 + place d 21 + place a 16 + place l 6 + place u 4)
  | .inval d a c l u => some (0xD4000001 + place d 21 + place a 16 + place c 8 + place l 6 + place u 4)
  | .pref a t u => some (0xD4000002 + place a 16 + place t 6 + place u 4)
  | .orient d a o => some (0xD4000003 + place d 21 + place a 16 + place o 4)
  | .dedupqSec d a => some (0xD4000004 + place d 21 + place a 16)
  | .dedupqCnt d a => some (0xD4000014 + place d 21 + place a 16)
  | .tlbi d a b k => some (0xD8000000 + place d 21 + place a 16 + place b 11 + place k 4)
  | .vflip d a => some (0xD8000001 + place d 21 + place a 16)
  | .vflipc d a b => some (0xD8000002 + place d 21 + place a 16 + place b 11)
  | .vpin d a => some (0xD8000003 + place d 21 + place a 16)
  | .vrd d s w => some (0xD8000004 + place d 21 + place s 6 + place w 4)
  | .nop => some (0xDC000000)
  | .trap c => some (0xDC001000 + place c 0)
  | .eret => some (0xDC002000)
  | .crd d i => some (0xDC003000 + place d 21 + place i 0)
  | .cwr a i => some (0xDC004000 + place a 16 + place i 0)
  | .snap d => some (0xDC005000 + place d 21)
  | .erd d a => some (0xDC006000 + place d 21 + place a 16)
  | .gate => some (0xDC007000)
  | .hImm p => some (0xFC000000 + place p 0)
  | .hSched l o => some (0xFC800000 + place l 21 + place o 19)
  | .hMod r n => some (0xFD000000 + place r 20 + place n 19)
  | .cspDataRead _ => none
  | .cspDataWrite _ => none
  | .ebudWrite _ => none
  | .aclr _ => none
  | .eclr _ => none
  | .go _ => none
  | .quiescence _ _ => none
  | .quiesced _ => none
  | .hashChange _ => none
  | .pcmaskWrite _ _ _ _ => none
  | .caveRcfgWrite _ _ _ => none
  | .snapshotRelease _ => none
  | .launchWrite _ _ => none
  | .headWrite _ _ => none
  | .registerWrite _ _ => none
  | .coldReset _ _ => none
  | .powerGood _ => none
  | .snapshotPin => none
  | .snapshotLatch _ => none
  | .thermalThrottle _ _ => none
  | .cxlMemAccess _ _ _ _ => none
  | .launchRetry _ => none
  | .launchAdmission _ => none
  | .startMessageResend _ => none
  | .launchEnd _ => none
  | .completionResend _ => none
  | .messageArrival _ => none
  | .patternFiring _ => none
  | .fill _ => none
  | .acknowledgement _ => none
  | .deferredTrap _ => none
  | .remoteWordAccess _ => none
  | .pageWalk _ _ _ _ => none
  | .codePageScan _ _ => none
  | .arrivalPacket _ => none
  | .migration _ _ => none
  | .roamingSeat _ _ => none
  | .schedulerSelection _ => none
  | .preemption _ => none
  | .energyReport _ => none
  | .demotion _ => none
  | .gatedEntry _ => none
  | .counterPost _ => none
  | .watchRequest _ => none
  | .bitmapWatchRequest _ => none
  | .watchResend _ _ => none
  | .hardwareResend _ => none
  | .donePost _ => none
  | .rackPlacement _ => none
  | .ladleAccept _ _ _ => none
  | .chunkComplete _ _ _ _ => none
  | .ladleCompletion _ _ _ => none
  | .followOnResend _ _ _ => none
  | .streamRefill _ _ => none
  | .streamDrain _ _ => none
  | .pressAccept _ _ => none
  | .bankLoad _ _ => none
  | .kBlock _ _ _ => none
  | .pressCompletion _ _ => none
  | .harpAccept _ => none
  | .sliceRequest _ _ _ => none
  | .harpCompletion _ _ => none
  | .caveHash _ => none
  | .patrolScrub _ _ => none
  | .channelCopyComplete _ => none
  | .cavePatrol _ _ _ _ => none
  | .laneDrop _ => none
  | .coreRetirement _ _ => none
  | .spareRun _ => none
  | .snapshotRequest _ => none
  | .timestamp _ => none
  | .routeUpdate _ _ _ => none
  | .eventRead _ _ => none
  | .mgmtSnapshot _ => none
  | .mgmtRelease _ => none
  | .powerQuery => none
  | .rindReset _ => none
  | .attestation _ => none
  | .flitReplay _ _ => none
  | .cxlCacheSnoop _ _ _ => none
  | .hostLinkRecovery => none
  | .pldmFirmwareUpdate _ _ => none
  | .pldmMonitoring => none

/-- The word as 32 bits. -/
def encode (i : Instr) : Option Word := (encodeNat i).map (BitVec.ofNat 32)

end Sys2Proof
end

