-- ==== Sys2Proof/Config.lean ====
section
/-!
DEFINITION. What one part fixes and what the spec leaves open: the free values (opaque constants, applied to
the step counter State.tick so that each use has a value of its own) and the choice of which agent moves next.
-/

namespace Sys2Proof

/-- A physical fault that strikes the part: the spec describes what follows from it (R86, R141, R389), not
when it comes. -/
inductive Strike where
  /-- The 64-byte half of storage at this place (R70; of the Whey tier, the address) div 64 no longer corrects. -/
  | memory (half : Nat)
  /-- Reads of such a half are corrected until it is written again. -/
  | soft (half : Nat)
  /-- The 8-byte group of a scratchpad at this local address div 8 no longer corrects (R164). -/
  | pad (group : Nat)
  /-- An 8-byte group (0 to 15) of a line of a core's L1, of a cluster's L2, or of a core's instruction cache no longer
  corrects (R141). -/
  | l1 (core line group : Nat)
  | l2 (cluster line group : Nat)
  | code (core line group : Nat)
  /-- A 32-byte row (0 to 31) of a data entry of a die's Cave slice no longer corrects. -/
  | cave (die entry row : Nat)
  /-- A register of a context no longer corrects: g(i) as i, v(i) as 32 + i, p(i) as 64 + i, loop.cnt, loop.end and
  loop.len as 72, 73 and 74. -/
  | register (ctx reg : Nat)
  /-- A register of a context had one bit corrected (core.hlth.ce of R389). -/
  | corrected (ctx : Nat)
deriving DecidableEq, Repr, Inhabited

/-- What the host, the Starter, the management client and a neighbour on the Kealia link do that no row of the opcode table
names: the host reads a dword of a launch-port page (R409), the Starter accesses an aligned dword of memory (R437), or a
management command byte comes that R421 does not list. -/
inductive Outside where
  | pageRead (rind offset : Nat)
  | starterMem (write : Bool) (addr : Nat) (data : BitVec 64)
  | mgmtUnknown
  /-- Command 0x04 with its Rind mask (R421). -/
  | powerQuery (mask : BitVec 16)
  /-- The Starter reads a control-space register (R66). -/
  | starterControl (addr : Nat)
  /-- A flit with this header reaches a Kealia port (R412): what it acknowledges, and the credits that it returns. -/
  | flit (port : Nat) (hdr : BitVec 128)
  /-- A packet of the management channel reaches a port (R413, R414). -/
  | management (port : Nat) (hdr : BitVec 128) (body : BitVec 640)
deriving DecidableEq, Repr, Inhabited

/-- Which agent makes the next indivisible step: a core issues one instruction of its running context, an
event row of the opcode table happens, a physical fault strikes, or the host or the Starter acts. -/
inductive Turn where
  | issue (core : Nat)
  | event (i : Instr)
  | strike (d : Strike)
  | outside (a : Outside)
deriving DecidableEq, Repr

/-- Turns are inhabited, so that the schedule below can be opaque. -/
def Turn.first : Turn := .issue 0

/-- Which agent moves at a given step: the spec leaves every interleaving open (R423). FREE. -/
opaque Config.schedule : Nat → Option Turn

/-- Cycles that pass in one step beyond the first: the spec gives no latencies. FREE. -/
opaque Config.elapsed : Nat → Nat

/-- Nanoseconds by which the domain timestamp advances in one step (R395). FREE. -/
opaque Config.nanoseconds : Nat → Nat

/-- A free choice among n things (a victim, an order): Config.choice tag tick mod n. FREE. -/
opaque Config.choice : Nat → Nat → Nat

/-- A free 512-bit value for a result that the spec leaves open. FREE. -/
opaque Config.freeVec : Nat → Nat → BitVec 512

/-- The identity and the alias key pair that are derived from the fused secret, the alias with slot 1 (R419): the spec does not
give the derivation. FREE. -/
opaque Config.identityKey : BitVec 256 → BitVec 256
opaque Config.aliasKey : BitVec 256 → BitVec 512 → BitVec 256

/-- The CRC-32 and the parity of a Kealia flit's bytes (R412): the spec names no polynomial. FREE. -/
opaque Config.flitCrc : BitVec 1920 → BitVec 32
opaque Config.flitParity : BitVec 1952 → BitVec 96

/-- The power in mW and the temperature in 0.1 °C that command 0x04 reports (R421). FREE. -/
opaque Config.powerReading : Nat → BitVec 64

end Sys2Proof
end

