-- ==== Sys2Proof/Machine/Tab.lean ====
section
/-!
DEFINITION. Sparse tables: a list of keyed entries with the keys strictly rising. An unlisted key reads as the
default that the reader names.
-/

namespace Sys2Proof

/-- A sparse table by number. -/
abbrev Tab (α : Type) := List (Nat × α)

/-- The entry of a key, if it is listed. -/
def tfind {α : Type} : Tab α → Nat → Option α
  | [], _ => none
  | (k, v) :: t, j => if k = j then some v else tfind t j

/-- The entry of a key, or the default. -/
def tget {α : Type} (d : α) (t : Tab α) (j : Nat) : α := (tfind t j).getD d

/-- Enter a value under a key, in place of the old one. -/
def tput {α : Type} : Tab α → Nat → α → Tab α
  | [], j, v => [(j, v)]
  | (k, w) :: t, j, v =>
    if j < k then (j, v) :: (k, w) :: t
    else if j = k then (j, v) :: t
    else (k, w) :: tput t j v

/-- Remove a key. -/
def tdel {α : Type} (t : Tab α) (j : Nat) : Tab α := t.filter (fun e => e.1 != j)

/-- Remove every key that fails a test. -/
def tkeep {α : Type} (t : Tab α) (f : Nat → α → Bool) : Tab α := t.filter (fun e => f e.1 e.2)

/-- The table lists its keys in strictly rising order. -/
def tsorted {α : Type} : Tab α → Bool
  | [] => true
  | [_] => true
  | (k, _) :: (j, w) :: t => decide (k < j) && tsorted ((j, w) :: t)

end Sys2Proof
end

