-- ==== Sys2Proof/Machine/State.lean ====
section
/-!
DEFINITION. The state of one HZ-4 package as plain data, the reasons a step can stop, and the state after cold
reset.

Units are numbered: a cluster is 64 × die + 8 × y + x (R12), a core is 8 × cluster + its number in the
cluster, a context key is 256 × core + st.ctx (seated 0 to 15, arrival-queue slot s as 128 + s).
Registers are numbered as R40 does: g(i) as i, v(i) as 32 + i; p(i) is 64 + i.
-/

namespace Sys2Proof.Machine

/-- Why the machine stops with a fault. No step of this model does: every trap of the spec is taken as a
next state. -/
inductive Fault where
  /-- Raised by nothing; the type needs one name. Safe. -/
  | none
deriving DecidableEq, Repr

/-- Why a step has no meaning. -/
inductive Refusal where
  /-- An instruction of the opcode table whose meaning has not been written; raised by Dispatch. Safe. -/
  | notModelled (mnemonic : String)
deriving DecidableEq, Repr

/-- What a waiting context waits for (R19). -/
inductive Wait where
  /-- Parked on an empty register, numbered as in R40 (R42). -/
  | register (r : Nat)
  /-- A block read of another node is under way (R167). -/
  | block
  /-- Four sends are unacknowledged (R341). -/
  | acks
  /-- A simple PARK (R254). -/
  | park
  /-- GATE (R253). -/
  | gate
  /-- A TAKE with w = 1, for its result register (R369). -/
  | take (r : Nat)
  /-- A roaming context that met a trap cause and waits for a seat (R385). -/
  | seat
  /-- A roaming context that migrates at this address once its accesses are performed (R117, R352). -/
  | migrate
deriving DecidableEq, Repr

/-- The four states of a context (R19). -/
inductive Activity where
  | dormant
  | runnable
  | running
  | waiting (w : Wait)
deriving DecidableEq, Repr

/-- What a trap entry records (R378, R379): the code and acc of ecause, eaddr, the frame. -/
structure TrapRec where
  code  : Nat
  acc   : Nat := 0
  eaddr : Dword := 0
  /-- A deferred trap (ecause.def). -/
  deferred : Bool := false
  /-- tf.info without its fe bits. -/
  info  : Dword := 0
  /-- tf.d0 to tf.d7. -/
  frame : List Dword := []
  /-- The resume address of a trap that waits for a seat (R385). -/
  resume : Dword := 0
deriving DecidableEq, Repr

/-- The selection record of a runnable context (R370). -/
structure SelRec where
  arrival : Nat := 0
  port    : Nat := 64
  hit     : Bool := true
  bypass  : Nat := 0
deriving DecidableEq, Repr

/-- A predictor update still owed (R118): the counter, and the home of the remote access (of a migration, the core
that it led to). -/
structure Predict where
  core  : Nat
  index : Nat
  home  : Nat
deriving DecidableEq, Repr

/-- What travels with a context as it migrates: how often the instruction at its pc has migrated (R117), and the
predictor updates still owed for a remote access and for the migrations of one instruction (R118). -/
structure Trail where
  moves : Nat := 0
  predict : Option Predict := none
  moved : List Predict := []
deriving DecidableEq, Repr

/-- The result of a VLDU or VGATH with remote parts, collected until every part has returned (R123, R124). -/
structure Collect where
  val  : Vec
  left : Nat
  err  : Option TrapRec
  /-- A refused part: the register becomes full with its old value. -/
  refused : Bool
deriving DecidableEq, Repr

/-- The answer to a block read of another node: the address, the error of R413 or 0, and the bytes. -/
structure Got where
  pa  : Nat
  err : Nat
  val : Vec
deriving DecidableEq, Repr

/-- Who makes an access: the Rind, address space and mode that R99 consults, the core that issued it, the launch whose
versions select twin frames, whether an engine translates through the L2 TLB only (R101), and the context itself when
the access is its own. -/
structure Req where
  rind : Nat
  asid : Nat
  root : Nat
  user : Bool
  core : Nat
  launch : Option Nat
  engine : Bool
  who : Option Nat := none
deriving DecidableEq, Repr

/-- What a walk comes to (R91, R102): a cause code; the leaf with its page shift and the address of its slot; a slot of
another node whose bytes have not come, by its level and its table; or a slot that a store of the same context must
reach first (R402). -/
inductive Walk where
  | fault (code : Nat)
  | leaf (entry : Dword) (comp : BitVec 128) (shift slot : Nat)
  | away (level table : Nat)
  | wait
deriving DecidableEq, Repr

/-- How far a walk has come: at a level of a table, with what another node answered for that slot (error of R413 or 0,
and 64 bytes); or at the first touch of a leaf whose slot another node holds (R96). -/
inductive WalkPhase where
  | reading (level table : Nat) (asked : Bool) (ans : Option (Nat × Vec))
  | touching (entry : Dword) (comp : BitVec 128) (shift slot : Nat) (ans : Option (Nat × Vec))
deriving DecidableEq, Repr

/-- A walk that is queued or carried by a walker (R102): its requester and access, and the contexts that wait for it. -/
structure WalkJob where
  id   : Nat
  req  : Req
  va   : Dword
  acc  : AccKind
  waiters : List Nat
  phase : WalkPhase
deriving DecidableEq, Repr

/-- One context: the registers of R34, R39, R246, R259, R331, R378 and what the core keeps with it. -/
structure Ctx where
  /-- g1 to g31; unlisted registers hold 0. -/
  g : Tab Dword := []
  v : Tab Vec := []
  p : Tab Dword := []
  /-- Registers that are empty (R40); unlisted registers are full. -/
  empty : Tab Bool := []
  pc : Dword := 0
  st : Dword := 0
  fepol : Dword := 0
  tsv1 : Dword := 0
  tsv2 : Dword := 0
  epc : Dword := 0
  ecause : Dword := 0
  eaddr : Dword := 0
  eseq : Dword := 0
  est : Dword := 0
  tfInfo : Dword := 0x30
  tfd : Tab Dword := []
  tarea : Dword := 0
  loopCnt : Dword := 0
  loopEnd : Dword := 0
  loopLen : Dword := 0
  cspAddr : Dword := 0
  hoop : Dword := 0
  /-- The hint that has issued before its target, and the address of its word (R53). -/
  hint : Option (Dword × Instr) := none
  act : Activity := .dormant
  /-- Error records against registers (R120, R312). -/
  errs : Tab TrapRec := []
  /-- Error records that moved to tsv1 and tsv2 (R379). -/
  errTsv1 : Option TrapRec := none
  errTsv2 : Option TrapRec := none
  /-- Refusals queued, oldest first (R343, R167), with the cycle of the acknowledgement (R382). -/
  deferred : List (Nat × TrapRec) := []
  /-- The trap of a roaming context that waits for a seat (R385). -/
  pending : Option TrapRec := none
  /-- Sends not yet acknowledged (R341). -/
  unacked : Nat := 0
  /-- Slots of the arrival frame held (R338). -/
  frames : List Nat := []
  sel : SelRec := {}
  /-- The cycle of its selection (R386). -/
  selected : Nat := 0
  /-- The launch that claims a seated context or owns a roaming one (R359). -/
  launch : Option Nat := none
  /-- Results of VLDU and VGATH whose remote parts have not all returned, by register. -/
  collect : Tab Collect := []
  trail : Trail := {}
  /-- The block reads of the instruction at pc that another node has answered (R167). -/
  got : List Got := []
  /-- The core that a pending migration leads to, with its node as 2,048 × node + core, and whether the pc has moved on
  (MIGR, R352). -/
  migrTo : Option (Nat × Bool) := none
  /-- Walks for the instruction at pc that installed nothing, by 64 KiB page: it takes their faults (R102). -/
  walked : List (Nat × Walk) := []
  /-- The pages whose walks the instruction at pc waits for. -/
  asks : List Nat := []
deriving DecidableEq, Repr

/-- A launch record on one core (R92, R331, R362, R378). -/
structure LRec where
  root  : Dword := 0
  asid  : Dword := 0
  spill : Dword := 0
  tvec  : Dword := 0
  sbase : Dword := 0
deriving DecidableEq, Repr

/-- One core (R13). -/
structure Core where
  running : Option Nat := none
  /-- The fetch block in execution (R27, R111): its address and its eight words. -/
  block : Option (Dword × List Word) := none
  /-- How many more instructions of it may execute, once a TLBI has removed its page (R111). -/
  left : Option Nat := none
  /-- Misses held while the cluster's walk queue is full: at most four (R102). -/
  misses : List WalkJob := []
  /-- 64-byte pieces of code of other nodes, by address div 64: error of R413 or 0, and the bytes; and those asked for. -/
  code : Tab (Nat × Vec) := []
  asked : List Nat := []
  win : Tab Dword := []
  wakes : Nat := 0
  gateState : Nat := 0
  ce : Nat := 0
  ue : Nat := 0
  off : Bool := false
  sp : Bool := false
  /-- Cycles of the last uncorrectable register errors (R389). -/
  regErrs : List Nat := []
  /-- Retired, and the spare does not run yet (R390). -/
  takeover : Bool := false
  /-- Contexts killed by the retirement, for the event that SPARE_RUN logs. -/
  killed : Nat := 0
  nack : Word := 0
  refc : Word := 0
  /-- Fills discarded for a stale generation (R44). -/
  discarded : Nat := 0
  bypass : Nat := 8
  quant : Word := 65536
  predictor : Tab Nat := []
  /-- Arrival-queue slot generations (R45). -/
  slotGen : Tab (BitVec 8) := []
  /-- The spill list, oldest first (R371, R372): launch, entry of the launch's spill area, and what travels along. -/
  spilled : List (Nat × Nat × Trail) := []
  /-- The oldest of them has been asked for at another node. -/
  unspilling : Bool := false
  held : Bool := false
  fmask : Dword := 0
  snapSeq : Word := 0
  snapTs : Dword := 0
  snapSrc : Dword := 0
  miss : Word := 0
  /-- Latched pc and st (R400), by index from 0x810. -/
  snapRegs : Tab Dword := []
  /-- The quiet cycle at which a gating request is committed (R377). -/
  gateAt : Option Nat := none
  /-- The next sequence number of the core's own events (R397). -/
  evSeq : Nat := 0
deriving DecidableEq, Repr

/-- A mailbox port (R332, R346). -/
structure Port where
  en    : Bool := false
  count? : Bool := false
  cap   : Nat := 0
  owner : Option Nat := none
  queue : List Nat := []
  count : Nat := 0
deriving DecidableEq, Repr

/-- A bound pattern (R334): references (port, quota), handler, contexts, priority, owner. -/
structure Pattern where
  refs    : List (Nat × Nat)
  handler : Dword
  cmask   : Nat
  prio    : Nat
  owner   : Option Nat
deriving DecidableEq, Repr

/-- An armed watch (R175, R219). -/
structure Watch where
  /-- A bitmap watch: the physical address of the dword, its virtual address and the mask. -/
  bitmap : Option (Nat × Dword × Dword)
  counter : Nat
  target : Word
  name   : Dword
  port   : Word
  rind   : Nat
  /-- The message that waits to be accepted, once the watch has fired. -/
  fired  : Option (BitVec 512)
  /-- The message is in flight. -/
  sent   : Bool
  /-- The cycle before which a refused message is not sent again. -/
  after  : Nat := 0
deriving DecidableEq, Repr

/-- The states of an arming entry (R365); Taken lasts for no step of its own. -/
inductive ArmState where
  | free | armed | ready
deriving DecidableEq, Repr

/-- An arming entry (R365, R366, R368). -/
structure Arm where
  state : ArmState := .free
  owner : Nat := 0
  count : Nat := 0
  quota : Nat := 0
  pcls  : Nat := 0
  probe : Dword := 0
  block : Dword := 0
  readyAt : Nat := 0
  onRack : Bool := false
deriving DecidableEq, Repr

/-- A TLB entry (R101): tag, the level's page shift, the entry word and the companion word. -/
structure Tlb where
  rind  : Nat
  asid  : Nat
  shift : Nat
  vpage : Nat
  entry : Dword
  comp  : BitVec 128
  fetched : Bool
  /-- The address of the leaf's slot, for the walker's later updates (R100). -/
  slot : Nat
deriving DecidableEq, Repr

/-- A line of an L1 or L2: its replica data, if it is a read-only copy (R15, R155). -/
structure Line where
  replica : Option (BitVec 1024)
  /-- The high half and the low half of a split line; both of any other line (R79). -/
  hi : Bool := true
  lo : Bool := true
  /-- The copy has been written and not yet written back. -/
  dirty : Bool := false
  /-- The 8-byte groups that no longer correct (R141). -/
  bad : List Nat := []
deriving DecidableEq, Repr

/-- A sector tag of a Cave slice (R142). -/
structure Sector where
  rind  : Nat
  way   : Nat
  /-- The valid lines; of a split line, its high half. -/
  valid : BitVec 8
  /-- The same, and of a split line its low half (R79, R144). -/
  validLo : BitVec 8
  col   : Bool
  entry : Nat
  /-- The tick of its last use, for LRU (R144). -/
  used  : Nat
  /-- Every line was filled for a page of kind 0, or for none (R146). -/
  plain : Bool
deriving DecidableEq, Repr

/-- A data entry of a Cave slice (R142); its bucket slot, when the directory holds it (R146). -/
structure CEntry where
  rind : Nat
  rc   : Nat
  hashed : Bool
  hash : Dword
  slot : Option Nat
  /-- The 32-byte rows that no longer correct (R141). -/
  bad : List Nat := []
deriving DecidableEq, Repr

/-- One Cave slice (R142, R143, R162): the counters are kept for each Rind. -/
structure Cave where
  rcfg  : Tab Dword := []
  cerr  : Bool := false
  dbdis : BitVec 24 := 0
  twdis : BitVec 12 := 0
  sectors : Tab Sector := []
  entries : Tab CEntry := []
  queue : List Nat := []
  clock : Tab Nat := []
  /-- Event counters of R162 by 16 × Rind + index. -/
  counts : Tab Nat := []
  /-- Rows that gave corrected errors (R392), with the patrol period plus one. -/
  patrol : Tab Nat := []
  halfClock : Bool := false
  evSeq : Nat := 0
deriving DecidableEq, Repr

/-- A memory controller (R70 to R72, R87, R88, R261). -/
structure Stack where
  pcmask  : Tab Dword := []
  pcstage : Tab Dword := []
  q : Bool := false
  qd : Bool := false
  werr : Bool := false
  hreqDone : Bool := false
  hreqBusy : Bool := false
  acnt : Tab Dword := []
  ce : Nat := 0
  ue : Nat := 0
  rows : Tab Nat := []
  chans : Nat := 0
  /-- The channel whose contents are being copied to a spare (R88). -/
  copying : Option Nat := none
  latched : Tab Dword := []
  /-- Rows that gave corrected errors (R88), with the patrol period plus one. -/
  patrol : Tab Nat := []
  /-- Rows that a spare row serves (R88). -/
  repaired : List Nat := []
  evSeq : Nat := 0
deriving DecidableEq, Repr

/-- An access as it travels to the place where it is performed (R17, R114, R127, R130). -/
inductive AccOp where
  | load | store
  | atomic (op : Nat)
  | hoopIn | hoopOut
deriving DecidableEq, Repr

/-- What becomes of the value that an access returns. -/
inductive Dest where
  | none
  /-- A g register: sign-extended or not (R112). -/
  | g (r : Nat) (signed : Bool)
  | v (r : Nat)
  /-- Bytes at an offset of the collected vector (R123, R124). -/
  | part (r off : Nat)
  /-- The bitmap test of R218. -/
  | bits (r : Nat) (mask : Dword)
  /-- A context that waits for a block read (R167). -/
  | block
deriving DecidableEq, Repr

/-- What R132 consults of one access: page order kind, whether it loads and stores, its flags, and the
physical bytes it touches. -/
structure Ord where
  okind : Nat
  ld : Bool
  st : Bool
  acq : Bool
  rel : Bool
  lo : Nat
  hi : Nat
  /-- The scope (R31), which a packet to another node carries. -/
  scope : Nat := 0
  /-- The bytes are those of the column view from lo on (R150). -/
  col : Bool := false
  /-- The tick of issue: program order among what a context has in flight. -/
  born : Nat := 0
deriving DecidableEq, Repr

/-- One access (R114). -/
structure Access where
  ctx  : Nat
  gen  : BitVec 8
  /-- st.trap of the producer's issue (R330). -/
  inTrap : Bool
  op   : AccOp
  dest : Dest
  n    : Nat
  pa   : Nat
  va   : Dword
  data : Vec
  expect : Dword
  pkind : Nat
  home : Nat
  /-- The view: none as the sector stands, or a forced one (R151). -/
  col  : Option Bool
  nalloc : Bool
  rind : Nat
  launch : Option Nat
  /-- The size code of tf.info. -/
  size : Nat
  /-- The tick of its issue (R106). -/
  born : Nat := 0
deriving DecidableEq, Repr

/-- Where a fill goes: context, its generation at issue, register of R40, and st.trap of the producer's issue
(R330). Register 0 means that nothing is filled. -/
structure Reply where
  ctx  : Nat
  gen  : BitVec 8
  reg  : Nat
  inTrap : Bool
deriving DecidableEq, Repr

/-- A packet in flight inside the package. -/
inductive Packet where
  /-- A fill (R330). -/
  | fill (r : Reply) (val : Vec)
  /-- The fill of a CDESC or of a cache instruction, which is performed with it (R157, R320). -/
  | descFill (r : Reply) (val : Dword)
  /-- The fill of a TAKE or STEAL: the block address and the task's probe address (R369, R370). -/
  | task (r : Reply) (block probe : Dword)
  /-- A reply that carries an error record in place of data (R120, R312). -/
  | error (r : Reply) (e : TrapRec)
  /-- A refused load: the register becomes full with its old value, and the refusal is queued at once, unless the
  acknowledgements of the parts have brought it (R167). -/
  | refill (r : Reply) (t : Option TrapRec)
  /-- An acknowledgement of a send (dec = true) or of an access, with the refusal it carries (R167, R343). -/
  | ack (ctx : Nat) (gen : BitVec 8) (dec : Bool) (t : Option TrapRec)
  | access (a : Access)
  /-- A message (R328) and who awaits its acknowledgement. -/
  | message (m : BitVec 512)
  /-- A start message or completion that its sender repeats (R359, R361), member-lost, engine completion and
  watch messages are messages too; a resent one carries the cycle before which it is not sent again. -/
  | resend (m : BitVec 512) (after : Nat)
  /-- An engine command (R178, R287, R308): unit key 8 × cluster + engine (Ladle 0 and 1, Press 2 to 5, Harp 6),
  message, gradient body, the issuing launch and where its fill goes. -/
  | command (unit : Nat) (m : BitVec 512) (body : Vec) (launch : Option Nat) (reply : Reply)
  /-- An arrival packet (R330): destination core, the core it comes from, launch, pc, st, g1 to g6, what travels along, and
  the status fill of SPAWNR that follows its placement. -/
  | arrival (core src : Nat) (launch : Nat) (words : List Dword) (trail : Trail) (reply : Option Reply)
  /-- A counter increment (R173). -/
  | post (name : Dword) (addend : Word) (rind : Nat)
  /-- A watch request (R175): counter name, g[b], the fill. -/
  | watch (name : Dword) (arg : Dword) (rind : Nat) (r : Reply)
  /-- A bitmap watch request (R219), with the tick of its issue (R106). -/
  | bitmap (pa : Nat) (va mask : Dword) (port : Word) (home rind : Nat) (r : Reply) (born : Nat)
  /-- A counter read (R174). -/
  | counterRead (name : Dword) (rind : Nat) (r : Reply)
  /-- The done posts of a TDONE to one cluster, in list order (R368, R403), and the TDONE whose status waits for them. -/
  | done (names : List Dword) (launch : Nat) (batch : Nat)
  /-- A TLBI whose fill waits for the accesses of the Rind that were sent before a tick (R106). -/
  | shoot (r : Reply) (rind before : Nat)
  /-- The link's own answer to a request whose node no port leads to (R415): err 3 for the flight that awaits under a tag. -/
  | noRoute (tag : Nat)
  /-- A walker's read or swap of a table slot of another node, for a walk of a cluster (R64, R102). -/
  | walk (cl id : Nat)
  /-- A spilled roaming context of a launch, read back from a spill area on another node (R64, R371): the core, and what travels
  along. -/
  | unspill (core launch : Nat) (trail : Trail)
  /-- A core's read of 64 bytes of code of another node (R64, R137), by address div 64. -/
  | code (core half : Nat)
  /-- HOOPIN or HOOPOUT on a block of another node (R353): its dword has been asked for, or a swap from the value seen. -/
  | hoopStep (a : Access) (seen : Option Dword)
  /-- A member-lost message whose port the Hoop block has still to give (R354): the requester, the block, the message
  without its port, whether the member leaves, and the block's address once another node has been asked for it. -/
  | lost (r : Req) (va : Dword) (m : BitVec 512) (leave : Bool) (pa : Option Nat)
  /-- A PBIND whose block has been read (R347, R356): the core, the issuing launch and mode, g[b], the block and the fill. -/
  | bind (core : Nat) (launch : Option Nat) (sys : Bool) (index : Dword) (block : BitVec 256) (r : Reply)
  /-- A STEAL on its walk: the clusters that it has still to examine (R369). -/
  | steal (r : Reply) (launch : Nat) (todo : List Nat)
deriving DecidableEq, Repr

/-- A packet with the context that sent it and what R132 consults of it. The sender is none for an engine. -/
structure Flight where
  owner : Option (Nat × BitVec 8)
  ord   : Ord
  body  : Packet
  /-- The launch that it counts for (R360, R405). -/
  launch : Option Nat
  /-- The postings of one engine command carry one number, and go in the order in which they were put in flight (R294); 0 for
  all else. -/
  series : Nat := 0
deriving DecidableEq, Repr

/-- A command in the inbox of an engine (R176, R287, R305): the message, a Harp's gradient body, the issuing launch,
where its fill goes, and the context whose issue is performed at acceptance (R136; none for a follow-on). -/
structure Queued where
  msg    : BitVec 512
  body   : Vec
  launch : Option Nat
  owner  : Option (Nat × BitVec 8)
  ord    : Ord
  reply  : Reply
deriving DecidableEq, Repr

/-- A TDONE whose posts are not all applied (R368). -/
structure Batch where
  left : Nat
  reply : Reply
deriving DecidableEq, Repr

/-- How an engine's command ends: status, failing address, cause, and the progress word. -/
structure Ending where
  status : Nat
  fva   : Dword := 0
  cause : Nat := 0
  prog  : Word := 0
deriving DecidableEq, Repr

/-- A copy in an active place of a Ladle (R176 to R193). -/
structure Copy where
  cmd   : Queued
  block : BitVec 512
  /-- The follow-on block of a CPYC that has not been accepted by its Press (R190). -/
  follow : Option (BitVec 512)
  /-- Pieces of the copy whose words have been moved: chunks of 512 bytes, or blocks for xform 2 (R216, R325). -/
  done  : List Nat
  /-- The pieces among them whose words have only been issued (R187). -/
  late  : List Nat := []
  ending : Option Ending
  stopping : Bool
  /-- The cycle before which the follow-on is not sent again (R190). -/
  retry : Nat := 0
  /-- Order of acceptance at the Ladle. -/
  seq   : Nat := 0
  /-- The parameter block could be read. -/
  known : Bool := true
  /-- The blocks of an expanding copy begun and not yet written whole: each holds a permit (R211). With each, the content
  that it had when it was first read (R214). -/
  places : Tab (List Byte) := []
deriving DecidableEq, Repr

/-- An open stream (R194 to R208). -/
structure Stream where
  ctx  : Nat
  reg  : Nat
  gen  : BitVec 8
  launch : Option Nat
  rind : Nat
  sys  : Bool
  desc : BitVec 512
  /-- Elements popped (read) or pushed (write). -/
  pos  : Nat
  /-- Elements in the ring's past (read) or written to memory (write). -/
  far  : Nat
  /-- Byte enables of the elements pushed and not yet drained, oldest first (R200). -/
  masks : List (BitVec 64)
  /-- The element whose access failed: number, cause, acc, address (R202). -/
  fail : Option (Nat × Nat × Nat × Dword)
  /-- A fill of the register is on its way: it pushes its value in these byte lanes when it arrives (R41, R200). -/
  owed : Option (BitVec 64) := none
  /-- SCLOSEs that wait for the drain: the registers of their status fills, and the bits of R330. -/
  closing : List (Nat × Bool) := []
  /-- The register is in stream mode; its context has not ended (R204). -/
  bound : Bool := true
deriving DecidableEq, Repr

/-- A bank of a Press (R283). -/
structure Bank where
  /-- The logical Press whose buffer its image comes from. -/
  home : Nat
  /-- No PWLD has written a byte of the image since the load. -/
  valid : Bool
  off : Nat
  len : Nat
  fmt : Nat
  k   : Nat
  n   : Nat
  /-- For each column, for each weight block: exponent and mantissas. -/
  cols : List (List (Nat × List Int))
deriving DecidableEq, Repr

/-- The values that a Press has read for a row group, one list per row (R292): the accumulators' start as FP32
encodings, and the activation blocks as exponent and mantissas. -/
structure GroupIn where
  start : List (List Nat)
  rows  : List (List (Nat × List Int))
deriving DecidableEq, Repr

/-- A row group of a running PMMA (R292): its first row, the next K-block, whether it is the first group, what has been
read for it, and its accumulators. -/
structure Group where
  r   : Nat
  kb  : Nat
  first : Bool
  ins : Option GroupIn := none
  acc : List (List Nat) := []
  /-- Its rows have entered the array of the Press that runs it (R284, R374). -/
  inside : Bool := false
deriving DecidableEq, Repr

/-- How far a Press command has come. -/
inductive PressPhase where
  /-- A PWLD that has written this many bytes. -/
  | copy (n : Nat)
  /-- A PMMA whose tile is not chosen yet. -/
  | load
  /-- A PRES that has not looked for its record (R298). -/
  | resume
  | rows (g : Group)
  | ends (e : Ending)
deriving DecidableEq, Repr

/-- A command accepted by a Press and not yet completed (R285, R292). -/
structure PCmd where
  cmd : Queued
  block : BitVec 512
  phase : PressPhase
  stopping : Bool
  /-- The bank that a PMMA uses: 0 or 1; and the tile that it has there. -/
  bank : Nat := 0
  tile : Option Bank := none
  /-- Order of acceptance in the cluster (R285, R296). -/
  seq : Nat := 0
deriving DecidableEq, Repr

/-- A resume record (R298). -/
structure PRec where
  block : BitVec 512
  row : Nat
  kb  : Nat
  asid : Nat
  launch : Option Nat
deriving DecidableEq, Repr

/-- One Press (R281 to R299). The buffer, the commands, the records and mism belong to the logical Press; the banks, last,
ret, spares, served and evSeq to the physical one (R24, R296). -/
structure Press where
  buf  : Tab Byte := []
  bank0 : Option Bank := none
  bank1 : Option Bank := none
  /-- The bank that the most recent PMMA used. Before any the next tile goes to bank 0, as the run after R283 shows. -/
  last : Nat := 1
  cmds : List PCmd := []
  recs : List PRec := []
  mism : Word := 0
  ret  : Bool := false
  spares : Nat := 0
  /-- The physical Press that serves this inbox, when it is not itself. -/
  host : Option Nat := none
  /-- The logical Press whose command was accepted last (R296). -/
  served : Nat := 4
  evSeq : Nat := 0
deriving DecidableEq, Repr

/-- A chain command accepted by its front Harp and not yet completed (R305, R311, R313). -/
structure HCmd where
  cmd   : Queued
  /-- The registered descriptor as it stood at acceptance: the header's dwords and the records'. -/
  desc  : List Dword := []
  asid  : Nat := 0
  digits : List Nat := []
  /-- The elements of the slices read, by factor, as FP32-decodable encodings. -/
  slices : Tab (List Nat) := []
  /-- Factors whose update has been performed. -/
  updated : List Nat := []
  /-- How it ends: the factor and the status of R309. -/
  fail : Option (Nat × Nat) := none
  /-- The leaves of its addresses as they stood at acceptance, by 64 KiB page: entry, companion word, page shift and slot
  (R311). -/
  leaves : Tab (Dword × BitVec 128 × Nat × Nat) := []
  /-- The tick of acceptance (R106). -/
  born : Nat := 0
  /-- A CSTG with rel = 0 whose status has been filled: its updates are accepted (R314). -/
  filled : Bool := false
deriving DecidableEq, Repr

/-- One Harp (R305). -/
structure Harp where
  inbox : List Queued := []
  /-- Descriptor slots: dwords, ASID, launch. -/
  slots : Tab (List Dword × Nat × Option Nat) := []
  /-- Commands accepted, by their order number. -/
  cmds  : Tab HCmd := []
  seq   : Nat := 0
deriving DecidableEq, Repr

/-- A unit of a cluster whose logic must be taken over (R389, R295, R394): a core, or a physical Press. -/
inductive UnitFailure where
  | core (cn : Nat)
  | press (y : Nat)
deriving DecidableEq, Repr

/-- One cluster: its Rind, its engines' inboxes and active work, the arming table and the Rack. -/
structure Cluster where
  rind  : Option Nat := none
  fused : Bool := false
  /-- Inboxes of Ladle 0, 1 and Press 0 to 3 (keys 0 to 5), oldest first. -/
  inbox : Tab (List Queued) := []
  /-- Active places: key 4 × Ladle + place. -/
  copies : Tab Copy := []
  copySeq : Nat := 0
  /-- Block caches (R185) by Ladle: address, Rind, generation, contents. -/
  bcache : Tab (List (Nat × Nat × BitVec 16 × BitVec 512)) := []
  press : Tab Press := []
  harp  : Harp := {}
  arms  : Tab Arm := []
  /-- TAKEs with w = 1 that wait, oldest first, with their launch. -/
  takers : List (Reply × Nat) := []
  drop  : Word := 0
  /-- The walk queue, oldest first; its first 16 walks are carried by the walkers (R102). -/
  walks : List WalkJob := []
  walkSeq : Nat := 0
  /-- Walks for engines that installed nothing: Rind, ASID, 64 KiB page (R102). -/
  walked : List (Nat × Nat × Nat × Walk) := []
  /-- The spare core is in use (R390). -/
  spareUsed : Bool := false
  /-- Failures that wait for the take-over that runs, oldest first (R394). -/
  failures : List UnitFailure := []
  latched : Tab Dword := []
deriving DecidableEq, Repr

/-- A launch that has been admitted and has not ended (R359, R360). -/
structure Launch where
  rind  : Nat
  asid  : Nat
  front : Nat
  block : BitVec 384
  /-- The snapshot table (R103), once taken. -/
  snap  : BitVec 256 := 0
  snapped : Bool := false
  ebud  : Dword := 0
  /-- Energy counted, in 2^−10 nJ; reported: the part that eused shows (R375). -/
  energy : Nat := 0
  reported : Nat := 0
  demoted : Bool := false
  roaming : Nat := 0
  /-- Start messages not yet taken (R359). -/
  starts : Nat := 0
  area : Option Nat := none
deriving DecidableEq, Repr

/-- An entry of an event log (R397): its 256 bits. -/
structure Log where
  head : Word := 0
  tail : Word := 0
  lost : Word := 0
  ents : Tab (BitVec 256) := []
deriving DecidableEq, Repr

/-- The launch-port page and what the host-link unit holds for a Rind (R409, R410). -/
structure HostPage where
  ldrop : Word := 0
  ring  : Dword := 0
  ctl   : Dword := 0
  tail  : Word := 0
  head  : Word := 0
  held  : List (BitVec 512) := []
  /-- The cycle before which the oldest held message is not presented again (R410). -/
  after : Nat := 0
deriving DecidableEq, Repr

/-- A snapshot trigger that is raised and not yet latched: its cycle, the value of snap.src, the timestamp, and
the SNAPs that wait for its number (R399). -/
structure Trigger where
  cycle : Nat
  src : Dword
  ts  : Dword
  waiters : List Reply
deriving DecidableEq, Repr

/-- One Rind (R23, R417). -/
structure Rind where
  live  : BitVec 256 := 0
  twin  : Dword := 0
  blkGen : BitVec 16 := 0
  hwin  : Dword := 0
  page  : HostPage := {}
  peers : Tab Dword := []
  spoolBase : Dword := 0
  spoolCnt  : Dword := 0
  /-- Areas of the pool that are handed out, rising (R373). -/
  areas : List Nat := []
  log   : Log := {}
  /-- The snapshot trigger, if one is raised and not yet latched, and the cycle up to which a trigger joins the last latch
  (R399). -/
  trigger : Option Trigger := none
  joinTo  : Nat := 0
  latches : Word := 0
  held  : Bool := false
  /-- Energy by unit key (R252, R374), in 2^−10 nJ. -/
  energy : Tab Nat := []
  started : Bool := false
deriving DecidableEq, Repr

/-- A Kealia port (R393, R412, R415). -/
structure KPort where
  lanes : Nat := 4
  evSeq : Nat := 0
  /-- Flits sent and not acknowledged, with their sequence numbers and launches (R412). -/
  held  : List (BitVec 16 × FabricPacket × Option Nat) := []
  seq   : BitVec 16 := 0
  /-- The sequence number of the last flit received, which the next flit acknowledges. -/
  rx    : BitVec 16 := 0
  /-- By channel: packets sent, and credits returned by the neighbour (R413). -/
  sent  : Tab Nat := []
  credits : Tab Nat := []
  /-- The bytes of the last flit put on the lanes (R412). -/
  wire  : BitVec 2048 := 0
deriving DecidableEq, Repr

/-- The whole package. -/
structure State where
  /-- Which agent makes the next step. The model's own field (log 1). -/
  turn : Turn := .first
  /-- Steps taken: the argument of the free values. The model's own field (log 1). -/
  tick : Nat := 0
  /-- The core cycle. -/
  cycle : Nat := 0
  /-- The domain timestamp, and by how many nanoseconds, 0 to 2, each die's own is ahead of it (R395). -/
  ts : Dword := 0
  skew : Tab Nat := []
  /-- The context whose instruction executes. The model's own field. -/
  me : Nat := 0
  /-- The node number of the package on the fabric (R12, R64); the spec names no way to set it (log 3). -/
  node : Nat := 0
  /-- The step needs the storage of a quiescent stack, and is held (R71). The model's own field. -/
  stalled : Bool := false
  /-- Stored bytes: HBM by place (R70), Whey tier, scratchpads and host memory by address (R65). -/
  mem : Tab Byte := []
  /-- Bytes written at the Cave slices and not yet in memory. -/
  cav : Tab Byte := []
  /-- Bytes written in L1s and L2s (and the host-line cache) and not yet below them. -/
  top : Tab Byte := []
  /-- Bytes of alias lines that the Cave, and the L1s and L2s, go on holding after a write-back re-quantised what is stored
  (R76). -/
  cavHeld : Tab Byte := []
  topHeld : Tab Byte := []
  ctxs : Tab Ctx := []
  cores : Tab Core := []
  clusters : Tab Cluster := []
  rinds : Tab Rind := []
  launches : Tab Launch := []
  nextLaunch : Nat := 1
  recs : Tab LRec := []
  ports : Tab Port := []
  patterns : Tab Pattern := []
  slots : Tab Bool := []
  counters : Tab Word := []
  watches : Tab Watch := []
  streams : Tab Stream := []
  tlbs : Tab (List Tlb) := []
  l1 : Tab Line := []
  l2 : Tab Line := []
  /-- L1 instruction caches: read-only copies, keyed as the L1s are (R13, R137). -/
  l1i : Tab Line := []
  caves : Tab Cave := []
  ctls : Tab Stack := []
  /-- mc.rmap entries that differ from reset (R67). -/
  rmap : Tab Dword := []
  quarantine : List Nat := []
  /-- Event numbers of the Whey-tier channels (R397). -/
  wheySeq : Tab Nat := []
  /-- Physical defects: units of storage code that no longer correct and units whose reads are corrected (64-byte halves by
  place, 8-byte groups of scratchpads as 2^60 + address div 8), and registers by (context, number). -/
  badMem : List Nat := []
  softMem : List Nat := []
  badReg : List (Nat × Nat) := []
  net : List Flight := []
  batches : Tab Batch := []
  /-- Packets sent to other nodes, oldest first, and the flights that await an answer by tag (R413). -/
  fabOut : List FabricPacket := []
  awaiting : Tab Flight := []
  nextTag : BitVec 16 := 0
  /-- Words answered on the management transports, oldest first (R419 to R421). -/
  mgmtOut : List (BitVec 64) := []
  kports : Tab KPort := []
  /-- Route sets (R415), by 4096 × port + node: the mask. -/
  routes : Tab (BitVec 64) := []
  /-- Lines of host memory in the host-line cache (R407). -/
  hostLines : List Nat := []
  /-- Measurement slots (R418). -/
  slotsM : Tab (BitVec 512) := []
  /-- The digests that the Starter has verified at this boot, in slot order (R418, R419). -/
  verified : List (BitVec 512) := []
  /-- Fused into the package (R418, R419): the monotonic security-version bits, the digest of the public key, and the secret of
  the device identity. -/
  fuseVersion : BitVec 64 := 0
  fuseKey : BitVec 512 := 0
  fuseSecret : BitVec 256 := 0
  recovery : Bool := false
  /-- Energy weights in 2^−10 nJ by event number (R374). -/
  weights : Tab Nat := []
  /-- The Starter's own event log (R396). -/
  starterLog : List (BitVec 256) := []
  /-- MSI-X vectors raised, oldest first (R411). -/
  msix : List Nat := []
  /-- Data returned to the host's CXL.mem reads and its reads of launch-port pages, oldest first (R408, R409). -/
  hostOut : List (BitVec 64) := []
  /-- Data returned to the Starter's reads of memory, oldest first (R437). -/
  starterOut : List (BitVec 64) := []
  /-- The CXL RAS capability reports an uncorrectable error (R408). -/
  rasUe : Bool := false
deriving DecidableEq, Repr

/-- The package right after cold reset: no Rind owns a cluster or a region, every context is dormant, nothing
is cached or in flight (R6, R418, R422). Registers without a reset value hold 0 (log 3). -/
def State.reset : State := {}

end Sys2Proof.Machine
end

