-- ==== Sys2Proof/Machine/Base.lean ====
section
/-!
DEFINITION. Names of units, and the accessors of the parts of State: every read and write of a context, a core,
a cluster, a Rind or a launch goes through these.
-/

namespace Sys2Proof.Machine

/-! ### Unit numbers (R12) -/

/-- The core of a context key. -/
def ctxCore (k : Nat) : Nat := k / 256
/-- st.ctx of a context key. -/
def ctxIdx (k : Nat) : Nat := k % 256
/-- The context key of st.ctx on a core. -/
def ctxKey (core idx : Nat) : Nat := core * 256 + idx
/-- The cluster of a core. -/
def coreCluster (cn : Nat) : Nat := cn / 8
/-- The die of a cluster. -/
def clusterDie (c : Nat) : Nat := c / 64
/-- The x of a cluster. -/
def clusterX (c : Nat) : Nat := c % 8
/-- The y of a cluster. -/
def clusterY (c : Nat) : Nat := c / 8 % 8
/-- The core group of a core (R12). -/
def coreGroup (cn : Nat) : Nat := cn / 64
/-- The cluster of die, x and y. -/
def clusterOf (die x y : Nat) : Nat := 64 * die + 8 * y + x
/-- The 11-bit core field: die, x, y, core (R169, R328). -/
def coreField (cn : Nat) : Nat :=
  let c := coreCluster cn
  clusterDie c * 512 + clusterX c * 64 + clusterY c * 8 + cn % 8
/-- The core that an 11-bit field names. -/
def coreOfField (f : Nat) : Nat := 8 * clusterOf (f / 512 % 4) (f / 64 % 8) (f / 8 % 8) + f % 8

/-! ### Contexts -/

/-- A context as reset leaves it: pcls 7 and its own index in st.ctx (R38; log 3). -/
def Ctx.initial (k : Nat) : Ctx := { st := BitVec.ofNat 64 (ctxIdx k % 256 * 256 + 0xE0) }

/-- The context of a key. -/
def getCtx (s : State) (k : Nat) : Ctx := tget (Ctx.initial k) s.ctxs k
/-- The state with a context replaced. -/
def setCtx (s : State) (k : Nat) (c : Ctx) : State := { s with ctxs := tput s.ctxs k c }
/-- The state with a context changed. -/
def modCtx (s : State) (k : Nat) (f : Ctx → Ctx) : State := setCtx s k (f (getCtx s k))

/-- The core of a number. -/
def getCore (s : State) (cn : Nat) : Core := tget {} s.cores cn
def modCore (s : State) (cn : Nat) (f : Core → Core) : State := { s with cores := tput s.cores cn (f (getCore s cn)) }
/-- The cluster of a number. -/
def getCluster (s : State) (c : Nat) : Cluster := tget {} s.clusters c
def modCluster (s : State) (c : Nat) (f : Cluster → Cluster) : State :=
  { s with clusters := tput s.clusters c (f (getCluster s c)) }
/-- The Rind of a number. -/
def getRind (s : State) (r : Nat) : Rind := tget {} s.rinds r
def modRind (s : State) (r : Nat) (f : Rind → Rind) : State := { s with rinds := tput s.rinds r (f (getRind s r)) }
/-- The Cave slice of a die. -/
def getCave (s : State) (d : Nat) : Cave := tget {} s.caves d
def modCave (s : State) (d : Nat) (f : Cave → Cave) : State := { s with caves := tput s.caves d (f (getCave s d)) }
/-- The controller of a stack. -/
def getStack (s : State) (i : Nat) : Stack := tget {} s.ctls i
def modStack (s : State) (i : Nat) (f : Stack → Stack) : State := { s with ctls := tput s.ctls i (f (getStack s i)) }
/-- A launch that is admitted. -/
def getLaunch (s : State) (l : Nat) : Option Launch := tfind s.launches l
def modLaunch (s : State) (l : Nat) (f : Launch → Launch) : State :=
  match getLaunch s l with
  | none => s
  | some x => { s with launches := tput s.launches l (f x) }
/-- The launch record of a launch on a core (R92). -/
def getRec (s : State) (cn l : Nat) : LRec := tget {} s.recs (l * 2048 + cn)
def modRec (s : State) (cn l : Nat) (f : LRec → LRec) : State :=
  { s with recs := tput s.recs (l * 2048 + cn) (f (getRec s cn l)) }
/-- Whether a core holds the record of a launch (R92, R359). -/
def recHeld (s : State) (cn : Nat) (launch : Option Nat) : Bool :=
  match launch with
  | none => true
  | some l => (tfind s.recs (l * 2048 + cn)).isSome
/-- A port of a core (R332). -/
def getPort (s : State) (cn p : Nat) : Port := tget {} s.ports (cn * 64 + p)
def setPort (s : State) (cn p : Nat) (q : Port) : State := { s with ports := tput s.ports (cn * 64 + p) q }
/-- A mailbox counter (R169). -/
def getCounter (s : State) (cn i : Nat) : Word := tget 0 s.counters (cn * 256 + i)
def setCounter (s : State) (cn i : Nat) (v : Word) : State := { s with counters := tput s.counters (cn * 256 + i) v }

/-! ### Fields of st (R38) -/

def stSys (st : Dword) : Bool := bitAt st 0
def stTrap (st : Dword) : Bool := bitAt st 1
def stRoam (st : Dword) : Bool := bitAt st 2
def stLive (st : Dword) : Bool := bitAt st 3
def stDem (st : Dword) : Bool := bitAt st 4
def stPcls (st : Dword) : Nat := fldN st 5 3
def stCtx (st : Dword) : Nat := fldN st 8 8
def stGen (st : Dword) : BitVec 8 := fld st 32 8
def stRind (st : Dword) : Nat := fldN st 56 4
/-- st with one bit set to a value. -/
def stBit (st : Dword) (i : Nat) (b : Bool) : Dword := putFld st i 1 (BitVec.ofBool b)

/-! ### Registers (R34, R40) -/

/-- g(r); g0 reads as zero (R34). -/
def Ctx.readG (c : Ctx) (r : Nat) : Dword := if r = 0 then 0 else tget 0 c.g r
/-- g(r) written; g0 discards writes (R34). -/
def Ctx.writeG (c : Ctx) (r : Nat) (x : Dword) : Ctx := if r = 0 then c else { c with g := tput c.g r x }
/-- v(r). -/
def Ctx.readV (c : Ctx) (r : Nat) : Vec := tget 0 c.v r
def Ctx.writeV (c : Ctx) (r : Nat) (x : Vec) : Ctx := { c with v := tput c.v r x }
/-- p(r); p0 reads as all ones (R34). -/
def Ctx.readP (c : Ctx) (r : Nat) : Dword := if r = 0 then BitVec.allOnes 64 else tget 0 c.p r
/-- p(r) written; p0 discards writes (R34). -/
def Ctx.writeP (c : Ctx) (r : Nat) (x : Dword) : Ctx := if r = 0 then c else { c with p := tput c.p r x }
/-- Whether a register of R40 is empty; g0 never is. -/
def Ctx.isEmpty (c : Ctx) (r : Nat) : Bool := if r = 0 then false else tget false c.empty r
/-- The register set empty or full; g0 has no bit. -/
def Ctx.setEmpty (c : Ctx) (r : Nat) (e : Bool) : Ctx := if r = 0 then c else { c with empty := tput c.empty r e }
/-- A register of R40 written with a fill's value and set full. -/
def Ctx.fillReg (c : Ctx) (r : Nat) (x : Vec) : Ctx :=
  if r < 32 then (c.writeG r (x.setWidth 64)).setEmpty r false
  else (c.writeV (r - 32) x).setEmpty r false

/-- fmap (R39): bit i is 1 when register i of R40 is full; bit 0 is 0. -/
def Ctx.fmap (c : Ctx) : Dword :=
  BitVec.ofNat 64 ((List.range 64).foldl (fun a r => if r != 0 && !c.isEmpty r then a + 2 ^ r else a) 0)

/-! ### Small shared pieces -/

/-- The Rind that owns a core's cluster. -/
def coreRind (s : State) (cn : Nat) : Option Nat := (getCluster s (coreCluster cn)).rind

/-- The front core of a Rind: core 0 of its lowest-numbered cluster (R358). -/
def frontCore (s : State) (r : Nat) : Option Nat :=
  ((List.range 256).find? (fun c => (getCluster s c).rind == some r)).map (fun c => 8 * c)

/-- The energy event weights (R374) in 2^−10 nJ, nominal and rounded to the nearest unit: running cycle, idle
cycle, vector instruction, Press cycle, 64 bytes moved, HBM granule, Whey granule, Kealia flit. -/
def nominalWeight (e : Nat) : Nat := [113, 31, 61, 307, 41, 2048, 1126, 6144].getD e 0

/-- n events of kind e counted at a unit for a Rind and a launch (R374). -/
def countEnergy (s : State) (unit e n rind : Nat) (launch : Option Nat) : State :=
  let w := tget (nominalWeight e) s.weights e * n
  let s := modRind s rind (fun r => { r with energy := tput r.energy unit (tget 0 r.energy unit + w) })
  match launch with
  | none => s
  | some l => modLaunch s l (fun x => { x with energy := x.energy + w })

/-- Unit keys of the energy counts (R252): kind × 2^12 + number. -/
def unitKey (kind n : Nat) : Nat := kind * 4096 + n

/-- The n-th element of a list removed. -/
def dropNth {α : Type} (l : List α) (n : Nat) : List α := l.take n ++ l.drop (n + 1)

/-! ### Event logs (R396 to R398) -/

/-- The timestamp of a die (R395). -/
def dieTs (s : State) (die : Nat) : Dword := s.ts + BitVec.ofNat 64 (tget 0 s.skew die)

/-- The die of a core. -/
def coreDie (cn : Nat) : Nat := clusterDie (coreCluster cn)

/-- A log entry (R397), with the time of the die that the unit stands on. -/
def logEntry (s : State) (seq skind cluster index code : Nat) (data : Dword) : BitVec 256 :=
  BitVec.ofNat 256 ((dieTs s (clusterDie cluster)).toNat * 2 ^ 192 + seq % 2 ^ 32 * 2 ^ 160 + skind % 16 * 2 ^ 156
    + clusterDie cluster % 4 * 2 ^ 154 + clusterX cluster * 2 ^ 151 + clusterY cluster * 2 ^ 148
    + index % 256 * 2 ^ 140 + code % 256 * 2 ^ 128 + data.toNat)

/-- An entry written to a Rind's log, or counted as lost when 1,024 are unread (R396). -/
def logTo (s : State) (rind : Nat) (e : BitVec 256) : State :=
  modRind s rind (fun r =>
    if (r.log.head - r.log.tail).toNat = 1024 then { r with log := { r.log with lost := r.log.lost + 1 } }
    else { r with log := { r.log with head := r.log.head + 1, ents := tput r.log.ents (r.log.head.toNat % 1024) e } })

/-- An event of a core (source kind 0), logged in its Rind. -/
def logCore (s : State) (cn code : Nat) (data : Dword) : State :=
  let q := (getCore s cn).evSeq
  let e := logEntry s q 0 (coreCluster cn) (cn % 8) code data
  let s := modCore s cn (fun c => { c with evSeq := q + 1 })
  match coreRind s cn with
  | some r => logTo s r e
  | none => { s with starterLog := s.starterLog ++ [e] }

/-- An event of a unit that no core is, logged in the Rinds given, or in the Starter's log when there are none. -/
def logUnit (s : State) (rinds : List Nat) (e : BitVec 256) : State :=
  if rinds.isEmpty then { s with starterLog := s.starterLog ++ [e] } else rinds.foldl (fun s r => logTo s r e) s

end Sys2Proof.Machine
end

