-- ==== Sys2Proof/Machine/Float.lean ====
section
/-!
DEFINITION. Number formats, rounding, overflow and the exact arithmetic under them (R220 to R225).

A floating-point value is decoded to an exact dyadic number; an operation is done exactly, and one rounding
function forms the result.
-/

namespace Sys2Proof.Machine

/-- The exact value of a floating-point encoding (R221). A finite value is (−1)^neg × m × 2^e. -/
inductive Val where
  | nan
  | inf (neg : Bool)
  | fin (neg : Bool) (m : Nat) (e : Int)
deriving DecidableEq, Repr

/-- The rounding modes of R51 and R223. -/
inductive Rm where
  | nearestEven | towardZero | down | up | nearestAway
deriving DecidableEq, Repr

/-- A row of the table of R221: mantissa width, total width without the sign, bias, the largest finite
encoding, the encoding of infinity, and the canonical NaN (R222). -/
structure Fmt where
  mw     : Nat
  width  : Nat
  bias   : Nat
  maxFin : Nat
  inf    : Option Nat
  nan    : Option Nat
  /-- The lowest magnitude that is a NaN. -/
  nanLo  : Nat
deriving DecidableEq, Repr

def Fmt.fp32 : Fmt := ⟨23, 31, 127, 0x7F7FFFFF, some 0x7F800000, some 0x7FC00000, 0x7F800001⟩
def Fmt.bf16 : Fmt := ⟨7, 15, 127, 0x7F7F, some 0x7F80, some 0x7FC0, 0x7F81⟩
def Fmt.fp16 : Fmt := ⟨10, 15, 15, 0x7BFF, some 0x7C00, some 0x7E00, 0x7C01⟩
def Fmt.e4m3 : Fmt := ⟨3, 7, 7, 0x7E, none, some 0x7F, 0x7F⟩
def Fmt.e5m2 : Fmt := ⟨2, 7, 15, 0x7B, some 0x7C, some 0x7E, 0x7D⟩
def Fmt.e3m2 : Fmt := ⟨2, 5, 3, 0x1F, none, none, 0x20⟩
def Fmt.e2m3 : Fmt := ⟨3, 5, 1, 0x1F, none, none, 0x20⟩
def Fmt.e2m1 : Fmt := ⟨1, 3, 1, 0x7, none, none, 0x8⟩

/-- Bits of an encoding, the sign included. -/
def Fmt.bits (f : Fmt) : Nat := f.width + 1

/-- The exponent of the unit of the last place of a subnormal value (R221). -/
def Fmt.emin (f : Fmt) : Int := 1 - (f.bias : Int) - (f.mw : Int)

/-- The exact value of an encoding (R221). -/
def Fmt.decode (f : Fmt) (x : Nat) : Val :=
  let neg := x / 2 ^ f.width % 2 == 1
  let a := x % 2 ^ f.width
  if f.nanLo ≤ a then .nan
  else if f.inf == some a then .inf neg
  else
    let ex := a / 2 ^ f.mw
    let fr := a % 2 ^ f.mw
    if ex = 0 then .fin neg fr f.emin
    else .fin neg (fr + 2 ^ f.mw) (f.emin + (ex : Int) - 1)

/-- Whether a magnitude with remainder rem of 2^s is rounded away from zero; sticky says that more lies
below (R223). -/
def roundsAway (rm : Rm) (neg odd : Bool) (rem half : Nat) (sticky : Bool) : Bool :=
  match rm with
  | .nearestEven => decide (half < rem) || (rem == half && (sticky || odd))
  | .nearestAway => decide (half ≤ rem)
  | .towardZero => false
  | .down => neg && (decide (0 < rem) || sticky)
  | .up => !neg && (decide (0 < rem) || sticky)

/-- The magnitude of m × 2^e rounded to a multiple of 2^q. -/
def roundAt (rm : Rm) (neg : Bool) (m : Nat) (e q : Int) (sticky : Bool) : Nat :=
  if q ≤ e then m * 2 ^ (e - q).toNat
  else
    let s := (q - e).toNat
    let hi := m / 2 ^ s
    if roundsAway rm neg (hi % 2 == 1) (m % 2 ^ s * 2) (2 ^ s) sticky then hi + 1 else hi

/-- The encoding of an overflow (R224): infinity or the largest finite value, by mode and sign; E4M3
saturates in every mode (R225). -/
def Fmt.overflow (f : Fmt) (rm : Rm) (neg : Bool) : Nat :=
  match f.inf with
  | none => f.maxFin
  | some i =>
    match rm with
    | .nearestEven => i
    | .nearestAway => i
    | .towardZero => f.maxFin
    | .up => if neg then f.maxFin else i
    | .down => if neg then i else f.maxFin

/-- The sign bit above a magnitude. -/
def Fmt.signed (f : Fmt) (neg : Bool) (a : Nat) : Nat := if neg then a + 2 ^ f.width else a

/-- A finite value rounded to the format (R223, R224). sticky: the value lies above m × 2^e by less than 2^e. -/
def Fmt.roundFin (f : Fmt) (rm : Rm) (neg : Bool) (m : Nat) (e : Int) (sticky : Bool) : Nat :=
  if m = 0 then f.signed neg (if roundsAway rm neg false 0 1 sticky then 1 else 0)
  else
    let q := max (((Nat.log2 m : Nat) : Int) + e - f.mw) f.emin
    let r := roundAt rm neg m e q sticky
    let a := (q - f.emin).toNat * 2 ^ f.mw + r
    f.signed neg (if f.maxFin < a then f.overflow rm neg else a)

/-- A value converted to the format (R222 to R225). -/
def Fmt.encode (f : Fmt) (rm : Rm) : Val → Nat
  | .nan => f.nan.getD 0
  | .inf neg => f.signed neg (f.inf.getD f.maxFin)
  | .fin neg m e => f.roundFin rm neg m e false

/-- The sign of a value; a NaN counts as positive. -/
def Val.neg : Val → Bool
  | .nan => false
  | .inf n => n
  | .fin n _ _ => n

/-- The value with its sign turned. -/
def Val.negate : Val → Val
  | .nan => .nan
  | .inf n => .inf (!n)
  | .fin n m e => .fin (!n) m e

/-- The value without its sign. -/
def Val.abs : Val → Val
  | .nan => .nan
  | .inf _ => .inf false
  | .fin _ m e => .fin false m e

/-- The signed integer m × 2^(e − base), for base ≤ e. -/
def scaledInt (neg : Bool) (m : Nat) (e base : Int) : Int :=
  let a : Int := ((m * 2 ^ (e - base).toNat : Nat) : Int)
  if neg then -a else a

/-- The exact sum (R222): opposite infinities give NaN; an exact zero is +0 except toward −∞ or when both
operands are −0. -/
def Val.add (rm : Rm) : Val → Val → Val
  | .nan, _ => .nan
  | _, .nan => .nan
  | .inf n, .inf k => if n = k then .inf n else .nan
  | .inf n, .fin _ _ _ => .inf n
  | .fin _ _ _, .inf n => .inf n
  | .fin n m e, .fin k p d =>
    let base := min e d
    let s := scaledInt n m e base + scaledInt k p d base
    if s = 0 then
      .fin (if n = k then n else (match rm with | .down => true | _ => false)) 0 base
    else .fin (decide (s < 0)) s.natAbs base

/-- The exact product. -/
def Val.mul : Val → Val → Val
  | .nan, _ => .nan
  | _, .nan => .nan
  | .inf n, .inf k => .inf (n != k)
  | .inf n, .fin k m _ => if m = 0 then .nan else .inf (n != k)
  | .fin n m _, .inf k => if m = 0 then .nan else .inf (n != k)
  | .fin n m e, .fin k p d => .fin (n != k) (m * p) (e + d)

/-- The order of two values that are no NaN: −∞ below every finite value, −0 equal to +0. -/
def Val.lt : Val → Val → Bool
  | .nan, _ => false
  | _, .nan => false
  | .inf n, .inf k => n && !k
  | .inf n, .fin _ _ _ => n
  | .fin _ _ _, .inf k => !k
  | .fin n m e, .fin k p d =>
    let base := min e d
    decide (scaledInt n m e base < scaledInt k p d base)

/-- Equality of two values that are no NaN. -/
def Val.eqv (a b : Val) : Bool :=
  match a, b with
  | .nan, _ => false
  | _, .nan => false
  | a, b => !(a.lt b) && !(b.lt a)

/-- Whether the value is a NaN. -/
def Val.isNan : Val → Bool
  | .nan => true
  | _ => false

/-- Addition in a format: one rounding of the exact sum. -/
def Fmt.addBits (f : Fmt) (rm : Rm) (x y : Nat) : Nat := f.encode rm (Val.add rm (f.decode x) (f.decode y))

/-- Multiplication in a format. -/
def Fmt.mulBits (f : Fmt) (rm : Rm) (x y : Nat) : Nat := f.encode rm (Val.mul (f.decode x) (f.decode y))

/-- x × y + z with one rounding. -/
def Fmt.fmaBits (f : Fmt) (rm : Rm) (x y z : Nat) : Nat :=
  f.encode rm (Val.add rm (Val.mul (f.decode x) (f.decode y)) (f.decode z))

/-- The quotient rounded once: x ÷ 0 is an infinity, 0 ÷ 0 and ∞ ÷ ∞ are NaN (R222, R223). -/
def Fmt.divBits (f : Fmt) (rm : Rm) (x y : Nat) : Nat :=
  match f.decode x, f.decode y with
  | .nan, _ => f.encode rm .nan
  | _, .nan => f.encode rm .nan
  | .inf _, .inf _ => f.encode rm .nan
  | .inf n, .fin k _ _ => f.encode rm (.inf (n != k))
  | .fin n _ _, .inf k => f.encode rm (.fin (n != k) 0 0)
  | .fin n m e, .fin k p d =>
    if p = 0 then (if m = 0 then f.encode rm .nan else f.encode rm (.inf (n != k)))
    else if m = 0 then f.encode rm (.fin (n != k) 0 0)
    else
      let a := m * 2 ^ 80
      f.roundFin rm (n != k) (a / p) (e - d - 80) (a % p != 0)

/-- Integer square root by bits: the largest r with r × r ≤ n, r below 2^k. -/
def isqrt (n : Nat) : Nat → Nat → Nat
  | 0, r => r
  | k + 1, r => if (r + 2 ^ k) * (r + 2 ^ k) ≤ n then isqrt n k (r + 2 ^ k) else isqrt n k r

/-- The square root rounded once; −0 keeps its sign, other negative values give NaN. -/
def Fmt.sqrtBits (f : Fmt) (rm : Rm) (x : Nat) : Nat :=
  match f.decode x with
  | .nan => f.encode rm .nan
  | .inf n => if n then f.encode rm .nan else f.encode rm (.inf false)
  | .fin n m e =>
    if m = 0 then f.encode rm (.fin n 0 0)
    else if n then f.encode rm .nan
    else
      let k : Nat := if e % 2 = 0 then 80 else 81
      let a := m * 2 ^ k
      let r := isqrt a 64 0
      f.roundFin rm false r ((e - k) / 2) (r * r != a)

/-- A value rounded to an integer and limited to lo .. hi; a NaN gives 0 (R224, R225). -/
def Val.toInt (rm : Rm) (lo hi : Int) : Val → Int
  | .nan => 0
  | .inf n => if n then lo else hi
  | .fin n m e =>
    let a := roundAt rm n m e 0 false
    let v : Int := if n then -(a : Int) else a
    max lo (min hi v)

/-- The largest k with 2^k ≤ m × 2^e, for m above 0 (R227). -/
def log2Floor (m : Nat) (e : Int) : Int := ((Nat.log2 m : Nat) : Int) + e

/-- The exact value of an integer. -/
def Val.ofInt (i : Int) : Val := .fin (decide (i < 0)) i.natAbs 0

/-- The value times 2^k. -/
def Val.scale (k : Int) : Val → Val
  | .nan => .nan
  | .inf n => .inf n
  | .fin n m e => .fin n m (e + k)

end Sys2Proof.Machine
end

