-- ==== Sys2Proof/Machine/Blocks.lean ====
section
/-!
DEFINITION. Formats shared by a block: the microscaling family (R226, R227), native block floating point
(R228 to R231), and the codecs of compressed blocks (R81 to R85).
-/

namespace Sys2Proof.Machine

/-- The element format of a microscaling kind 1 to 5 (R67); kind 6 is MXINT8. -/
def mxFmt (kind : Nat) : Option Fmt :=
  match kind with
  | 1 => some .e4m3
  | 2 => some .e5m2
  | 3 => some .e3m2
  | 4 => some .e2m3
  | 5 => some .e2m1
  | _ => none

/-- Element bits of a microscaling kind (R74). -/
def mxBits (kind : Nat) : Nat :=
  match kind with
  | 3 => 6
  | 4 => 6
  | 5 => 4
  | _ => 8

/-- emax(f) of R227. -/
def mxEmax (kind : Nat) : Int :=
  match kind with
  | 1 => 8
  | 2 => 15
  | 3 => 4
  | 4 => 2
  | 5 => 2
  | _ => 0

/-- An unsigned value of w bits as two's complement. -/
def toSigned (w x : Nat) : Int := if 2 ^ (w - 1) ≤ x then (x : Int) - 2 ^ w else x

/-- An integer as w bits of two's complement. -/
def ofSigned (w : Nat) (i : Int) : Nat := (i % 2 ^ w).toNat

/-- The value of one microscaling element under its scale byte (R226). -/
def mxDecode (kind scale x : Nat) : Val :=
  if scale = 255 then .nan
  else
    let v := match mxFmt kind with
      | some f => f.decode x
      | none => (Val.ofInt (toSigned 8 x)).scale (-6)
    v.scale ((scale : Int) - 127)

/-- Element j of a packed run of k-bit elements held in n (R74, R220). -/
def packedElem (n k j : Nat) : Nat := n / 2 ^ (k * j) % 2 ^ k

/-- Elements packed k bits each, the first lowest. -/
def packElems (k : Nat) : List Nat → Nat
  | [] => 0
  | x :: xs => x % 2 ^ k + 2 ^ k * packElems k xs

/-- The BF16 image of a block of 32 elements (R76). -/
def mxToBf16 (kind scale n : Nat) : List Nat :=
  (List.range 32).map (fun j =>
    if scale = 255 then 0x7FC0
    else Fmt.bf16.encode .nearestEven (mxDecode kind scale (packedElem n (mxBits kind) j)))

/-- The largest finite magnitude of a list of values, as m × 2^e. Over no finite value R227 names no maximum: 0 is the model's
choice (log 94). -/
def maxFinite (vs : List Val) : Val :=
  vs.foldl (fun a v => match v with
    | .fin _ m e => if a.lt (.fin false m e) then .fin false m e else a
    | _ => a) (.fin false 0 0)

/-- The scale byte that R227 chooses; of a block whose values are all infinite, 0x7F (log 94). -/
def mxScale (kind : Nat) (vs : List Val) : Nat :=
  let hasInf := match mxFmt kind with
    | some f => f.inf.isSome
    | none => false
  if vs.any Val.isNan then 255
  else if !hasInf && vs.any (fun v => match v with | .inf _ => true | _ => false) then 255
  else match maxFinite vs with
    | .fin _ m e =>
      if m = 0 then 127
      else (max (-127) (min 127 (log2Floor m e - mxEmax kind)) + 127).toNat
    | _ => 127

/-- One element written under a scale byte (R227). -/
def mxElem (kind scale : Nat) (v : Val) : Nat :=
  if scale = 255 then 0
  else match mxFmt kind with
    | some f =>
      match v with
      | .inf n => f.signed n (f.inf.getD f.maxFin)
      | v =>
        let x := f.encode .nearestEven (v.scale (127 - (scale : Int)))
        let a := x % 2 ^ f.width
        f.signed (2 ^ f.width ≤ x) (min a f.maxFin)
    | none => ofSigned 8 ((v.scale (127 - (scale : Int) + 6)).toInt .nearestEven (-128) 127)

/-- A block of 32 values re-quantised (R76, R227): its scale byte and its packed elements. -/
def mxEncode (kind : Nat) (vs : List Val) : Nat × Nat :=
  let s := mxScale kind vs
  (s, packElems (mxBits kind) (vs.map (mxElem kind s)))

/-- A block converted to mantissas of W bits and an exponent byte (R229). R229's limit on e saturates large elements of some
blocks that R232 calls exact: the model follows R229 (log 95). -/
def bfpEncode (W : Nat) (vs : List Val) : Nat × List Int :=
  if vs.any (fun v => match v with | .fin _ _ _ => false | _ => true) then (255, vs.map (fun _ => 0))
  else match maxFinite vs with
    | .fin _ m e =>
      if m = 0 then (127, vs.map (fun _ => 0))
      else
        let x := max (-127) (min 127 (log2Floor m e))
        ((x + 127).toNat,
          vs.map (fun v => (v.scale ((W : Int) - 2 - x)).toInt .nearestEven (-(2 ^ (W - 1))) (2 ^ (W - 1) - 1)))
    | _ => (127, vs.map (fun _ => 0))

/-- A row of the table of operand format codes (R230): element bits, block, whether a scale byte is stored,
and the mantissa width W. -/
structure OpFmt where
  bits  : Nat
  block : Nat
  scale : Bool
  w     : Nat
deriving DecidableEq, Repr

/-- The operand format of a code 0 to 31 (R230). -/
def opFmt (c : Nat) : OpFmt :=
  if c ≤ 6 then ⟨c + 2, 16, true, (c + 3) / 2 * 2⟩
  else if c ≤ 13 then ⟨c - 5, 32, true, (c - 4) / 2 * 2⟩
  else match c with
    | 14 => ⟨8, 32, true, 8⟩
    | 15 => ⟨8, 32, true, 8⟩
    | 16 => ⟨6, 32, true, 8⟩
    | 17 => ⟨6, 32, true, 8⟩
    | 18 => ⟨4, 32, true, 6⟩
    | 19 => ⟨8, 32, true, 8⟩
    | 20 => ⟨8, 32, false, 8⟩
    | 21 => ⟨8, 32, false, 8⟩
    | 22 => ⟨6, 32, false, 8⟩
    | 23 => ⟨6, 32, false, 8⟩
    | 24 => ⟨4, 32, false, 6⟩
    | 25 => ⟨8, 32, false, 8⟩
    | 26 => ⟨8, 32, false, 10⟩
    | 27 => ⟨4, 32, false, 4⟩
    | 28 => ⟨4, 32, false, 6⟩
    | 29 => ⟨16, 32, false, 16⟩
    | 30 => ⟨16, 32, false, 16⟩
    | _ => ⟨16, 32, false, 16⟩

/-- The value of one element of a code that is decoded under R221 and R226 (R231's last point). -/
def opElemVal (c scale x : Nat) : Val :=
  match c with
  | 14 => mxDecode 1 scale x
  | 15 => mxDecode 2 scale x
  | 16 => mxDecode 3 scale x
  | 17 => mxDecode 4 scale x
  | 18 => mxDecode 5 scale x
  | 20 => Fmt.e4m3.decode x
  | 21 => Fmt.e5m2.decode x
  | 22 => Fmt.e3m2.decode x
  | 23 => Fmt.e2m3.decode x
  | 24 => Fmt.e2m1.decode x
  | 30 => Fmt.bf16.decode x
  | _ => Fmt.fp16.decode x

/-- One block converted at the operand port (R231): the exponent byte and the mantissas of W bits. -/
def portBlock (c scale : Nat) (xs : List Nat) : Nat × List Int :=
  let o := opFmt c
  if c ≤ 13 then (scale, xs.map (fun x => toSigned o.bits x * 2 ^ (o.w - o.bits)))
  else if c = 19 then (scale, xs.map (fun x => toSigned 8 x))
  else if c = 26 ∨ c = 28 then (127 + o.w - 2, xs.map (fun (x : Nat) => (x : Int)))
  else if c = 25 ∨ c = 27 ∨ c = 29 then (127 + o.w - 2, xs.map (fun x => toSigned o.bits x))
  else bfpEncode o.w (xs.map (opElemVal c scale))

/-! ### Compressed blocks -/

/-- The fields of a block header (R82): codec, number of sub-streams, element width code, lengths. -/
structure BlkHdr where
  codec : Nat
  n     : Nat
  ew    : Nat
  lens  : List Nat
deriving DecidableEq, Repr

/-- The 256-bit header taken apart (R82). -/
def blkHdr (h : BitVec 256) : BlkHdr :=
  { codec := fldN h 0 2, n := fldN h 2 3 + 1, ew := fldN h 5 2,
    lens := (List.range 8).map (fun i => fldN h (8 + 13 * i) 13) }

/-- Content bytes of sub-stream i of N: its chunks of 512 bytes (R83). -/
def subChunks (n i : Nat) : List Nat := (List.range 8).filter (fun c => c % n == i)

/-- Elements of es bytes written as bytes, low byte first. -/
def elemBytes (es : Nat) (xs : List Nat) : List Byte :=
  xs.flatMap (fun x => bytesOf (BitVec.ofNat (8 * es) x) es)

/-- The planes of one group of the zero-run codec (R84), from plane b − 1 down: adds each present plane's
bits to the n nonzero elements. -/
def takePlanes (pres n : Nat) : Nat → List Byte → List Nat → Option (List Nat × List Byte)
  | 0, bs, acc => some (acc, bs)
  | b + 1, bs, acc =>
    if pres / 2 ^ b % 2 = 1 then
      let k := (n + 7) / 8
      if bs.length < k then none
      else
        let pl := natOfBytes (bs.take k)
        takePlanes pres n b (bs.drop k) (acc.zipIdx.map (fun e => e.1 + (pl / 2 ^ e.2 % 2) * 2 ^ b))
    else takePlanes pres n b bs acc

/-- The nonzero elements spread over a group by its mask. -/
def spread (mask : Nat) : Nat → Nat → List Nat → List Nat
  | 0, _, _ => []
  | k + 1, e, xs =>
    if mask / 2 ^ e % 2 = 1 then xs.headD 0 :: spread mask k (e + 1) (xs.drop 1)
    else 0 :: spread mask k (e + 1) xs

/-- The zero-run codec (R84): groups of 64 elements of es bytes until g groups have been read. -/
def zeroRun (es : Nat) : Nat → Nat → List Byte → Option (List Byte)
  | 0, _, _ => none
  | fuel + 1, g, bs =>
    if g = 0 then (if bs.isEmpty then some [] else none)
    else match bs with
      | [] => none
      | t :: rest =>
        if t.toNat < 128 then
          if g < t.toNat + 1 then none
          else (zeroRun es fuel (g - (t.toNat + 1)) rest).map
            (fun out => List.replicate ((t.toNat + 1) * 64 * es) 0 ++ out)
        else if t.toNat = 128 then
          if rest.length < 8 + es then none
          else
            let mask := natOfBytes (rest.take 8)
            let n := ((List.range 64).filter (fun e => mask / 2 ^ e % 2 == 1)).length
            let pres := natOfBytes ((rest.drop 8).take es)
            match takePlanes pres n (8 * es) (rest.drop (8 + es)) (List.replicate n 0) with
            | none => none
            | some (xs, rest') =>
              (zeroRun es fuel (g - 1) rest').map (fun out => elemBytes es (spread mask 64 0 xs) ++ out)
        else none

/-- The exponents of the exponent-entropy codec (R84): codes against the dictionary, escapes taking the
literals in order. -/
def entropyExps (dict : List Nat) : List Nat → List Nat → Option (List Nat × List Nat)
  | [], lits => some ([], lits)
  | c :: cs, lits =>
    if c = 15 then
      match lits with
      | [] => none
      | l :: ls => (entropyExps dict cs ls).map (fun r => (l :: r.1, r.2))
    else match dict[c]? with
      | none => none
      | some x => (entropyExps dict cs lits).map (fun r => (x :: r.1, r.2))

/-- The exponent-entropy codec (R84) for E elements of es bytes (2 or 4). -/
def entropy (es E : Nat) (bs : List Byte) : Option (List Byte) :=
  match bs with
  | [] => none
  | d :: rest =>
    if 15 < d.toNat then none
    else
      let D := d.toNat
      let dict := (rest.take D).map BitVec.toNat
      let codeBytes := (rest.drop D).take (E / 2)
      let codes := codeBytes.flatMap (fun b => [b.toNat % 16, b.toNat / 16])
      let esc := (codes.filter (fun c => c == 15)).length
      let after := rest.drop (D + E / 2)
      let sm := after.drop esc
      if rest.length ≠ D + E / 2 + esc + E * (es - 1) then none
      else match entropyExps dict codes ((after.take esc).map BitVec.toNat) with
        | none => none
        | some (xs, _) =>
          let mw := if es = 2 then 7 else 23
          some (elemBytes es (xs.zipIdx.map (fun e =>
            let s := natOfBytes ((sm.drop (e.2 * (es - 1))).take (es - 1))
            s / 2 ^ mw % 2 * 2 ^ (8 * es - 1) + e.1 * 2 ^ mw + s % 2 ^ mw)))

/-- One sub-stream decoded to exactly S bytes (R84, R85). -/
def decodeSub (h : BlkHdr) (S : Nat) (bs : List Byte) : Option (List Byte) :=
  let es := 2 ^ h.ew
  match h.codec with
  | 0 => if bs.length = S then some bs else none
  | 1 => zeroRun es (bs.length + 1) (S / (64 * es)) bs
  | 2 => if h.ew = 0 then none else entropy es (S / es) bs
  | _ => none

/-- The sub-streams i, i + 1, … cut from the stored bytes and decoded. -/
def decodeSubs (h : BlkHdr) : Nat → Nat → List Byte → Option (List (List Byte))
  | 0, _, _ => some []
  | k + 1, i, bs =>
    let len := h.lens.getD i 0
    match decodeSub h (512 * (subChunks h.n i).length) (bs.take len) with
    | none => none
    | some c => (decodeSubs h k (i + 1) (bs.drop len)).map (fun r => c :: r)

/-- A block expanded to its 4,096 bytes, or none when it is malformed (R83 to R85). -/
def expandBlock (h : BlkHdr) (stored : List Byte) : Option (List Byte) :=
  if h.codec = 3 ∨ h.ew = 3 then none
  else if (h.lens.drop h.n).any (fun l => l != 0) then none
  else if 4096 < h.lens.sum then none
  else (decodeSubs h h.n 0 stored).map (fun subs =>
    (List.range 8).flatMap (fun c => ((subs.getD (c % h.n) []).drop (512 * (c / h.n))).take 512))

end Sys2Proof.Machine
end

