-- ==== Sys2Proof/Machine/Memory.lean ====
section
/-!
DEFINITION. Main memory and the caches above it (R64 to R89, R137 to R162).

A byte has up to three values: the stored one, the one written at the Cave and not yet stored, and the one
written in an L1 or L2 and not yet at the Cave. A read takes the highest. Alias bytes (R75, R76) and split
bytes (R78) are formed from the stored bytes under them until they are written; a write-back converts or
splits them. A stored byte is kept under its place in its stack (R70), and an uncorrectable error belongs to the copy
that it struck: a group of an L1 or L2 line, a row of a Cave entry, a half of a granule.
-/

namespace Sys2Proof.Machine

/-! ### The local address map (R65) -/

inductive Window where
  | hbm | alias_ | whey | split | scratch | control | host | hole
deriving DecidableEq, Repr

/-- The window of a local address (R65). -/
def windowOf (a : Nat) : Window :=
  if a < 0x9000000000 then .hbm
  else if 0x10000000000 ≤ a ∧ a < 0x34000000000 then .alias_
  else if 0x40000000000 ≤ a ∧ a < 0x48000000000 then .whey
  else if 0x50000000000 ≤ a ∧ a < 0x60000000000 then .split
  else if 0x80000000000 ≤ a ∧ a < 0x90000000000 then .scratch
  else if 0xF0000000000 ≤ a ∧ a < 0xF0001000000 then .control
  else if 0x100000000000 ≤ a ∧ a < 0x200000000000 then .host
  else .hole

/-- mc.rmap(r) at reset (R67). -/
def rmapReset (r : Nat) : Dword :=
  BitVec.ofNat 64 (0xF * 2 ^ 60 + r / 12 * 2 ^ 49 + r % 12 * 2 ^ 45)

/-- mc.rmap(r). -/
def rmapOf (s : State) (r : Nat) : Dword := tget (rmapReset r) s.rmap r
def rmRind (e : Dword) : Nat := fldN e 60 4
def rmKind (e : Dword) : Nat := fldN e 56 4
def rmQ (e : Dword) : Bool := bitAt e 55
def rmSlot (e : Dword) : Nat := fldN e 49 6
def rmStack (e : Dword) : Nat := fldN e 45 4
/-- The local address of the region's table: abase × 64. -/
def rmBase (e : Dword) : Nat := fldN e 6 39 * 64

/-- Whether a Rind may reach a region (R68). -/
def regionOk (s : State) (rind r : Nat) : Bool :=
  let e := rmapOf s r
  decide (r < 576) && rmRind e == rind && !rmQ e && rind != 15

/-- Bytes of a block of a microscaling kind: 4k for k element bits (R74). -/
def mxBytes (kind : Nat) : Nat := 4 * mxBits kind

/-- Blocks of a region of a microscaling kind (R74). -/
def mxBlocks (kind : Nat) : Nat := 2 ^ 30 / mxBytes kind

/-- A table of len bytes at a local address lies in plain regions of the Rind (R68). -/
def tableOk (s : State) (rind base len : Nat) : Bool :=
  let lo := base / 2 ^ 30
  let hi := (base + len - 1) / 2 ^ 30
  decide (base + len ≤ 0x9000000000) &&
    (List.range (hi - lo + 1)).all (fun i => regionOk s rind (lo + i) && rmKind (rmapOf s (lo + i)) == 0)

/-- The core whose scratchpad holds a local address (R163). -/
def scratchCore (a : Nat) : Nat :=
  let i := a / 2 ^ 18 % 2 ^ 11
  8 * clusterOf (i / 512) (i / 8 % 8) (i / 64 % 8) + i % 8

/-- The first local address of a core's scratchpad (R163). -/
def scratchBase (cn : Nat) : Nat :=
  let c := coreCluster cn
  0x80000000000 + (clusterDie c * 512 + clusterY c * 64 + clusterX c * 8 + cn % 8) * 2 ^ 18

/-- The host range of a Rind admits a host address (R407). -/
def hostOk (s : State) (rind h : Nat) : Bool :=
  let w := (getRind s rind).hwin
  bitAt w 63 && decide (fldN w 30 14 ≤ h / 2 ^ 30) && decide (h / 2 ^ 30 ≤ fldN w 44 14)

/-- Whether a local address is a hole for a Rind (R65, R67, R68, R75, R78, R163, R407). Control space is none of
these accesses' business: it is a hole here (R66). -/
def isHole (s : State) (rind a : Nat) : Bool :=
  match windowOf a with
  | .hbm => !regionOk s rind (a / 2 ^ 30)
  | .alias_ =>
    let o := a - 0x10000000000
    let r := o / 2 ^ 32
    let e := rmapOf s r
    let k := rmKind e
    !(regionOk s rind r && decide (1 ≤ k) && decide (k ≤ 6) && decide (o % 2 ^ 32 < 64 * mxBlocks k)
      && tableOk s rind (rmBase e) (mxBlocks k))
  | .whey => !regionOk s rind ((a - 0x40000000000) / 2 ^ 30)
  | .split =>
    let r := 2 * ((a - 0x50000000000) / 4) / 2 ^ 30
    !(regionOk s rind r && rmKind (rmapOf s r) == 0)
  | .scratch => a / 2 ^ 29 % 2 ^ 11 != 0 || coreRind s (scratchCore a) != some rind
  | .control => true
  | .host => !hostOk s rind (a - 0x100000000000)
  | .hole => true

/-! ### Granules and the places of stored bytes (R70, R73) -/

/-- mc.pcmask(j) at reset (R70). -/
def pcmaskReset (j : Nat) : Dword := BitVec.ofNat 64 (0x00100080 * 2 ^ j)

/-- The parity of a number below 2^n. -/
def parity (x : Nat) : Nat → Bool
  | 0 => false
  | n + 1 => (x.testBit n) != parity x n

/-- The pseudo-channel of an address under a stack's hash (R70); under the reset masks it is a[12:7] XOR a[25:20]. -/
def pchan (st : Stack) (a : Nat) : Nat :=
  if st.pcmask.isEmpty then a / 2 ^ 7 % 64 ^^^ a / 2 ^ 20 % 64
  else (List.range 6).foldl (fun p j =>
    let m := (tget (pcmaskReset j) st.pcmask j).toNat
    if parity ((a &&& m) % 2 ^ 30) 30 then p + 2 ^ j else p) 0

/-- Where the byte of a local address is stored (R70): an HBM byte in its stack, the slot of its region, its row and its
pseudo-channel, as ((stack × 64 + slot) × 2^17 + row) × 64 + pseudo-channel granules; any other byte under its own
address. A change of the region map or of the hash moves no stored byte (R71). -/
def place (s : State) (a : Nat) : Nat :=
  if a < 0x9000000000 then
    let e := rmapOf s (a / 2 ^ 30)
    (rmStack e * 64 + rmSlot e) * 2 ^ 30 + a % 2 ^ 30 / 8192 * 8192 + pchan (getStack s (rmStack e)) a * 128 + a % 128
  else a

/-- The Whey-tier channel of a granule (R73). -/
def wheyChan (a : Nat) : Nat := (a - 0x40000000000) / 2 ^ 7 % 32 ^^^ (a - 0x40000000000) / 2 ^ 16 % 32

/-! ### Stored bytes -/

/-- A byte stored; the list keeps no zero entry. -/
def memPut (m : Tab Byte) (a : Nat) (b : Byte) : Tab Byte := if b = 0 then tdel m a else tput m a b

/-- What an unlisted place of memory reads as (log 2). -/
def memDefault : Byte := 0

/-- A byte of storage. -/
def memGet (m : Tab Byte) (a : Nat) : Byte := tget memDefault m a

/-- The canonical form of memory: keys rising, no entry equal to the default. -/
def Memory.wf (m : Tab Byte) : Bool := tsorted m && m.all (fun e => e.2 != memDefault)

/-- Bytes stored one after another. -/
def memPuts (m : Tab Byte) (a : Nat) : List Byte → Tab Byte
  | [] => m
  | b :: bs => memPuts (memPut m a b) (a + 1) bs

/-- The stored byte of a local address. -/
def memAt (s : State) (a : Nat) : Byte := memGet s.mem (place s a)

/-- Bytes stored at the places of their local addresses. -/
def putCells (s : State) (cells : List (Nat × Byte)) : State :=
  { s with mem := cells.foldl (fun m e => memPut m (place s e.1) e.2) s.mem }

/-- n stored bytes from an address, as a number (R1). -/
def storedNat (s : State) (a n : Nat) : Nat := natOfBytes ((List.range n).map (fun i => memAt s (a + i)))

/-- A block of a microscaling region: kind, address of its bytes, address of its scale byte (R74, R75). -/
def aliasBlock (s : State) (a : Nat) : Nat × Nat × Nat :=
  let o := a - 0x10000000000
  let r := o / 2 ^ 32
  let e := rmapOf s r
  let b := o % 2 ^ 32 / 64
  (rmKind e, r * 2 ^ 30 + mxBytes (rmKind e) * b, rmBase e + b)

/-- The BF16 image of the block under an alias address (R75, R76). It is formed under the region's present kind from what
is stored now (log 62). -/
def aliasImage (s : State) (a : Nat) : List Nat :=
  let (k, blk, sc) := aliasBlock s a
  mxToBf16 k (memAt s sc).toNat (storedNat s blk (mxBytes k))

/-- Where the stored byte of a split-window address lies (R78). -/
def splitHome (a : Nat) : Nat :=
  let o := a - 0x50000000000
  if o % 4 < 2 then 0x40000000000 + 2 * (o / 4) + o % 2 else 2 * (o / 4) + o % 2

/-- The byte that the level under the Cave holds. -/
def storedByte (s : State) (a : Nat) : Byte :=
  match windowOf a with
  | .alias_ => BitVec.ofNat 8 ((aliasImage s a).getD (a % 64 / 2) 0 / 256 ^ (a % 2))
  | .split => memAt s (splitHome a)
  | _ => memAt s a

/-- The byte at the Cave: written there, or held since a write-back that re-quantised it (R76). -/
def caveByte (s : State) (a : Nat) : Byte := (tfind s.cav a).getD ((tfind s.cavHeld a).getD (storedByte s a))

/-- The byte as an access at its home reads it. -/
def readByte (s : State) (a : Nat) : Byte := (tfind s.top a).getD ((tfind s.topHeld a).getD (caveByte s a))

/-- n bytes from a local address. -/
def readBytes (s : State) (a n : Nat) : List Byte := (List.range n).map (fun i => readByte s (a + i))

/-- n bytes from a local address as a vector, the rest zero. -/
def readVec (s : State) (a n : Nat) : Vec := ofBytes 512 (readBytes s a n)

/-! ### What an access reaches -/

/-- The halves of a line that an access needs: for a split line its high half (HBM) and its low half (Whey tier), for an
alias line its second and first block (R79, R142). Every other line is filled whole. -/
structure Need where
  hi : Bool := true
  lo : Bool := true
deriving DecidableEq, Repr

/-- What bytes of one line need. -/
def needOf (addrs : List Nat) : Need :=
  match windowOf (addrs.headD 0) with
  | .split => { hi := addrs.any (fun a => decide (2 ≤ a % 4)), lo := addrs.any (fun a => decide (a % 4 < 2)) }
  | .alias_ => { hi := addrs.any (fun a => decide (64 ≤ a % 128)), lo := addrs.any (fun a => decide (a % 128 < 64)) }
  | _ => {}

/-- What a fill into a cache brings: the halves needed of a split line, any other line whole (R79, R144). -/
def Need.cached (n : Need) (line : Nat) : Need :=
  match windowOf (line * 128) with
  | .split => n
  | _ => {}

/-- Whether halves of a cached line take in a byte: of a split line, the half that the byte belongs to. -/
def Need.holds (n : Need) (a : Nat) : Bool :=
  match windowOf a with
  | .split => if a % 4 < 2 then n.lo else n.hi
  | _ => n.hi && n.lo

/-- The 64-byte halves of granules under a block of an alias half: its bytes, which may cross a granule, and its scale
byte (R74). Each is named by the local address of its first byte. -/
def blockHalves (s : State) (a : Nat) : List Nat :=
  let (k, blk, sc) := aliasBlock s a
  ((List.range (mxBytes k)).map (fun i => (blk + i) / 64 * 64) ++ [sc / 64 * 64]).eraseDups

/-- The halves of granules that a line's fill reads. -/
def lineHalves (s : State) (line : Nat) (n : Need) : List Nat :=
  let a := line * 128
  match windowOf a with
  | .alias_ => ((if n.lo then blockHalves s a else []) ++ (if n.hi then blockHalves s (a + 64) else [])).eraseDups
  | .split => (if n.hi then [splitHome (a + 2)] else []) ++ (if n.lo then [splitHome a] else [])
  | .hbm => [a, a + 64]
  | .whey => [a, a + 64]
  | _ => []

/-- The units of storage code under single bytes: halves of granules, and 8 bytes of a scratchpad (R86, R164). -/
def byteHalves (s : State) (addrs : List Nat) : List Nat :=
  (addrs.flatMap (fun a => match windowOf a with
    | .alias_ => blockHalves s (a / 64 * 64)
    | .split => [splitHome a / 64 * 64]
    | .scratch => [a / 8 * 8]
    | _ => [a / 64 * 64])).eraseDups

/-- The die whose stack or Whey-tier channel holds a local address (R67, R73, R437); of an alias or split address, that
of its HBM bytes. -/
def storageDie (s : State) (a : Nat) : Nat :=
  let stored := match windowOf a with
    | .alias_ => (aliasBlock s a).2.1
    | .split => splitHome (a / 4 * 4 + 2)
    | _ => a
  match windowOf stored with
  | .hbm => rmStack (rmapOf s (stored / 2 ^ 30)) / 3 % 4
  | .whey => wheyChan stored / 8
  | _ => 0

/-! ### Logs of the memory units (R396, R397) -/

/-- The Rinds that own a region on a stack (R396). -/
def stackRinds (s : State) (i : Nat) : List Nat :=
  (((List.range 576).filter (fun r => rmStack (rmapOf s r) == i)).map (fun r => rmRind (rmapOf s r))).eraseDups.filter (fun k => decide (k < 12))

/-- An event of a stack's controller (R396, R397). -/
def logStack (s : State) (i code : Nat) (data : Dword) : State :=
  let e := logEntry s (getStack s i).evSeq 4 (64 * (i / 3)) i code data
  logUnit (modStack s i (fun m => { m with evSeq := m.evSeq + 1 })) (stackRinds s i) e

/-- An event of a Whey-tier channel. -/
def logWhey (s : State) (ch rind code : Nat) (data : Dword) : State :=
  let q := tget 0 s.wheySeq ch
  let e := logEntry s q 5 (64 * (ch / 8)) ch code data
  logUnit { s with wheySeq := tput s.wheySeq ch (q + 1) } (if rind < 12 then [rind] else []) e

/-- The Rind that owns the region under an address (R68, R142). -/
def ownerRind (s : State) (a : Nat) : Nat :=
  match windowOf a with
  | .hbm => rmRind (rmapOf s (a / 2 ^ 30))
  | .alias_ => rmRind (rmapOf s ((a - 0x10000000000) / 2 ^ 32))
  | .whey => rmRind (rmapOf s ((a - 0x40000000000) / 2 ^ 30))
  | .split => rmRind (rmapOf s (2 * ((a - 0x50000000000) / 4) / 2 ^ 30))
  | _ => 15

/-! ### Errors of main memory (R86 to R89) -/

/-- The 24-hour patrol period (R86, R392). -/
def patrolPeriod (s : State) : Nat := s.ts.toNat / 86400000000000

/-- How State names the unit of code over a local address: a 64-byte half by its place div 64 (R86), an 8-byte group of a
scratchpad by 2^60 + its address div 8 (R164). -/
def codeUnit (s : State) (a : Nat) : Nat :=
  match windowOf a with
  | .scratch => 2 ^ 60 + a / 8
  | _ => place s a / 64

/-- A unit that no longer corrects, and one whose read is corrected. -/
def halfBad (s : State) (h : Nat) : Bool := s.badMem.contains (codeUnit s h)
def halfSoft (s : State) (h : Nat) : Bool := s.softMem.contains (codeUnit s h)

/-- A unit written whole holds a correct code again (R86). -/
def healHalf (s : State) (h : Nat) : State :=
  let p := codeUnit s h
  { s with badMem := s.badMem.filter (fun x => x != p), softMem := s.softMem.filter (fun x => x != p) }

/-- A new defect of storage: a spare row that serves it must be repaired anew (R88). -/
def strikeHalf (s : State) (half : Nat) : State :=
  { s with ctls := s.ctls.map (fun e => (e.1, { e.2 with repaired := e.2.repaired.filter (fun r => r != half / 2) })) }

/-- The controller counts an error (R87). -/
def countMemError (s : State) (i : Nat) (ue : Bool) : State :=
  modStack s i (fun m => if ue then { m with ue := min (m.ue + 1) 0xFFFF } else { m with ce := min (m.ce + 1) 0xFFFFFFFF })

/-- Whether a TLB entry maps a 64 KiB frame, through either frame of a twin leaf (R100, R104). -/
def tlbMaps (s : State) (t : Tlb) (f : Nat) : Bool :=
  let n := 2 ^ (t.shift - 16)
  let b := fldN t.entry 16 41
  let twin := (b + fldN (getRind s t.rind).twin 30 27 * 2 ^ 14) % 2 ^ 41
  f / n == b / n || (bitAt t.comp 66 && f / n == twin / n)

/-- The event of a quarantined frame, logged by the unit that stores it (R397). -/
def logFrame (s : State) (pa : Nat) : State :=
  let a := pa % 2 ^ 45 / 65536 * 65536
  let data := BitVec.ofNat 64 (pa / 65536 * 65536)
  let stored := match windowOf a with
    | .alias_ => (aliasBlock s a).2.1
    | .split => splitHome (a + 2)
    | _ => a
  match windowOf stored with
  | .scratch => logCore s (scratchCore stored) 0x09 data
  | .whey => logWhey s (wheyChan stored) (ownerRind s stored) 0x09 data
  | .hbm => logStack s (rmStack (rmapOf s (stored / 2 ^ 30))) 0x09 data
  | _ => s

/-- A frame entered in the quarantine table, or its region's q bit set when the table is full; the TLB entries
that map the frame are removed, and the event is logged (R89, R100, R397). -/
def quarantineFrame (s : State) (pa : Nat) : State :=
  let f := pa / 65536
  if s.quarantine.contains f then s
  else
    let s := { s with tlbs := List.map (fun (e : Nat × List Tlb) => (e.1, e.2.filter (fun t => !tlbMaps s t f))) s.tlbs }
    let s := logFrame s pa
    if s.quarantine.length < 1024 then { s with quarantine := s.quarantine ++ [f] }
    else
      let a := pa % 2 ^ 45
      let r := match windowOf a with
        | .whey => (a - 0x40000000000) / 2 ^ 30
        | .alias_ => (a - 0x10000000000) / 2 ^ 32
        | .split => 2 * ((a - 0x50000000000) / 4) / 2 ^ 30
        | _ => a / 2 ^ 30
      { s with rmap := tput s.rmap r (putFld (rmapOf s r) 55 1 1) }

/-- The frames that hold local addresses of this package quarantined. -/
def quarantineAll (s : State) (addrs : List Nat) : State := addrs.foldl (fun s a => quarantineFrame s (s.node * 2 ^ 45 + a)) s

/-- A pseudo-channel with more than 12 spare rows in use, when a spare channel is left and none is being copied: the
replacement of its channel starts (R88). -/
def startSparing (s : State) (i : Nat) : State :=
  let m := getStack s i
  if 2 ≤ m.chans ∨ m.copying.isSome then s
  else match m.rows.find? (fun e => decide (12 < e.2)) with
    | some e => modStack s i (fun m => { m with copying := some (e.1 / 2) })
    | none => s

/-- The row of a granule takes a spare row of its pseudo-channel, while one of the 16 is left (R88). A row that a spare
already serves is repaired once for each defect. With none left the next stage is the channel's spare, and with both of
those in use the quarantine of the frame (R88, R394). -/
def repairRow (s : State) (i a : Nat) : State :=
  let m := getStack s i
  let row := place s a / 128
  let pc := row % 64
  if m.repaired.contains row then s
  else if 16 ≤ tget 0 m.rows pc then
    if m.chans < 2 then startSparing s i else quarantineFrame s (s.node * 2 ^ 45 + a)
  else
    let s := modStack s i (fun m => { m with
      rows := tput m.rows pc (tget 0 m.rows pc + 1), repaired := m.repaired ++ [row], patrol := tdel m.patrol row })
    startSparing (logStack s i 0x07 (BitVec.ofNat 64 (a / 128 * 128))) i

/-- The controller meets an uncorrectable half: it counts the error and repairs the row (R87, R88). -/
def meetBad (s : State) (h : Nat) : State :=
  match windowOf h with
  | .hbm =>
    let i := rmStack (rmapOf s (h / 2 ^ 30))
    repairRow (countMemError s i true) i h
  | _ => s

/-- The controller corrects an error of a half: it counts it, and a row that gives corrected errors in two patrol periods
is repaired (R87, R88). -/
def meetSoft (s : State) (h : Nat) : State :=
  match windowOf h with
  | .hbm =>
    let i := rmStack (rmapOf s (h / 2 ^ 30))
    let s := countMemError s i false
    let row := place s h / 128
    let now := patrolPeriod s + 1
    match tfind (getStack s i).patrol row with
    | none => modStack s i (fun m => { m with patrol := tput m.patrol row now })
    | some p => if p = now then s else repairRow s i h
  | _ => s

/-- A half read on behalf of a request. -/
def meetHalf (s : State) (h : Nat) : State :=
  if halfBad s h then meetBad s h else if halfSoft s h then meetSoft s h else s

/-! ### Granule counts (R70 to R73, R257) -/

/-- One granule access counted at the stack or Whey channel that holds a stored address (R72, R73, R374). A quiescent
stack performs none: the step that needs one is held (R71). -/
def countGranule (s : State) (a : Nat) (launch : Option Nat) : State :=
  match windowOf a with
  | .hbm =>
    let e := rmapOf s (a / 2 ^ 30)
    let i := rmStack e
    let j := pchan (getStack s i) a
    let s := if (getStack s i).q then { s with stalled := true } else s
    let s := modStack s i (fun st => { st with acnt := tput st.acnt j (tget 0 st.acnt j + 1) })
    countEnergy s (unitKey 4 i) 5 1 (rmRind e) launch
  | .whey => countEnergy s (unitKey 5 (wheyChan a)) 6 1 (rmRind (rmapOf s ((a - 0x40000000000) / 2 ^ 30))) launch
  | _ => s

/-- The granule accesses that halves make: each granule once (R72). -/
def countHalves (s : State) (hs : List Nat) (launch : Option Nat) : State :=
  ((hs.map (fun h => h / 128 * 128)).eraseDups).foldl (fun s a => countGranule s a launch) s

/-- Halves read on behalf of a request. -/
def readHalves (s : State) (hs : List Nat) (launch : Option Nat) : State :=
  countHalves (hs.foldl meetHalf s) hs launch

/-! ### Overlays -/

/-- The list of bytes of an overlay within a range. -/
def overIn (t : Tab Byte) (lo n : Nat) : List (Nat × Byte) :=
  t.filter (fun e => decide (lo ≤ e.1) && decide (e.1 < lo + n))

/-- An overlay without a range. -/
def overDrop (t : Tab Byte) (lo n : Nat) : Tab Byte :=
  t.filter (fun e => !(decide (lo ≤ e.1) && decide (e.1 < lo + n)))

/-- The overlay of a range taken over into another. -/
def overCopy (src dst : Tab Byte) (lo n : Nat) : Tab Byte := (overIn src lo n).foldl (fun t e => tput t e.1 e.2) dst

/-- The images of re-quantised alias lines that copies above the Cave hold, and that the Cave holds, forgotten with the
copies (R76). -/
def forgetTop (s : State) (line : Nat) : State := { s with topHeld := overDrop s.topHeld (line * 128) 128 }
def forgetCave (s : State) (lo n : Nat) : State := { s with cavHeld := overDrop s.cavHeld lo n }

/-! ### The Cave's tags and entries (R142 to R149) -/

/-- Whether the Cave caches a window (R144). -/
def caveHolds (a : Nat) : Bool :=
  match windowOf a with
  | .hbm => true
  | .alias_ => true
  | .whey => true
  | .split => true
  | _ => false

/-- cave.rcfg(k) of a slice. -/
def rcfgOf (c : Cave) (k : Nat) : Dword := tget 0 c.rcfg k
def rcWays (w : Dword) : Nat := fldN w 52 12
def rcBanks (w : Dword) : Nat := fldN w 28 24
def rcPinlim (w : Dword) : Nat := fldN w 0 17

/-- The set of a sector (R142). -/
def caveSet (sec : Nat) : Nat := (sec % 2 ^ 15) ^^^ (sec / 2 ^ 15 % 2 ^ 15)

/-- One event counter of R162. -/
def caveCount (c : Cave) (rind i : Nat) : Cave :=
  { c with counts := tput c.counts (16 * rind + i) (tget 0 c.counts (16 * rind + i) + 1) }

/-- A reference to a data entry given up; it is freed at zero (R144). -/
def dropEntry (c : Cave) (e : Nat) : Cave :=
  match tfind c.entries e with
  | none => c
  | some x =>
    if x.rc ≤ 1 then { c with entries := tdel c.entries e }
    else { c with entries := tput c.entries e { x with rc := x.rc - 1 } }

/-- The halves of a line that a slice holds valid. -/
def Sector.has (t : Sector) (line : Nat) (n : Need) : Bool :=
  (!n.hi || t.valid.getLsbD (line % 8)) && (!n.lo || t.validLo.getLsbD (line % 8))

/-- The halves of a line's need that a slice does not hold. -/
def Sector.missing (t : Sector) (line : Nat) (n : Need) : Need :=
  { hi := n.hi && !t.valid.getLsbD (line % 8), lo := n.lo && !t.validLo.getLsbD (line % 8) }

/-- A line's halves made valid, and made invalid. -/
def Sector.fill (t : Sector) (line : Nat) (n : Need) : Sector :=
  let b := 1#8 <<< (line % 8)
  { t with valid := if n.hi then t.valid ||| b else t.valid, validLo := if n.lo then t.validLo ||| b else t.validLo }
def Sector.clear (t : Sector) (line : Nat) : Sector :=
  let b := 1#8 <<< (line % 8)
  { t with valid := t.valid &&& ~~~b, validLo := t.validLo &&& ~~~b }

/-- All 8 lines are valid. -/
def Sector.whole (t : Sector) : Bool := t.valid == BitVec.allOnes 8 && t.validLo == BitVec.allOnes 8

/-- Whether the Cave of a die holds the halves of a line. -/
def caveHas (s : State) (die line : Nat) (n : Need) : Bool :=
  match tfind (getCave s die).sectors (line / 8) with
  | some t => t.has line n
  | none => false

/-- The rows of a line that a slice holds which no longer correct, as row numbers within the sector (R141). -/
def caveBad (s : State) (die line : Nat) : List Nat :=
  match tfind (getCave s die).sectors (line / 8) with
  | none => []
  | some t =>
    if !t.has line { hi := true, lo := false } && !t.has line { hi := false, lo := true } then []
    else match tfind (getCave s die).entries t.entry with
      | none => []
      | some e => e.bad.filter (fun r => r / 4 == line % 8)

/-- The sector is shared, and its frame and page make it eligible for sharing (R146). -/
def shareable (c : Cave) (sec : Nat) : Bool :=
  (match windowOf (sec * 1024) with
    | .hbm => true
    | .whey => true
    | _ => false)
  && (match tfind c.sectors sec with
    | some t => t.plain
    | none => false)

/-- A sector that is whole, private and unhashed enters the hash queue, or is counted when it is full (R146). -/
def queueHash (c : Cave) (sec : Nat) : Cave :=
  match tfind c.sectors sec with
  | none => c
  | some t =>
    match tfind c.entries t.entry with
    | none => c
    | some e =>
      if t.whole && e.rc == 1 && !e.hashed && shareable c sec && !c.queue.contains sec then
        if c.queue.length < 256 then { c with queue := c.queue ++ [sec] } else caveCount c t.rind 11
      else c

/-! ### Write-back to memory (R76, R79, R89, R144, R327) -/

/-- A write that merges into halves of granules, of which it does not write the whole: with an uncorrectable half it is
discarded and that half's frame quarantined (R89, R327). -/
def mergeHalves (s : State) (hs : List Nat) (write : State → State) : State :=
  let bad := hs.filter (halfBad s)
  let s := hs.foldl meetHalf s
  if bad.isEmpty then write s else quarantineAll s bad

/-- The 64-byte alias half at an address written back as a whole with a new scale, in the region's present kind (R76,
R227; log 62). A region that is no longer of a microscaling kind keeps what it stores: one of the outcomes of R69. -/
def storeAlias (s : State) (a : Nat) (launch : Option Nat) : State :=
  let (k, blk, sc) := aliasBlock s a
  if 1 ≤ k ∧ k ≤ 6 then
    let hs := blockHalves s a
    let vals := (List.range 32).map (fun j =>
      Fmt.bf16.decode ((caveByte s (a + 2 * j)).toNat + 256 * (caveByte s (a + 2 * j + 1)).toNat))
    let (scale, elems) := mxEncode k vals
    let bytes := bytesOf (BitVec.ofNat 256 elems) (mxBytes k)
    mergeHalves (countHalves s hs launch) hs (fun s => putCells s
      ((sc, BitVec.ofNat 8 scale) :: (List.range (mxBytes k)).map (fun i => (blk + i, bytes.getD i 0))))
  else s

/-- Bytes of one 64-byte half of a granule written: whole when the writer holds the rest of it or writes all of it. -/
def storeHalf (s : State) (h : Nat) (whole : Bool) (cells : List (Nat × Byte)) : State :=
  if whole || cells.length == 64 then putCells (healHalf s h) cells else mergeHalves s [h] (fun s => putCells s cells)

/-- The cluster whose L2 holds a home copy of a line, if there is one. -/
def topCluster (s : State) (line : Nat) : Option Nat :=
  (s.l2.find? (fun e => e.1 / 256 == line && e.2.replica.isNone)).map (fun e => e.1 % 256)

/-- An alias half about to be re-quantised: the copies that stay valid go on holding the values that they had (R76, R158);
only a later fill brings the converted ones. -/
def holdImage (s : State) (die a : Nat) : State :=
  let vals := (List.range 64).map (fun i => (a + i, caveByte s (a + i)))
  let keep := fun (t : Tab Byte) => vals.foldl (fun t e => if (tfind t e.1).isSome then t else tput t e.1 e.2) t
  let s1 := if (topCluster s (a / 128)).isSome then { s with topHeld := keep s.topHeld } else s
  if caveHas s die (a / 128) {} then { s1 with cavHeld := vals.foldl (fun t e => tput t e.1 e.2) s1.cavHeld } else s1

/-- The dirty bytes of a line leave the Cave for memory. has: the halves of the line that the slice holds, so that it
writes them whole. A line with an uncorrectable row has no consumer here: its dirty data is dropped and its frame
quarantined (R141). -/
def flushLine (s : State) (die line : Nat) (has : Need) (launch : Option Nat) : State :=
  let a := line * 128
  let dirty := overIn s.cav a 128
  if dirty.isEmpty then s
  else if !(caveBad s die line).isEmpty then quarantineAll { s with cav := overDrop s.cav a 128 } [a]
  else match windowOf a with
    | .alias_ =>
      let halves := (dirty.map (fun e => e.1 / 64 * 64)).eraseDups
      let s := halves.foldl (fun s h => storeAlias (holdImage s die h) h launch) s
      { s with cav := overDrop s.cav a 128 }
    | .split =>
      let s := { s with cav := overDrop s.cav a 128 }
      let part := fun (s : State) (h : Nat) (whole : Bool) (cells : List (Nat × Byte)) =>
        if cells.isEmpty then s
        else storeHalf (countHalves s [h] launch) h whole (cells.map (fun e => (splitHome e.1, e.2)))
      let s := part s (splitHome (a + 2)) has.hi (dirty.filter (fun e => decide (2 ≤ e.1 % 4)))
      part s (splitHome a) has.lo (dirty.filter (fun e => decide (e.1 % 4 < 2)))
    | _ =>
      let s := countHalves { s with cav := overDrop s.cav a 128 } [a] launch
      let whole := has.hi && has.lo
      let s := if whole then healHalf (healHalf s a) (a + 64) else s
      let part := fun (s : State) (h : Nat) =>
        let cells := dirty.filter (fun e => e.1 / 64 * 64 == h)
        if cells.isEmpty then s else storeHalf s h whole cells
      part (part s a) (a + 64)

/-- The halves of a line that a slice holds. -/
def caveNeed (s : State) (die line : Nat) : Need :=
  match tfind (getCave s die).sectors (line / 8) with
  | some t => { hi := t.valid.getLsbD (line % 8), lo := t.validLo.getLsbD (line % 8) }
  | none => { hi := false, lo := false }

/-- The lines that an overlay holds bytes of within a range. -/
def linesIn (t : Tab Byte) (lo n : Nat) : List Nat := ((overIn t lo n).map (fun e => e.1 / 128)).eraseDups

/-- The lines that the Cave of a die holds dirty in n bytes from lo, written to memory; each line's granules are counted
(R72, R144, R158). -/
def caveFlush (s : State) (die lo n : Nat) (launch : Option Nat) : State :=
  (linesIn s.cav lo n).foldl (fun s l => flushLine s die l (caveNeed s die l) launch) s

/-- A sector dropped from its slice after its dirty lines are written to memory (R144). -/
def evictSector (s : State) (die sec : Nat) : State :=
  let s := forgetCave (caveFlush s die (sec * 1024) 1024 none) (sec * 1024) 1024
  modCave s die (fun c =>
    match tfind c.sectors sec with
    | none => c
    | some t => dropEntry { c with sectors := tdel c.sectors sec, queue := c.queue.filter (fun q => q != sec) } t.entry)

/-! ### Allocation in the Cave (R144, R148) -/

/-- The lowest free place of a sorted list of used numbers, from a base on. -/
def firstFree : List Nat → Nat → Nat
  | [], b => b
  | u :: us, b => if u < b then firstFree us b else if u = b then firstFree us (b + 1) else b

/-- The banks that a mask assigns, in ascending order. -/
def bitsOf (m n : Nat) : List Nat := (List.range n).filter (fun i => m.testBit i)

/-- A free data entry in one of the Rind's banks (R144). -/
def freeEntry (c : Cave) (rind : Nat) : Option Nat :=
  let used := c.entries.map (fun e => e.1)
  (bitsOf (rcBanks (rcfgOf c rind)) 24).findSome? (fun b =>
    let i := firstFree (used.filter (fun u => u / 8192 == b)) (8192 * b)
    if i < 8192 * (b + 1) then some i else none)

/-- The sectors that use a data entry. -/
def sharers (c : Cave) (e : Nat) : List Nat := (c.sectors.filter (fun t => t.2.entry == e)).map (fun t => t.1)

/-- The entry that the clock chooses: the next one in the Rind's banks none of whose tags is pinned, but never the one
given (R144). -/
def clockEntry (c : Cave) (rind : Nat) (but : Option Nat) : Option Nat :=
  let own := (c.entries.filter (fun e => e.2.rind == rind && (rcBanks (rcfgOf c rind)).testBit (e.1 / 8192)
    && but != some e.1)).map (fun e => e.1)
  let ok := own.filter (fun e => (sharers c e).all (fun q =>
    match tfind c.sectors q with | some t => !t.col | none => true))
  let h := tget 0 c.clock rind
  (ok.find? (fun e => decide (h < e))).or ok.head?

/-- A new private data entry for a Rind: the state and its number (R144). -/
def allocEntry (s : State) (die rind : Nat) (but : Option Nat) : Option (State × Nat) :=
  let new : CEntry := { rind := rind, rc := 1, hashed := false, hash := 0, slot := none }
  match freeEntry (getCave s die) rind with
  | some i => some (modCave s die (fun c => { c with entries := tput c.entries i new }), i)
  | none =>
    match clockEntry (getCave s die) rind but with
    | none => none
    | some i =>
      let s := (sharers (getCave s die) i).foldl (fun s q => evictSector s die q) s
      some (modCave s die (fun c =>
        { c with entries := tput c.entries i new, clock := tput c.clock rind i }), i)

/-- A tag for a sector: found, or allocated with a private entry in the LRU unpinned way (R144). None: the Rind
has no ways, or every way of the set or every entry of its banks is pinned, and the line passes through (log 63). plain:
the page that the line belongs to is of kind 0, or there is none (R146). -/
def tagFor (s : State) (die sec : Nat) (plain : Bool) : Option State :=
  let c := getCave s die
  match tfind c.sectors sec with
  | some t => some (modCave s die (fun c =>
      { c with sectors := tput c.sectors sec { t with used := s.tick, plain := t.plain && plain } }))
  | none =>
    let rind := ownerRind s (sec * 1024)
    let ways := bitsOf (rcWays (rcfgOf c rind)) 12
    let here := c.sectors.filter (fun t => caveSet t.1 == caveSet sec && ways.contains t.2.way)
    let pick : Option (Nat × Option Nat) :=
      match ways.find? (fun w => here.all (fun t => t.2.way != w)) with
      | some w => some (w, none)
      | none =>
        let old := here.filter (fun t => !t.2.col)
        (old.find? (fun t => old.all (fun u => decide (t.2.used ≤ u.2.used)))).map (fun t => (t.2.way, some t.1))
    match pick with
    | none => none
    | some (w, victim) =>
      let s := match victim with
        | some q => evictSector s die q
        | none => s
      (allocEntry s die rind none).map (fun r =>
        let t : Sector := { rind := rind, way := w, valid := 0, validLo := 0, col := false, entry := r.2, used := s.tick, plain := plain }
        modCave r.1 die (fun c => { c with sectors := tput c.sectors sec t }))

/-- A write into a sector or a fill of one of its lines: a shared entry is un-shared first, a private one loses its hash
(R148, R149). When no other entry can be had, the other sectors of the shared one are evicted; when one of them is
pinned, the sector itself is dropped, and unpinned (log 63). -/
def caveWrite (s : State) (die sec : Nat) : State :=
  match tfind (getCave s die).sectors sec with
  | none => s
  | some t =>
    match tfind (getCave s die).entries t.entry with
    | none => s
    | some e =>
      if 2 ≤ e.rc then
        match allocEntry s die t.rind (some t.entry) with
        | some (s, i) =>
          modCave s die (fun c =>
            let c := dropEntry c t.entry
            let c := match tfind c.entries i with
              | some n => { c with entries := tput c.entries i { n with bad := e.bad } }
              | none => c
            queueHash (caveCount { c with sectors := tput c.sectors sec { t with entry := i } } t.rind 7) sec)
        | none =>
          let others := (sharers (getCave s die) t.entry).filter (fun q => q != sec)
          if others.any (fun q => match tfind (getCave s die).sectors q with | some u => u.col | none => false) then
            evictSector (if t.col then modCave s die (fun c => caveCount c t.rind 9) else s) die sec
          else
            let s := others.foldl (fun s q => evictSector s die q) s
            modCave s die (fun c => queueHash
              { c with entries := tput c.entries t.entry { e with rc := 1, hashed := false, slot := none } } sec)
      else
        modCave s die (fun c => queueHash
          { c with entries := tput c.entries t.entry { e with hashed := false, slot := none } } sec)

/-! ### Fills and stores at a slice -/

/-- How an access goes: whether it allocates in the L1 and L2 (R51), the launch that its energy is counted for, and
whether its page is of kind 0 or it has none (R146). -/
structure Via where
  nalloc : Bool := false
  launch : Option Nat := none
  plain : Bool := true
deriving DecidableEq, Repr

/-- A sector's tag changed. -/
def modSector (s : State) (die sec : Nat) (f : Sector → Sector) : State :=
  modCave s die (fun c => match tfind c.sectors sec with
    | none => c
    | some t => { c with sectors := tput c.sectors sec (f t) })

/-- The rows of a sector's data entry that a test keeps are the bad ones left. -/
def keepBad (s : State) (die sec : Nat) (f : Nat → Bool) : State :=
  modCave s die (fun c => match tfind c.sectors sec with
    | none => c
    | some t => match tfind c.entries t.entry with
      | none => c
      | some e => { c with entries := tput c.entries t.entry { e with bad := e.bad.filter f } })

/-- A line of a slice made invalid: the image that it held goes with it. -/
def clearLine (s : State) (die line : Nat) : State :=
  forgetCave (modSector s die (line / 8) (fun t => t.clear line)) (line * 128) 128

/-- The halves of a line filled at a slice where they are missing: the granules are read and counted once (R79, R144, R257).
With an uncorrectable half the line stays invalid. Without a tag the line passes through the transit buffer, which
reads what the access needs (R142). -/
def caveFill (s : State) (die line : Nat) (need : Need) (via : Via) : State :=
  if !caveHolds (line * 128) then s
  else match tagFor s die (line / 8) via.plain with
    | none => readHalves s (lineHalves s line need) via.launch
    | some s =>
      match tfind (getCave s die).sectors (line / 8) with
      | none => s
      | some t =>
        let n := t.missing line (need.cached line)
        if !n.hi && !n.lo then s
        else
          let hs := lineHalves s line n
          let bad := hs.any (halfBad s)
          let s := readHalves s hs via.launch
          if bad then s
          else
            let s := caveWrite s die (line / 8)
            let s := keepBad (modSector s die (line / 8) (fun t => t.fill line n)) die (line / 8) (fun r => r / 4 != line % 8)
            modCave s die (fun c => queueHash c (line / 8))

/-- A line is whole and correct at the level that a fill from the slice takes it from. -/
def lineGood (s : State) (die line : Nat) (need : Need) : Bool :=
  let held := caveNeed s die line
  (caveBad s die line).isEmpty && !(lineHalves s line { hi := need.hi && !held.hi, lo := need.lo && !held.lo }).any (halfBad s)

/-- Bytes of one line written at a slice: kept there, or passed on to memory when the slice holds no tag for the
line (R142). whole: the halves of the line that the writer holds, so that no fill is needed (R144). -/
def caveStore (s : State) (die line : Nat) (whole : Need) (cells : List (Nat × Byte)) (via : Via) : State :=
  let s := if whole.hi || whole.lo then (tagFor s die (line / 8) via.plain).getD s else s
  let fresh := !caveHas s die line whole
  let s := caveWrite s die (line / 8)
  let s := modSector s die (line / 8) (fun t => t.fill line whole)
  let s := if fresh && caveHas s die line whole then { s with cavHeld := overCopy s.topHeld s.cavHeld (line * 128) 128 } else s
  let full := fun (r : Nat) => (cells.filter (fun e => e.1 % 1024 / 32 == r)).length == 32
  let s := keepBad s die (line / 8) (fun r => !((whole.hi && whole.lo && r / 4 == line % 8) || full r))
  let s := { s with cav := cells.foldl (fun t e => tput t e.1 e.2) s.cav }
  if caveHas s die line (needOf (cells.map (fun e => e.1)) |>.cached line) then
    modCave s die (fun c => queueHash c (line / 8))
  else flushLine s die line whole via.launch

/-! ### L1 and L2 (R137 to R139) -/

/-- The core whose L1 holds a line homed at a core (R138). -/
def l1Core (s : State) (home line : Nat) : Nat :=
  if (getCluster s (coreCluster home)).fused then coreCluster home * 8 + line % 8 else home

/-- The L1 set of a line (R137, R138). -/
def l1Set (s : State) (cn line : Nat) : Nat :=
  if (getCluster s (coreCluster cn)).fused then line / 8 % 64 else line % 64

/-- Keys of the L1 and L2 tables. -/
def l1Key (cn line : Nat) : Nat := line * 2048 + cn
def l2Key (cl line : Nat) : Nat := line * 256 + cl

/-- A line of an L1 or L2 as a fill enters it. -/
def newLine (rep : Option (BitVec 1024)) (need : Need) : Line :=
  { replica := rep, hi := need.hi, lo := need.lo }

/-- The halves of a line that an L1 or L2 holds. -/
def Line.has (l : Line) (n : Need) : Bool := (!n.hi || l.hi) && (!n.lo || l.lo)

/-- The home copy of a line in an L2, and the core of its cluster whose L1 holds one. -/
def l2Home (s : State) (cl line : Nat) : Option Line :=
  (tfind s.l2 (l2Key cl line)).filter (fun l => l.replica.isNone)
def l1Home (s : State) (cl line : Nat) : Option (Nat × Line) :=
  (List.range 8).findSome? (fun i =>
    ((tfind s.l1 (l1Key (8 * cl + i) line)).filter (fun l => l.replica.isNone)).map (fun l => (8 * cl + i, l)))

/-- An entry of an L1 or L2 changed. -/
def modL1 (s : State) (cn line : Nat) (f : Line → Line) : State :=
  match tfind s.l1 (l1Key cn line) with
  | none => s
  | some l => { s with l1 := tput s.l1 (l1Key cn line) (f l) }
def modL2 (s : State) (cl line : Nat) (f : Line → Line) : State :=
  match tfind s.l2 (l2Key cl line) with
  | none => s
  | some l => { s with l2 := tput s.l2 (l2Key cl line) (f l) }

/-- The L2 of a cluster's home copy of a line holds the halves needed. -/
def l2Has (s : State) (cl line : Nat) (need : Need) : Bool :=
  match l2Home s cl line with
  | some l => l.has need
  | none => false

/-- A line leaves an L1: its dirty bytes stay in the L2. With an uncorrectable group in a dirty line there is no consumer:
the dirty data is dropped and the frame quarantined (R141). -/
def l1Evict (s : State) (cn line : Nat) : State :=
  match tfind s.l1 (l1Key cn line) with
  | none => s
  | some l =>
    let s := { s with l1 := tdel s.l1 (l1Key cn line) }
    if l.replica.isSome || !l.dirty then s
    else if l.bad.isEmpty then modL2 s (coreCluster cn) line (fun m => { m with dirty := true, bad := [] })
    else quarantineAll { s with top := overDrop s.top (line * 128) 128 } [line * 128]

/-- The dirty bytes of a line written from the L2 of its home cluster to the Cave of the home die (R139). An
uncorrectable group of a dirty line has no consumer: its data is dropped and its frame quarantined (R141). -/
def topFlush (s : State) (cl line : Nat) (via : Via) : State :=
  let a := line * 128
  let dirty := overIn s.top a 128
  if dirty.isEmpty then s
  else
    let l1 := l1Home s cl line
    let bad := match l1 with
      | some (_, (l : Line)) => if l.dirty then l.bad else ((l2Home s cl line).map Line.bad).getD []
      | none => ((l2Home s cl line).map Line.bad).getD []
    let whole : Need := match l2Home s cl line with
      | some l => { hi := l.hi, lo := l.lo }
      | none => { hi := false, lo := false }
    let s := { s with top := overDrop s.top a 128 }
    let s := match l1 with
      | some (cn, _) => modL1 s cn line (fun l => { l with dirty := false })
      | none => s
    let s := modL2 s cl line (fun l => { l with dirty := false })
    if bad.isEmpty then caveStore s (clusterDie cl) line whole dirty via else quarantineAll s [a]

/-- A line removed from an L2 and from the L1 of its cluster that holds it, after its dirty bytes have gone to the
Cave (R139). A replica only leaves. -/
def l2Evict (s : State) (cl line : Nat) (via : Via) : State :=
  match l2Home s cl line with
  | none => { s with l2 := tdel s.l2 (l2Key cl line) }
  | some _ =>
    let s := match l1Home s cl line with
      | some (cn, _) => l1Evict s cn line
      | none => s
    let s := forgetTop (topFlush s cl line via) line
    { s with l2 := tdel s.l2 (l2Key cl line) }

/-- A line entered in a cluster's L2; when its set is full, a victim chosen freely leaves (R139; log 7). A home copy
gains the halves filled and takes the place of a replica; a replica never takes that of a home copy. -/
def l2Insert (s : State) (cl line : Nat) (rep : Option (BitVec 1024)) (need : Need) (via : Via) : State :=
  match tfind s.l2 (l2Key cl line) with
  | some l =>
    if l.replica.isNone then
      if rep.isSome then s
      else { s with l2 := tput s.l2 (l2Key cl line) { l with hi := l.hi || need.hi, lo := l.lo || need.lo } }
    else { s with l2 := tput s.l2 (l2Key cl line) (newLine rep need) }
  | none =>
    let same := s.l2.filter (fun e => e.1 % 256 == cl && e.1 / 256 % 2048 == line % 2048)
    let s := if same.length < 16 then s
      else l2Evict s cl ((same.map (fun e => e.1 / 256)).getD (Config.choice 2 s.tick % same.length) 0) via
    { s with l2 := tput s.l2 (l2Key cl line) (newLine rep need) }

/-- A line entered in a core's L1; a victim chosen freely leaves a full set (R137; log 7). -/
def l1Insert (s : State) (cn line : Nat) (rep : Option (BitVec 1024)) (need : Need) : State :=
  match tfind s.l1 (l1Key cn line) with
  | some l =>
    if l.replica.isNone then
      if rep.isSome then s
      else { s with l1 := tput s.l1 (l1Key cn line) { l with hi := l.hi || need.hi, lo := l.lo || need.lo } }
    else { s with l1 := tput s.l1 (l1Key cn line) (newLine rep need) }
  | none =>
    let same := s.l1.filter (fun e => e.1 % 2048 == cn && l1Set s cn (e.1 / 2048) == l1Set s cn line)
    let s := if same.length < 8 then s
      else l1Evict s cn ((same.map (fun e => e.1 / 2048)).getD (Config.choice 1 s.tick % same.length) 0)
    { s with l1 := tput s.l1 (l1Key cn line) (newLine rep need) }

/-- No group of the home copy in an L2 is uncorrectable, so that an L1 may be filled from it (R25, R141). -/
def l2Good (s : State) (cl line : Nat) : Bool :=
  match l2Home s cl line with
  | some l => l.bad.isEmpty
  | none => true

/-- The line's data brought onto its home path for an access (R15, R139, R144). An access with nalloc allocates in neither
L1 nor L2, and neither does a line that a fill could not bring whole and correct. -/
def homeFill (s : State) (home line : Nat) (need : Need) (via : Via) : State :=
  let cl := coreCluster home
  let need := if via.nalloc then need else need.cached line
  if l2Has s cl line need then
    if via.nalloc || !l2Good s cl line then s else l1Insert s (l1Core s home line) line none need
  else
    let s := caveFill s (clusterDie cl) line need via
    if via.nalloc || !lineGood s (clusterDie cl) line need then s
    else l1Insert (l2Insert s cl line none need via) (l1Core s home line) line none need

/-! ### Errors on the way to the bytes (R89, R120, R141, R327) -/

/-- The way an access takes: the die whose Cave slice performs it, and the cluster whose L1s and L2 stand before the slice. -/
structure Path where
  die : Nat
  cl  : Option Nat
deriving DecidableEq, Repr

/-- The path of the accesses of a home core, and that of accesses performed at a slice. -/
def homePath (home : Nat) : Path := { die := clusterDie (coreCluster home), cl := some (coreCluster home) }
def slicePath (die : Nat) : Path := { die := die, cl := none }

/-- Bytes touch a bad unit: 8-byte groups of a line, 32-byte rows of a sector. -/
def touchesGroup (bad : List Nat) (addrs : List Nat) : Bool := addrs.any (fun a => bad.contains (a % 128 / 8))
def touchesRow (bad : List Nat) (addrs : List Nat) : Bool := addrs.any (fun a => bad.contains (a % 1024 / 32))

/-- A unit of n bytes that the bytes touch and do not cover is bad, so that a store would merge into it. -/
def mergesInto (bad : List Nat) (n : Nat) (unit : Nat → Nat) (addrs : List Nat) : Bool :=
  bad.any (fun b => let k := (addrs.filter (fun a => unit a == b)).length; decide (0 < k) && decide (k < n))

/-- The copy in an L1 or L2 that an access finds first, and whether one of them holds a byte. -/
def topLine (s : State) (p : Path) (line : Nat) : Option Line :=
  p.cl.bind (fun cl => ((l1Home s cl line).map (fun e => e.2)).or (l2Home s cl line))
def topHolds (s : State) (p : Path) (line a : Nat) : Bool :=
  match p.cl.bind (fun cl => l2Home s cl line) with
  | some l => Need.holds { hi := l.hi, lo := l.lo } a
  | none => false

/-- A clean copy of a line with an uncorrectable error in what the access reads is invalidated at its level, from the L1
down, so that the access refetches it (R141). An L1 gives the bytes asked for; an L2 under it and a slice under an L2 give
the whole line to the level above. -/
def scrubLine (s : State) (p : Path) (line : Nat) (addrs : List Nat) : State :=
  let s := match p.cl with
    | none => s
    | some cl =>
      let s := match l1Home s cl line with
        | some (cn, l) => if touchesGroup l.bad addrs && !l.dirty then { s with l1 := tdel s.l1 (l1Key cn line) } else s
        | none => s
      match l1Home s cl line, l2Home s cl line with
      | none, some l => if !l.bad.isEmpty && !l.dirty then forgetTop { s with l2 := tdel s.l2 (l2Key cl line) } line else s
      | _, _ => s
  let met := if p.cl.isSome then !(caveBad s p.die line).isEmpty else touchesRow (caveBad s p.die line) addrs
  if addrs.all (topHolds s p line) then s
  else if met && (overIn s.cav (line * 128) 128).isEmpty then clearLine s p.die line
  else s

/-- The lines that bytes lie in. -/
def linesOf (addrs : List Nat) : List Nat := (addrs.map (fun a => a / 128)).eraseDups
def inLine (addrs : List Nat) (line : Nat) : List Nat := addrs.filter (fun a => a / 128 == line)

def scrub (s : State) (p : Path) (addrs : List Nat) : State :=
  (linesOf addrs).foldl (fun s l => scrubLine s p l (inLine addrs l)) s

/-- The bytes that no L1 or L2 holds cannot be corrected where they are read: a row of the Cave, or a half of a granule. -/
def lowBad (s : State) (p : Path) (line : Nat) (addrs : List Nat) : Bool :=
  let held := fun (a : Nat) => (caveNeed s p.die line).holds a
  touchesRow (caveBad s p.die line) (addrs.filter held) || (byteHalves s (addrs.filter (fun a => !held a))).any (halfBad s)

/-- The bytes of a line that an access reads cannot be corrected at the levels that serve them: a group of an L1 or L2, a
row of the Cave, or a half of a granule. -/
def lineBad (s : State) (p : Path) (line : Nat) (addrs : List Nat) : Bool :=
  match topLine s p line with
  | some l =>
    let held := fun (a : Nat) => Need.holds { hi := l.hi, lo := l.lo } a
    touchesGroup l.bad (addrs.filter held) || lowBad s p line (addrs.filter (fun a => !held a))
  | none => lowBad s p line addrs

/-- Bytes that an access reads cannot be corrected (R120). -/
def dataBad (s : State) (p : Path) (addrs : List Nat) : Bool := (linesOf addrs).any (fun l => lineBad s p l (inLine addrs l))

/-- A unit of n bytes that the bytes do not cover is bad, so that a line which they join would not be whole. -/
def leavesBad (bad : List Nat) (n : Nat) (unit : Nat → Nat) (addrs : List Nat) : Bool :=
  bad.any (fun b => (addrs.filter (fun a => unit a == b)).length != n)

/-- The addresses whose frames a store to bytes of a line quarantines because below the L1s and L2s it would merge into
uncorrectable data: the line of a slice, the whole of which an L2 would be filled with, or the halves of the fill that do
not correct and are not written whole (R120, R327). -/
def lowMerge (s : State) (p : Path) (line : Nat) (addrs : List Nat) : List Nat :=
  let held := caveNeed s p.die line
  let need := (needOf addrs).cached line
  let merges := if p.cl.isSome then leavesBad else mergesInto
  let rows := merges (caveBad s p.die line) 32 (fun a => a % 1024 / 32) addrs
  let below := lineHalves s line { hi := need.hi && !held.hi, lo := need.lo && !held.lo }
  (if rows then [line * 128] else [])
    ++ below.filter (fun h => halfBad s h && (addrs.filter (fun a => a / 64 * 64 == h)).length != 64)

/-- The same at every level: an L1 takes the store into its own groups, and is filled from the whole line of the L2. -/
def mergeBad (s : State) (p : Path) (line : Nat) (addrs : List Nat) : List Nat :=
  match topLine s p line with
  | some l =>
    let inL1 := (p.cl.bind (fun cl => l1Home s cl line)).isSome
    let groups := (if inL1 then mergesInto else leavesBad) l.bad 8 (fun a => a % 128 / 8) addrs
    let held := fun (a : Nat) => Need.holds { hi := l.hi, lo := l.lo } a
    (if groups then [line * 128] else [])
      ++ (if addrs.all held then [] else lowMerge s p line (addrs.filter (fun a => !held a)))
  | none => lowMerge s p line addrs

/-- The same of bytes in several lines. -/
def storeBad (s : State) (p : Path) (addrs : List Nat) : List Nat := (linesOf addrs).flatMap (fun l => mergeBad s p l (inLine addrs l))

/-! ### Accesses at their homes -/

/-- The sector's orientation bit at its home die (R151). -/
def colBit (s : State) (die a : Nat) : Bool :=
  match tfind (getCave s die).sectors (a / 1024) with
  | some t => t.col
  | none => false

/-- The stored address of byte t of a sector in the column view (R150). -/
def colAddr (a : Nat) : Nat :=
  let t := a % 1024
  a / 1024 * 1024 + 32 * (t % 128 / 4) + 4 * (t / 128) + t % 4

/-- The stored addresses of n bytes under a view (R150, R151). -/
def viewAddrs (a n : Nat) (col : Bool) : List Nat :=
  (List.range n).map (fun i => if col then colAddr (a + i) else a + i)

/-- A sector's lines recalled from the L1s and L2s of its home (R152). -/
def recallSector (s : State) (home sec : Nat) (via : Via) : State :=
  (List.range 8).foldl (fun s i => l2Evict s (coreCluster home) (8 * sec + i) via) s

/-- A host line enters the 1 MiB cache of the host-link unit; a victim chosen freely leaves a full one, its modified bytes
returning to host memory (R407; log 7). -/
def hostEnter (s : State) (line : Nat) : State :=
  if s.hostLines.contains line then s
  else if s.hostLines.length < 8192 then { s with hostLines := s.hostLines ++ [line] }
  else
    let i := Config.choice 3 s.tick % s.hostLines.length
    let a := s.hostLines.getD i 0 * 128
    { putCells s (overIn s.top a 128) with
      top := overDrop s.top a 128
      hostLines := dropNth s.hostLines i ++ [line] }

/-- Bytes read at the Cave slice of a die, each line filled where it is missing (R152, R437). none: they cannot be
corrected (R120). -/
def sliceBytes (s : State) (die : Nat) (addrs : List Nat) (via : Via) : State × Option (List Byte) :=
  let s := scrub s (slicePath die) addrs
  let bad := dataBad s (slicePath die) addrs
  let s := (linesOf addrs).foldl (fun s l => caveFill s die l (needOf (inLine addrs l)) via) s
  (s, if bad || dataBad s (slicePath die) addrs then none else some (addrs.map (caveByte s)))

/-- The same as a vector. -/
def sliceRead (s : State) (die : Nat) (addrs : List Nat) (via : Via) : State × Option Vec :=
  match sliceBytes s die addrs via with
  | (s, v) => (s, v.map (ofBytes 512))

/-- Bytes written at the Cave slice of a die. A store that would merge into uncorrectable data is discarded, and the
frame quarantined (R120, R327). -/
def sliceWrite (s : State) (die : Nat) (cells : List (Nat × Byte)) (via : Via) : State :=
  let addrs := cells.map (fun e => e.1)
  let s := scrub s (slicePath die) addrs
  let s := (linesOf addrs).foldl (fun s l => caveFill s die l (needOf (inLine addrs l)) via) s
  match storeBad s (slicePath die) addrs with
  | [] => (linesOf addrs).foldl (fun s l =>
      caveStore s die l { hi := false, lo := false } (cells.filter (fun e => e.1 / 128 == l)) via) s
  | hs => quarantineAll s hs

/-- An access in the column view or to a column sector is performed at the slice, after the recall of a row sector (R152). -/
def toSlice (s : State) (home a : Nat) (via : Via) : State :=
  if colBit s (clusterDie (coreCluster home)) a then s else recallSector s home (a / 1024) via

/-- The bytes of a scratchpad at some addresses can be corrected (R164). -/
def scratchGood (s : State) (addrs : List Nat) : Bool := !(byteHalves s addrs).any (halfBad s)

/-- n bytes of a line read at its home under a view (R130, R151, R152), whole in one step (log 64), with one fill (R257).
none: they cannot be corrected (R120). -/
def homeBytes (s : State) (home a n : Nat) (col : Bool) (via : Via) : State × Option (List Byte) :=
  match windowOf a with
  | .scratch => (s, if scratchGood s (viewAddrs a n false) then some (readBytes s a n) else none)
  | .host => (hostEnter s (a / 128), some (readBytes s a n))
  | _ =>
    if col || colBit s (clusterDie (coreCluster home)) a then
      sliceBytes (toSlice s home a via) (clusterDie (coreCluster home)) (viewAddrs a n col) via
    else
      let addrs := viewAddrs a n false
      let s := scrub s (homePath home) addrs
      let s := homeFill s home (a / 128) (needOf addrs) via
      (s, if dataBad s (homePath home) addrs then none else some (readBytes s a n))

/-- The same as a vector. -/
def homeRead (s : State) (home a n : Nat) (col : Bool) (via : Via) : State × Option Vec :=
  match homeBytes s home a n col via with
  | (s, v) => (s, v.map (ofBytes 512))

/-- Whole groups of a scratchpad filled from an address on: a message image or a ring element (R164, R197, R333). -/
def scratchPut (s : State) (a : Nat) (bs : List Byte) : State :=
  let keep := fun (p : Nat) => !(decide (2 ^ 60 + a / 8 ≤ p) && decide (p < 2 ^ 60 + (a + bs.length) / 8))
  { s with mem := memPuts s.mem a bs, badMem := s.badMem.filter keep, softMem := s.softMem.filter keep }

/-- The enabled bytes of a store as cells of addresses. -/
def cellsOf (addr : Nat → Nat) (n : Nat) (data : Vec) (be : BitVec 64) : List (Nat × Byte) :=
  ((List.range n).filter (fun i => be.getLsbD i)).map (fun i => (addr i, (data >>> (8 * i)).setWidth 8))

/-- Bytes of one line written in the L1 or L2 of its home: the copy that serves the line becomes dirty, and a group
written whole holds a correct code again. -/
def topWrite (s : State) (cl line : Nat) (cells : List (Nat × Byte)) : State :=
  let full := fun (g : Nat) => (cells.filter (fun e => e.1 % 128 / 8 == g)).length == 8
  let touch := fun (l : Line) => { l with dirty := true, bad := l.bad.filter (fun g => !full g) }
  let s := match l1Home s cl line with
    | some (cn, _) => modL1 s cn line touch
    | none => modL2 s cl line touch
  { s with top := cells.foldl (fun t e => tput t e.1 e.2) s.top }

/-- Bytes written to a scratchpad (R164): a group written whole holds a correct code again; a write that must merge with a group
that cannot be corrected is not made, and its frame is quarantined (R25, R120). -/
def scratchWrite (s : State) (cells : List (Nat × Byte)) : State :=
  let cover := fun (h : Nat) => (cells.filter (fun e => e.1 / 8 * 8 == h)).length == 8
  let hs := byteHalves s (cells.map (fun e => e.1))
  match hs.filter (fun h => halfBad s h && !cover h) with
  | [] => putCells ((hs.filter cover).foldl healHalf s) cells
  | bad => quarantineAll s bad

/-- n bytes written at the home of a line under a view (R130, R151 to R153), whole in one step (log 64). -/
def homeWrite (s : State) (home a n : Nat) (data : Vec) (be : BitVec 64) (col : Bool) (via : Via) : State :=
  match windowOf a with
  | .scratch => scratchWrite s (cellsOf (fun i => a + i) n data be)
  | .host =>
    let s := hostEnter s (a / 128)
    { s with top := (cellsOf (fun i => a + i) n data be).foldl (fun t e => tput t e.1 e.2) s.top }
  | _ =>
    let cells := cellsOf (fun i => if col then colAddr (a + i) else a + i) n data be
    if col || colBit s (clusterDie (coreCluster home)) a then
      sliceWrite (toSlice s home a via) (clusterDie (coreCluster home)) cells via
    else
      let addrs := cells.map (fun e => e.1)
      let s := scrub s (homePath home) addrs
      let s := homeFill s home (a / 128) (needOf addrs) via
      match storeBad s (homePath home) addrs with
      | [] =>
        if l2Has s (coreCluster home) (a / 128) (needOf addrs |>.cached (a / 128)) then topWrite s (coreCluster home) (a / 128) cells
        else caveStore s (clusterDie (coreCluster home)) (a / 128) { hi := false, lo := false } cells via
      | hs => quarantineAll s hs

/-- The addresses whose frames a prefetch fill of a line quarantines: those of the halves that it reads and cannot correct,
and the line itself when a dirty copy that it reads cannot be corrected (R89, R141, R159). -/
def prefBad (s : State) (p : Path) (line : Nat) : List Nat :=
  match topLine s p line with
  | some l => (if l.bad.isEmpty then [] else [line * 128])
      ++ (if l.hi && l.lo then [] else low { hi := !l.hi, lo := !l.lo })
  | none => low {}
where
  /-- What lies below the L1s and L2s, of the halves needed. -/
  low (n : Need) : List Nat :=
    let held := caveNeed s p.die line
    (if (caveBad s p.die line).isEmpty then [] else [line * 128])
      ++ (lineHalves s line { hi := n.hi && !held.hi, lo := n.lo && !held.lo }).filter (halfBad s)

/-! ### Physical words without a leaf -/

/-- The path on which a line named by a physical address alone is found as its latest write left it (log 19, log 67): the L2
that holds a home copy, and the slice that holds its sector, else that of the die that stores it (R437). -/
def pathOf (s : State) (a : Nat) : Path :=
  match topCluster s (a / 128) with
  | some cl => homePath (8 * cl)
  | none => slicePath (((List.range 4).find? (fun d => (tfind (getCave s d).sectors (a / 1024)).isSome)).getD (storageDie s a))

/-- Bytes of one line read for a walker, a scanner or a Ladle that names them by a physical address alone (R102). With no
hint, a sector whose bit is column is read in the column view, at its slice (R151, R152). -/
def physRead (s : State) (addrs : List Nat) (via : Via) : State × Option (List Byte) :=
  let a := addrs.headD 0
  let p := pathOf s a
  if colBit s p.die a then sliceBytes s p.die (addrs.map colAddr) via
  else
    let s := scrub s p addrs
    let s := if p.cl.isSome then s else caveFill s p.die (a / 128) (needOf addrs) via
    (s, if dataBad s p addrs then none else some (addrs.map (readByte s)))

/-- Bytes of one line written so. -/
def physWrite (s : State) (cells : List (Nat × Byte)) (via : Via) : State :=
  let addrs := cells.map (fun e => e.1)
  let a := addrs.headD 0
  let p := pathOf s a
  if colBit s p.die a then sliceWrite s p.die (cells.map (fun e => (colAddr e.1, e.2))) via
  else
    let s := scrub s p addrs
    match topCluster s (a / 128) with
    | some cl => match storeBad s p addrs with
      | [] => topWrite s cl (a / 128) cells
      | hs => quarantineAll s hs
    | none => sliceWrite s p.die cells via

/-! ### Hash changes (R71) -/

/-- A stack's registers after a change of its hash. No stored byte moves: it appears at the address that the new hash gives
to its place. -/
def rehash (s : State) (i : Nat) (new : Stack) : State := modStack s i (fun _ => new)

end Sys2Proof.Machine
end

