-- ==== Sys2Proof/Machine/Xlat.lean ====
section
/-!
DEFINITION. Translation (R90 to R111): the walk, the checks of R99, first touch, twin selection, the TLBs, and
the code-page scanner (R57 to R60).
-/

namespace Sys2Proof.Machine

/-- What a translation yields. -/
structure Xl where
  /-- The physical address, node included (R64), and the virtual one. -/
  pa : Nat
  va : Dword := 0
  entry : Dword
  comp : BitVec 128
  shift : Nat
  slot : Nat
deriving DecidableEq, Repr

/-- The node of a physical address (R64). -/
def paNode (pa : Nat) : Nat := pa / 2 ^ 45 % 4096
/-- The local part of a physical address. -/
def paLocal (pa : Nat) : Nat := pa % 2 ^ 45
/-- A physical address on this package. -/
def isLocal (s : State) (pa : Nat) : Bool := paNode pa == s.node

/-! ### The fabric (R413, R414) -/

/-- A header of the Kealia link (R413). -/
def fabHeader (s : State) (dnode srind len op size ordsc tag err addr : Nat) : BitVec 128 :=
  BitVec.ofNat 128 (dnode % 4096 * 2 ^ 116 + s.node * 2 ^ 104 + srind % 16 * 2 ^ 100 + len % 16 * 2 ^ 96
    + op % 64 * 2 ^ 90 + size % 8 * 2 ^ 87 + ordsc % 16 * 2 ^ 83 + tag % 65536 * 2 ^ 67 + err % 8 * 2 ^ 64
    + addr % 2 ^ 57)

/-- The ports that lead toward a node (R415): those that are up and stand in the set of their own table's entry, where one is
written. -/
def portsToward (s : State) (node : Nat) : List Nat :=
  (List.range 48).filter (fun p => decide (2 ≤ (tget {} s.kports p).lanes)
    && (match tfind s.routes (4096 * p + node) with
      | some m => m.getLsbD p
      | none => true))

/-- The virtual channel of a packet (R413). -/
def fabChannel (op : Nat) : Nat := if op < 3 ∨ op = 6 then 0 else if op < 6 then 1 else if op < 16 then 2 else 3

/-- The 256 bytes of a flit that carries one packet from slot 1 on (R412; log 37): its header with the sequence number, the
acknowledgement and the credits returned, the packet's slots, the CRC and the parity. credits: how many it returns, which is
free (log 86). -/
def flitImage (seq ack : BitVec 16) (credits : BitVec 32) (q : FabricPacket) : BitVec 2048 :=
  let low : BitVec 1920 := BitVec.ofNat 1920 (seq.toNat + ack.toNat * 2 ^ 16 + credits.toNat * 2 ^ 32 + q.hdr.toNat * 2 ^ 128
    + q.body.toNat * 2 ^ 256)
  let mid : BitVec 1952 := BitVec.ofNat 1952 (low.toNat + (Config.flitCrc low).toNat * 2 ^ 1920)
  BitVec.ofNat 2048 (mid.toNat + (Config.flitParity mid).toNat * 2 ^ 1952)

/-- A port with one more packet on the lanes, held for replay (R412). -/
def KPort.send (x : KPort) (tick : Nat) (q : FabricPacket) (launch : Option Nat) : KPort :=
  let ch := fabChannel (fldN q.hdr 90 6)
  { x with held := x.held ++ [(x.seq, q, launch)], seq := x.seq + 1, sent := tput x.sent ch (tget 0 x.sent ch + 1)
           wire := flitImage x.seq x.rx (fld (Config.freeVec 51 tick) 0 32) q }

/-- A packet leaves by one of the ports that lead to its node, which holds its flit for replay (R412, R415). With no such
port it does not leave. -/
def sendFlit (s : State) (q : FabricPacket) (rind : Nat) (launch : Option Nat) : State :=
  let ps := portsToward s (fldN q.hdr 116 12)
  match ps[Config.choice 50 s.tick % ps.length]? with
  | none => s
  | some p =>
    countEnergy { s with fabOut := s.fabOut ++ [q], kports := tput s.kports p ((tget {} s.kports p).send s.tick q launch) }
      (unitKey 6 p) 7 1 rind launch

/-- The first tag from a number on that no flight awaits an answer under. -/
def freeTag (t : Tab Flight) (from_ : Nat) : Nat → Option Nat
  | 0 => none
  | n + 1 => if (tfind t (from_ % 65536)).isNone then some (from_ % 65536) else freeTag t (from_ + 1) n

/-- A packet sent to another node; the flight awaits the answer under a tag that no other awaits under. With none free the
step is held (R405, R413). Where no port leads to the node, the answer is the link's own (R415). -/
def sendFabric (s : State) (hdr : Nat → BitVec 128) (body : BitVec 640) (f : Option Flight) (rind : Nat)
    (launch : Option Nat) : State :=
  match freeTag s.awaiting s.nextTag.toNat (s.awaiting.length + 1) with
  | none => { s with stalled := true }
  | some t =>
    let q : FabricPacket := { hdr := hdr t, body := body }
    let away := !(portsToward s (fldN q.hdr 116 12)).isEmpty
    let s := sendFlit s q rind launch
    let lost : Flight :=
      { owner := none, ord := { okind := 3, ld := false, st := false, acq := false, rel := false, lo := 0, hi := 0 },
        body := .noRoute t, launch := none }
    { s with
      nextTag := BitVec.ofNat 16 (t + 1)
      net := if f.isSome && !away then s.net ++ [lost] else s.net
      awaiting := match f with
        | some f => tput s.awaiting t f
        | none => s.awaiting }

/-- A load of 64 bytes at an address of another node (R414). -/
def askRemote (s : State) (pa rind : Nat) (f : Flight) (launch : Option Nat) : State :=
  sendFabric s (fun t => fabHeader s (paNode pa) rind 0 0 4 0 t 0 pa) 0 (some f) rind launch

/-- An atomic on a dword of another node (R414): its number (R126), g[b] and, for CAS, g[d]. -/
def atomicRemote (s : State) (pa rind op : Nat) (arg expect : Dword) (f : Option Flight) (launch : Option Nat) : State :=
  sendFabric s (fun t => fabHeader s (paNode pa) rind 2 2 3 0 t 0 pa)
    (BitVec.ofNat 640 (arg.toNat + expect.toNat * 2 ^ 64 + op * 2 ^ 128)) f rind launch

/-- A request of the hardware that awaits another node's answer. -/
def hardwareFlight (launch : Option Nat) (p : Packet) : Flight :=
  { owner := none, ord := { okind := 3, ld := false, st := false, acq := false, rel := false, lo := 0, hi := 0 }, body := p,
    launch := launch }

/-! ### Leaves (R93 to R95) -/

def compRepl (c : BitVec 128) : Bool := bitAt c 64
def compScanned (c : BitVec 128) : Bool := bitAt c 65
def compTwin (c : BitVec 128) : Bool := bitAt c 66
def compOkind (c : BitVec 128) : Nat := fldN c 67 2
def compPkind (c : BitVec 128) : Nat := fldN c 69 3
def compVreg (c : BitVec 128) : Nat := fldN c 72 8
def compHome (c : BitVec 128) : Nat :=
  8 * clusterOf (fldN c 89 2) (fldN c 86 3) (fldN c 83 3) + fldN c 80 3
def compHomeset (c : BitVec 128) : Bool := bitAt c 91
def compGroup (c : BitVec 128) (g : Nat) : Bool := bitAt c (96 + g)

/-- The home core of a translated access: the owner of the scratchpad for kind 3, else the companion word's
home (R96). -/
def Xl.home (x : Xl) : Nat := if compPkind x.comp = 3 then scratchCore (paLocal x.pa) else compHome x.comp
def Xl.pkind (x : Xl) : Nat := compPkind x.comp
def Xl.okind (x : Xl) : Nat := compOkind x.comp

/-- ecause.acc of an access kind (R378). -/
def accCode : AccKind → Nat
  | .load => 1
  | .store => 2
  | .atomic => 3
  | .fetch => 4

/-- Bits 63:48 equal bit 47 (R90). -/
def canonical (va : Dword) : Bool := fldN va 47 17 == 0 || fldN va 47 17 == 2 ^ 17 - 1

/-- The page shift of a leaf at a level (R91). -/
def levelShift (lv : Nat) : Nat :=
  match lv with
  | 0 => 16
  | 1 => 21
  | 2 => 30
  | _ => 39

/-- The slot index of a level (R91). -/
def levelIndex (va : Dword) (lv : Nat) : Nat :=
  if lv = 0 then fldN va 16 5 else fldN va (levelShift lv) 9

/-- The range that the page kind requires of a frame (R95), by its window alone for kinds 1 to 4, also on another node (log 79). -/
def frameOk (s : State) (pkind : Nat) (pa : Nat) : Bool :=
  let w := windowOf (paLocal pa)
  match pkind with
  | 0 => !isLocal s pa || w == .hbm || w == .alias_ || w == .whey
  | 1 => w == .hbm
  | 2 => w == .split
  | 3 => w == .scratch
  | 4 => w == .host
  | _ => false

/-- The frame of a leaf whose page is 2^shift bytes (R93). -/
def leafFrame (entry : Dword) (shift : Nat) : Nat := fldN entry 16 41 * 65536 / 2 ^ shift * 2 ^ shift

/-- A malformed leaf (R95). -/
def leafBad (s : State) (entry : Dword) (comp : BitVec 128) (shift : Nat) : Bool :=
  let k := compPkind comp
  decide (5 ≤ k) || !frameOk s k (leafFrame entry shift)
    || (compTwin comp && (k == 3 || k == 4))
    || (bitAt entry 9 && !compTwin comp)
    || (decide (k ≤ 2) && compHomeset comp && !compGroup comp (coreGroup (compHome comp)))

/-! ### Accesses not yet performed (R132, R402) -/

/-- Whether a packet in flight stands for work of its context that has not been performed. -/
def unperformed (p : Packet) : Bool :=
  match p with
  | .access _ => true
  | .message _ => true
  | .command .. => true
  | .post .. => true
  | .counterRead .. => true
  | .done .. => true
  | .arrival .. => true
  | .steal .. => true
  | .bind .. => true
  | .hoopStep .. => true
  | .descFill .. => true
  -- A refused access counts as performed when its acknowledgement arrives (R167).
  | .ack _ _ dec t => !dec && t.isSome
  | .refill _ t => t.isSome
  | _ => false

/-- A flight of a context. -/
def ownedBy (k : Nat) (f : Flight) : Bool :=
  match f.owner with
  | some (j, _) => j == k
  | none => false

/-- The commands of a context that stand in the inboxes of its cluster: an issue is performed at acceptance (R136). -/
def queuedOf (s : State) (k : Nat) : List Flight :=
  let c := getCluster s (coreCluster (ctxCore k))
  let u := 8 * coreCluster (ctxCore k)
  let fl := fun (key : Nat) (q : Queued) =>
    ({ owner := q.owner, ord := q.ord, body := .command (u + key) q.msg q.body q.launch q.reply, launch := q.launch } : Flight)
  (c.inbox.flatMap (fun e => e.2.map (fl e.1)) ++ c.harp.inbox.map (fl 6)).filter (ownedBy k)

/-- The flights of a context that await an answer of another node. -/
def awaitedOf (s : State) (k : Nat) : List Flight := (s.awaiting.map (fun e => e.2)).filter (ownedBy k)

/-- The flights of a context that have left the package's network and are not performed yet. -/
def awayOf (s : State) (k : Nat) : List Flight := awaitedOf s k ++ queuedOf s k

/-- The flights of a context that are not performed yet. -/
def pendingOf (s : State) (k : Nat) : List Flight :=
  s.net.filter (fun f => unperformed f.body && ownedBy k f) ++ awayOf s k

/-! ### Walks (R91 to R102) -/

/-- Two accesses share a byte (R130, R150). -/
def Ord.overlaps (x y : Ord) : Bool :=
  let bytes := fun (o : Ord) => viewAddrs o.lo (o.hi - o.lo) o.col
  if x.col || y.col then (bytes x).any (bytes y).contains else decide (x.lo < y.hi) && decide (y.lo < x.hi)

/-- A store of one of the contexts that wait for a walk, to bytes of a slot, has not been performed (R402). -/
def ownStore (s : State) (ks : List Nat) (slot : Nat) : Bool :=
  let la := paLocal slot
  let o : Ord :=
    { okind := 3, ld := true, st := false, acq := false, rel := false, lo := slot, hi := slot + 32,
      col := isLocal s slot && colBit s (pathOf s la).die la }
  ks.any (fun k => (pendingOf s k).any (fun f => f.ord.st && f.ord.overlaps o))

/-- The 32 bytes of a slot: one atomic read where the slot lies (R102), after the stores to it of the contexts ks that the walk
is made for (R402). ans: what another node has answered. -/
def slotRead (s : State) (r : Req) (ks : List Nat) (lv t slot : Nat) (ans : Option (Nat × Vec)) :
    State × Except Walk (BitVec 256) :=
  if isLocal s slot && isHole s r.rind (paLocal slot) then (s, .error (.fault 0x17))
  else match ans with
    | some (err, v) =>
      (s, if err = 0 then .ok ((v >>> (8 * (slot % 64))).setWidth 256)
        else .error (.fault (if err = 4 then 0x0E else 0x17)))
    | none =>
      if ownStore s ks slot then (s, .error .wait)
      else if !isLocal s slot then (s, .error (.away lv t))
      else match physRead s ((List.range 32).map (fun i => paLocal slot + i)) { launch := r.launch } with
        | (s, none) => (s, .error (.fault 0x0E))
        | (s, some bs) => (s, .ok (ofBytes 256 bs))

/-- The walk from a level down (R91, R93, R99): the level's slot is read from the table at t; ans belongs to that slot. -/
def walkFrom (s : State) (r : Req) (ks : List Nat) (va : Dword) (lv t : Nat) (ans : Option (Nat × Vec)) : State × Walk :=
  let slot := t + 32 * levelIndex va lv
  match slotRead s r ks lv t slot ans with
  | (s, .error w) => (s, w)
  | (s, .ok b) =>
    let e : Dword := fld b 0 64
    if !bitAt e 0 then (s, .fault 0x10)
    else if bitAt e 1 then
      let c : BitVec 128 := fld b 128 128
      if lv = 3 || leafBad s e c (levelShift lv) then (s, .fault 0x11) else (s, .leaf e c (levelShift lv) slot)
    else match lv with
      | 0 => (s, .fault 0x11)
      | lv' + 1 =>
        let next := fldN e 10 47 * 1024
        walkFrom s r ks va lv' (if lv' = 0 then next else next / 16384 * 16384) none
termination_by structural lv

/-! ### TLBs (R101) -/

/-- The TLB of a core, and that of a cluster. -/
def coreTlb (cn : Nat) : Nat := cn
def clusterTlb (c : Nat) : Nat := 2048 + c

def getTlb (s : State) (u : Nat) : List Tlb := tget [] s.tlbs u
def setTlb (s : State) (u : Nat) (t : List Tlb) : State := { s with tlbs := tput s.tlbs u t }

/-- Whether an entry translates an address for a Rind and ASID. -/
def tlbHit (r : Req) (va : Dword) (t : Tlb) : Bool :=
  t.rind == r.rind && t.asid == r.asid && t.vpage == va.toNat / 2 ^ t.shift

/-- An entry installed, in the L2 TLB in the set of its page number modulo 512 (log 80); a victim chosen freely leaves a full TLB or
set (log 8). -/
def tlbInsert (s : State) (u : Nat) (t : Tlb) : State :=
  let ts := (getTlb s u).filter (fun x => !(x.rind == t.rind && x.asid == t.asid && x.shift == t.shift && x.vpage == t.vpage))
  let same := if u < 2048 then ts else ts.filter (fun x => x.vpage % 512 == t.vpage % 512)
  let cap := if u < 2048 then 128 else 8
  let ts := if same.length < cap then ts
    else match same[Config.choice 3 s.tick % same.length]? with
      | some v => ts.filter (fun x => x != v)
      | none => ts
  setTlb s u (t :: ts)

/-- Every copy of an entry in the package's TLBs of this requester rewritten after a walker's update (R100). -/
def tlbUpdate (s : State) (r : Req) (slot : Nat) (e : Dword) (c : BitVec 128) : State :=
  let f := fun (ts : List Tlb) => ts.map (fun t => if t.slot == slot && t.rind == r.rind then { t with entry := e, comp := c } else t)
  let s := if r.engine then s else setTlb s (coreTlb r.core) (f (getTlb s (coreTlb r.core)))
  setTlb s (clusterTlb (coreCluster r.core)) (f (getTlb s (clusterTlb (coreCluster r.core))))

/-- The entry that a TLB of the requester holds. -/
def tlbFind (s : State) (r : Req) (va : Dword) : Option Tlb :=
  let l2 := (getTlb s (clusterTlb (coreCluster r.core))).find? (tlbHit r va)
  if r.engine then l2 else ((getTlb s (coreTlb r.core)).find? (tlbHit r va)).or l2

/-! ### Version selection (R103, R104) -/

/-- The table that selects twin frames: live for a live launch, else the launch's snapshot. A requester of no launch has no
snapshot: it selects by the live table (log 65). -/
def versionBits (s : State) (r : Req) : BitVec 256 :=
  match r.launch.bind (getLaunch s) with
  | none => (getRind s r.rind).live
  | some l => if bitAt l.block 92 then (getRind s r.rind).live else l.snap

/-- The frame address a leaf selects (R104), as 57 bits. None: the sum leaves the node. -/
def selectFrame (s : State) (r : Req) (entry : Dword) (comp : BitVec 128) (shift : Nat) : Option Nat :=
  let f := leafFrame entry shift
  if compTwin comp then
    if (versionBits s r).getLsbD (compVreg comp) != bitAt entry 9 then
      let a := (f + fldN (getRind s r.rind).twin 30 27 * 2 ^ 30) % 2 ^ 57
      if paNode a = paNode f then some a else none
    else some f
  else some f

/-! ### The checks of R99 -/

/-- A write, and a read, in row 5 of R99. -/
def accWrites (acc : AccKind) : Bool := acc == .store || acc == .atomic
def accReads (acc : AccKind) : Bool := acc == .load || acc == .atomic

/-- Rows 3 to 6 of R99, on the frame that the access uses, when there is one; none when all pass. -/
def checkLeaf (s : State) (r : Req) (acc : AccKind) (entry : Dword) (comp : BitVec 128) (pa : Option Nat) : Option Nat :=
  if !compGroup comp (coreGroup r.core) then some 0x12
  else if (pa.map (fun a => s.quarantine.contains (a / 65536))).getD false then some 0x13
  else if (r.user && !bitAt entry 5) || (accReads acc && !bitAt entry 2) || (accWrites acc && !bitAt entry 3)
      || (acc == .fetch && !bitAt entry 4) then some 0x14
  else if accWrites acc && compRepl comp then some 0x15
  else none

/-- The companion word after first touch by a core (R96). -/
def homeSetTo (comp : BitVec 128) (core : Nat) : BitVec 128 :=
  putFld (putFld comp 80 11 (BitVec.ofNat 11 (coreField core))) 91 1 1

/-- The page has a home in its companion word, or needs none (R96). -/
def homed (comp : BitVec 128) : Bool := compHomeset comp || decide (3 ≤ compPkind comp)

/-- A companion word with the home of another one (R96). -/
def takeHome (comp other : BitVec 128) : BitVec 128 := putFld (putFld comp 80 11 (fld other 80 11)) 91 1 1

/-- The companion word with the home that the access uses: the one stored now, when another walk has set it since the
word was read, else the requester's core (R96). none: the slot read again cannot be corrected (R99). -/
def chosenHome (s : State) (r : Req) (comp : BitVec 128) (slot : Nat) : State × Option (BitVec 128) :=
  if homed comp then (s, some comp)
  else if !isLocal s slot then (s, some (homeSetTo comp r.core))
  else match physRead s ((List.range 16).map (fun i => paLocal slot + 16 + i)) { launch := r.launch } with
    | (s, none) => (s, none)
    | (s, some bs) =>
      let now : BitVec 128 := ofBytes 128 bs
      (s, some (if compHomeset now then takeHome comp now else homeSetTo comp r.core))

/-- The home of a page of this package lies in another Rind: accesses and lines do not cross Rinds (R23; log 66). -/
def foreignHome (s : State) (r : Req) (comp : BitVec 128) (pa : Nat) : Bool :=
  decide (compPkind comp < 3) && isLocal s pa && coreRind s (compHome comp) != some r.rind

/-- Why there is no translation now. -/
inductive NoXl where
  /-- A cause code of R99, or a hole. -/
  | fault (code : Nat)
  /-- The walk is queued or under way (R102). -/
  | walking
deriving DecidableEq, Repr

/-- The checks of an access through a leaf (R99, R104, R65), and what it yields. Nothing is written yet. -/
def useLeaf (s : State) (r : Req) (va : Dword) (acc : AccKind) (e : Dword) (c : BitVec 128) (sh slot : Nat) :
    State × Except NoXl Xl :=
  let pa := (selectFrame s r e c sh).map (fun f => f + va.toNat % 2 ^ sh)
  match checkLeaf s r acc e c pa, pa with
  | some code, _ => (s, .error (.fault code))
  | none, none => (s, .error (.fault 0x17))
  | none, some pa =>
    if isLocal s pa && isHole s r.rind (paLocal pa) then (s, .error (.fault 0x17))
    else
      match chosenHome s r c slot with
      | (s, none) => (s, .error (.fault 0x0E))
      | (s, some c') =>
        if foreignHome s r c' pa then (s, .error (.fault 0x17))
        else (s, .ok { pa := pa, entry := e, comp := c', shift := sh, slot := slot })

/-- The walker's updates after an access that faults nowhere (R96, R100): the bits are set in the word stored now, and the
home in the companion word stored now unless one is set, every other field as it stands. Nothing is to do when the TLB's copy shows it done. A slot of another node takes an atomic OR there. -/
def touchLeaf (s : State) (r : Req) (x : Xl) (acc : AccKind) : State :=
  let bits : Dword := if accWrites acc then 0xC0 else 0x40
  let hit := (tlbFind s r x.va).map (fun t => (t.entry, t.comp))
  if x.entry &&& bits == bits && (hit.map (fun h => homed h.2)).getD (homed x.comp) then s
  else
    let e' := x.entry ||| bits
    let s := if !isLocal s x.slot then 
        (if x.entry &&& bits == bits then s else atomicRemote s x.slot r.rind 4 bits 0 none r.launch)
      else
        let la := paLocal x.slot
        match physRead s ((List.range 32).map (fun i => la + i)) { launch := r.launch } with
        | (s, none) => s
        | (s, some bs) =>
          let b : BitVec 256 := ofBytes 256 bs
          let e : Dword := fld b 0 64
          let c : BitVec 128 := fld b 128 128
          let cells := fun (a : Nat) (v : List Byte) => (List.range v.length).map (fun i => (a + i, v.getD i 0))
          let s := if e &&& bits == bits then s else physWrite s (cells la (bytesOf (e ||| bits) 8)) { launch := r.launch }
          if homed c || !homed x.comp then s else physWrite s (cells (la + 16) (bytesOf (takeHome c x.comp) 16)) { launch := r.launch }
    tlbUpdate s r x.slot e' x.comp

/-! ### The walk queue (R102) -/

/-- The 64 KiB page of an address. -/
def pageOf (va : Dword) : Nat := va.toNat / 65536

/-- A walk is for the same page, Rind and ASID. -/
def WalkJob.same (j : WalkJob) (r : Req) (va : Dword) : Bool :=
  j.req.rind == r.rind && j.req.asid == r.asid && pageOf j.va == pageOf va

/-- A context waits for a walk too: what the walk has read before then counts no more, so that it reads every slot after the
stores of that context (R402). id: the number under which it begins again. -/
def WalkJob.join (j : WalkJob) (r : Req) (id : Nat) : WalkJob :=
  match r.who with
  | none => j
  | some k =>
    if j.waiters.contains k then j
    else { j with waiters := j.waiters ++ [k], id := id, phase := .reading 3 j.req.root false none }

/-- A miss joins a walk of its page, enters the cluster's queue of 64, or is held by its core, which holds four. Else it
waits outside: its context asks again (R102). -/
def queueWalk (s : State) (r : Req) (va : Dword) (acc : AccKind) : State :=
  let cl := coreCluster r.core
  let s := match r.who with
    | none => s
    | some k => modCtx s k (fun c => { c with asks := (c.asks ++ [pageOf va]).eraseDups })
  let c := getCluster s cl
  let job : WalkJob :=
    { id := c.walkSeq, req := r, va := va, acc := acc, waiters := r.who.toList, phase := .reading 3 r.root false none }
  if c.walks.any (fun j => j.same r va) then
    modCluster s cl (fun c => { c with
      walks := c.walks.map (fun j => if j.same r va then j.join r c.walkSeq else j), walkSeq := c.walkSeq + 1 })
  else if c.walks.length < 64 then
    modCluster s cl (fun c => { c with walks := c.walks ++ [job], walkSeq := c.walkSeq + 1 })
  else if r.engine || (getCore s r.core).misses.any (fun j => j.same r va) || 4 ≤ (getCore s r.core).misses.length then s
  else modCore s r.core (fun x => { x with misses := x.misses ++ [job] })

/-- What an ended walk that installed nothing left for a requester. -/
def walkLeft (s : State) (r : Req) (va : Dword) : Option Walk :=
  match r.who with
  | some k => ((getCtx s k).walked.find? (fun e => e.1 == pageOf va)).map (fun e => e.2)
  | none => ((getCluster s (coreCluster r.core)).walked.find? (fun e =>
      e.1 == r.rind && e.2.1 == r.asid && e.2.2.1 == pageOf va)).map (fun e => e.2.2.2)

/-- An engine takes what a walk left for it. -/
def takeLeft (s : State) (r : Req) (va : Dword) : State :=
  match r.who with
  | some _ => s
  | none => modCluster s (coreCluster r.core) (fun c => { c with
      walked := c.walked.filter (fun e => !(e.1 == r.rind && e.2.1 == r.asid && e.2.2.1 == pageOf va)) })

/-- A leaf installed in the L2 TLB of the requester's cluster, and in the private TLB of a core's own access (R101). -/
def installLeaf (s : State) (r : Req) (va : Dword) (e : Dword) (c : BitVec 128) (sh slot : Nat) : State :=
  let t : Tlb := ⟨r.rind, r.asid, sh, va.toNat / 2 ^ sh, e, c, false, slot⟩
  let s := if ((getTlb s (clusterTlb (coreCluster r.core))).find? (tlbHit r va)).isSome then s
    else tlbInsert s (clusterTlb (coreCluster r.core)) t
  if r.engine || ((getTlb s (coreTlb r.core)).find? (tlbHit r va)).isSome then s else tlbInsert s (coreTlb r.core) t

/-- Translation of an address for an access (R90 to R104): a cause code, or the physical address with its leaf; walking while
the walk is queued. The TLBs are consulted first. An engine's miss enters the queue as a core's does, and its command stalls
(R102). -/
def translate (s : State) (r : Req) (va : Dword) (acc : AccKind) : State × Except NoXl Xl :=
  let use := fun (s : State) (w : Walk) => match w with
    | .fault code => (s, .error (.fault code))
    | .leaf e c sh slot => match useLeaf s r va acc e c sh slot with
      | (s, .error n) => (s, .error n)
      | (s, .ok x) => (installLeaf s r va e c sh slot, .ok { x with va := va })
    | _ => (queueWalk s r va acc, Except.error NoXl.walking)
  if !canonical va then (s, .error (.fault 0x10))
  else match tlbFind s r va with
    | some t => use s (.leaf t.entry t.comp t.shift t.slot)
    | none => match walkLeft s r va with
      | some w => use (takeLeft s r va) w
      | none => (queueWalk s r va acc, .error .walking)

/-- The requester of a context's own accesses. -/
def ctxReq (s : State) (k : Nat) : Req :=
  let c := getCtx s k
  let rec_ := getRec s (ctxCore k) (c.launch.getD 0)
  { rind := stRind c.st, asid := fldN rec_.asid 0 16, root := fldN rec_.root 14 43 * 16384, user := !stSys c.st,
    core := ctxCore k, launch := c.launch, engine := false, who := some k }

/-- The requester of what the core does for a context besides its instructions: no context waits for its walk. -/
def coreReq (s : State) (k : Nat) : Req := { ctxReq s k with who := none }

/-! ### The code-page scanner (R57 to R60) -/

/-- The word at index i of a page. -/
def pageWord (p : List Word) (i : Nat) : Word := p.getD i 0

/-- Whether an instruction accepts a hint's nonzero fields (R49 to R51). -/
def hintAccepts (h t : Instr) : Bool :=
  let ldst := match t with
    | .ldb .. => true | .ldbn .. => true | .ldh .. => true | .ldhn .. => true | .ldw .. => true
    | .ldwn .. => true | .ldd .. => true | .stb .. => true | .sth .. => true | .stw .. => true
    | .std .. => true | .vld .. => true | .vst .. => true | _ => false
  let memx := match t with
    | .ldx .. => true | .ldxn .. => true | .stx .. => true | .vldu .. => true | .vstu .. => true
    | .vgath .. => true | .vscat .. => true | _ => false
  let amo := match t with
    | .amoSwap .. => true | .amoCas .. => true | .amoAdd .. => true | .amoAnd .. => true | .amoOr .. => true
    | .amoXor .. => true | .amoSmin .. => true | .amoSmax .. => true | .amoUmin .. => true | .amoUmax .. => true
    | .amoFadd .. => true | _ => false
  let imm := match t with
    | .addi .. => true | .andi .. => true | .ori .. => true | .xori .. => true | .slti .. => true
    | .sltin .. => true | .addpc .. => true | _ => false
  let bcc := match t with
    | .beqz .. => true | .bnez .. => true | .bltz .. => true | .bgez .. => true | .bgtz .. => true
    | .blez .. => true | .br .. => true | .bodd .. => true | .bevn .. => true | .bemp .. => true
    | .bful .. => true | _ => false
  let vflt := match t with
    | .vaddFp .. => true | .vsubFp .. => true | .vmulFp .. => true | .vfma .. => true | .vdiv .. => true
    | .vsqrt .. => true | .vminFp .. => true | .vmaxFp .. => true | .vabsFp .. => true | .vneg .. => true
    | .vcvt .. => true | _ => false
  let hint := match t with
    | .hImm .. => true | .hSched .. => true | .hMod .. => true | _ => false
  match h with
  | .hImm _ => imm || ldst || bcc
  | .hSched l o => !hint && (l == 0 || ldst || memx || amo) && (o == 0 || ldst || memx)
  | .hMod r n => (r == 0 || vflt) && (n == 0 || ldst || memx)
  | _ => true

/-- Whether an instruction is a LOOP word and its body length (R245). -/
def loopLength (i : Instr) : Option Nat :=
  match i with
  | .rep _ l => some l.toNat
  | .reps _ l => some l.toNat
  | _ => none

/-- The major opcode of a word (R27). -/
def majorOp (w : Word) : Nat := fldN w 26 6

/-- Whether a word may be the last of a loop body (R245): no hint, BCC, JMP, CALL or JR word, and no SYS word that selects
TRAP, ERET or GATE, well formed or not. -/
def endsLoop (w : Word) : Bool :=
  !([0x20, 0x21, 0x22, 0x23, 0x3F] : List Nat).contains (majorOp w)
    && !(majorOp w == 0x37 && ([1, 2, 7] : List Nat).contains (fldN w 12 4))

/-- Whether a LOOP word at index i of a page may have a body of l words (R245). -/
def loopOk (p : List Word) (i l : Nat) : Bool :=
  decide (i + l < 16384) &&
    (List.range l).all (fun j =>
      let w := pageWord p (i + 1 + j)
      majorOp w != 0x24 && (decide (j + 1 < l) || endsLoop w))

/-- Whether an instruction that is no hint is an instruction at index i of a page. -/
def standsAt (p : List Word) (i : Nat) (t : Instr) : Bool :=
  match loopLength t with
  | none => true
  | some l => loopOk p i l

/-- Whether the word at index i of a page is an instruction where it stands (R52, R58, R245). -/
def wordOk (p : List Word) (i : Nat) : Bool :=
  match decodeWord (pageWord p i) with
  | .error _ => false
  | .ok ins =>
    match ins with
    | .hImm .. | .hSched .. | .hMod .. =>
      decide (i < 16383) &&
        (match decodeWord (pageWord p (i + 1)) with
        | .error _ => false
        | .ok t => hintAccepts ins t && (match t with
          | .hImm .. => false | .hSched .. => false | .hMod .. => false
          | _ => standsAt p (i + 1) t))
    | _ => standsAt p i ins

/-- The first word of n words from index i on that is not an instruction. -/
def scanFrom (p : List Word) : Nat → Nat → Option Nat
  | 0, _ => none
  | n + 1, i => if wordOk p i then scanFrom p n (i + 1) else some i

/-- Bytes as words. -/
def wordsOf (bs : List Byte) : List Word := (List.range (bs.length / 4)).map (fun i => ofBytes 32 ((bs.drop (4 * i)).take 4))

/-- What reading code comes to: its bytes, a cause, or an answer of another node that has not come. -/
inductive Code where
  | bytes (bs : List Byte)
  | fault (code : Nat)
  | asked
deriving DecidableEq, Repr

/-- The window of a scratchpad admits bytes off to off + n − 1 for reading or writing (R165, R166). -/
def windowAdmits (s : State) (cn off n : Nat) (write : Bool) : Bool :=
  (List.range 4).any (fun i =>
    let w := tget 0 (getCore s cn).win i
    let base := fldN w 6 12 * 64
    let top := min (base + fldN w 38 13 * 64) 0x3C000
    bitAt w 63 && (if write then bitAt w 61 else bitAt w 62) && decide (base ≤ off) && decide (off + n ≤ top))

/-- The windows of a scratchpad's owner turn away n bytes at a local address for a core, which is not the owner (R165). -/
def padRefuses (s : State) (core la n : Nat) (write : Bool) : Bool :=
  windowOf la == .scratch && scratchCore la != core && !windowAdmits s (scratchCore la) (la % 2 ^ 18) n write

/-- The owner of a scratchpad counts a refusal (R167). -/
def countNack (s : State) (la : Nat) : State := modCore s (scratchCore la) (fun c => { c with nack := c.nack + 1 })

/-- 64 bytes of code at a physical address of 64 × h. A refusal by the owner of a scratchpad is a precise scratchpad-refused
(log 83). Those of another node are asked for once and kept by the core until a
fetch or a scan has taken them (R64). -/
def codeHalf (s : State) (r : Req) (h : Nat) : State × Code :=
  if isLocal s (64 * h) then
    if padRefuses s r.core (paLocal (64 * h)) 64 false then (countNack s (paLocal (64 * h)), .fault 0x31)
    else match physRead s ((List.range 64).map (fun i => paLocal (64 * h) + i)) { launch := r.launch } with
    | (s, none) => (s, .fault 0x0E)
    | (s, some bs) => (s, .bytes bs)
  else
    let x := getCore s r.core
    match tfind x.code h with
    | some (0, v) => (s, .bytes (bytesOf v 64))
    | some (err, _) => (modCore s r.core (fun x => { x with code := tdel x.code h }), .fault (if err = 4 then 0x0E else 0x17))
    | none =>
      if x.asked.contains h then (s, .asked)
      else
        let s := modCore s r.core (fun x => { x with asked := x.asked ++ [h] })
        (askRemote s (64 * h) r.rind (hardwareFlight r.launch (.code r.core h)) r.launch, .asked)

/-- Code from a list of 64-byte pieces; every missing one is asked for. -/
def codeHalves (s : State) (r : Req) : List Nat → State × Code
  | [] => (s, .bytes [])
  | h :: hs =>
    match codeHalf s r h with
    | (s, .fault c) => (s, .fault c)
    | (s, .asked) => ((codeHalves s r hs).1, .asked)
    | (s, .bytes bs) => match codeHalves s r hs with
      | (s, .bytes more) => (s, .bytes (bs ++ more))
      | x => x

/-- The pieces of another node's code from h on, n of them, are given up. -/
def dropCode (s : State) (r : Req) (h n : Nat) : State :=
  modCore s r.core (fun x => { x with code := x.code.filter (fun e => !(decide (h ≤ e.1) && decide (e.1 < h + n))) })

/-- Why a fetch does not go on. -/
inductive NoFetch where
  | fault (code : Nat) (ea : Dword)
  | waiting
deriving DecidableEq, Repr

/-- A page marked scanned, in the companion word that stands now (R59). -/
def markScanned (s : State) (r : Req) (x : Xl) (now : BitVec 128) : State :=
  let s := if isLocal s x.slot then
      physWrite s ((List.range 16).map (fun i => (paLocal x.slot + 16 + i, (bytesOf (putFld now 65 1 1) 16).getD i 0))) { launch := r.launch }
    else atomicRemote s (x.slot + 24) r.rind 4 2 0 none r.launch
  tlbUpdate s r x.slot x.entry (putFld x.comp 65 1 1)

/-- The companion word of a leaf read again (R59): where its slot lies, on this package or another node. -/
def rereadComp (s : State) (r : Req) (x : Xl) : State × Except Code (BitVec 128) :=
  if isLocal s x.slot then
    match physRead s ((List.range 16).map (fun i => paLocal x.slot + 16 + i)) { launch := r.launch } with
    | (s, none) => (s, .error (.fault 0x0E))
    | (s, some bs) => (s, .ok (ofBytes 128 bs))
  else match codeHalf s r (x.slot / 64) with
    | (s, .bytes bs) => (s, .ok (ofBytes 128 (bs.drop (x.slot % 64 + 16))))
    | (s, c) => (s, .error c)

/-- The scan of a page at its first use for fetch (R59): none when it is accepted, in this step or before. -/
def scanPage (s : State) (r : Req) (x : Xl) (base : Dword) : State × Option NoFetch :=
  match rereadComp s r x with
  | (s, .error (.fault c)) => (s, some (.fault c base))
  | (s, .error _) => (s, some .waiting)
  | (s, .ok now) =>
    let h := x.pa / 65536 * 1024
    let ended := fun (s : State) => dropCode (dropCode s r h 1024) r (x.slot / 64) 1
    if compScanned now then (ended s, none)
    else
      match codeHalves s r ((List.range 1024).map (fun i => h + i)) with
      | (s, .asked) => (s, some .waiting)
      | (s, .fault c) => (ended s, some (.fault c base))
      | (s, .bytes bs) =>
        let s := ended s
        match scanFrom (wordsOf bs) 16384 0 with
        | some i => (s, some (.fault 0x16 (base + BitVec.ofNat 64 (4 * i))))
        | none => (markScanned s r x now, none)

/-- Translation for instruction fetch (R57 to R60, R99): the translation, or why there is none. -/
def translateFetch (s : State) (r : Req) (va : Dword) : State × Except NoFetch Xl :=
  match translate s r va .fetch with
  | (s, .error (.fault code)) => (s, .error (.fault code va))
  | (s, .error .walking) => (s, .error .waiting)
  | (s, .ok x) =>
    let base := BitVec.ofNat 64 (va.toNat / 2 ^ x.shift * 2 ^ x.shift)
    if x.shift ≠ 16 ∨ bitAt x.entry 3 then (s, .error (.fault 0x16 base))
    else
      let seen := match (getTlb s (coreTlb r.core)).find? (tlbHit r va) with
        | some t => t.fetched
        | none => false
      if seen then (touchLeaf s r x .fetch, .ok x)
      else match scanPage s r x base with
        | (s, some n) => (s, .error n)
        | (s, none) =>
          let x := { x with comp := putFld x.comp 65 1 1 }
          let s := touchLeaf s r x .fetch
          let ts := (getTlb s (coreTlb r.core)).map (fun t => if tlbHit r va t then { t with fetched := true } else t)
          (setTlb s (coreTlb r.core) ts, .ok x)

end Sys2Proof.Machine
end

