-- ==== Sys2Proof/Machine/Ops.lean ====
section
/-!
DEFINITION. The shared operations of the cores: packets, fills, selection records, event logs, ending a context,
taking a trap and returning from one, and the frame of every issued instruction.
-/

namespace Sys2Proof.Machine

/-! ### Messages (R328 to R330) -/

/-- A 16-byte header (R328). -/
def mkHeader (dst rpt : Nat) (dk rind : Nat) (rv : Bool) (fmt scor kind aux sctx : Nat) : BitVec 128 :=
  BitVec.ofNat 128 (dst % 2 ^ 32 * 2 ^ 96 + rpt % 2 ^ 32 * 2 ^ 64 + dk % 16 * 2 ^ 60 + rind % 16 * 2 ^ 56
    + (if rv then 2 ^ 55 else 0) + fmt % 8 * 2 ^ 52 + scor % 2048 * 2 ^ 41 + kind % 256 * 2 ^ 32
    + aux % 2 ^ 24 * 2 ^ 8 + sctx % 256)

/-- A message from its header and its 48-byte payload. -/
def mkMessage (h : BitVec 128) (payload : BitVec 384) : BitVec 512 := payload ++ h

def msgDst (m : BitVec 512) : Nat := fldN m 96 32
def msgDk (m : BitVec 512) : Nat := fldN m 60 4
def msgRind (m : BitVec 512) : Nat := fldN m 56 4
def msgFmt (m : BitVec 512) : Nat := fldN m 52 3
def msgKind (m : BitVec 512) : Nat := fldN m 32 8
def msgAux (m : BitVec 512) : Nat := fldN m 8 24
def msgPayload (m : BitVec 512) : BitVec 384 := fld m 128 384

/-- The core that a port name's bits 16:6 name, and its node (R171). -/
def nameCore (n : Nat) : Nat := coreOfField (n / 64 % 2048)
def nameNode (n : Nat) : Nat := n / 2 ^ 17 % 4096
/-- The port name of a port of a core of this node. -/
def portName (s : State) (cn p : Nat) : Nat := s.node * 2 ^ 17 + coreField cn * 64 + p

/-- What R132 consults of a send, a command or a post: a store of RC kind to a place of its own (R136). -/
def sendOrd (acq rel : Bool) : Ord := { okind := 2, ld := false, st := true, acq := acq, rel := rel, lo := 0, hi := 0 }

/-- What R132 consults of an access, with the tick of its issue. -/
def Ord.issued (o : Ord) (s : State) : Ord := { o with born := s.tick }

/-- A packet put in flight. -/
def launchPacket (s : State) (owner : Option (Nat × BitVec 8)) (o : Ord) (p : Packet) : State :=
  { s with net := s.net ++ [{ owner := owner, ord := o.issued s, body := p,
                              launch := owner.bind (fun e => (getCtx s e.1).launch) }] }

/-- A packet of the hardware, ordered against nothing, that counts for a launch. -/
def sendFor (s : State) (launch : Option Nat) (p : Packet) : State :=
  { s with net := s.net ++ [{ owner := none, ord := sendOrd false false, body := p, launch := launch }] }

/-- A packet of the hardware, ordered against nothing. -/
def sendPacket (s : State) (p : Packet) : State := sendFor s none p

/-- Where a context's fill goes (R330). -/
def replyOf (s : State) (k reg : Nat) : Reply :=
  let c := getCtx s k
  { ctx := k, gen := stGen c.st, reg := reg, inTrap := stTrap c.st }

/-- A context name (R331). -/
def ctxName (s : State) (k : Nat) : Dword :=
  let c := getCtx s k
  BitVec.ofNat 64 ((stGen c.st).toNat * 2 ^ 40 + coreField (ctxCore k) * 2 ^ 29 + stCtx c.st)

/-! ### Ordering (R131, R132) -/

/-- Whether X must be performed before Y, by rules 1 to 6 of R132. No rule of R132 asks for the scope. -/
def mustPrecede (x y : Ord) : Bool :=
  let sc := fun (o : Ord) => o.okind == 0
  let strong := fun (o : Ord) => o.okind ≤ 1
  x.overlaps y
    || sc x
    || (sc y && strong x)
    || (strong x && strong y && !(x.st && !x.ld && y.ld && !y.st))
    || (x.acq && x.ld && decide (x.okind ≤ 2))
    || (y.rel && y.st && decide (y.okind ≤ 2))

/-- A chain command of the context has been accepted and is not complete (R305, R315). The context is one whatever handler
issued it (R357). -/
def harpUnderway (s : State) (k : Nat) : Bool :=
  (getCluster s (coreCluster (ctxCore k))).harp.cmds.any (fun e => e.2.cmd.owner.map Prod.fst == some k)

/-- An access of the context must wait for one in flight (R132). -/
def mustWait (s : State) (k : Nat) (o : Ord) : Bool := (pendingOf s k).any (fun f => mustPrecede f.ord o)

/-- A packet that stands for an access issued earlier goes before what its context has issued since (R132). -/
def putByIssue (s : State) (k : Nat) (f : Flight) : State :=
  let older := fun (e : Flight) => !(ownedBy k e && decide (f.ord.born < e.ord.born))
  { s with net := s.net.takeWhile older ++ f :: s.net.dropWhile older }

/-- The n-th flight may be performed: no earlier flight of its context must precede it (R132), and none goes
to the same port or inbox (R342, R176, R285, R305). A context that ERET sends on its way enters its slot once its chain
commands are complete (R357, R385). -/
def mayPerform (s : State) (n : Nat) (f : Flight) : Bool :=
  match f.owner with
  | none => true
  | some (k, _) =>
    ((s.net.take n).filter (fun e => unperformed e.body && ownedBy k e)).all (fun e =>
      !mustPrecede e.ord f.ord &&
      (match e.body, f.body with
       | .message a, .message b => msgDst a != msgDst b || msgDk a != msgDk b
       | .command u .., .command w .. => u != w
       | _, _ => true))
    && (awayOf s k).all (fun e => decide (f.ord.born < e.ord.born) || (match e.body, f.body with
      | .command u .., .command w .. => u == w
      | _, _ => false) || !mustPrecede e.ord f.ord)
    && (match f.body with
      | .arrival .. => !(f.ord.rel && harpUnderway s k)
      | _ => true)

/-- The n-th flight's turn among the postings of its engine command (R294). -/
def inSeries (s : State) (n : Nat) (f : Flight) : Bool := f.series == 0 || (s.net.take n).all (fun e => e.series != f.series)

/-! ### Waking and selection (R19, R370, R377) -/

/-- An event at a core: it cancels a gating request in its quiet cycles, or wakes the gated core (R377). -/
def wakeCore (s : State) (cn : Nat) : State :=
  let c := getCore s cn
  if c.gateState = 2 then modCore s cn (fun c => { c with gateState := 0, wakes := (c.wakes + 1) % 2 ^ 32, gateAt := none })
  else if c.gateState = 1 then modCore s cn (fun c => { c with gateState := 0, gateAt := none })
  else s

/-- A context becomes runnable with a new selection record (R370). -/
def makeRunnable (s : State) (k port : Nat) (hit : Bool) : State :=
  let s := wakeCore s (ctxCore k)
  modCtx s k (fun c => { c with act := .runnable, sel := { arrival := s.cycle, port := port, hit := hit, bypass := 0 } })

/-- A running context leaves its issue slot. -/
def leaveSlot (s : State) (k : Nat) (a : Activity) : State :=
  let s := modCtx s k (fun c => { c with act := a })
  modCore s (ctxCore k) (fun c => if c.running == some k then { c with running := none } else c)

/-- What wakes a waiting context: a fill of the register it waits for; any fill, for a simple PARK or GATE. -/
def wakesOn (w : Wait) (reg : Nat) : Bool :=
  match w with
  | .register r => r == reg
  | .take r => r == reg
  | .park => true
  | .gate => true
  | _ => false

/-- A waiting context that a register event wakes (R42, R254). -/
def wakeOn (s : State) (k reg : Nat) : State :=
  match (getCtx s k).act with
  | .waiting w => if wakesOn w reg then makeRunnable s k 64 true else s
  | _ => s

/-! ### Streams of a context (R204, R207) -/

/-- The slot of the stream bound to a register of a context, a draining one too: its register has not left stream mode
(R207). -/
def streamSlot (s : State) (k v : Nat) : Option Nat :=
  (s.streams.find? (fun e => e.2.ctx == k && e.2.reg == v && e.2.bound)).map (fun e => e.1)

/-- The element address of a stream (R197). -/
def streamAddr (d : BitVec 512) (n : Nat) : Dword :=
  let c0 := fldN d 160 16
  let c1 := fldN d 176 16
  fld d 0 64 + BitVec.ofNat 64 (n % c0) * sx (fld d 64 32) + BitVec.ofNat 64 (n / c0 % c1) * sx (fld d 96 32)
    + BitVec.ofNat 64 (n / c0 / c1) * sx (fld d 128 32)

/-- Elements of a stream (R197). -/
def streamCount (d : BitVec 512) : Nat := fldN d 160 16 * fldN d 176 16 * fldN d 192 16
def streamWrite (d : BitVec 512) : Bool := bitAt d 228
def streamSlots (d : BitVec 512) : Nat := fldN d 216 5
def streamLadle (d : BitVec 512) : Nat := fldN d 229 1
def streamXform (d : BitVec 512) : Nat := fldN d 224 4
def streamScope (d : BitVec 512) : Nat := fldN d 230 2

/-- The local address of an element's place in the ring (R197). -/
def ringAddr (cn : Nat) (d : BitVec 512) (n : Nat) : Nat :=
  scratchBase cn + fldN d 208 6 * 4096 + (n / 64 % streamSlots d) * 4096 + 64 * (n % 64)

/-- A register leaves stream mode: it holds zero and is full (R207). -/
def unbindReg (s : State) (k v : Nat) : State :=
  modCtx s k (fun c => { (c.writeV v 0).setEmpty (32 + v) false with errs := tdel c.errs (32 + v) })

/-- The streams of an ending context closed (R204): a read stream is dropped; a write stream keeps its slot
until its pushed elements are drained. -/
def closeStreams (s : State) (k : Nat) : State :=
  let mine := s.streams.filter (fun e => e.2.ctx == k && e.2.bound)
  mine.foldl (fun s e =>
    let s := unbindReg s k e.2.reg
    if streamWrite e.2.desc && e.2.fail.isNone && !e.2.masks.isEmpty then
      { s with streams := tput s.streams e.1 { e.2 with bound := false, owed := none, closing := [] } }
    else { s with streams := tdel s.streams e.1 }) s

/-- A stream whose elements pushed are all that the Ladle still writes: SCLOSE runs, or its context has ended. -/
def Stream.closed (t : Stream) : Bool := !t.closing.isEmpty || !t.bound

/-- Whether the head element of a read stream stands in its ring, or a write stream has room (R199, R200). -/
def streamFull (t : Stream) : Bool :=
  if streamWrite t.desc then t.owed.isNone && (t.fail.isSome || decide (t.pos - t.far < 64 * streamSlots t.desc))
  else
    decide (t.pos < t.far) || (match t.fail with | some (n, _) => n == t.pos | none => false)

/-- A context parked on a register is woken: by an error record, a refusal or a stream (R42, R167, R199, R200). -/
def wakeReg (s : State) (k reg : Nat) : State :=
  match (getCtx s k).act with
  | .waiting (.register r) => if r = reg then makeRunnable s k 64 true else s
  | .waiting (.take r) => if r = reg then makeRunnable s k 64 true else s
  | _ => s

/-- The full/empty bit of a stream register brought up to date. With an error record it stays empty (R120). -/
def streamBit (s : State) (slot : Nat) : State :=
  match tfind s.streams slot with
  | none => s
  | some t => if !t.bound then s
    else
      let full := streamFull t && (tfind (getCtx s t.ctx).errs (32 + t.reg)).isNone
      let s := modCtx s t.ctx (fun c => c.setEmpty (32 + t.reg) (!full))
      if full then wakeReg s t.ctx (32 + t.reg) else s

/-- An element pushed to a write stream with its byte lanes (R200). One beyond the last of R197 has no address: it takes
its place in the ring, and no byte of it is written (log 61). -/
def pushStream (s : State) (slot : Nat) (val : Vec) (lanes : BitVec 64) : State :=
  match tfind s.streams slot with
  | none => s
  | some t =>
    let s := scratchPut s (ringAddr (ctxCore t.ctx) t.desc t.pos) (bytesOf val 64)
    let lanes := if t.pos < streamCount t.desc then lanes else 0
    streamBit { s with streams := tput s.streams slot { t with pos := t.pos + 1, masks := t.masks ++ [lanes], owed := none } } slot

/-- A fill of a stream register will come in these lanes, or will not come any more (R41, R200). -/
def streamOwed (s : State) (k v : Nat) (lanes : Option (BitVec 64)) : State :=
  match streamSlot s k v with
  | none => s
  | some i => match tfind s.streams i with
    | none => s
    | some t => streamBit { s with streams := tput s.streams i { t with owed := lanes } } i

/-! ### Fills (R41 to R44, R379) -/

/-- A stale packet is discarded and counted (R44). -/
def discard (s : State) (k : Nat) : State :=
  modCore s (ctxCore k) (fun c => { c with discarded := c.discarded + 1 })

/-- Whether a fill or record addresses the saved g1 or g2 of a context in its handler (R379). -/
def toSaved (c : Ctx) (r : Reply) : Bool := (r.reg == 1 || r.reg == 2) && stTrap c.st && !r.inTrap

/-- A fill is applied, or discarded for its generation (R44, R379). -/
def applyFill (s : State) (r : Reply) (val : Vec) : State :=
  let c := getCtx s r.ctx
  if stGen c.st ≠ r.gen then discard s r.ctx
  else
    let s := wakeCore s (ctxCore r.ctx)
    let s := if toSaved c r then s else { s with badReg := s.badReg.filter (fun e => e != (r.ctx, r.reg)) }
    let s := if toSaved c r then
        modCtx s r.ctx (fun c =>
          if r.reg = 1 then { c with tsv1 := val.setWidth 64, tfInfo := putFld c.tfInfo 4 1 1 }
          else { c with tsv2 := val.setWidth 64, tfInfo := putFld c.tfInfo 5 1 1 })
      else match (if r.reg < 32 then none else streamSlot s r.ctx (r.reg - 32)) with
        | some i => pushStream s i val (((tfind s.streams i).bind (fun t => t.owed)).getD (BitVec.allOnes 64))
        | none => modCtx s r.ctx (fun c => c.fillReg r.reg val)
    wakeOn s r.ctx (if toSaved c r || (getCtx s r.ctx).isEmpty r.reg then 0 else r.reg)

/-- An error record is entered against a register (R120, R312, R379). -/
def applyError (s : State) (r : Reply) (e : TrapRec) : State :=
  let c := getCtx s r.ctx
  if stGen c.st ≠ r.gen then discard s r.ctx
  else
    let s := if toSaved c r then
        modCtx s r.ctx (fun c => if r.reg = 1 then { c with errTsv1 := some e } else { c with errTsv2 := some e })
      else
        let s := modCtx s r.ctx (fun c => { c with errs := tput c.errs r.reg e })
        if r.reg < 32 then s else streamOwed s r.ctx (r.reg - 32) none
    if toSaved c r then s else wakeReg s r.ctx r.reg

/-- The register of a refused load becomes full with its old value (R167). -/
def applyRefill (s : State) (r : Reply) : State :=
  let c := getCtx s r.ctx
  if stGen c.st ≠ r.gen then discard s r.ctx
  else
    let s := if toSaved c r then
        modCtx s r.ctx (fun c => { c with tfInfo := putFld c.tfInfo (3 + r.reg) 1 1 })
      else if r.reg < 32 ∨ (streamSlot s r.ctx (r.reg - 32)).isNone then modCtx s r.ctx (fun c => c.setEmpty r.reg false)
      else streamOwed s r.ctx (r.reg - 32) none
    if toSaved c r then s else wakeReg s r.ctx r.reg

/-- The fill of an instruction's result, put in flight (R41). Register 0: nothing is filled. -/
def sendFill (s : State) (r : Reply) (val : Vec) : State := if r.reg = 0 then s else sendPacket s (.fill r val)

/-- A 64-bit result filled. -/
def sendFillD (s : State) (r : Reply) (v : Dword) : State := sendFill s r (v.setWidth 512)

/-- g[d] set empty at issue, with its fill on the way (R41). -/
def answer (s : State) (k : Nat) (d : BitVec 5) (v : Dword) : State :=
  sendFillD (modCtx s k (fun c => c.setEmpty d.toNat true)) (replyOf s k d.toNat) v

/-! ### The snapshot trigger (R399, R400) -/

/-- The cores of a Rind. -/
def rindCores (s : State) (r : Nat) : List Nat :=
  ((List.range 256).filter (fun c => (getCluster s c).rind == some r)).flatMap (fun c =>
    (List.range 8).map (fun i => 8 * c + i))

/-- A trigger raised in a Rind: it joins one that is latching, or that was raised at most 64 cycles before, counts as missed
while a snapshot is held, and otherwise starts (R399, R400). It carries the domain timestamp of die 0 less its skew (log 87). -/
def raiseTrigger (s : State) (rind : Nat) (src : Dword) : State :=
  let r := getRind s rind
  match r.trigger with
  | some _ => s
  | none =>
    if s.cycle < r.joinTo then s
    else if r.held then (rindCores s rind).foldl (fun s cn => modCore s cn (fun c => { c with miss := c.miss + 1 })) s
    else modRind s rind (fun r => { r with trigger := some { cycle := s.cycle, src := src, ts := s.ts, waiters := [] } })

/-! ### Arrival queues (R45, R371) -/

/-- Registers that are rewritten whole hold correct codes again (R389). -/
def freshRegs (s : State) (k : Nat) (f : Nat → Bool) : State :=
  { s with badReg := s.badReg.filter (fun e => !(e.1 == k && f e.2)) }

/-- The numbers of loop.cnt, loop.end and loop.len in State.badReg. -/
def loopReg (r : Nat) : Bool := r == 72 || r == 73 || r == 74

/-- A packet's eight words enter a slot with the slot's generation (R45), and with st.dem as the launch stands (R38). -/
def enterSlot (s : State) (cn slot launch : Nat) (words : List Dword) (trail : Trail) : State :=
  let k := ctxKey cn (128 + slot)
  let gen := tget 0 (getCore s cn).slotGen slot
  let st := putFld (putFld (words.getD 1 0) 32 8 gen) 8 8 (BitVec.ofNat 8 (128 + slot))
  let c : Ctx := { Ctx.initial k with
    pc := words.getD 0 0
    st := match getLaunch s launch with
      | some x => stBit st 4 x.demoted
      | none => st
    g := [1, 2, 3, 4, 5, 6].map (fun i => (i, words.getD (i + 1) 0))
    launch := some launch
    trail := trail }
  makeRunnable (freshRegs (setCtx s k c) k (fun _ => true)) k 64 true

/-- A free arrival-queue slot of a core. -/
def freeSlot (s : State) (cn : Nat) : Option Nat :=
  (List.range 32).find? (fun i => (getCtx s (ctxKey cn (128 + i))).act == .dormant)

/-- The entry address of a launch block (R255). -/
def lbEntry (b : BitVec 384) : Dword := fld b 192 64

/-- The address of an area of a Rind's pool (R373). -/
def areaAddr (s : State) (rind i : Nat) : Nat := (getRind s rind).spoolBase.toNat + 2 ^ 22 * i

/-- The launch record of a core (R359, R401). -/
def newRecord (s : State) (rind area : Nat) (b : BitVec 384) (cn : Nat) : LRec :=
  { root := at64 (fldN b 149 43) 14
    asid := zx (fld b 133 16)
    spill := BitVec.ofNat 64 (areaAddr s rind area)
    tvec := BitVec.ofNat 64 ((lbEntry b).toNat / 65536 * 65536 + 0x8000)
    sbase := BitVec.ofNat 64 (scratchBase cn) }

/-- A core keeps a record for every launch that has contexts on it (R92): a roaming context that comes to a core the launch
did not choose brings the record of the launch block there (log 23). -/
def keepRecord (s : State) (cn l : Nat) : State :=
  match getLaunch s l with
  | none => s
  | some x => if recHeld s cn (some l) then s else modRec s cn l (fun _ => newRecord s x.rind (x.area.getD 0) x.block cn)

/-- The physical address of entry e of a launch's spill area (R371, R372), and the Rind that accesses it. -/
def spillAddr (s : State) (cn launch e : Nat) : Nat := (getRec s cn launch).spill.toNat + 64 * e
def spillRind (s : State) (launch : Nat) : Nat := ((getLaunch s launch).map Launch.rind).getD 15

/-- A core may not access 64 bytes of this package at a spill address: a hole, or a scratchpad whose owner refuses (R65, R68,
R165). -/
def spillShut (s : State) (cn launch pa : Nat) (write : Bool) : Bool :=
  isHole s (spillRind s launch) (paLocal pa) || padRefuses s cn (paLocal pa) 64 write

/-- The lowest free entry of a launch's spill area (R372). -/
def freeSpill (s : State) (launch : Nat) : Nat :=
  let used := s.cores.flatMap (fun e => e.2.spilled.filterMap (fun (x : Nat × Nat × Trail) => if x.1 = launch then some x.2.1 else none))
  ((List.range (used.length + 1)).find? (fun i => !used.contains i)).getD 0

/-- A packet is written to the lowest free entry of its launch's spill area and joins the spill list (R371; log 35). An area on
another node is written by a packet (R64); what cannot be written is lost when it is read back (log 90). -/
def spillArrival (s : State) (cn launch : Nat) (words : List Dword) (trail : Trail) : State :=
  let e := freeSpill s launch
  let bytes := words.flatMap (fun w => bytesOf w 8)
  let pa := spillAddr s cn launch e
  let rind := spillRind s launch
  let s := if !isLocal s pa then
      sendFabric s (fun t => fabHeader s (paNode pa) rind 4 1 4 0 t 0 pa) (ofBytes 640 bytes) none rind (some launch)
    else if spillShut s cn launch pa true then s
    else physWrite s ((List.range 64).map (fun i => (paLocal pa + i, bytes.getD i 0))) { launch := some launch }
  modCore s cn (fun c => { c with spilled := c.spilled ++ [(launch, e, trail)] })

/-- An arrival packet enters the queue, or the spill list (R371). -/
def placeArrival (s : State) (cn launch : Nat) (words : List Dword) (trail : Trail) : State :=
  let s := wakeCore (keepRecord s cn launch) cn
  match (if (getCore s cn).spilled.isEmpty then freeSlot s cn else none) with
  | some i => enterSlot s cn i launch words trail
  | none => spillArrival s cn launch words trail

/-- The words of a spilled packet. -/
def spilledWords (bs : List Byte) : List Dword := (List.range 8).map (fun i => ofBytes 64 ((bs.drop (8 * i)).take 8))

/-- The oldest spilled packet is read back into a slot (R371), or asked for at another node (R64). One that cannot be read is
gone, and the next one follows (R25; log 90). -/
def unspill (s : State) (cn slot : Nat) : List (Nat × Nat × Trail) → State
  | [] => modCore s cn (fun c => { c with spilled := [] })
  | (l, e, trail) :: rest =>
    let pa := spillAddr s cn l e
    if !isLocal s pa then
      if (getCore s cn).unspilling then s
      else askRemote (modCore s cn (fun c => { c with spilled := (l, e, trail) :: rest, unspilling := true })) pa (spillRind s l)
        (hardwareFlight (some l) (.unspill cn l trail)) (some l)
    else match (if spillShut s cn l pa false then (s, none)
        else physRead s ((List.range 64).map (fun i => paLocal pa + i)) { launch := some l }) with
    | (s, some bs) =>
      enterSlot (modCore s cn (fun c => { c with spilled := rest })) cn slot l (spilledWords bs) trail
    | (s, none) => unspill (modLaunch s l (fun x => { x with roaming := x.roaming - 1 })) cn slot rest

/-- The oldest spilled packet enters a free arrival-queue slot (R371). -/
def unspillOne (s : State) (cn : Nat) : State :=
  match freeSlot s cn with
  | some i => unspill s cn i (getCore s cn).spilled
  | none => s

/-- Another node has answered with a spilled packet, or with an error: it enters a slot, or is gone (R371; log 90). -/
def unspillAnswer (s : State) (cn l : Nat) (trail : Trail) (err : Nat) (v : Vec) : State :=
  let s := modCore s cn (fun c => { c with unspilling := false })
  match (getCore s cn).spilled, freeSlot s cn with
  | (l', _, _) :: rest, some i =>
    if l' ≠ l then s
    else
      let s := modCore s cn (fun c => { c with spilled := rest })
      unspillOne (if err = 0 then enterSlot s cn i l (spilledWords (bytesOf v 64)) trail
        else modLaunch s l (fun x => { x with roaming := x.roaming - 1 })) cn
  | _, _ => s

/-- A cluster holds no context of a launch (R138). -/
def clusterIdle (s : State) (cl : Nat) : Bool :=
  !s.ctxs.any (fun e => coreCluster (ctxCore e.1) == cl && e.2.launch.isSome)
    && (List.range 8).all (fun i => (getCore s (8 * cl + i)).spilled.isEmpty)

/-- A cluster's L1s fused or parted: a change writes them back to the L2 and invalidates them (R138). -/
def setFused (s : State) (cl : Nat) (b : Bool) : State :=
  if (getCluster s cl).fused == b then s
  else
    let mine := (s.l1.map (fun e => e.1)).filter (fun k => coreCluster (k % 2048) == cl)
    modCluster (mine.foldl (fun s k => l1Evict s (k % 2048) (k / 2048)) s) cl (fun c => { c with fused := b })

/-- Fusion ends as a cluster loses its last context (R138). -/
def partIdle (s : State) (cl : Nat) : State := if clusterIdle s cl then setFused s cl false else s

/-- A slot frees: its generation advances, and the oldest spilled packet enters it (R45, R371). -/
def releaseSlot (s : State) (k : Nat) : State :=
  let cn := ctxCore k
  let i := ctxIdx k - 128
  let s := setCtx s k (Ctx.initial k)
  let s := modCore s cn (fun c => { c with
    slotGen := tput c.slotGen i (tget 0 c.slotGen i + 1)
    running := if c.running == some k then none else c.running })
  let gen := tget 0 (getCore s cn).slotGen i
  let s := modCtx s k (fun c => { c with st := putFld c.st 32 8 gen })
  partIdle (unspill s cn i (getCore s cn).spilled) (coreCluster cn)

/-! ### Bitmap watches (R219) -/

/-- The watch message of an armed bitmap watch (R219). -/
def bitmapMessage (rind home : Nat) (port : Word) (va mask dword : Dword) : BitVec 512 :=
  mkMessage (mkHeader port.toNat 0 0 rind false 0 (coreField home) 2 0 0xFF)
    (BitVec.ofNat 384 (dword.toNat + mask.toNat * 2 ^ 64 + va.toNat * 2 ^ 128))

/-- The bytes of a watched dword: in the view of its sector as it stands (R151, R219). -/
def watchBytes (s : State) (home a : Nat) : List Nat :=
  viewAddrs a 8 (caveHolds a && colBit s (clusterDie (coreCluster home)) a)

/-- The dword of a watch, as its home reads it. -/
def dwordAt (s : State) (home a : Nat) : Dword := ofBytes 64 ((watchBytes s home a).map (readByte s))

/-- A bitmap watch of a key fires: its message goes on its way (R219). -/
def fireBitmap (s : State) (key : Nat) (w : Watch) : State :=
  match w.bitmap with
  | some (pa, va, mask) =>
    let m := bitmapMessage w.rind (key / 64) w.port va mask (dwordAt s (key / 64) pa)
    sendPacket { s with watches := tput s.watches key { w with fired := some m, sent := true } } (.message m)
  | none => s

/-- n bytes from an address updated at a home: every bitmap watch on them that is satisfied fires (R219). A column
view maps the addresses. -/
def fireBitmaps (s : State) (a n : Nat) (view : Bool) : State :=
  let touched := (List.range n).map (fun i => if view then colAddr (a + i) else a + i)
  (s.watches.filter (fun e => match e.2.bitmap with
    | some (pa, _, mask) => e.2.fired.isNone && touched.any (watchBytes s (e.1 / 64) pa).contains
        && (dwordAt s (e.1 / 64) pa &&& mask) == mask
    | none => false)).foldl (fun s e => fireBitmap s e.1 e.2) s

/-! ### Ending a context (R254, R354, R355) -/

/-- The member-lost message for a Hoop block (R354), and the member's leaving: the block is read where it lies; a block
or a table of another node is asked for, and the flight is kept. Where a scratchpad's owner refuses the access (R165), nobody
is told and nothing changes (log 83). -/
def loseMember (s : State) (f : Flight) (r : Req) (va : Dword) (m : BitVec 512) (leave : Bool) : State :=
  match translate s r va .load with
  | (s, .error (.fault _)) => s
  | (s, .error .walking) => { s with net := s.net ++ [f] }
  | (s, .ok x) =>
    let s := touchLeaf s r x (if leave then .store else .load)
    if !isLocal s x.pa then askRemote s x.pa r.rind { f with body := .lost r va m leave (some x.pa) } r.launch
    else
      let a := paLocal x.pa
      let via : Via := { launch := r.launch, plain := x.pkind == 0 }
      if padRefuses s r.core a 64 false || (leave && padRefuses s r.core a 4 true) then countNack s a
      else match homeRead s x.home a 64 (caveHolds a && colBit s (clusterDie (coreCluster x.home)) a) via with
      | (s, none) => s
      | (s, some blk) =>
        let s := if bitAt blk 127 then
            { s with net := s.net ++ [{ f with body := .resend (putFld m 96 32 (fld blk 96 29 |>.setWidth 32)) 0 }] }
          else s
        if leave then
          let view := caveHolds a && colBit s (clusterDie (coreCluster x.home)) a
          fireBitmaps (homeWrite s x.home a 4 ((fld blk 0 32 - 1).setWidth 512) 0xF view via) a 4 view
        else s

/-- The member-lost message of a Hoop member (R354). reason: 1 exit, 2 trap, 3 kill. -/
def memberLost (s : State) (k reason code : Nat) (leave : Bool) : State :=
  let c := getCtx s k
  if c.hoop = 0 then s
  else
    let payload : BitVec 384 := BitVec.ofNat 384 (c.hoop.toNat + (ctxName s k).toNat * 2 ^ 64
      + reason * 2 ^ 128 + code % 256 * 2 ^ 136)
    let m := mkMessage (mkHeader 0 0 0 (stRind c.st) false 0 (coreField (ctxCore k)) 3 0 (stCtx c.st)) payload
    let r := coreReq s k
    let f : Flight := { owner := some (k, stGen c.st), ord := sendOrd false true, body := .lost r c.hoop m leave none, launch := c.launch }
    let s := loseMember s f r c.hoop m leave
    if leave then modCtx s k (fun c => { c with hoop := 0 }) else s

/-- The slots of a context's arrival frame are free (R338). -/
def freeFrames (s : State) (k : Nat) : State :=
  { s with slots := (getCtx s k).frames.foldl (fun t i => tput t (ctxCore k * 256 + i) false) s.slots }

/-- A seated context becomes dormant: its loop registers, refusals, error records and full/empty bits are cleared, and
its generation advances (R44, R254, R355). -/
def clearSeated (s : State) (k : Nat) : State :=
  let s := modCtx s k (fun c => { c with
    loopCnt := 0, loopEnd := 0, loopLen := 0, frames := [], deferred := [], errs := [], errTsv1 := none,
    errTsv2 := none, collect := [], pending := none, hint := none, trail := {}, walked := [], asks := [],
    migrTo := none, got := [], unacked := 0, empty := [],
    st := putFld c.st 32 8 (stGen c.st + 1) })
  leaveSlot (freshRegs s k loopReg) k .dormant

/-- A context ends by EXIT (reason 1), KILL (3), or a double trap (2 with its code). -/
def endCtx (s : State) (k reason code : Nat) : State :=
  let s := closeStreams s k
  let s := memberLost s k reason code true
  let c := getCtx s k
  let s := freeFrames s k
  if 128 ≤ ctxIdx k then
    let s := match c.launch with
      | some l => modLaunch s l (fun x => { x with roaming := x.roaming - 1 })
      | none => s
    releaseSlot s k
  else clearSeated s k

/-! ### Taking a trap and returning (R378 to R385) -/

/-- ecause of a trap (R378). -/
def causeOf (t : TrapRec) : Dword :=
  BitVec.ofNat 64 (t.code % 256 + t.acc % 256 * 256) ||| bit64 t.deferred 63

/-- Trap entry in a seated context (R379), st.trap being 0. est is the st saved. -/
def enterTrap (s : State) (k : Nat) (t : TrapRec) (resume est : Dword) : State :=
  let c := getCtx s k
  let lr := getRec s (ctxCore k) (c.launch.getD 0)
  let fe : Nat := (if c.isEmpty 1 then 0 else 16) + (if c.isEmpty 2 then 0 else 32)
  let c' : Ctx := { c with
    est := est, epc := resume &&& ~~~3#64, ecause := causeOf t, eaddr := t.eaddr, eseq := dieTs s (coreDie (ctxCore k))
    tfInfo := t.info ||| BitVec.ofNat 64 fe
    tfd := (List.range 8).map (fun i => (i, t.frame.getD i 0))
    tsv1 := c.readG 1, tsv2 := c.readG 2
    errTsv1 := tfind c.errs 1, errTsv2 := tfind c.errs 2
    errs := tdel (tdel c.errs 1) 2
    st := stBit (stBit (stBit c.st 1 true) 0 true) 2 false
    pc := lr.tvec &&& ~~~3#64
    hint := none, got := [], walked := [], asks := [] }
  let c' := ((c'.writeG 1 (c.tarea &&& ~~~63#64)).setEmpty 1 false).writeG 2 (causeOf t)
  let s := modCore (setCtx s k (c'.setEmpty 2 false)) (ctxCore k) (fun x => { x with block := none, left := none })
  let s := freshRegs s k (fun r => r == 1 || r == 2)
  let s := memberLost s k 2 t.code false
  if (getCore s (ctxCore k)).fmask.getLsbD (t.code % 256) then
    raiseTrigger s (stRind c.st) (BitVec.ofNat 64 (coreField (ctxCore k) * 2 ^ 29 + 1))
  else s

/-- A trap cause at a context (R379): a double trap kills (R383), a roaming context waits for a seat (R385). -/
def takeTrap (s : State) (k : Nat) (t : TrapRec) (resume : Dword) : State :=
  let c := getCtx s k
  if stTrap c.st then
    let name := ctxName s k
    let s := endCtx s k 2 t.code
    logCore s (ctxCore k) 0x0B (name <<< 8 ||| BitVec.ofNat 64 (t.code % 256))
  else if stRoam c.st then
    leaveSlot (modCtx s k (fun c => { c with pending := some { t with resume := resume }, hint := none, pc := resume })) k
      (.waiting .seat)
  else enterTrap s k t resume c.st

/-- The causes that the table marks D: ecause.def is set for these alone (R380). -/
def causeDeferred (code : Nat) : Bool := code == 0x30 || code == 0x31

/-- The oldest queued refusal is taken as a deferred trap (R343, R382); pc is the next instruction to issue. -/
def takeDeferred (s : State) (k : Nat) : State :=
  let c := getCtx s k
  match c.deferred with
  | [] => s
  | (_, t) :: rest =>
    let resume := match c.hint with
      | some (a, _) => a
      | none => c.pc
    takeTrap (modCtx s k (fun c => { c with deferred := rest })) k { t with deferred := causeDeferred t.code } resume

/-- A refusal waits that may be taken at this boundary (R382). -/
def deferredReady (s : State) (k : Nat) : Bool :=
  let c := getCtx s k
  !stTrap c.st && c.pending.isNone && (match c.deferred with
    | [] => false
    | (cy, _) :: _ => decide (cy < s.cycle))

/-- Return from a trap (R384): g1, g2 and st restored, tf.info cleared, and the pc at epc. -/
def returnTrap (s : State) (k : Nat) : State :=
  let c := getCtx s k
  let st := putFld (putFld (stBit c.est 4 (stDem c.st)) 32 8 (stGen c.st)) 8 8 (BitVec.ofNat 8 (stCtx c.st))
  let full := fun (r : Nat) => bitAt c.tfInfo (3 + r)
  let errs := tdel (tdel c.errs 1) 2
  let errs := match c.errTsv1 with
    | some e => tput errs 1 e
    | none => errs
  let errs := match c.errTsv2 with
    | some e => tput errs 2 e
    | none => errs
  let c' := ((c.writeG 1 c.tsv1).writeG 2 c.tsv2).setEmpty 1 (!full 1)
  let c' := c'.setEmpty 2 (!full 2)
  let s := setCtx s k { c' with
    st := st, tfInfo := 0, errs := errs, errTsv1 := none, errTsv2 := none, pc := c.epc, hint := none, trail := { c.trail with moves := 0 } }
  modCore (freshRegs s k (fun r => r == 1 || r == 2)) (ctxCore k) (fun x => { x with block := none, left := none })

/-- ERET of a context that had been roaming (R385): its eight words travel as an arrival packet to the same
core, and the seated context ends as by EXIT. -/
def returnRoaming (s : State) (k : Nat) : State :=
  let s := returnTrap s k
  let c := getCtx s k
  let l := c.launch.getD 0
  let words := [c.pc, c.st] ++ [1, 2, 3, 4, 5, 6].map c.readG
  let s := modLaunch s l (fun x => { x with roaming := x.roaming + 1 })
  let f : Flight := { owner := some (k, stGen c.st), ord := (sendOrd false true).issued s,
                      body := .arrival (ctxCore k) (ctxCore k) l words c.trail none, launch := none }
  endCtx { s with net := s.net ++ [f] } k 1 0

/-! ### The frame of an issued instruction -/

/-- How an instruction's effect ends. -/
inductive Done where
  /-- It completes; the next word follows. -/
  | next
  /-- It completes by a control transfer. -/
  | jump (target : Dword)
  /-- A precise trap; the state is that of the walk's updates only. -/
  | trap (t : TrapRec)
  /-- It does not issue in this turn: it waits for earlier accesses of its context. -/
  | hold
  /-- It has set the pc and the activity itself. -/
  | moved
deriving DecidableEq, Repr

/-- The registers an instruction names, numbered as R40 does, p(i) as 64 + i. -/
structure Named where
  reads  : List Nat := []
  writes : List Nat := []
  /-- Registers whose full/empty bits are tested and which no stream moves (SCFG, R206). -/
  tests  : List Nat := []
  /-- Registers that are only named (SCLOSE, SSTAT; R207, R208). -/
  names  : List Nat := []
  /-- A control register that CRD, CWR or the instruction itself names (R35). -/
  ctl    : Option Nat := none
  /-- The byte lanes that a push to a write stream carries (R200). -/
  lanes  : BitVec 64 := BitVec.allOnes 64
  /-- A register that may not be in stream mode (R114, R201). -/
  noStream : Option Nat := none
  /-- The loop registers that it reads: 72 loop.cnt, 73 loop.end, 74 loop.len. -/
  loops  : List Nat := []
  /-- A vector instruction (R374). -/
  vec    : Bool := false
  /-- Registers whose old lanes its result keeps (R264): an uncorrectable one is read too (R389). -/
  merges : List Nat := []

/-- A trap without access and frame. -/
def simpleTrap (code : Nat) (eaddr : Dword) : TrapRec := { code := code, eaddr := eaddr }

/-- The register or control register that a roaming context may not name (R35); none when it may. -/
def classBad (c : Ctx) (u : Named) : Option Nat :=
  if !stRoam c.st then none
  else match u.ctl with
    | some i => if i = 0 then (u.reads ++ u.writes).find? (fun r => decide (6 < r)) else some (0x1000 + i)
    | none => (u.reads ++ u.writes ++ u.tests ++ u.names).find? (fun r => decide (6 < r))

/-- The lowest number of a list that satisfies a test. -/
def lowest (l : List Nat) (f : Nat → Bool) : Option Nat :=
  (l.filter f).foldl (fun a r => match a with
    | none => some r
    | some b => some (min b r)) none

/-- What the issue test of R42 decides. -/
inductive IssueTest where
  | pass
  | trap (t : TrapRec)
  | park (r : Nat)
deriving DecidableEq, Repr

/-- The full/empty test (R42) of the registers named. -/
def issueTest (c : Ctx) (rs : List Nat) : IssueTest :=
  let rs := rs.filter (fun r => decide (r < 64))
  match lowest rs (fun r => c.isEmpty r) with
  | none => .pass
  | some low =>
    match lowest rs (fun r => c.isEmpty r && (tfind c.errs r).isSome) with
    | some r => .trap ((tfind c.errs r).getD (simpleTrap 0x0E 0))
    | none =>
      match lowest rs (fun r => c.isEmpty r && c.fepol.getLsbD r) with
      | some r => .trap (simpleTrap 0x06 (BitVec.ofNat 64 r))
      | none => .park low

/-- The first register of a list that is a stream register of the wrong direction (R201). -/
def streamConflict (s : State) (k : Nat) (u : Named) : Option Nat :=
  let bad := fun (write : Bool) (r : Nat) =>
    decide (32 ≤ r) && decide (r < 64) && (match (streamSlot s k (r - 32)).bind (tfind s.streams) with
      | some t => streamWrite t.desc == write
      | none => false)
  ((u.noStream.filter (fun r => decide (32 ≤ r) && (streamSlot s k (r - 32)).isSome)).or
    (lowest u.reads (bad true))).or (lowest u.writes (bad false))

/-- The causes for which ecause.acc is set (R380). -/
def causeHasAcc (code : Nat) : Bool := code == 0x0E || (decide (0x10 ≤ code) && decide (code ≤ 0x1A))

/-- A stream register whose next element failed (R202): the trap, whose ecause records what a core access would have
taken (log 51). -/
def streamFault (s : State) (k : Nat) (u : Named) : Option TrapRec :=
  (u.reads ++ u.writes).findSome? (fun r =>
    if r < 32 ∨ 64 ≤ r then none
    else match (streamSlot s k (r - 32)).bind (tfind s.streams) with
      | none => none
      | some t => match t.fail with
        | none => none
        | some (n, code, acc, ea) =>
          if streamWrite t.desc || n == t.pos then some { code := code, acc := if causeHasAcc code then acc else 0, eaddr := ea }
          else none)

/-- The heads of the read streams named, brought into their registers (R199). -/
def loadHeads (s : State) (k : Nat) (rs : List Nat) : State :=
  rs.foldl (fun s r =>
    if r < 32 ∨ 64 ≤ r then s
    else match (streamSlot s k (r - 32)).bind (tfind s.streams) with
      | none => s
      | some t => if streamWrite t.desc then s
        else modCtx s k (fun c => c.writeV (r - 32) (readVec s (ringAddr (ctxCore k) t.desc t.pos) 64))) s

/-- Each read stream named is popped once, and each write stream named takes its element (R199, R200). -/
def moveStreams (s : State) (k : Nat) (u : Named) : State :=
  let s := u.reads.eraseDups.foldl (fun s r =>
    if r < 32 ∨ 64 ≤ r then s
    else match streamSlot s k (r - 32) with
      | none => s
      | some i => match tfind s.streams i with
        | none => s
        | some t => if streamWrite t.desc then s
          else streamBit { s with streams := tput s.streams i { t with pos := t.pos + 1 } } i) s
  u.writes.eraseDups.foldl (fun s r =>
    if r < 32 ∨ 64 ≤ r then s
    else match streamSlot s k (r - 32) with
      | none => s
      | some i => match tfind s.streams i with
        | none => s
        | some t => if streamWrite t.desc && t.owed.isNone then pushStream s i ((getCtx s k).readV (r - 32)) u.lanes
          else s) s

/-- The pc after a completed word (R247): the loop test at loop.end, else the next word. -/
def nextPc (c : Ctx) (word : Dword) : Ctx :=
  if word = c.loopEnd ∧ c.loopCnt ≠ 0 ∧ stTrap c.st = bitAt c.loopLen 10 then
    if 1 < c.loopCnt.toNat then
      { c with loopCnt := c.loopCnt - 1, pc := c.loopEnd - BitVec.ofNat 64 (4 * fldN c.loopLen 0 10) + 4 }
    else { c with loopCnt := 0, pc := word + 4 }
  else { c with pc := word + 4 }

/-- The pc after a taken transfer (R247): one that leaves the body of the active loop ends it. -/
def jumpPc (c : Ctx) (word target : Dword) : Ctx :=
  let first := c.loopEnd - BitVec.ofNat 64 (4 * fldN c.loopLen 0 10) + 4
  let inside := fun (a : Dword) => decide (first.toNat ≤ a.toNat) && decide (a.toNat ≤ c.loopEnd.toNat)
  if c.loopCnt ≠ 0 ∧ stTrap c.st = bitAt c.loopLen 10 ∧ inside word ∧ !inside target then
    { c with loopCnt := 0, pc := target }
  else { c with pc := target }

/-- The first register read that no longer corrects (R389). -/
def badRegister (s : State) (k : Nat) (rs : List Nat) : Option Nat := lowest rs (fun r => s.badReg.contains (k, r))

/-- A loop register no longer corrects and the instruction reads it (R389): CRD reads the one it names, REP and REPS read
loop.cnt, and the loop test at the last word of the body reads all three. -/
def loopBad (s : State) (k : Nat) (c : Ctx) (u : Named) : Bool :=
  s.badReg.any (fun e => e.1 == k && loopReg e.2
    && (u.loops.contains e.2 || (decide (c.loopCnt ≠ 0) && c.pc == c.loopEnd)))

/-- An uncorrectable register error counted (R389). -/
def countUe (s : State) (cn : Nat) : State :=
  modCore s cn (fun x => { x with ue := min (x.ue + 1) 65535, regErrs := s.cycle :: x.regErrs })

/-- Three uncorrectable register errors within 2^30 cycles (R389). -/
def errorsRetire (s : State) (cn : Nat) : Bool :=
  decide (3 ≤ ((getCore s cn).regErrs.filter (fun t => decide (s.cycle < t + 2 ^ 30))).length)

/-- A take-over runs in a cluster (R394). -/
def takeoverRuns (s : State) (cl : Nat) : Bool := (List.range 8).any (fun i => (getCore s (8 * cl + i)).takeover)

/-- A failure that waits until the take-over of another unit has logged its event (R394). -/
def deferFailure (s : State) (cl : Nat) (u : UnitFailure) : State :=
  modCluster s cl (fun c => if c.failures.contains u then c else { c with failures := c.failures ++ [u] })

/-- Every context of a core killed (R390): how many. Packets in its spill list stay there. -/
def killCore (s : State) (cn : Nat) : State × Nat :=
  let spilled := (getCore s cn).spilled
  let s := modCore s cn (fun c => { c with spilled := [] })
  let ks := (s.ctxs.filter (fun e => ctxCore e.1 == cn && e.2.act != .dormant)).map (fun e => e.1)
  let s := ks.foldl (fun s k => endCtx s k 3 0) s
  (modCore s cn (fun c => { c with spilled := spilled }), ks.length)

/-- The new logic of a core: what the old logic held is gone (R390). -/
def newLogic (s : State) (cn : Nat) : State :=
  let s := modCore s cn (fun c => { c with running := none, block := none, left := none, misses := [], code := [], asked := [], regErrs := [], predictor := [], gateState := 0, gateAt := none })
  { setTlb s (coreTlb cn) [] with
    badReg := s.badReg.filter (fun e => ctxCore e.1 != cn), l1i := tkeep s.l1i (fun k _ => k % 2048 != cn) }

/-- A core's logic is retired (R390, R391): the spare's take-over begins, or without a free spare the core goes offline. -/
def retireCore (s : State) (core : Nat) : State :=
  let (s, n) := killCore s core
  let s := newLogic s core
  if (getCluster s (coreCluster core)).spareUsed then
    logCore (modCore s core (fun c => { c with off := true })) core 0x02 (BitVec.ofNat 64 n)
  else
    let s := modCluster s (coreCluster core) (fun c => { c with spareUsed := true })
    modCore s core (fun c => { c with takeover := true, killed := n })

/-- A failed core is retired, at once or when the take-over that runs has logged its event (R389, R394). -/
def failCore (s : State) (core : Nat) : State :=
  if takeoverRuns s (coreCluster core) then deferFailure s (coreCluster core) (.core core) else retireCore s core

/-- An instruction meets an uncorrectable register: a precise trap (R389), unless the error is the third within 2^30 cycles
and the core retires. -/
def regError (s : State) (k : Nat) (t : TrapRec) (resume : Dword) : State :=
  let s := countUe s (ctxCore k)
  if !errorsRetire s (ctxCore k) then takeTrap s k t resume
  else if takeoverRuns s (coreCluster (ctxCore k)) then failCore (takeTrap s k t resume) (ctxCore k)
  else retireCore s (ctxCore k)

/-- The first read stream named whose head in the scratchpad ring cannot be corrected (R25, R164, R199). -/
def ringBad (s : State) (k : Nat) (rs : List Nat) : Option Nat :=
  rs.find? (fun r => decide (32 ≤ r) && decide (r < 64) &&
    (match (streamSlot s k (r - 32)).bind (tfind s.streams) with
      | none => false
      | some t => !streamWrite t.desc &&
          !scratchGood s (viewAddrs (ringAddr (ctxCore k) t.desc t.pos) 64 false)))

/-- The address to resume at: that of the hint when the word is a target (R53). -/
def resumeAddr (c : Ctx) : Dword :=
  match c.hint with
  | some (a, _) => a
  | none => c.pc

/-- A context parks: its pc names the instruction, or its hint (R42, R53). -/
def parkAt (s : State) (k : Nat) (w : Wait) : State :=
  leaveSlot (modCtx s k (fun c => { c with pc := resumeAddr c, hint := none })) k (.waiting w)

/-- A context whose instruction waits gives its issue slot away and asks again (R19, R21). -/
def yieldSlot (s : State) (k : Nat) : State :=
  leaveSlot (modCtx s k (fun c => { c with
    pc := resumeAddr c, hint := none, sel := { arrival := s.cycle, port := 64, hit := true, bypass := 0 } })) k .runnable

/-- A context whose instruction has completed: nothing of that instruction is left in it (R53, R102, R117). -/
def ended (c : Ctx) : Ctx :=
  { c with hint := none, trail := { c.trail with moves := 0 }, got := [], walked := [], asks := [] }

/-- The state after a completed instruction. -/
def retire (s : State) (k : Nat) (u : Named) (c0 : Ctx) (pcOf : Ctx → Ctx) : State :=
  let s := moveStreams s k u
  let s := freshRegs s k u.writes.contains
  let s := if u.vec then countEnergy s (unitKey 0 (ctxCore k)) 2 1 (stRind c0.st) c0.launch else s
  modCtx s k (fun c => ended (pcOf c))

/-- The issue of one instruction of the acting context (R35, R42, R201, R389): the class check, the full/empty
test, the effect, and the pc. -/
def issue (s : State) (u : Named) (body : State → Ctx → State × Done) :
    Host.Outcome State Fault Refusal :=
  let k := s.me
  let c := getCtx s k
  match classBad c u with
  | some r => .next (takeTrap s k (simpleTrap 0x03 (BitVec.ofNat 64 r)) (resumeAddr c))
  | none =>
    match streamConflict s k u with
    | some r => .next (takeTrap s k (simpleTrap 0x09 (BitVec.ofNat 64 r)) (resumeAddr c))
    | none =>
      match issueTest c (u.reads ++ u.writes ++ u.tests) with
      | .trap t => .next (takeTrap s k t (resumeAddr c))
      | .park r => .next (parkAt s k (.register r))
      | .pass =>
        match badRegister s k (u.reads ++ u.merges) with
        | some r => .next (regError s k (simpleTrap 0x0E (BitVec.ofNat 64 (0x2000 + r))) (resumeAddr c))
        | none =>
          -- The spec names no eaddr for a loop register: it is a free value (log 16).
          if loopBad s k c u then
            .next (regError s k (simpleTrap 0x0E ((Config.freeVec 1 s.tick).setWidth 64)) (resumeAddr c))
          else
          match streamFault s k u with
          | some t => .next (takeTrap s k t (resumeAddr c))
          | none =>
            match ringBad s k u.reads with
            -- A stream element that cannot be corrected has the eaddr of its register (log 88).
            | some r => .next (takeTrap s k (simpleTrap 0x0E (BitVec.ofNat 64 (0x2000 + r))) (resumeAddr c))
            | none =>
            let s0 := loadHeads s k u.reads
            match body s0 (getCtx s0 k) with
            | (s', .next) => .next (retire s' k u c (fun x => nextPc x c.pc))
            | (s', .jump t) => .next (retire s' k u c (fun x => jumpPc x c.pc t))
            | (s', .trap t) => .next (takeTrap s' k t (resumeAddr c))
            | (s', .hold) => .next (yieldSlot s' k)
            | (s', .moved) => .next s'

/-- The effect of an instruction that only computes on its context. -/
def pureBody (f : Ctx → Ctx) : State → Ctx → State × Done := fun s c => (setCtx s s.me (f c), .next)

end Sys2Proof.Machine
end

