-- ==== Sys2Proof/Machine/Operands.lean ====
section
/-!
DEFINITION. Operand forms: immediates with or without H.IMM (R49), effective addresses (R31, R121), hint fields
(R50, R51), vector lanes and masks (R262 to R264).
-/

namespace Sys2Proof.Machine

/-- The number of a g, v or p field in the numbering of R40, p(i) as 64 + i. -/
def gr (r : BitVec 5) : Nat := r.toNat
def vr (r : BitVec 5) : Nat := 32 + r.toNat
def pr {w : Nat} (r : BitVec w) : Nat := 64 + r.toNat

/-- The payload of an H.IMM that has issued before the word (R49). -/
def Ctx.hImm (c : Ctx) : Option (BitVec 23) :=
  match c.hint with
  | some (_, .hImm p) => some p
  | _ => none

/-- The placement of an H.SCHED: 0 predictor, 1 remote, 2 migration (R50). -/
def Ctx.hPlace (c : Ctx) : Nat :=
  match c.hint with
  | some (_, .hSched l _) => l.toNat
  | _ => 0

/-- The orientation of an H.SCHED: none as the sector stands, else whether the column view (R50, R151). -/
def Ctx.hOrient (c : Ctx) : Option Bool :=
  match c.hint with
  | some (_, .hSched _ o) => if o = 1 then some false else if o = 2 then some true else none
  | _ => none

/-- nalloc of an H.MOD (R51). -/
def Ctx.hNalloc (c : Ctx) : Bool :=
  match c.hint with
  | some (_, .hMod _ n) => n == 1
  | _ => false

/-- The rounding mode in force for a VFLT or VCVT word (R51, R223). -/
def Ctx.hRm (c : Ctx) : Rm :=
  match c.hint with
  | some (_, .hMod r _) =>
    match r.toNat with
    | 1 => .towardZero
    | 2 => .down
    | 3 => .up
    | 4 => .nearestAway
    | _ => .nearestEven
  | _ => .nearestEven

/-- A 16-bit immediate, or the 39-bit join of R49, sign-extended. -/
def immS (c : Ctx) (i : BitVec 16) : Dword :=
  match c.hImm with
  | some p => sx (p ++ i)
  | none => sx i

/-- The same, zero-extended. -/
def immZ (c : Ctx) (i : BitVec 16) : Dword :=
  match c.hImm with
  | some p => zx (p ++ i)
  | none => zx i

/-- The byte offset of an M-format word: off12, or the 35-bit join, times the access size (R31, R49). -/
def offM (c : Ctx) (k : BitVec 12) (n : Nat) : Dword :=
  (match c.hImm with
   | some p => sx (p ++ k)
   | none => sx k) * BitVec.ofNat 64 n

/-- The effective address of an M-format word (R31). -/
def eaM (c : Ctx) (a : BitVec 5) (k : BitVec 12) (n : Nat) : Dword := c.readG a.toNat + offM c k n

/-- The effective address of an indexed word (R122). -/
def eaX (c : Ctx) (a b : BitVec 5) (n : Nat) : Dword := c.readG a.toNat + c.readG b.toNat * BitVec.ofNat 64 n

/-- A branch target (R32, R49): counted in words from the word's own address. -/
def branchTarget (c : Ctx) (o : BitVec 16) : Dword := c.pc + immS c o * 4

/-- A jump target (R32). -/
def jumpTarget (c : Ctx) (o : BitVec 26) : Dword := c.pc + sx o * 4

/-- Lane i of a vector, lanes of n bytes. -/
def lane (x : Vec) (n i : Nat) : Nat := (x >>> (8 * n * i)).toNat % 2 ^ (8 * n)

/-- The lanes of a vector. -/
def lanes (x : Vec) (n : Nat) : List Nat := (List.range (64 / n)).map (lane x n)

/-- A vector from its lanes of n bytes, lane 0 lowest. -/
def packLanes (n : Nat) : List Nat → Nat
  | [] => 0
  | x :: xs => x % 2 ^ (8 * n) + 2 ^ (8 * n) * packLanes n xs

/-- The same as a vector. -/
def ofLanes (n : Nat) (xs : List Nat) : Vec := BitVec.ofNat 512 (packLanes n xs)

/-- Lane i of n bytes is active under a mask (R263): mask bit n × i. -/
def laneOn (m : Dword) (n i : Nat) : Bool := m.getLsbD (n * i)

/-- The byte lanes that active lanes cover. -/
def laneBytes (m : Dword) (n : Nat) : BitVec 64 :=
  BitVec.ofNat 64 ((List.range 64).foldl (fun a j => if laneOn m n (j / n) then a + 2 ^ j else a) 0)

/-- The byte lanes of a push (R200): with zeroing every lane is written. -/
def pushLanes (m : Dword) (n : Nat) (z : Bool) : BitVec 64 := if z then BitVec.allOnes 64 else laneBytes m n

/-- A result merged into a destination under a mask (R263): active lanes take the result, the others zero or
their old value. -/
def mergeLanes (m : Dword) (n : Nat) (z : Bool) (old : Vec) (new : List Nat) : Vec :=
  ofLanes n ((List.range (64 / n)).map (fun i =>
    if laneOn m n i then new.getD i 0 else if z then 0 else lane old n i))

end Sys2Proof.Machine
end

