-- ==== Sys2Proof/Machine/Flags.lean ====
section
/-!
DEFINITION. Conditions. Burut has no condition flags: a branch tests a register (R243), a comparison writes a
register or a predicate (R237, R272). The tests stand here, once.
-/

namespace Sys2Proof.Machine

/-- 1 or 0 in a g register (R237). -/
def boolD (b : Bool) : Dword := if b then 1 else 0

/-- The tests of BCC on g[a] (R243). -/
def isZero (x : Dword) : Bool := x == 0
def isNeg (x : Dword) : Bool := x.msb
def isPos (x : Dword) : Bool := !x.msb && x != 0
def isOdd (x : Dword) : Bool := bitAt x 0

/-- Signed and unsigned order. -/
def ltS (x y : Dword) : Bool := x.slt y
def ltU (x y : Dword) : Bool := x.ult y

/-- A comparison code of R272 on two integers: eq, ne, lt, le, gt, ge. -/
def cmpInt (code : Nat) (x y : Int) : Bool :=
  match code with
  | 0 => x == y
  | 1 => x != y
  | 2 => decide (x < y)
  | 3 => decide (x ≤ y)
  | 4 => decide (y < x)
  | _ => decide (y ≤ x)

/-- The same on floating-point values: a NaN makes every comparison false but ne (R273). -/
def cmpVal (code : Nat) (x y : Val) : Bool :=
  if x.isNan || y.isNan then code == 1
  else match code with
    | 0 => x.eqv y
    | 1 => !(x.eqv y)
    | 2 => x.lt y
    | 3 => !(y.lt x)
    | 4 => y.lt x
    | _ => !(x.lt y)

end Sys2Proof.Machine
end

