-- ==== Sys2Proof/Machine/Access.lean ====
section
/-!
DEFINITION. Data accesses (R112 to R128): the checks, where an access is performed, its effect at its home, and
the packets of those performed elsewhere.
-/

namespace Sys2Proof.Machine

/-- One access that an instruction asks for. -/
structure Want where
  op   : AccOp
  n    : Nat
  ea   : Dword
  data : Vec := 0
  expect : Dword := 0
  dest : Dest := .none
  /-- The size code of tf.info (R378). -/
  size : Nat
  acq  : Bool := false
  rel  : Bool := false
  scope : Nat := 0
deriving DecidableEq, Repr

/-- The access kind of R99. -/
def opAcc (op : AccOp) : AccKind :=
  match op with
  | .load => .load
  | .store => .store
  | .atomic _ => .atomic
  | .hoopIn => .store
  | .hoopOut => .store

def opLoads (op : AccOp) : Bool := match op with | .store => false | _ => true
def opStores (op : AccOp) : Bool := match op with | .load => false | _ => true
def opAtomic (op : AccOp) : Bool := match op with | .atomic _ => true | .hoopIn => true | .hoopOut => true | _ => false

/-- The register of R40 that a destination names; 0 for none. -/
def destReg (d : Dest) : Nat :=
  match d with
  | .g r _ => r
  | .v r => 32 + r
  | .part r _ => 32 + r
  | .bits r _ => r
  | _ => 0

/-- A precise trap of an access (R380): the acc field is set for data-error and the codes 0x10 to 0x1A only. -/
def accessTrap (code : Nat) (acc : AccKind) (ea : Dword) : TrapRec :=
  { code := code, acc := if causeHasAcc code then accCode acc else 0, eaddr := ea }

/-- Why an access does not go on: a precise trap, or the instruction asks again later (R102). -/
inductive Stop where
  | trap (t : TrapRec)
  | hold
deriving DecidableEq, Repr

/-- The stop of an access that has no translation. -/
def noXl (acc : AccKind) (ea : Dword) (n : NoXl) : Stop :=
  match n with
  | .fault code => .trap (accessTrap code acc ea)
  | .walking => .hold

/-- An instruction that stops. -/
def Stop.done (x : Stop) : Done :=
  match x with
  | .trap t => .trap t
  | .hold => .hold

/-- The frame of a refused scratchpad access (R167, R381). -/
def refusedTrap (a : Access) : TrapRec :=
  let (kacc, aop) : Nat × Nat := match a.op with
    | .store => (1, 0)
    | .atomic o => (2, o)
    | .hoopIn => (2, 2)
    | .hoopOut => (2, 2)
    | _ => (0, 0)
  let reg := if kacc = 0 then destReg a.dest else 0
  { code := 0x31, eaddr := a.va,
    info := BitVec.ofNat 64 (aop * 2 ^ 32 + a.n % 128 * 2 ^ 24 + reg * 2 ^ 16 + kacc * 2 ^ 12 + a.size * 2 ^ 8 + 2)
    frame := if kacc = 1 then (List.range 8).map (fun i =>
          fld (a.data &&& (if a.n < 64 then BitVec.ofNat 512 (2 ^ (8 * a.n) - 1) else BitVec.allOnes 512)) (64 * i) 64)
      else if kacc = 2 then [BitVec.ofNat 64 ((fldN a.data 0 64) % 2 ^ (8 * a.n)),
          if aop = 1 then BitVec.ofNat 64 (a.expect.toNat % 2 ^ (8 * a.n)) else 0]
      else [] }

/-- Region kind 7 of a frame in the HBM window (R209). -/
def inKind7 (s : State) (a : Nat) : Bool :=
  windowOf a == .hbm && rmKind (rmapOf s (a / 2 ^ 30)) == 7

/-- The conditions under which a column view is refused (R152). -/
def columnBad (s : State) (pkind a home : Nat) : Bool :=
  let w := windowOf a
  pkind != 0 || !(w == .hbm || w == .whey)
    || rcWays (rcfgOf (getCave s (clusterDie (coreCluster home))) (ownerRind s a)) == 0

/-- Two cores share fused L1s (R116, R138). -/
def sameFused (s : State) (a b : Nat) : Bool :=
  coreCluster a == coreCluster b && (getCluster s (coreCluster a)).fused

/-- A load that a replica at the requesting core serves, wherever its frame lies (R18, R116, R155). -/
def usesReplica (s : State) (core : Nat) (x : Xl) (loads stores : Bool) : Bool :=
  compRepl x.comp && loads && !stores && !(isLocal s x.pa && (x.home == core || sameFused s core x.home))

/-- Whether an access is performed at the requesting core (R116, R152). -/
def performedHere (s : State) (core : Nat) (x : Xl) (loads stores : Bool) (col : Option Bool) : Bool :=
  match x.pkind with
  | 3 => isLocal s x.pa && x.home == core
  | 4 => false
  | _ =>
    if col == some true || (isLocal s x.pa && colBit s (clusterDie (coreCluster x.home)) (paLocal x.pa)) then false
    else (isLocal s x.pa && (x.home == core || sameFused s core x.home)) || usesReplica s core x loads stores

/-- The checks of one access before anything is performed (R113 to R115, R125, R127, R128, R164): why it stops, or
the access with its leaf and whether it is performed here. Nothing is written yet: the walker's updates follow the checks
(R100). A column view of a frame on another node is refused here: no packet carries a view (log 68). -/
def checkAccess (s : State) (k : Nat) (w : Want) : State × Except Stop (Access × Xl × Bool) :=
  let c := getCtx s k
  match translate s (ctxReq s k) w.ea (opAcc w.op) with
  | (s, .error n) => (s, .error (noXl (opAcc w.op) w.ea n))
  | (s, .ok x) =>
    let a := paLocal x.pa
    let own := isLocal s x.pa && x.pkind == 3 && scratchCore a == ctxCore k
    let off := a % 2 ^ 18
    let col := c.hOrient
    let fails := fun (code : Nat) => (s, Except.error (Stop.trap (accessTrap code (opAcc w.op) w.ea)))
    if x.pkind = 1 ∨ (isLocal s x.pa && inKind7 s a) = true then fails 0x18
    else if opAtomic w.op ∧ (x.pkind = 4 ∨ windowOf a = .alias_ ∨ (x.pkind = 2 ∧ w.n = 8)) then fails 0x19
    else if own && opStores w.op && decide (0x3C000 ≤ off) then fails 0x0D
    else if col = some true ∧ (columnBad s x.pkind a x.home || !isLocal s x.pa) = true then fails 0x1A
    else
      let acc : Access :=
        { ctx := k, gen := stGen c.st, inTrap := stTrap c.st, op := w.op, dest := w.dest, n := w.n, pa := x.pa,
          va := w.ea, data := w.data, expect := w.expect, pkind := x.pkind, home := x.home, col := col,
          nalloc := c.hNalloc, rind := stRind c.st, launch := c.launch, size := w.size, born := s.tick }
      (s, .ok (acc, x, performedHere s (ctxCore k) x (opLoads w.op) (opStores w.op) col))

/-- The view of an access at its home (R151). -/
def accessView (s : State) (a : Access) : Bool :=
  match a.col with
  | some b => b
  | none => colBit s (clusterDie (coreCluster a.home)) (paLocal a.pa)

/-- What R132 consults of an access: its bytes are those of its view (R130, R150). -/
def accessOrd (s : State) (w : Want) (a : Access) (x : Xl) : Ord :=
  { okind := x.okind, ld := opLoads w.op, st := opStores w.op, acq := w.acq, rel := w.rel, lo := x.pa, hi := x.pa + w.n,
    scope := w.scope, col := isLocal s x.pa && decide (x.pkind ≤ 2) && accessView s a }

/-! ### The effect at the home -/

/-- The new value of an atomic (R126, R127), on values of n bytes. -/
def atomicNew (op n old arg : Nat) : Nat :=
  let w := 8 * n
  match op with
  | 0 => arg
  | 1 => arg
  | 2 => (old + arg) % 2 ^ w
  | 3 => old &&& arg
  | 4 => old ||| arg
  | 5 => old ^^^ arg
  | 6 => if toSigned w arg < toSigned w old then arg else old
  | 7 => if toSigned w old < toSigned w arg then arg else old
  | 8 => if arg < old then arg else old
  | 9 => if old < arg then arg else old
  | _ => Fmt.fp32.addBits .nearestEven old arg

/-- What an access at its home comes to. -/
inductive Performed where
  | ok (val : Vec)
  | refused
  | dataError
deriving DecidableEq, Repr

/-- How an access goes through the caches of its home. -/
def accessVia (a : Access) : Via := { nalloc := a.nalloc, launch := a.launch, plain := a.pkind == 0 }

/-- An atomic's store would merge into data that cannot be corrected (R120). -/
def amoBad (s : State) (home la n : Nat) (view : Bool) : Bool :=
  match windowOf la with
  | .scratch => false
  | .host => false
  | _ =>
    let die := clusterDie (coreCluster home)
    !(storeBad s (if view || colBit s die la then slicePath die else homePath home) (viewAddrs la n view)).isEmpty

/-- A read at a home and, when it can be corrected and the test gives a value, a write in the same step (R127). -/
def atHome (s : State) (a : Access) (n : Nat) (f : Vec → Vec × Option (Nat × Vec)) : State × Performed :=
  let la := paLocal a.pa
  let view := accessView s a
  match homeRead s a.home la n view (accessVia a) with
  | (s, none) => (s, .dataError)
  | (s, some v) => match f v with
    | (r, none) => (s, .ok r)
    | (r, some (m, new)) =>
      if amoBad s a.home la m view then (s, .dataError)
      else (fireBitmaps (homeWrite s a.home la m new (BitVec.allOnes 64) view (accessVia a)) la m view, .ok r)

/-- A context's ctx.hoop set by its membership, unless it has ended (R353). -/
def setHoop (s : State) (a : Access) (h : Dword) : State :=
  modCtx s a.ctx (fun c => if stGen c.st = a.gen then { c with hoop := h } else c)

/-- An access performed at its home, indivisibly (R114, R120, R127, R130, R166). A store that would merge into
uncorrectable data has no effect but the quarantine (R120). -/
def performAt (s : State) (a : Access) : State × Performed :=
  let la := paLocal a.pa
  let view := accessView s a
  let write := opStores a.op
  if a.pkind = 3 ∧ scratchCore la ≠ ctxCore a.ctx ∧ !windowAdmits s (scratchCore la) (la % 2 ^ 18) a.n write then
    (modCore s (scratchCore la) (fun c => { c with nack := c.nack + 1 }), .refused)
  else match a.op with
    | .store =>
      (fireBitmaps (homeWrite s a.home la a.n a.data (BitVec.allOnes 64) view (accessVia a)) la a.n view, .ok 0)
    | .atomic op => atHome s a a.n (fun v =>
        let old := v.toNat
        if op = 1 ∧ old ≠ a.expect.toNat % 2 ^ (8 * a.n) then (v, none)
        else (v, some (a.n, BitVec.ofNat 512 (atomicNew op a.n old (fldN a.data 0 64 % 2 ^ (8 * a.n))))))
    | .hoopIn =>
      let member := decide ((getCtx s a.ctx).hoop ≠ 0)
      let (s', p) := atHome s a 8 (fun v =>
        let m := fld v 0 32
        if member ∨ m = BitVec.allOnes 32 then ((BitVec.allOnes 64).setWidth 512, none)
        else (m.setWidth 512, some (4, (m + 1).setWidth 512)))
      (match p with
        | .ok v => if v = (BitVec.allOnes 64).setWidth 512 then s' else setHoop s' a a.va
        | _ => s', p)
    | .hoopOut =>
      let (s', p) := atHome s a 8 (fun v =>
        let m := fld v 0 32 - 1
        (m.setWidth 512, some (4, m.setWidth 512)))
      (match p with
        | .ok _ => setHoop s' a 0
        | _ => s', p)
    | _ => atHome s a a.n (fun v => (v, none))

/-! ### Replicas (R18, R155) -/

/-- The key of a line in an L1 or L2 table: a line of another node has a number above those of this one. -/
def replLine (s : State) (pa : Nat) : Nat := if isLocal s pa then paLocal pa / 128 else pa / 128 + 2 ^ 60

/-- The data of a read-only copy whose codes are correct; another is dropped and refetched (R141). -/
def Line.copy (l : Line) : Option (BitVec 1024) := if l.bad.isEmpty then l.replica else none

/-- What a cluster's L2 holds of a line for a reader off its home path: a copy, or the cluster's own line. -/
def l2Copy (s : State) (cl line : Nat) : Option (BitVec 1024) :=
  match tfind s.l2 (l2Key cl line) with
  | none => none
  | some l =>
    if l.replica.isSome then l.copy
    else if l.has {} && l.bad.isEmpty && ((l1Home s cl line).map (fun e => e.2.bad.isEmpty)).getD true then some (ofBytes 1024 (readBytes s (line * 128) 128))
    else none

/-- The replica of a line that a core's L1 or its cluster's L2 holds, or a home copy of its own cluster's L2. -/
def replicaIn (s : State) (core line : Nat) : Option (BitVec 1024) :=
  ((tfind s.l1 (l1Key core line)).bind Line.copy).or (l2Copy s (coreCluster core) line)

/-- Whether a load of a replicable page can be served now: the bytes of another node's line are asked for (R64, R155). -/
def replicaReady (s : State) (k : Nat) (a : Access) : State × Option Stop :=
  if isLocal s a.pa || (replicaIn s (ctxCore k) (replLine s a.pa)).isSome then (s, none)
  else match codeHalves s (ctxReq s k) [a.pa / 128 * 2, a.pa / 128 * 2 + 1] with
    | (s, .asked) => (s, some .hold)
    | (s, .fault code) => (s, some (.trap (accessTrap code .load a.va)))
    | (s, .bytes _) => (s, none)

/-- A line's replica enters the requesting core's L1 (log 69) and the L2 of its cluster; a cluster's own lines enter its L2
as home copies. -/
def enterReplica (s : State) (core line : Nat) (own : Bool) (d : BitVec 1024) (a : Access) : State :=
  l1Insert (l2Insert s (coreCluster core) line (if own then none else some d) {} (accessVia a)) core line (some d) {}

/-- A load of a replicable page served by a replica at the requester, which is made on a miss (R18, R155). -/
def replicaRead (s : State) (core : Nat) (r : Req) (a : Access) : State × Performed :=
  let line := replLine s a.pa
  let pick := fun (d : BitVec 1024) => ((d >>> (8 * (a.pa % 128))).setWidth 512) &&&
    (if a.n < 64 then BitVec.ofNat 512 (2 ^ (8 * a.n) - 1) else BitVec.allOnes 512)
  let own := isLocal s a.pa && coreCluster a.home == coreCluster core
  match replicaIn s core line with
  | some d => (if a.nalloc then s else enterReplica s core line own d a, .ok (pick d))
  | none =>
    if isLocal s a.pa then
      let la := paLocal a.pa
      let via := { accessVia a with nalloc := true }
      match (if a.nalloc then (s, none) else homeBytes s a.home (la / 128 * 128) 128 false via) with
      | (s, some bs) =>
        let d : BitVec 1024 := ofBytes 1024 bs
        (enterReplica s core line own d a, .ok (pick d))
      | (_, none) => match homeRead s a.home la a.n false via with
        | (s, none) => (s, .dataError)
        | (s, some v) => (s, .ok v)
    else
      let h := a.pa / 128 * 2
      match codeHalves s r [h, h + 1] with
      | (s, .bytes bs) =>
        let d := ofBytes 1024 bs
        let s := dropCode s r h 2
        (if a.nalloc then s else enterReplica s core line false d a, .ok (pick d))
      | (s, _) => (s, .dataError)

/-- An access performed at the requesting core (R116). -/
def performHere (s : State) (k : Nat) (a : Access) (x : Xl) : State × Performed :=
  if usesReplica s (ctxCore k) x (opLoads a.op) (opStores a.op) then replicaRead s (ctxCore k) (ctxReq s k) a
  else performAt s a

/-- A value placed in a destination (R112): sign-extended from n bytes or zero-extended. -/
def extendTo (n : Nat) (signed : Bool) (v : Vec) : Dword :=
  if signed then BitVec.ofInt 64 (toSigned (8 * n) (v.toNat % 2 ^ (8 * n))) else BitVec.ofNat 64 (v.toNat % 2 ^ (8 * n))

/-- The register value that an access's result gives. -/
def destValue (a : Access) (v : Vec) : Vec :=
  match a.dest with
  | .g _ signed => (extendTo a.n signed v).setWidth 512
  | .bits _ mask => (if (v.setWidth 64 &&& mask) = mask then (1 : Vec) else 0)
  | _ => v

/-- A local result written to its destination. -/
def writeDest (c : Ctx) (a : Access) (v : Vec) : Ctx :=
  match a.dest with
  | .g r signed => c.writeG r (extendTo a.n signed v)
  | .v r => c.writeV r v
  | .bits r _ => c.writeG r ((destValue a v).setWidth 64)
  | .part r off =>
    let m : Vec := BitVec.ofNat 512 ((2 ^ (8 * a.n) - 1) * 2 ^ (8 * off))
    c.writeV r ((c.readV r &&& ~~~m) ||| ((v <<< (8 * off)) &&& m))
  | _ => c

/-! ### Accesses of other nodes (R64, R414) -/

/-- The order and scope that a packet carries (R413). -/
def ordsc (o : Ord) : Nat := o.scope % 4 + (if o.acq then 4 else 0) + (if o.rel then 8 else 0)

/-- HOOPIN or HOOPOUT on a block of another node: its dword is asked for, then swapped from the value seen (R353, R414). -/
def sendHoop (s : State) (f : Flight) (a : Access) (seen : Option Dword) : State :=
  let f := { f with body := .hoopStep a seen }
  let (op, len, body) : Nat × Nat × BitVec 640 := match seen with
    | none => (0, 0, 0)
    | some old =>
      let m : Word := if a.op = .hoopIn then fld old 0 32 + 1 else fld old 0 32 - 1
      (2, 2, BitVec.ofNat 640 ((putFld old 0 32 m).toNat + old.toNat * 2 ^ 64 + 2 ^ 128))
  sendFabric s (fun t => fabHeader s (paNode a.pa) a.rind len op 3 (ordsc f.ord) t 0 a.pa) body (some f) a.rind a.launch

/-- The op, the body's length and the body of the request for an access to another node (R414). -/
def remoteBody (a : Access) : Nat × Nat × BitVec 640 :=
  match a.op with
  | .store => (1, if a.n = 64 then 4 else 1,
      (a.data &&& (if a.n < 64 then BitVec.ofNat 512 (2 ^ (8 * a.n) - 1) else BitVec.allOnes 512)).setWidth 640)
  | .atomic o => (2, 2, BitVec.ofNat 640 (fldN a.data 0 64 + (if o = 1 then a.expect.toNat else 0) * 2 ^ 64 + o * 2 ^ 128))
  | _ => (0, 0, 0)

/-- The request for an access to another node, with the flight that awaits its answer (R64, R414). -/
def sendRequest (s : State) (f : Option Flight) (o : Ord) (a : Access) : State :=
  let (op, len, body) := remoteBody a
  sendFabric s (fun t => fabHeader s (paNode a.pa) a.rind len op (if a.n = 64 then 4 else Nat.log2 a.n) (ordsc o) t 0 a.pa)
    body f a.rind a.launch

/-- An access sent to another node (R64, R414). -/
def sendRemoteNode (s : State) (f : Flight) (a : Access) : State :=
  match a.op with
  | .hoopIn => sendHoop s f a none
  | .hoopOut => sendHoop s f a none
  | _ => sendRequest s (some f) f.ord a

/-- An access put on its way to its home. One of another node leaves the package in its turn (R132). -/
def sendAccess (s : State) (a : Access) (o : Ord) : State :=
  { s with net := s.net ++ [{ owner := some (a.ctx, a.gen), ord := o.issued s, body := .access a, launch := a.launch }] }

/-! ### Placement of a roaming context (R17, R117, R118) -/

/-- The predictor's counter stepped up or down, saturating (R118). -/
def stepPredictor (s : State) (cn i : Nat) (up : Bool) : State :=
  modCore s cn (fun c =>
    let v := tget 0 c.predictor i
    { c with predictor := tput c.predictor i (if up then min (v + 1) 3 else v - 1) })

/-- The owed updates of a roaming context's predictor at an access (R118): those of a migration at the next access, which is
not the migrated instruction's own, and that of a remote access at the next remote one. What a seated context holds is owed
to the roaming context that it serves (R385). -/
def settlePredictor (s : State) (k home : Nat) (here : Bool) : State :=
  if !stRoam (getCtx s k).st then s else
  let t := (getCtx s k).trail
  let s := if t.moves = 0 then t.moved.foldl (fun s p => stepPredictor s p.core p.index here) s else s
  let s := match t.predict with
    | some p => if here then s else stepPredictor s p.core p.index (p.home == home)
    | none => s
  modCtx s k (fun c => { c with trail := { t with
    moved := if t.moves = 0 then [] else t.moved, predict := if here then t.predict else none } })

/-- A core's number with that of its node, so that homes of other nodes are told apart (R94). -/
def homeKey (pa home : Nat) : Nat := paNode pa * 2048 + home

/-- Whether a roaming access that is not performed here migrates (R17, R50, R117, R118, R391): never one whose home is the
core where the context is, such as that of a column sector (R152). -/
def migrates (s : State) (k : Nat) (a : Access) : Bool :=
  let c := getCtx s k
  stRoam c.st && a.pkind != 4 && decide (c.trail.moves < 2) && homeKey a.pa a.home != s.node * 2048 + ctxCore k && !(isLocal s a.pa && (getCore s a.home).off) &&
    (match c.hPlace with
     | 1 => false
     | 2 => true
     | _ => decide (2 ≤ tget 0 (getCore s (ctxCore k)).predictor (fldN c.pc 2 6)))

/-- A migration begins (R46, R117): with g1 to g6 full the context waits to depart; an empty register is tested
as R42 gives. The migration's own update of the predictor is owed, beside that of an earlier migration of the same
instruction; those owed for an earlier instruction are settled, since its next access is not local. -/
def startMigration (s : State) (k dest : Nat) (advance : Bool) : State × Done :=
  let c := getCtx s k
  match issueTest c [1, 2, 3, 4, 5, 6] with
  | .trap t => (s, .trap t)
  | .park r => (parkAt s k (.register r), .moved)
  | .pass =>
    let resume := resumeAddr c
    let first := !advance && c.trail.moves = 0
    let s := if first then c.trail.moved.foldl (fun s p => stepPredictor s p.core p.index false) s else s
    let old := if first then [] else c.trail.moved
    let moved := if advance || c.hPlace != 0 then old
      else old ++ [{ core := ctxCore k, index := fldN c.pc 2 6, home := dest }]
    let s := modCtx s k (fun x => { x with
      pc := if advance then c.pc + 4 else resume
      hint := none
      trail := { x.trail with moved := moved, moves := if advance then 0 else x.trail.moves }
      migrTo := some (dest, advance) })
    (leaveSlot s k (.waiting .migrate), .moved)

/-- The prediction owed after a remote access (R118). -/
def noteRemote (s : State) (k home : Nat) : State :=
  let c := getCtx s k
  if stRoam c.st && c.hPlace == 0 then
    modCtx s k (fun c => { c with trail := { c.trail with
      predict := some { core := ctxCore k, index := fldN c.pc 2 6, home := home } } })
  else s

/-! ### A single access of an instruction -/

/-- One access issued (R114, R127): checked, then performed here, sent to its home, or the context migrates. -/
def doAccess (s : State) (k : Nat) (w : Want) : State × Done :=
  match checkAccess s k w with
  | (s, .error x) => (s, x.done)
  | (s, .ok (a, x, here)) =>
    let o := accessOrd s w a x
    if here then
      if mustWait s k o then (s, .hold)
      else match (if usesReplica s (ctxCore k) x (opLoads w.op) (opStores w.op) then replicaReady s k a else (s, none)) with
        | (s, some x) => (s, x.done)
        | (s, none) =>
          let s := settlePredictor (touchLeaf s (ctxReq s k) x (opAcc w.op)) k (homeKey a.pa a.home) true
          match performHere s k a x with
          | (s, .ok v) => (modCtx s k (fun c => writeDest c a v), .next)
          | (s, .refused) => (s, .next)
          | (s, .dataError) => (s, .trap (accessTrap 0x0E (opAcc w.op) w.ea))
    else if migrates s k a then startMigration s k (homeKey a.pa a.home) false
    else
      let s := touchLeaf s (ctxReq s k) x (opAcc w.op)
      let s := noteRemote (settlePredictor s k (homeKey a.pa a.home) false) k (homeKey a.pa a.home)
      let s := modCtx s k (fun c => c.setEmpty (destReg w.dest) true)
      (sendAccess s a o, .next)

/-- The issue of an instruction with one access; a misaligned address traps first (R113). -/
def accessBody (s : State) (w : Want) : State × Done :=
  if w.ea.toNat % w.n ≠ 0 then (s, .trap (simpleTrap 0x02 w.ea)) else doAccess s s.me w

/-! ### Block reads (R167) -/

/-- What a block read comes to. -/
inductive BlockRes where
  | ok (v : Vec)
  | trap (t : TrapRec)
  | hold
  /-- The context waits for the answer of another node. -/
  | wait
deriving DecidableEq, Repr

/-- The precise scratchpad-refused trap of a block read (R167). -/
def blockRefused (a : Access) : TrapRec := { refusedTrap a with deferred := false }

/-- A read whose data the instruction's own effect needs: the instruction waits for it (R167). On this package it
is performed at its home in the same step (log 15); an answer of another node is awaited. -/
def blockRead (s : State) (k : Nat) (ea : Dword) (n : Nat) : State × BlockRes :=
  let w : Want := { op := .load, n := n, ea := ea, dest := .block, size := if n = 8 then 3 else 4 }
  match checkAccess s k w with
  | (s, .error (.trap t)) => (s, .trap t)
  | (s, .error .hold) => (s, .hold)
  | (s, .ok (a, x, here)) =>
    let o := accessOrd s w a x
    let key := homeKey a.pa a.home
    let note := fun (s : State) => if here then settlePredictor s k key true else noteRemote (settlePredictor s k key false) k key
    match (getCtx s k).got.find? (fun g => g.pa == a.pa) with
    | some g =>
      (s, if g.err = 0 then .ok g.val
        else if g.err = 2 then .trap (blockRefused a)
        else .trap (accessTrap (if g.err = 4 then 0x0E else 0x17) .load ea))
    | none =>
      if mustWait s k o then (s, .hold)
      else
        let s := note (touchLeaf s (ctxReq s k) x .load)
        if !isLocal s a.pa then (parkAt (sendAccess s a o) k .block, .wait)
        else match performAt s a with
          | (s, .ok v) => (s, .ok v)
          | (s, .refused) => (s, .trap (blockRefused a))
          | (s, .dataError) => (s, .trap (accessTrap 0x0E .load ea))

/-- What the reads of a list come to. -/
inductive ListRes where
  | ok (ns : List Dword)
  | trap (t : TrapRec)
  | hold
  | wait
deriving DecidableEq, Repr

/-- n dwords read from an address on, each as a load with precise faults (R107, R347, R368). -/
def readList (s : State) (k : Nat) (va : Dword) : Nat → List Dword → State × ListRes
  | 0, acc => (s, .ok acc)
  | n + 1, acc =>
    match blockRead s k (va + BitVec.ofNat 64 (8 * acc.length)) 8 with
    | (s, .trap t) => (s, .trap t)
    | (s, .hold) => (s, .hold)
    | (s, .wait) => (s, .wait)
    | (s, .ok v) => readList s k va n (acc ++ [fld v 0 64])

/-- An instruction over dwords that it reads. -/
def withList (s : State) (ea : Dword) (n : Nat) (f : State → List Dword → State × Done) : State × Done :=
  match readList s s.me ea n [] with
  | (s, .trap t) => (s, .trap t)
  | (s, .hold) => (s, .hold)
  | (s, .wait) => (s, .moved)
  | (s, .ok ds) => f s ds

/-- An instruction over a 32-byte block: a misaligned address traps first. -/
def withBlock32 (s : State) (ea : Dword) (f : State → BitVec 256 → State × Done) : State × Done :=
  if ea.toNat % 32 ≠ 0 then (s, .trap (simpleTrap 0x02 ea))
  else withList s ea 4 (fun s ds => f s (BitVec.ofNat 256 (packElems 64 (ds.map BitVec.toNat))))

/-- An instruction over a 64-byte block: a misaligned address traps first. -/
def withBlock (s : State) (ea : Dword) (f : State → Vec → State × Done) : State × Done :=
  if ea.toNat % 64 ≠ 0 then (s, .trap (simpleTrap 0x02 ea))
  else match blockRead s s.me ea 64 with
    | (s, .trap t) => (s, .trap t)
    | (s, .hold) => (s, .hold)
    | (s, .wait) => (s, .moved)
    | (s, .ok v) => f s v

/-- ord bits (R31): acquire and release. -/
def ordAcq (o : BitVec 2) : Bool := o.getLsbD 0
def ordRel (o : BitVec 2) : Bool := o.getLsbD 1

end Sys2Proof.Machine
end

