-- ==== Sys2Proof/Machine/Amo.lean ====
section
/-!
DEFINITION. Atomics and fences (R126 to R129).
-/

namespace Sys2Proof.Machine

/-- An atomic (R127): 4 bytes for z = 0, 8 for z = 1; CAS reads g[d] too. -/
def amo (op : Nat) (d a b : BitVec 5) (o sc : BitVec 2) (z : BitVec 1) (s : State) :
    Host.Outcome State Fault Refusal :=
  let n := if z = 1 then 8 else 4
  issue s { reads := [gr a, gr b] ++ (if op = 1 then [gr d] else []), writes := [gr d] } (fun s c => accessBody s
    { op := .atomic op, n := n, ea := c.readG a.toNat, data := (c.readG b.toNat).setWidth 512,
      expect := c.readG d.toNat, dest := .g d.toNat false, size := if z = 1 then 3 else 2, acq := ordAcq o,
      rel := ordRel o, scope := sc.toNat })

def execAmoSwap (d a b : BitVec 5) (o sc : BitVec 2) (z : BitVec 1) (s : State) := amo 0 d a b o sc z s
def execAmoCas (d a b : BitVec 5) (o sc : BitVec 2) (z : BitVec 1) (s : State) := amo 1 d a b o sc z s
def execAmoAdd (d a b : BitVec 5) (o sc : BitVec 2) (z : BitVec 1) (s : State) := amo 2 d a b o sc z s
def execAmoAnd (d a b : BitVec 5) (o sc : BitVec 2) (z : BitVec 1) (s : State) := amo 3 d a b o sc z s
def execAmoOr (d a b : BitVec 5) (o sc : BitVec 2) (z : BitVec 1) (s : State) := amo 4 d a b o sc z s
def execAmoXor (d a b : BitVec 5) (o sc : BitVec 2) (z : BitVec 1) (s : State) := amo 5 d a b o sc z s
def execAmoSmin (d a b : BitVec 5) (o sc : BitVec 2) (z : BitVec 1) (s : State) := amo 6 d a b o sc z s
def execAmoSmax (d a b : BitVec 5) (o sc : BitVec 2) (z : BitVec 1) (s : State) := amo 7 d a b o sc z s
def execAmoUmin (d a b : BitVec 5) (o sc : BitVec 2) (z : BitVec 1) (s : State) := amo 8 d a b o sc z s
def execAmoUmax (d a b : BitVec 5) (o sc : BitVec 2) (z : BitVec 1) (s : State) := amo 9 d a b o sc z s
def execAmoFadd (d a b : BitVec 5) (o sc : BitVec 2) (s : State) := amo 10 d a b o sc 0 s

/-- A fence (R129, R132): it issues once the earlier accesses that it orders are performed. kind 0 full, 1
acquire (loads off Unordered pages), 2 release (every access off Unordered pages). The scope bounds who sees the
order (R133); this model performs every access for all. -/
def fenceOf (kind : Nat) (s : State) : Host.Outcome State Fault Refusal :=
  issue s {} (fun s _ =>
    let waits := fun (f : Flight) =>
      match kind with
      | 0 => true
      | 1 => f.ord.ld && decide (f.ord.okind ≤ 2)
      | _ => decide (f.ord.okind ≤ 2)
    if (pendingOf s s.me).any waits then (s, .hold) else (s, .next))

def execFence (_ : BitVec 2) (s : State) := fenceOf 0 s
def execFenceAcq (_ : BitVec 2) (s : State) := fenceOf 1 s
def execFenceRel (_ : BitVec 2) (s : State) := fenceOf 2 s

end Sys2Proof.Machine
end

