-- ==== Sys2Proof/Machine/MemOps.lean ====
section
/-!
DEFINITION. The plain loads and stores and MEMX (R112 to R125).
-/

namespace Sys2Proof.Machine

/-- A plain load into g[d] (R114). -/
def loadG (d a : BitVec 5) (o sc : BitVec 2) (k : BitVec 12) (n size : Nat) (signed : Bool) (s : State) :
    Host.Outcome State Fault Refusal :=
  issue s { reads := [gr a], writes := [gr d] } (fun s c => accessBody s
    { op := .load, n := n, ea := eaM c a k n, dest := .g d.toNat signed, size := size, acq := ordAcq o, rel := ordRel o,
      scope := sc.toNat })

/-- A plain store of g[d] (R114). -/
def storeG (d a : BitVec 5) (o sc : BitVec 2) (k : BitVec 12) (n size : Nat) (s : State) :
    Host.Outcome State Fault Refusal :=
  issue s { reads := [gr a, gr d] } (fun s c => accessBody s
    { op := .store, n := n, ea := eaM c a k n, data := (c.readG d.toNat).setWidth 512, size := size, acq := ordAcq o,
      rel := ordRel o, scope := sc.toNat })

def execLdb (d a : BitVec 5) (o sc : BitVec 2) (k : BitVec 12) (s : State) := loadG d a o sc k 1 0 true s
def execLdbn (d a : BitVec 5) (o sc : BitVec 2) (k : BitVec 12) (s : State) := loadG d a o sc k 1 0 false s
def execLdh (d a : BitVec 5) (o sc : BitVec 2) (k : BitVec 12) (s : State) := loadG d a o sc k 2 1 true s
def execLdhn (d a : BitVec 5) (o sc : BitVec 2) (k : BitVec 12) (s : State) := loadG d a o sc k 2 1 false s
def execLdw (d a : BitVec 5) (o sc : BitVec 2) (k : BitVec 12) (s : State) := loadG d a o sc k 4 2 true s
def execLdwn (d a : BitVec 5) (o sc : BitVec 2) (k : BitVec 12) (s : State) := loadG d a o sc k 4 2 false s
def execLdd (d a : BitVec 5) (o sc : BitVec 2) (k : BitVec 12) (s : State) := loadG d a o sc k 8 3 false s
def execStb (d a : BitVec 5) (o sc : BitVec 2) (k : BitVec 12) (s : State) := storeG d a o sc k 1 0 s
def execSth (d a : BitVec 5) (o sc : BitVec 2) (k : BitVec 12) (s : State) := storeG d a o sc k 2 1 s
def execStw (d a : BitVec 5) (o sc : BitVec 2) (k : BitVec 12) (s : State) := storeG d a o sc k 4 2 s
def execStd (d a : BitVec 5) (o sc : BitVec 2) (k : BitVec 12) (s : State) := storeG d a o sc k 8 3 s

/-- VLD (R114): a stream register is refused. -/
def execVld (d a : BitVec 5) (o sc : BitVec 2) (k : BitVec 12) (s : State) : Host.Outcome State Fault Refusal :=
  issue s { reads := [gr a], writes := [vr d], noStream := some (vr d) } (fun s c => accessBody s
    { op := .load, n := 64, ea := eaM c a k 64, dest := .v d.toNat, size := 4, acq := ordAcq o, rel := ordRel o,
      scope := sc.toNat })

/-- VST (R114): a stream register is refused. -/
def execVst (d a : BitVec 5) (o sc : BitVec 2) (k : BitVec 12) (s : State) : Host.Outcome State Fault Refusal :=
  issue s { reads := [gr a, vr d], noStream := some (vr d) } (fun s c => accessBody s
    { op := .store, n := 64, ea := eaM c a k 64, data := c.readV d.toNat, size := 4, acq := ordAcq o, rel := ordRel o,
      scope := sc.toNat })

/-! ### MEMX -/

/-- The access size of a size code (R121). -/
def sizeBytes (z : BitVec 3) : Nat := if z = 4 then 64 else 2 ^ z.toNat

/-- LDX and LDXN (R122). -/
def loadX (d a b : BitVec 5) (o sc : BitVec 2) (z : BitVec 3) (signed : Bool) (s : State) :
    Host.Outcome State Fault Refusal :=
  issue s { reads := [gr a, gr b], writes := [gr d] } (fun s c => accessBody s
    { op := .load, n := sizeBytes z, ea := eaX c a b (sizeBytes z), dest := .g d.toNat signed, size := z.toNat,
      acq := ordAcq o, rel := ordRel o, scope := sc.toNat })

def execLdx (d a b : BitVec 5) (o sc : BitVec 2) (z : BitVec 3) (s : State) := loadX d a b o sc z true s
def execLdxn (d a b : BitVec 5) (o sc : BitVec 2) (z : BitVec 3) (s : State) := loadX d a b o sc z false s

/-- STX (R122). -/
def execStx (d a b : BitVec 5) (o sc : BitVec 2) (z : BitVec 3) (s : State) : Host.Outcome State Fault Refusal :=
  issue s { reads := [gr a, gr b, gr d] } (fun s c => accessBody s
    { op := .store, n := sizeBytes z, ea := eaX c a b (sizeBytes z), data := (c.readG d.toNat).setWidth 512,
      size := z.toNat, acq := ordAcq o, rel := ordRel o, scope := sc.toNat })

/-- A part or lane that has passed its checks. -/
abbrev Part := Want × Access × Xl × Bool

/-- Every part or lane checked before any is performed (R125): why the first that fails stops. -/
def checkAll (s : State) (k : Nat) (aligned : Bool) : List Want → State × Except Stop (List Part)
  | [] => (s, .ok [])
  | w :: ws =>
    if aligned && w.ea.toNat % w.n != 0 then (s, .error (.trap (simpleTrap 0x02 w.ea)))
    else match checkAccess s k w with
      | (s, .error x) => (s, .error x)
      | (s, .ok (a, x, here)) =>
        match checkAll s k aligned ws with
        | (s, .error x) => (s, .error x)
        | (s, .ok rest) => (s, .ok ((w, a, x, here) :: rest))

/-- n bytes of a value placed at a byte offset of a vector. -/
def putPart (v : Vec) (off n : Nat) (x : Vec) : Vec :=
  let m : Vec := BitVec.ofNat 512 ((2 ^ (8 * n) - 1) * 2 ^ (8 * off))
  (v &&& ~~~m) ||| ((x <<< (8 * off)) &&& m)

/-- The offset that a part of a vector load fills. -/
def partOff (d : Dest) : Nat :=
  match d with
  | .part _ off => off
  | _ => 0

/-- The naturally aligned pieces of 1, 2, 4 or 8 bytes that make up n bytes from an address: the sizes of a packet. -/
def piecesOf (pa : Nat) : Nat → Nat → Nat → List (Nat × Nat)
  | 0, _, _ => []
  | fuel + 1, off, n =>
    if n = 0 then []
    else
      let p := pa + off
      let m := if p % 8 = 0 ∧ 8 ≤ n then 8 else if p % 4 = 0 ∧ 4 ≤ n then 4 else if p % 2 = 0 ∧ 2 ≤ n then 2 else 1
      (off, m) :: piecesOf pa fuel (off + m) (n - m)

/-- A part homed on another node travels in packets of R414, whose sizes are 1, 2, 4, 8 and 64 bytes: it is cut into
aligned pieces (log 71). -/
def packetParts (s : State) (p : Part) : List Part :=
  let (w, a, x, here) := p
  if here || isLocal s a.pa || (([1, 2, 4, 8, 64] : List Nat).contains w.n && a.pa % w.n == 0) then [p]
  else (piecesOf a.pa 64 0 w.n).map (fun (q : Nat × Nat) =>
    ({ w with n := q.2, ea := w.ea + BitVec.ofNat 64 q.1, data := w.data >>> (8 * q.1), dest := .part (destReg w.dest - 32) (partOff w.dest + q.1) },
      { a with n := q.2, pa := a.pa + q.1, va := a.va + BitVec.ofNat 64 q.1, data := a.data >>> (8 * q.1),
               dest := match a.dest with
                 | .part r off => .part r (off + q.1)
                 | d => d },
      { x with pa := x.pa + q.1 }, here))

/-- What the parts of an access have come to: the vector collected, and those that travel, in order; or the trap of a part
that meets uncorrectable data here (R120, R125). -/
structure Parts where
  val  : Vec
  sent : List (Access × Ord) := []
  trap : Option TrapRec := none

/-- Parts performed here, in order. A part that an earlier one must precede travels as a packet, so that it is performed in
its turn (R132). -/
def runParts (s : State) (k : Nat) : List Part → Parts → State × Parts
  | [], r => (s, r)
  | (w, a, x, here) :: ps, r =>
    let o := accessOrd s w a x
    if here && !r.sent.any (fun e => mustPrecede e.2 o) then
      match performHere s k a x with
      | (s, .ok m) => runParts s k ps { r with val := if opLoads w.op then putPart r.val (partOff w.dest) w.n m else r.val }
      | (s, .refused) => runParts s k ps r
      | (s, .dataError) =>
        if opLoads w.op then (s, { r with trap := some (accessTrap 0x0E .load w.ea) }) else runParts s k ps r
    else runParts s k ps { r with sent := r.sent ++ [(a, o)] }

/-- The lines of another node that replicated loads need are asked for before any part is performed (R155). -/
def partsReady (s : State) (k : Nat) : List Part → State × Option Stop
  | [] => (s, none)
  | (w, a, x, here) :: ps =>
    match (if here && usesReplica s (ctxCore k) x (opLoads w.op) (opStores w.op) then replicaReady s k a else (s, none)) with
    | (s, some (.trap t)) => (s, some (.trap t))
    | (s, first) => match partsReady s k ps with
      | (s, none) => (s, first)
      | x => x

/-- A split, gathered or scattered access (R123 to R125). The vector register d takes a load's result, over the
given base. -/
def multiBody (s : State) (aligned : Bool) (wants : List Want) (load : Bool) (d : Nat) (lanes : BitVec 64) (base : Vec) :
    State × Done :=
  let k := s.me
  match checkAll s k aligned wants with
  | (s, .error x) => (s, x.done)
  | (s, .ok parts) =>
    let parts := parts.flatMap (packetParts s)
    if parts.any (fun p => p.2.2.2 && mustWait s k (accessOrd s p.1 p.2.1 p.2.2.1)) then (s, .hold)
    else match partsReady s k parts with
      | (s, some x) => (s, x.done)
      | (s, none) =>
        let s := parts.foldl (fun s p => touchLeaf s (ctxReq s k) p.2.2.1 (opAcc p.1.op)) s
        match runParts s k parts { val := base } with
        | (s, { trap := some t, .. }) => (s, .trap t)
        | (s, r) =>
          let s := r.sent.foldl (fun s e => sendAccess s e.1 e.2) s
          if !load then (s, .next)
          else if r.sent.isEmpty then (modCtx s k (fun c => c.writeV d r.val), .next)
          else
            let s := modCtx s k (fun c => { c.setEmpty (32 + d) true with
              collect := tput c.collect (32 + d) { val := r.val, left := r.sent.length, err := none, refused := false } })
            (streamOwed s k d (some lanes), .next)

/-- The parts of 64 bytes at an address (R123): one, or two split at the line boundary; the offset of each. -/
def splitParts (ea : Dword) : List (Nat × Nat) :=
  let r := ea.toNat % 128
  if r ≤ 64 then [(0, 64)] else [(0, 128 - r), (128 - r, r - 64)]

/-- VLDU (R123). -/
def execVldu (d a b : BitVec 5) (o sc : BitVec 2) (s : State) : Host.Outcome State Fault Refusal :=
  issue s { reads := [gr a, gr b], writes := [vr d] } (fun s c =>
    let ea := c.readG a.toNat + c.readG b.toNat
    let wants := (splitParts ea).map (fun p => (
      { op := .load, n := p.2, ea := ea + BitVec.ofNat 64 p.1,
        dest := .part d.toNat p.1, size := 4, acq := ordAcq o, rel := ordRel o, scope := sc.toNat } : Want))
    multiBody s false wants true d.toNat (BitVec.allOnes 64) 0)

/-- VSTU (R123). -/
def execVstu (d a b : BitVec 5) (o sc : BitVec 2) (s : State) : Host.Outcome State Fault Refusal :=
  issue s { reads := [gr a, gr b, vr d] } (fun s c =>
    let ea := c.readG a.toNat + c.readG b.toNat
    let x := c.readV d.toNat
    let wants := (splitParts ea).map (fun p => (
      { op := .store, n := p.2, ea := ea + BitVec.ofNat 64 p.1,
        data := x >>> (8 * p.1), size := 4, acq := ordAcq o, rel := ordRel o, scope := sc.toNat } : Want))
    multiBody s false wants false 0 0 0)

/-- The active lanes of a gather or scatter and their addresses (R124). -/
def laneAddrs (c : Ctx) (a b : BitVec 5) (m : BitVec 3) (n : Nat) : List (Nat × Dword) :=
  ((List.range (64 / n)).filter (fun i => laneOn (c.readP m.toNat) n i)).map (fun i =>
    (i, c.readG a.toNat + BitVec.ofInt 64 (toSigned (8 * n) (lane (c.readV b.toNat) n i)) * BitVec.ofNat 64 n))

/-- VGATH (R124). -/
def execVgath (d a b : BitVec 5) (m : BitVec 3) (z : BitVec 1) (sz : BitVec 3) (s : State) :
    Host.Outcome State Fault Refusal :=
  let n := sizeBytes sz
  let mask := (getCtx s s.me).readP m.toNat
  issue s { reads := [gr a, vr b, pr m], writes := [vr d], lanes := pushLanes mask n (z == 1),
            merges := if z = 0 ∧ m ≠ 0 then [vr d] else [] } (fun s c =>
    let wants := (laneAddrs c a b m n).map (fun p => (
      { op := .load, n := n, ea := p.2,
        dest := .part d.toNat (n * p.1), size := sz.toNat } : Want))
    let old := c.readV d.toNat
    let base := mergeLanes mask n (z == 1) old (lanes old n)
    multiBody s true wants true d.toNat (pushLanes mask n (z == 1)) base)

/-- VSCAT (R124). -/
def execVscat (d a b : BitVec 5) (m : BitVec 3) (sz : BitVec 3) (s : State) : Host.Outcome State Fault Refusal :=
  let n := sizeBytes sz
  issue s { reads := [gr a, vr b, vr d, pr m] } (fun s c =>
    let x := c.readV d.toNat
    let wants := (laneAddrs c a b m n).map (fun p => (
      { op := .store, n := n, ea := p.2,
        data := BitVec.ofNat 512 (lane x n p.1), size := sz.toNat } : Want))
    multiBody s true wants false 0 0 0)

end Sys2Proof.Machine
end

