-- ==== Sys2Proof/Machine/CacheOps.lean ====
section
/-!
DEFINITION. The CACHE instructions (R156 to R162) and the Cave slice's own steps: the hash engine (R145 to R149),
the reassignment of ways and banks (R143), and the Cave patrol (R392).
-/

namespace Sys2Proof.Machine

/-! ### Units -/

/-- The first local address and the length of a unit (R157): line, sector, or the page. -/
def unitRange (x : Xl) (u : BitVec 2) : Nat × Nat :=
  let n := if u = 0 then 128 else if u = 1 then 1024 else 2 ^ x.shift
  (paLocal x.pa / n * n, n)

/-- A level caches lines of the page kind (R137, R144). Of a page whose frame lies on another node this package's caches hold
read-only copies alone, and no packet of R414 carries a cache operation: CLEAN, PREF and DEDUPQ act on nothing there, and
INVAL on the copies (log 82). -/
def cachedKind (s : State) (x : Xl) : Bool := isLocal s x.pa && decide (x.pkind ≤ 2)

/-- The dirty copies of a range written to the level named: 0 memory, 1 the Cave (R158). -/
def cleanRange (s : State) (home lo n : Nat) (level : BitVec 2) (via : Via) : State :=
  let cl := coreCluster home
  let s := (linesIn s.top lo n).foldl (fun s l => topFlush s cl l via) s
  if level = 0 then caveFlush s (clusterDie cl) lo n via.launch else s

/-- The dirty data of a range dropped above the level named (R158). -/
def discardRange (s : State) (lo n : Nat) (level : BitVec 2) : State :=
  let s := { s with top := overDrop s.top lo n, topHeld := overDrop s.topHeld lo n }
  if level = 0 then { s with cav := overDrop s.cav lo n } else s

/-- The copies of n lines from a number on removed from the L1s and L2s: those of the home, and the replicas of the
groups that the page admits, with their copies of code (R137, R155, R158). -/
def dropCopies (s : State) (comp : BitVec 128) (first n half : Nat) : State :=
  let inside := fun (line : Nat) => decide (first ≤ line) && decide (line < first + n)
  let goes := fun (line cl : Nat) (l : Line) => inside line && (l.replica.isNone || compGroup comp (cl / 8))
  { s with
    topHeld := overDrop s.topHeld (first * 128) (n * 128)
    l1 := tkeep s.l1 (fun k l => !goes (k / 2048) (coreCluster (k % 2048)) l)
    l2 := tkeep s.l2 (fun k l => !goes (k / 256) (k % 256) l)
    l1i := tkeep s.l1i (fun k l => !goes (k / 2048) (coreCluster (k % 2048)) l)
    cores := List.map (fun (e : Nat × Core) => (e.1, if compGroup comp (coreGroup e.1) then
      { e.2 with code := e.2.code.filter (fun h => !(decide (half ≤ h.1) && decide (h.1 < half + 2 * n))) } else e.2)) s.cores }

/-- The range invalidated in the Cave of its home die (R158): a single line loses its valid bits, a sector or page
its tags. -/
def dropCave (s : State) (home lo n : Nat) (u : BitVec 2) : State :=
  let die := clusterDie (coreCluster home)
  if u = 0 then clearLine s die (lo / 128)
  else
    let secs := ((getCave s die).sectors.filter (fun e => decide (lo / 1024 ≤ e.1) && decide (e.1 < (lo + n) / 1024))).map
      (fun e => e.1)
    secs.foldl (fun s q => evictSector s die q) s

/-- g[d] set empty, with the fill that performs a cache instruction on its way (R157). -/
def answerUnit (s : State) (k : Nat) (d : BitVec 5) (o : Ord) (v : Dword) : State :=
  let r := replyOf s k d.toNat
  launchPacket (modCtx s k (fun c => c.setEmpty d.toNat true)) (some (k, r.gen)) o (.descFill r v)

/-- The frame of CLEAN, INVAL, ORIENT and the sector form of DEDUPQ: the translation, the wait for the unit's
earlier accesses (R157), the effect with the value that g[d] takes. store: for R132 it is a store to the unit, performed as g[d]
is filled. -/
def cacheOp (d a : BitVec 5) (acc : AccKind) (u : BitVec 2) (store : Bool)
    (effect : State → Ctx → Xl → State × Dword) (s : State) : Host.Outcome State Fault Refusal :=
  issue s { reads := [gr a], writes := [gr d] } (fun s c =>
    let k := s.me
    let ea := c.readG a.toNat
    match translate s (ctxReq s k) ea acc with
    | (s, .error n) => (s, (noXl acc ea n).done)
    | (s, .ok x) =>
      let (lo, n) := unitRange x u
      let o : Ord :=
        { okind := x.okind, ld := false, st := true, acq := false, rel := false,
          lo := x.pa - paLocal x.pa + lo, hi := x.pa - paLocal x.pa + lo + n }
      if store && mustWait s k o then (s, .hold)
      else
        let (s, v) := effect (touchLeaf s (ctxReq s k) x acc) c x
        (if store then answerUnit s k d o v else answer s k d v, .next))

/-- How a cache instruction's fills and write-backs go. -/
def unitVia (c : Ctx) (x : Xl) : Via := { launch := c.launch, plain := x.pkind == 0 }

/-- CLEAN (R158): l is the level, u the unit. -/
def execClean (d a : BitVec 5) (l u : BitVec 2) (s : State) : Host.Outcome State Fault Refusal :=
  cacheOp d a .load u true (fun s c x =>
    let (lo, n) := unitRange x u
    (if cachedKind s x then cleanRange s x.home lo n l (unitVia c x) else s, 0)) s

/-- INVAL (R158): disc = 1 discards, in system mode only (R156). Of a page of another node, this package's caches hold
replicas only, and they go. -/
def execInval (d a : BitVec 5) (disc : BitVec 1) (l u : BitVec 2) (s : State) : Host.Outcome State Fault Refusal :=
  let c := getCtx s s.me
  if disc = 1 ∧ !stSys c.st then
    issue s { reads := [gr a], writes := [gr d] } (fun s _ => (s, .trap (simpleTrap 0x05 0)))
  else cacheOp d a (if disc = 1 then .store else .load) u true (fun s c x =>
    let (lo, n) := unitRange x u
    let base := x.pa - paLocal x.pa + lo
    let s := if !cachedKind s x then s
      else if disc = 1 then discardRange s lo n l else cleanRange s x.home lo n l (unitVia c x)
    let s := if x.pkind ≤ 2 then dropCopies s x.comp (replLine s base) (n / 128) (base / 64) else s
    (if cachedKind s x && l == 0 then dropCave s x.home lo n u else s, 0)) s

/-- A line filled at the home into a level and every level below it (R159). A clean copy that it reads and that cannot be
corrected is fetched again (R141); other uncorrectable data that it meets has no consumer, and the frame is quarantined
(R89). -/
def prefLine (s : State) (home line : Nat) (t : BitVec 2) (via : Via) : State :=
  let die := clusterDie (coreCluster home)
  let slice := t == 2 || colBit s die (line * 128)
  let p := if slice then slicePath die else homePath home
  let s := scrub s p ((List.range 128).map (fun i => line * 128 + i))
  match prefBad s p line with
  | [] =>
    let s := caveFill s die line {} via
    if slice || !lineGood s die line {} then s
    else if t = 1 then l2Insert s (coreCluster home) line none {} via
    else homeFill s home line {} via
  | hs => quarantineAll (readHalves s (hs.filter (halfBad s)) via.launch) hs

/-- PREF (R159): it never traps and orders nothing. -/
def execPref (a : BitVec 5) (t u : BitVec 2) (s : State) : Host.Outcome State Fault Refusal :=
  issue s { reads := [gr a] } (fun s c =>
    let k := s.me
    match translate s (ctxReq s k) (c.readG a.toNat) .load with
    | (s, .error .walking) => (s, .hold)
    | (s, .error _) => (s, .next)
    | (s, .ok x) =>
      let (lo, n) := unitRange x u
      if !cachedKind s x || x.pkind = 1 || inKind7 s (paLocal x.pa) then (s, .next)
      else
        let s := touchLeaf s (ctxReq s k) x .load
        ((List.range (n / 128)).foldl (fun s i => prefLine s x.home (lo / 128 + i) t (unitVia c x)) s, .next))

/-- The sectors that a Rind holds pinned in a slice. -/
def pinnedCount (c : Cave) (rind : Nat) : Nat := (c.sectors.filter (fun e => e.2.rind == rind && e.2.col)).length

/-- The refusal of ORIENT to column for its pins (R160). -/
def pinRefused (c : Cave) (rind sec : Nat) : Bool :=
  let w := rcfgOf c rind
  let inSet := c.sectors.filter (fun e => e.2.rind == rind && e.2.col && caveSet e.1 == caveSet sec)
  decide (rcPinlim w ≤ pinnedCount c rind) || decide ((bitsOf (rcWays w) 12).length ≤ inSet.length + 1)

/-- ORIENT to column of a row sector at its slice (R160). -/
def orientColumn (s : State) (home sec : Nat) (via : Via) : State :=
  let die := clusterDie (coreCluster home)
  let s := (List.range 8).foldl (fun s i => caveFill s die (8 * sec + i) {} via) s
  modSector (recallSector s home sec via) die sec (fun t => { t with col := true })

/-- ORIENT (R160). The status of a page that fails the conditions of R152 is 2 whatever the bit and the direction: R160's last
case stands before R157's status 0 of an uncached page kind (log 82). -/
def execOrient (d a : BitVec 5) (o : BitVec 1) (s : State) : Host.Outcome State Fault Refusal :=
  cacheOp d a .store 1 true (fun s c x =>
    let la := paLocal x.pa
    let die := clusterDie (coreCluster x.home)
    if !isLocal s x.pa || columnBad s x.pkind la x.home then (s, 2)
    else if colBit s die la == (o == 1) then (s, 0)
    else if o = 0 then (modSector s die (la / 1024) (fun t => { t with col := false }), 0)
    else if pinRefused (getCave s die) (ownerRind s la) (la / 1024) then (s, 1)
    else (orientColumn s x.home (la / 1024) (unitVia c x), 0)) s

/-- The lines of a sector that the slice holds dirty. -/
def dirtyMask (s : State) (sec : Nat) : Nat :=
  (List.range 8).foldl (fun m i => if (overIn s.cav (1024 * sec + 128 * i) 128).isEmpty then m else m + 2 ^ i) 0

/-- The snapshot word of a sector's tag (R161). A split line is valid when both its halves are. -/
def sectorWord (s : State) (die sec : Nat) : Dword :=
  let c := getCave s die
  match tfind c.sectors sec with
  | none => 0
  | some t =>
    let (rc, hashed, h) : Nat × Bool × Dword := match tfind c.entries t.entry with
      | some e => (e.rc, e.hashed, e.hash)
      | none => (0, false, 0)
    at64 (if hashed then h.toNat % 2 ^ 32 else 0) 32 ||| at64 (dirtyMask s sec) 24 ||| at64 (t.valid &&& t.validLo).toNat 16
      ||| at64 (rc % 64) 10 ||| bit64 hashed 3 ||| bit64 t.col 2 ||| bit64 t.whole 1 ||| 1

/-- DEDUPQ of kind sector (R161). -/
def execDedupqSec (d a : BitVec 5) (s : State) : Host.Outcome State Fault Refusal :=
  cacheOp d a .load 1 false (fun s _ x =>
    (s, if cachedKind s x then sectorWord s (clusterDie (coreCluster x.home)) (paLocal x.pa / 1024) else 0)) s

/-- A counter of R162 for a Rind. -/
def caveCounter (c : Cave) (rind i : Nat) : Nat :=
  let secs := c.sectors.filter (fun e => e.2.rind == rind)
  let ents := c.entries.filter (fun e => e.2.rind == rind)
  match i with
  | 0 => secs.length
  | 1 => ents.length
  | 2 => secs.foldl (fun n e => n + 128 * popV (e.2.valid &&& e.2.validLo)) 0
  | 3 => 1024 * ents.length
  | 8 => pinnedCount c rind
  | _ => if i < 12 then tget 0 c.counts (16 * rind + i) % 2 ^ 64 else 0
where
  /-- Set bits of an 8-bit mask. -/
  popV (m : BitVec 8) : Nat := ((List.range 8).filter (fun i => m.getLsbD i)).length

/-- DEDUPQ of kind counter (R162). -/
def execDedupqCnt (d a : BitVec 5) (s : State) : Host.Outcome State Fault Refusal :=
  issue s { reads := [gr a], writes := [gr d] } (fun s c =>
    let g := c.readG a.toNat
    (answer s s.me d (BitVec.ofNat 64 (caveCounter (getCave s (fldN g 8 2)) (stRind c.st) (fldN g 0 4))), .next))

/-! ### The hash engine (R145, R146) -/

/-- The 1,024 bytes of a sector at the slice as 128 dwords. -/
def sectorDwords (s : State) (sec : Nat) : List Dword :=
  (List.range 128).map (fun i => ofBytes 64 ((List.range 8).map (fun j => caveByte s (1024 * sec + 8 * i + j))))

/-- The content hash (R145). -/
def contentHash (ds : List Dword) : Dword :=
  ds.foldl (fun h d => ((h.rotateLeft 5) ^^^ d) * 0x100000001B3) 0x9E3779B97F4A7C15

/-- The bucket slots of a Rind's banks that may hold an entry of a hash, in the order of the search: entries in
that bank and bucket, by slot. -/
def bucketOf (c : Cave) (rind : Nat) (h : Dword) : List (Nat × CEntry) :=
  (bitsOf (rcBanks (rcfgOf c rind)) 24).flatMap (fun b =>
    (List.range 4).filterMap (fun sl => c.entries.find? (fun e =>
      e.1 / 8192 == b && e.2.slot == some sl && fldN e.2.hash 0 11 == fldN h 0 11)))

/-- The search of R146 over the candidates: the entry shared, or none with the counts to add. -/
def hashSearch (s : State) (die : Nat) (rind : Nat) (h : Dword) (data : List Dword) :
    List (Nat × CEntry) → Cave → Bool → Cave × Bool × Option Nat
  | [], c, ovf => (c, ovf, none)
  | (i, e) :: rest, c, ovf =>
    if e.rind = rind ∧ e.hash = h then
      let same := match sharers c i with
        | q :: _ => sectorDwords s q == data
        | [] => false
      if same then
        if e.rc = 63 then hashSearch s die rind h data rest c true else (c, ovf, some i)
      else hashSearch s die rind h data rest (caveCount c rind 5) ovf
    else hashSearch s die rind h data rest c ovf

/-- A free slot in an entry's own bucket. -/
def freeSlotIn (c : Cave) (entry : Nat) (h : Dword) : Option Nat :=
  (List.range 4).find? (fun sl => !c.entries.any (fun e =>
    e.1 / 8192 == entry / 8192 && e.2.slot == some sl && fldN e.2.hash 0 11 == fldN h 0 11))

/-- A line with an uncorrectable row at a slice, met without a consumer: a clean one is invalidated, the data of a dirty one
is dropped and its frame quarantined (R141). -/
def rowError (s : State) (die line : Nat) : State :=
  let s := if (overIn s.cav (line * 128) 128).isEmpty then s
    else quarantineAll { s with cav := overDrop s.cav (line * 128) 128 } [line * 128]
  clearLine s die line

/-- The lines of a sector that an uncorrectable row lies in, met so; each sector of a shared entry by the state of its own
line (R141). -/
def sectorErrors (s : State) (die sec : Nat) : State :=
  (List.range 8).foldl (fun s i => if (caveBad s die (8 * sec + i)).isEmpty then s else rowError s die (8 * sec + i)) s

/-- One queued sector hashed, and shared with an equal entry when one is found (R146, R147). Rows that cannot be corrected,
its own or a candidate's, are met here (R141). -/
def hashSector (s : State) (die sec : Nat) : State :=
  let s := sectorErrors s die sec
  let c := getCave s die
  match tfind c.sectors sec with
  | none => s
  | some t => match tfind c.entries t.entry with
    | none => s
    | some e =>
      if !(t.whole && e.rc == 1 && !e.hashed && shareable c sec) then s
      else
        let data := sectorDwords s sec
        let h := contentHash data
        let bad := (bucketOf c t.rind h).filter (fun x => x.2.rind == t.rind && x.2.hash == h && !x.2.bad.isEmpty)
        let s := bad.foldl (fun s x => (sharers c x.1).foldl (fun s q => sectorErrors s die q) s) s
        let c := getCave s die
        let cands := (bucketOf c t.rind h).filter (fun x => x.2.bad.isEmpty)
        let (c, ovf, found) := hashSearch s die t.rind h data cands c false
        let c := match found with
          | some i =>
            let rc := match tfind c.entries i with
              | some x => x.rc
              | none => 0
            let c := dropEntry c t.entry
            let c := match tfind c.entries i with
              | some x => { c with entries := tput c.entries i { x with rc := rc + 1 } }
              | none => c
            caveCount { c with sectors := tput c.sectors sec { t with entry := i } } t.rind 4
          | none =>
            let c := if ovf then caveCount c t.rind 6 else c
            match freeSlotIn c t.entry h with
            | some sl => { c with entries := tput c.entries t.entry { e with hashed := true, hash := h, slot := some sl } }
            | none => caveCount { c with entries := tput c.entries t.entry { e with hashed := true, hash := h } } t.rind 10
        modCave s die (fun _ => c)

/-- The hash engine of a slice takes its oldest queued sector (R146). -/
def execCaveHash (die : Nat) (s : State) : Host.Outcome State Fault Refusal :=
  match (getCave s die).queue with
  | [] => .next s
  | q :: rest => .next (hashSector (modCave s die (fun c => { c with queue := rest })) die q)

/-! ### Reassignment (R143) -/

/-- A sector whose way or bank a Rind loses: a pinned one moves if it can, and every other is written back and
dropped. A free unpinned way is read as one that no sector occupies (log 82). -/
def displace (s : State) (die rind : Nat) (ways banks : Nat) (sec : Nat) : State :=
  match tfind (getCave s die).sectors sec with
  | none => s
  | some t =>
    if ways.testBit t.way ∧ banks.testBit (t.entry / 8192) then s
    else if t.col then
      let c := getCave s die
      let free := (bitsOf ways 12).find? (fun w => c.sectors.all (fun e => !(caveSet e.1 == caveSet sec && e.2.way == w)))
      let way := if ways.testBit t.way then some t.way else free
      match way with
      | none => lost s
      | some w =>
        if banks.testBit (t.entry / 8192) then
          modCave s die (fun c => { c with sectors := tput c.sectors sec { t with way := w } })
        else match allocEntry s die rind (some t.entry) with
          | none => lost s
          | some (s, i) => modCave s die (fun c =>
              let bad := match tfind c.entries t.entry with
                | some e => e.bad
                | none => []
              let c := dropEntry c t.entry
              let c := match tfind c.entries i with
                | some n => { c with entries := tput c.entries i { n with bad := bad } }
                | none => c
              queueHash { c with sectors := tput c.sectors sec { t with way := w, entry := i } } sec)
    else evictSector s die sec
where
  /-- A pinned sector without a place is unpinned, counted and dropped. -/
  lost (s : State) : State := evictSector (modCave s die (fun c => caveCount c rind 9)) die sec

/-- A Rind's ways, banks and pin limit set, its sectors moved or dropped (R143). -/
def assignCave (s : State) (die rind : Nat) (v : Dword) : State :=
  let mine := ((getCave s die).sectors.filter (fun e => e.2.rind == rind)).map (fun e => e.1)
  let s := modCave s die (fun c => { c with rcfg := tput c.rcfg rind (v &&& 0xFFFFFFFFF001FFFF) })
  mine.foldl (fun s q => displace s die rind (rcWays v) (rcBanks v) q) s

/-- Whether a write of cave.rcfg breaks a condition of R143. -/
def rcfgBad (c : Cave) (rind : Nat) (v : Dword) : Bool :=
  let ways := (bitsOf (rcWays v) 12).length
  let banks := (bitsOf (rcBanks v) 24).length
  (List.range 12).any (fun j => j != rind &&
      (rcWays (rcfgOf c j) &&& rcWays v != 0 || rcBanks (rcfgOf c j) &&& rcBanks v != 0))
    || decide (32768 * (ways - 1) < rcPinlim v) || decide (4096 * banks < rcPinlim v)
    || rcWays v &&& c.twdis.toNat != 0 || rcBanks v &&& c.dbdis.toNat != 0

/-- The Starter's write of cave.rcfg(rind) of a die (R143). -/
def writeRcfg (s : State) (die rind : Nat) (v : Dword) : State :=
  if rcfgBad (getCave s die) rind v then modCave s die (fun c => { c with cerr := true })
  else assignCave s die rind v

def execCaveRcfgWrite (die rind : Nat) (v : Dword) (s : State) : Host.Outcome State Fault Refusal :=
  .next (if die < 4 ∧ rind < 12 then writeRcfg s die rind v else s)

/-! ### The Cave patrol (R392) -/

/-- A way or bank of a slice disabled, with its event in the log of the Rind that owned it. R252 codes no source
kind for a Cave slice: that field is a free value (log 17). -/
def disableRow (s : State) (die : Nat) (bank : Bool) (i : Nat) : State :=
  let c := getCave s die
  let owner := (List.range 12).find? (fun j =>
    if bank then (rcBanks (rcfgOf c j)).testBit i else (rcWays (rcfgOf c j)).testBit i)
  let s := modCave s die (fun c =>
    if bank then { c with dbdis := c.dbdis ||| (1#24 <<< i) } else { c with twdis := c.twdis ||| (1#12 <<< i) })
  let q := c.evSeq
  let e := logEntry s q ((Config.freeVec 2 s.tick).toNat % 16) (64 * die) 0 (if bank then 0x06 else 0x05) (BitVec.ofNat 64 i)
  let s := modCave s die (fun c => { c with evSeq := q + 1 })
  match owner with
  | none => { s with starterLog := s.starterLog ++ [e] }
  | some j =>
    let w := rcfgOf c j
    let v := if bank then w &&& ~~~(1#64 <<< (28 + i)) else w &&& ~~~(1#64 <<< (52 + i))
    logTo (assignCave s die j v) j e

/-- A row of a data bank that no longer corrects: the entry that holds it keeps the mark (R141). The rows of a bank are
numbered by entry, then by row of the entry. -/
def markRow (s : State) (die i : Nat) : State :=
  let e := 8192 * (i % 24) + i / 24 / 32 % 8192
  modCave s die (fun c => match tfind c.entries e with
    | none => c
    | some x => { c with entries := tput c.entries e { x with bad := (x.bad ++ [i / 24 % 32]).eraseDups } })

/-- The Cave patrol finds a row clean, corrected or uncorrectable (R392): a row of tag way i mod 12, or of data bank
i mod 24, i being the row's own number. -/
def execCavePatrol (die : Nat) (bank : Bool) (i : Nat) (found : PatrolFinding) (s : State) :
    Host.Outcome State Fault Refusal :=
  let c := getCave s die
  let unit := if bank then i % 24 else i % 12
  let dead := if bank then c.dbdis.getLsbD unit else c.twdis.getLsbD unit
  if 4 ≤ die ∨ dead then .next s
  else
    let key := 2 * i + (if bank then 1 else 0)
    let now := patrolPeriod s + 1
    let bad := bank && (match tfind c.entries (8192 * (i % 24) + i / 24 / 32 % 8192) with
      | some e => e.bad.contains (i / 24 % 32)
      | none => false)
    match (if bad then .uncorrectable else found) with
    | .clean => .next s
    | .uncorrectable => .next (disableRow (if bank then markRow s die i else s) die bank unit)
    | .corrected =>
      match tfind c.patrol key with
      | none => .next (modCave s die (fun c => { c with patrol := tput c.patrol key now }))
      | some p => if p = now then .next s else .next (disableRow s die bank unit)

end Sys2Proof.Machine
end

