-- ==== Sys2Proof/Machine/CtlSpace.lean ====
section
/-!
DEFINITION. The registers of control space (R66 to R72, R87, R143, R258, R261, R373, R396, R400, R407, R416), and
the accesses of cores and of the Starter to them.
-/

namespace Sys2Proof.Machine

/-- A register of control space. -/
inductive CtlReg where
  | rmap (r : Nat)
  /-- A controller's register by its offset. -/
  | ctl (stack off : Nat)
  | rcfg (die k : Nat)
  | caveStat (die : Nat)
  | evReg (k off : Nat)
  | evEntry (k i part : Nat)
  | page (cluster off : Nat)
  | latchedAcnt (stack j : Nat)
  | spoolBase (k : Nat)
  | spoolCnt (k : Nat)
  | hwin (k : Nat)
  | peer (k e : Nat)
deriving DecidableEq, Repr

/-- Whether a controller offset holds a register (R66, R261). -/
def ctlOffset (o : Nat) : Bool :=
  o == 0 || o == 8 || o == 0x10 || (decide (0x40 ≤ o) && decide (o < 0x70)) || (decide (0x80 ≤ o) && decide (o < 0xB0))
    || o == 0xC0 || (decide (0x200 ≤ o) && decide (o < 0x400))

/-- Whether an offset of a cluster's snapshot page holds a word (R400). -/
def pageOffset (o : Nat) : Bool := decide (o < 0x70)

/-- The register at a dword-aligned local address of control space; none where the spec lays out none. -/
def ctlAt (a : Nat) : Option CtlReg :=
  if a < 0xF0000000000 ∨ 0xF0001000000 ≤ a ∨ a % 8 ≠ 0 then none
  else
    let o := a - 0xF0000000000
    if o < 8 * 576 then some (.rmap (o / 8))
    else if 0x100000 ≤ o ∧ o < 0x1C0000 then
      (if ctlOffset (o % 0x10000) then some (.ctl ((o - 0x100000) / 0x10000) (o % 0x10000)) else none)
    else if 0x200000 ≤ o ∧ o < 0x240000 then
      let p := o % 0x10000
      if p < 96 then some (.rcfg ((o - 0x200000) / 0x10000) (p / 8))
      else if p = 0x100 then some (.caveStat ((o - 0x200000) / 0x10000)) else none
    else if 0x300000 ≤ o ∧ o < 0x3C0000 then
      let k := (o - 0x300000) / 0x10000
      let p := o % 0x10000
      if p < 0x18 then some (.evReg k p)
      else if 0x8000 ≤ p then some (.evEntry k ((p - 0x8000) / 32) (p / 8 % 4)) else none
    else if 0x500000 ≤ o ∧ o < 0x600000 then
      (if pageOffset (o % 0x1000) then some (.page ((o - 0x500000) / 0x1000) (o % 0x1000)) else none)
    else if 0x600000 ≤ o ∧ o < 0x60C000 then
      (if o % 0x1000 < 0x200 then some (.latchedAcnt ((o - 0x600000) / 0x1000) (o % 0x1000 / 8)) else none)
    else if 0x700000 ≤ o ∧ o < 0x7000C0 then
      (if o % 16 = 0 then some (.spoolBase ((o - 0x700000) / 16)) else some (.spoolCnt ((o - 0x700000) / 16)))
    else if 0x800000 ≤ o ∧ o < 0x800060 then some (.hwin ((o - 0x800000) / 8))
    else if 0x900000 ≤ o ∧ o < 0x900C00 then
      (if o % 0x100 < 0x80 then some (.peer ((o - 0x900000) / 0x100) (o % 0x100 / 8)) else none)
    else none

/-- Every region on a stack belongs to a Rind (R258). -/
def stackOwned (s : State) (stack rind : Nat) : Bool :=
  (List.range 576).all (fun r => let e := rmapOf s r; rmStack e != stack || rmRind e == rind)

/-- A core of a Rind is admitted to a register (R66, R67, R258, R396, R400). -/
def ctlAdmits (s : State) (rind : Nat) (r : CtlReg) : Bool :=
  match r with
  | .rmap i => rmRind (rmapOf s i) == rind
  | .ctl st _ => stackOwned s st rind
  | .evReg k _ => k == rind
  | .evEntry k _ _ => k == rind
  | .page c _ => (getCluster s c).rind == some rind
  | .latchedAcnt st _ => stackOwned s st rind
  | _ => true

/-- mc.pcmask(j) or mc.pcstage(j) as a write leaves it (R70). -/
def maskValue (j : Nat) (v : Dword) : Dword := (v &&& 0x3FFFE000) ||| at64 1 (7 + j)

/-- The value of a control-space register. -/
def ctlRead (s : State) (r : CtlReg) : Dword :=
  match r with
  | .rmap i => rmapOf s i
  | .ctl st o =>
    let m := getStack s st
    if o = 0 then bit64 m.werr 2 ||| bit64 m.qd 1 ||| bit64 m.q 0
    else if o = 8 then at64 (min m.ce 0xFFFFFFFF) 32 ||| at64 (min m.ue 0xFFFF) 16
      ||| at64 ((m.rows.foldl (fun n e => n + e.2) 0) % 4096) 4 ||| at64 (m.chans % 4) 0
    else if o = 0x10 then 0
    else if o < 0x70 then tget (pcmaskReset ((o - 0x40) / 8)) m.pcmask ((o - 0x40) / 8)
    else if o < 0xB0 then tget (pcmaskReset ((o - 0x80) / 8)) m.pcstage ((o - 0x80) / 8)
    else if o = 0xC0 then bit64 m.hreqDone 2 ||| bit64 m.hreqBusy 1
    else tget 0 m.acnt ((o - 0x200) / 8)
  | .rcfg d k => rcfgOf (getCave s d) k
  | .caveStat d =>
    let c := getCave s d
    bit64 c.cerr 36 ||| at64 c.dbdis.toNat 12 ||| at64 c.twdis.toNat 0
  | .evReg k o =>
    let l := (getRind s k).log
    zx (if o = 0 then l.head else if o = 8 then l.tail else l.lost)
  | .evEntry k i part => fld (tget 0 (getRind s k).log.ents i) (64 * part) 64
  | .page c o => tget 0 (getCluster s c).latched o
  | .latchedAcnt st j => tget 0 (getStack s st).latched j
  | .spoolBase k => (getRind s k).spoolBase
  | .spoolCnt k => (getRind s k).spoolCnt
  | .hwin k => (getRind s k).hwin
  | .peer k e => tget 0 (getRind s k).peers e

/-- The go of mc.hreq, and the clear of its done bit (R261). -/
def writeHreq (m : Stack) (v : Dword) : Stack :=
  let m := if bitAt v 2 then { m with hreqDone := false } else m
  if bitAt v 0 then (if m.hreqBusy then { m with werr := true } else { m with hreqBusy := true }) else m

/-- The clears of mc.cclr (R72). -/
def clearAcnt (m : Stack) : Stack := { m with acnt := [] }
def clearErrs (m : Stack) : Stack := { m with ce := 0, ue := 0 }

/-- A write of mc.pcmask(j) (R71): by the Starter while qd = 1; any other sets werr. -/
def writePcmask (s : State) (st j : Nat) (v : Dword) (starter : Bool) : State :=
  let m := getStack s st
  if starter && m.qd then rehash s st { m with pcmask := tput m.pcmask j (maskValue j v) }
  else modStack s st (fun m => { m with werr := true })

/-- mc.ctl.q set or cleared by the Starter (R71). -/
def writeQ (s : State) (st : Nat) (q : Bool) : State :=
  modStack s st (fun m => { m with q := q, qd := if q then m.qd else false })

/-- A field that keeps its old value when the new one is reserved (R5). -/
def keepField {n : Nat} (old new : Dword) (lo : Nat) (bad : BitVec n → Bool) : BitVec n :=
  if bad (fld new lo n) then fld old lo n else fld new lo n

/-- A write of a control-space register, field by field (R3, R5, R67, R71, R143, R396). -/
def ctlWrite (s : State) (starter : Bool) (r : CtlReg) (v : Dword) : State :=
  match r with
  | .rmap i =>
    let e := rmapOf s i
    let kind : BitVec 4 := keepField e v 56 (fun k => 7 < k.toNat)
    let w := putFld (putFld e 56 4 kind) 6 39 (fld v 6 39)
    let w := if starter then
        putFld (putFld (putFld (putFld w 60 4 (keepField e v 60 (fun k => 12 ≤ k.toNat && k.toNat < 15))) 55 1 (fld v 55 1)) 49 6
          (fld v 49 6)) 45 4 (keepField e v 45 (fun k => 12 ≤ k.toNat))
      else w
    { s with rmap := tput s.rmap i w }
  | .ctl st o =>
    if o = 0 then
      let s := modStack s st (fun m => if bitAt v 2 then { m with werr := false } else m)
      if starter then writeQ s st (bitAt v 0) else s
    else if o = 0x10 then modStack s st (fun m =>
      let m := if bitAt v 0 then clearAcnt m else m
      if bitAt v 1 then clearErrs m else m)
    else if 0x40 ≤ o ∧ o < 0x70 then writePcmask s st ((o - 0x40) / 8) v starter
    else if 0x80 ≤ o ∧ o < 0xB0 then
      let j := (o - 0x80) / 8
      modStack s st (fun m => if m.hreqBusy then { m with werr := true } else { m with pcstage := tput m.pcstage j (maskValue j v) })
    else if o = 0xC0 then modStack s st (fun m => writeHreq m v)
    else s
  | .rcfg d k => if starter then writeRcfg s d k v else s
  | .caveStat d => if starter && bitAt v 36 then modCave s d (fun c => { c with cerr := false }) else s
  | .evReg k o => if o = 8 then modRind s k (fun x => { x with log := { x.log with tail := fld v 0 32 } }) else s
  | .spoolBase k => if starter then modRind s k (fun x => { x with spoolBase := v &&& 0x01FFFFFFFFC00000 }) else s
  | .spoolCnt k => if starter then modRind s k (fun x => { x with spoolCnt := v &&& 0xFFFF }) else s
  | .hwin k => if starter then modRind s k (fun x => { x with hwin := v &&& 0x83FFFFFFC0000000 }) else s
  | .peer k e => if starter then modRind s k (fun x =>
      { x with peers := tput x.peers e ((v &&& 0x800000000000FFF0) |||
          zx (keepField (tget 0 x.peers e) v 0 (fun (q : BitVec 4) => 12 ≤ q.toNat))) }) else s
  | _ => s

/-- The register that a core's csp access reaches, or none where it is a hole (R66, R258, R260). -/
def cspTarget (s : State) (c : Ctx) : Option CtlReg :=
  if !stSys c.st then none
  else (ctlAt (c.cspAddr.toNat)).filter (ctlAdmits s (stRind c.st))

/-- The effect of a CRD of csp.data (R260). -/
def cspRead (d : BitVec 5) (s : State) (c : Ctx) : State × Done :=
  if !(pendingOf s s.me).isEmpty then (s, .hold)
  else match cspTarget s c with
    | none => (s, .trap (accessTrap 0x17 .load c.cspAddr))
    | some r => (answer s s.me d (ctlRead s r), .next)

/-- The effect of a CWR of csp.data (R259, R260). -/
def cspWrite (v : Dword) (s : State) (c : Ctx) : State × Done :=
  if !stSys c.st then (s, .trap (simpleTrap 0x05 0))
  else if !(pendingOf s s.me).isEmpty then (s, .hold)
  else match cspTarget s c with
    | none => (s, .trap (accessTrap 0x17 .store c.cspAddr))
    | some r => (ctlWrite s false r v, .next)

/-! ### The events of the controllers -/

/-- Writing mc.cclr.aclr (R72). -/
def execAclr (stack : Nat) (s : State) : Host.Outcome State Fault Refusal :=
  .next (if stack < 12 then modStack s stack clearAcnt else s)

/-- Writing mc.cclr.eclr (R72). -/
def execEclr (stack : Nat) (s : State) : Host.Outcome State Fault Refusal :=
  .next (if stack < 12 then modStack s stack clearErrs else s)

/-- Writing mc.hreq.go (R261). -/
def execGo (stack : Nat) (s : State) : Host.Outcome State Fault Refusal :=
  .next (if stack < 12 then modStack s stack (fun m => writeHreq m 1) else s)

/-- The Starter's write of mc.ctl.q (R71). -/
def execQuiescence (stack : Nat) (q : Bool) (s : State) : Host.Outcome State Fault Refusal :=
  .next (if stack < 12 then writeQ s stack q else s)

/-- qd becomes 1: accesses are performed at a stack in one step, so none is in flight there (R71). -/
def execQuiesced (stack : Nat) (s : State) : Host.Outcome State Fault Refusal :=
  .next (if stack < 12 ∧ (getStack s stack).q then modStack s stack (fun m => { m with qd := true }) else s)

/-- The Starter makes a requested hash change (R261). -/
def execHashChange (stack : Nat) (s : State) : Host.Outcome State Fault Refusal :=
  let m := getStack s stack
  if stack < 12 ∧ m.hreqBusy ∧ m.qd then
    let masks : Tab Dword := (List.range 6).map (fun j => (j, tget (pcmaskReset j) m.pcstage j))
    .next (rehash s stack { m with pcmask := masks, hreqBusy := false, hreqDone := true, q := false, qd := false })
  else .next s

/-- A write of mc.pcmask (R71). -/
def execPcmaskWrite (stack j : Nat) (v : Dword) (starter : Bool) (s : State) : Host.Outcome State Fault Refusal :=
  .next (if stack < 12 ∧ j < 6 then writePcmask s stack j v starter else s)

end Sys2Proof.Machine
end

