-- ==== Sys2Proof/Machine/Msg.lean ====
section
/-!
DEFINITION. Messages, ports and patterns (R328 to R348, R358, R410, R411): sending, arrival, refusal, firing, and
the MSG and PORT instructions.
-/

namespace Sys2Proof.Machine

/-! ### Conversion at the network interface (R344) -/

/-- n values of a payload converted from one format to another, packed from byte 0. -/
def convLanes (src dst : Fmt) (n : Nat) (p : BitVec 384) : BitVec 384 :=
  BitVec.ofNat 384 (packElems dst.bits ((List.range n).map (fun i =>
    dst.encode .nearestEven (src.decode (packedElem p.toNat src.bits i)))))

/-- The narrowing codes, at the sender. -/
def convSend (fmt : Nat) (p : BitVec 384) : BitVec 384 :=
  match fmt with
  | 1 => convLanes .fp32 .bf16 12 p
  | 3 => convLanes .fp32 .e4m3 12 p
  | 5 => convLanes .bf16 .e4m3 24 p
  | _ => p

/-- The widening codes, at the receiver. -/
def convReceive (fmt : Nat) (p : BitVec 384) : BitVec 384 :=
  match fmt with
  | 2 => convLanes .bf16 .fp32 12 p
  | 4 => convLanes .e4m3 .fp32 12 p
  | 6 => convLanes .e4m3 .bf16 24 p
  | _ => p

/-! ### Placement (R332, R333, R359, R411) -/

/-- The lowest free slot of a core's shared store (R332). -/
def freeStoreSlot (s : State) (cn : Nat) : Option Nat :=
  (List.range 256).find? (fun i => !tget false s.slots (cn * 256 + i))

/-- The local address of a slot (R332). -/
def slotAddr (cn i : Nat) : Nat := scratchBase cn + 0x3C000 + 64 * i

/-- A message image written to a slot, which is taken. -/
def fillSlot (s : State) (cn i : Nat) (m : BitVec 512) : State :=
  scratchPut { s with slots := tput s.slots (cn * 256 + i) true } (slotAddr cn i) (bytesOf m 64)

/-- A refused arrival is counted (R333). -/
def countRefused (s : State) (cn : Nat) : State := modCore s cn (fun c => { c with refc := c.refc + 1 })

/-- The port is the host port of its Rind (R409, R411): the Rind. -/
def hostPortOf (s : State) (cn p : Nat) : Option Nat :=
  if p = 62 then (coreRind s cn).filter (fun r => bitAt (getRind s r).page.ctl 63 && frontCore s r == some cn)
  else none

/-- A message to the host port (R411): written to the ring, or refused when it is full. -/
def placeHost (s : State) (rind : Nat) (m : BitVec 512) : State × Bool :=
  let g := (getRind s rind).page
  let size := 2 ^ (min (fldN g.ctl 0 4) 12)
  if (g.tail - g.head).toNat < size then
    let a := 0x100000000000 + (g.ring.toNat + 64 * (g.tail.toNat % size)) % 2 ^ 64
    let s := { s with mem := memPuts s.mem a (bytesOf m 64), top := overDrop s.top a 64, msix := s.msix ++ [rind] }
    (modRind s rind (fun r => { r with page := { r.page with tail := r.page.tail + 1 } }), true)
  else (s, false)

/-- The registers of a context at its handler's first instruction (R47): the payload dwords, the frame address,
the pc and the mode. -/
def startHandler (c : Ctx) (pc frame : Dword) (payload : BitVec 384) (sys : Bool) (slots : List Nat) : Ctx :=
  let c := (((((c.writeG 1 frame).writeG 2 (fld payload 0 64)).writeG 3 (fld payload 64 64)).writeG 4
    (fld payload 128 64)).writeG 5 (fld payload 192 64)).writeG 6 (fld payload 256 64)
  { c with pc := pc, st := stBit (stBit (stBit c.st 1 false) 2 false) 0 sys, empty := [], frames := slots, hint := none }

/-- The frame address of a first slot (R338). -/
def frameAddr (s : State) (cn l slot : Nat) : Dword := (getRec s cn l).sbase + BitVec.ofNat 64 (0x3C000 + 64 * slot)

/-- The aux field of a header as a frame link (R338). -/
def linkAux (nxt : Nat) (more : Bool) (ref : Nat) : BitVec 24 :=
  BitVec.ofNat 24 (nxt % 256 * 2 ^ 16 + (if more then 2 ^ 15 else 0) + ref % 4 * 2 ^ 13)

/-- The frame links of a chain of slots written with their reference indices, each into its header's aux field (R338). -/
def linkFrame (s : State) (cn : Nat) : List (Nat × Nat) → State
  | [] => s
  | (i, ref) :: rest =>
    let aux := match rest with
      | [] => linkAux 0 false ref
      | (j, _) :: _ => linkAux j true ref
    linkFrame (scratchWrite s (cellsOf (fun b => slotAddr cn i + 1 + b) 3 (aux.setWidth 512) (BitVec.allOnes 64))) cn rest

/-- The launch's snapshot of the live table, taken once (R103). -/
def takeSnapshot (s : State) (l : Nat) : State :=
  match getLaunch s l with
  | none => s
  | some x => if x.snapped then s
    else modLaunch s l (fun x => { x with snap := (getRind s x.rind).live, snapped := true })

/-- A start message (R256, R359): the lowest free slot, a frame of one message, and the named context made
runnable at the entry handler with every other register zero, and with st.dem 0 (log 72). While a take-over runs it waits;
on an offline core it fires nothing (R390, R391; log 85). -/
def placeStart (s : State) (cn : Nat) (m : BitVec 512) : State × Bool :=
  if (getCore s cn).takeover then (s, false)
  else if (getCore s cn).off then
    (modLaunch s ((getCtx s (ctxKey cn (msgAux m / 256 % 256))).launch.getD 0) (fun x => { x with starts := x.starts - 1 }), true)
  else match freeStoreSlot s cn with
  | none => (countRefused s cn, false)
  | some i =>
    let k := ctxKey cn (msgAux m / 256 % 256)
    match (getCtx s k).launch with
    | none => (s, true)
    | some l => match getLaunch s l with
      | none => (s, true)
      | some x =>
        let s := takeSnapshot s l
        let s := linkFrame (fillSlot s cn i m) cn [(i, 0)]
        let s := modLaunch s l (fun x => { x with starts := x.starts - 1 })
        let s := modCtx s k (fun c =>
          let c : Ctx := { c with g := [], v := [], p := [], fepol := 0, loopCnt := 0, loopEnd := 0, loopLen := 0 }
          let c := startHandler c (fld x.block 192 64) (frameAddr s cn l i) (msgPayload m) false [i]
          { c with st := stBit (putFld (stBit c.st 3 (bitAt x.block 92)) 5 3 (fld x.block 93 3)) 4 false })
        (makeRunnable (freshRegs s k (fun _ => true)) k 64 true, true)

/-- The core that a message is for. -/
def messageCore (s : State) (m : BitVec 512) : Nat :=
  if msgDk m == 5 then (frontCore s (msgRind m)).getD 0 else nameCore (msgDst m)

/-- A message put at its port, or refused (R333, R344). -/
def putMessage (s : State) (m : BitVec 512) : State × Bool :=
  let launch := msgDk m == 5
  let cn := messageCore s m
  let p := if launch then 63 else msgDst m % 64
  let m := mkMessage (fld m 0 128) (convReceive (msgFmt m) (msgPayload m))
  if coreRind s cn ≠ some (msgRind m) then (countRefused s cn, false)
  else if msgKind m = 5 ∧ fldN m 0 8 = 0xFF ∧ p = 63 ∧ !launch then placeStart s cn m
  else match hostPortOf s cn p with
    | some r =>
      match placeHost s r m with
      | (s, true) => (s, true)
      | (s, false) => (countRefused s cn, false)
    | none =>
      let q := getPort s cn p
      if !q.en then (countRefused s cn, false)
      else if q.count? then
        if q.count = 65535 then (countRefused s cn, false)
        else (setPort s cn p { q with count := q.count + 1 }, true)
      else if q.cap ≤ q.queue.length then (countRefused s cn, false)
      else match freeStoreSlot s cn with
        | none => (countRefused s cn, false)
        | some i => (setPort (fillSlot s cn i m) cn p { q with queue := q.queue ++ [i] }, true)

/-- A message at its port: accepted, it is an event at the core (R377); refused, it changes nothing but the count (R333). -/
def placeMessage (s : State) (m : BitVec 512) : State × Bool :=
  match putMessage s m with
  | (t, true) => (wakeCore t (messageCore s m), true)
  | (t, false) => (t, false)

/-! ### Firing (R336 to R338) -/

/-- A reference's port holds its quota (R336). -/
def refComplete (s : State) (cn : Nat) (ref : Nat × Nat) : Bool :=
  let q := getPort s cn ref.1
  if q.count? then decide (ref.2 ≤ q.count) else decide (ref.2 ≤ q.queue.length)

/-- The lowest dormant context of a mask that a launch claims. -/
def dormantIn (s : State) (cn cmask : Nat) (owner : Option Nat) : Option Nat :=
  (List.range 16).find? (fun i =>
    cmask.testBit i && (getCtx s (ctxKey cn i)).act == .dormant && (getCtx s (ctxKey cn i)).launch == owner)

/-- Free slots of the store. -/
def freeStore (s : State) (cn : Nat) : Nat := ((List.range 256).filter (fun i => !tget false s.slots (cn * 256 + i))).length

/-- A pattern that may fire, with the context that it starts. -/
def mayFire (s : State) (cn : Nat) (p : Pattern) : Option Nat :=
  let counts := (p.refs.filter (fun r => (getPort s cn r.1).count?)).length
  if p.refs.all (refComplete s cn) && decide (counts ≤ freeStore s cn) then dormantIn s cn p.cmask p.owner else none

/-- The header of a kind-7 message (R336). -/
def countMessage (s : State) (cn port m : Nat) : BitVec 512 :=
  mkMessage (mkHeader (portName s cn port) 0 0 ((coreRind s cn).getD 0) false 0 (coreField cn) 7 0 0xFF)
    (BitVec.ofNat 384 (m + port * 2 ^ 64))

/-- The messages of the references taken, in order: the slots with their reference indices. -/
def takeRefs (s : State) (cn : Nat) : List (Nat × Nat) → Nat → State × List (Nat × Nat)
  | [], _ => (s, [])
  | (port, quota) :: rest, i =>
    let q := getPort s cn port
    if q.count? then
      match freeStoreSlot s cn with
      | none => takeRefs s cn rest (i + 1)
      | some sl =>
        let s := fillSlot (setPort s cn port { q with count := q.count - quota }) cn sl (countMessage s cn port q.count)
        let (s, more) := takeRefs s cn rest (i + 1)
        (s, (sl, i) :: more)
    else
      let s := setPort s cn port { q with queue := q.queue.drop quota }
      let (s, more) := takeRefs s cn rest (i + 1)
      (s, (q.queue.take quota).map (fun sl => (sl, i)) ++ more)

/-- The pattern that fires first (R336): the highest priority, then the lowest index. -/
def bestPattern (s : State) (cn : Nat) : Option (Nat × Pattern × Nat) :=
  (List.range 32).foldl (fun best i =>
    match (tfind s.patterns (cn * 32 + i)).bind (fun p => (mayFire s cn p).map (fun c => (i, p, c))) with
    | none => best
    | some (i, p, c) => match best with
      | none => some (i, p, c)
      | some (_, q, _) => if q.prio < p.prio then some (i, p, c) else best) none

/-- The dwords of a first message's payload that cannot be read (R25, R164): of g2 to g6, those that they belong to. -/
def badPayload (s : State) (cn slot : Nat) : List Nat :=
  ([2, 3, 4, 5, 6] : List Nat).filter (fun r => !scratchGood s [slotAddr cn slot + 16 + 8 * (r - 2)])

/-- Registers of a handler whose payload cannot be read: each stays empty with the record of its load, and what it held does not
change (R25, R47, R120). -/
def spoilPayload (s : State) (k : Nat) (old : Ctx) (frame : Dword) : List Nat → State
  | [] => s
  | r :: rs =>
    let c := getCtx s k
    let s := modCtx s k (fun c => (c.writeG r (old.readG r)).setEmpty r true)
    spoilPayload (applyError s { ctx := k, gen := stGen c.st, reg := r, inTrap := false }
      (accessTrap 0x0E .load (frame + BitVec.ofNat 64 (16 + 8 * (r - 2))))) k old frame rs

/-- The Rennet of a core fires one pattern (R336). -/
def execPatternFiring (core : Nat) (s : State) : Host.Outcome State Fault Refusal :=
  if (getCore s core).off || (getCore s core).takeover then .next s
  else match bestPattern s core with
    | none => .next s
    | some (i, p, ci) =>
      let port := (p.refs.filter (fun r => !(getPort s core r.1).count?)).foldl (fun a r => min a r.1) 64
      let (s, taken) := takeRefs s core p.refs 0
      match taken with
      | [] => .next s
      | (first, _) :: _ =>
        let s := linkFrame s core taken
        let payload : BitVec 384 := ofBytes 384 ((List.range 48).map (fun j => memGet s.mem (slotAddr core first + 16 + j)))
        let k := ctxKey core ci
        let old := getCtx s k
        let frame := frameAddr s core (old.launch.getD 0) first
        let bad := badPayload s core first
        let s := modCtx s k (fun c => startHandler c p.handler frame payload (i == 31) (taken.map (fun e => e.1)))
        let s := freshRegs s k (fun r => decide (1 ≤ r) && decide (r ≤ 6))
        .next (makeRunnable (spoilPayload s k old frame bad) k port true)

/-! ### Delivery -/

/-- The port-refused record of a message (R343, R381). -/
def portRefused (m : BitVec 512) : TrapRec :=
  { code := 0x30, eaddr := BitVec.ofNat 64 (msgDst m), info := 1,
    frame := (List.range 8).map (fun i => fld m (64 * i) 64) }

/-- A packet is admitted to the resources of a Rind (R416). -/
def peerOk (s : State) (rind : Nat) (q : FabricPacket) : Bool :=
  (List.range 16).any (fun e =>
    let w := tget 0 (getRind s rind).peers e
    bitAt w 63 && fldN w 4 12 == fldN q.hdr 104 12 && fldN w 0 4 == fldN q.hdr 100 4)

def fabOp (q : FabricPacket) : Nat := fldN q.hdr 90 6
def fabLen (q : FabricPacket) : Nat := fldN q.hdr 96 4

/-- The Rind whose resource a local address is (R416). -/
def addrRind (s : State) (a : Nat) : Option Nat :=
  match windowOf a with
  | .scratch => coreRind s (scratchCore a)
  | .hole => none
  | .control => none
  | .host => (List.range 12).find? (fun k => hostOk s k (a - 0x100000000000))
  | _ => if ownerRind s a = 15 then none else some (ownerRind s a)

/-- The Rind of this node that owns what a packet names, which its answer gives as its source Rind (R413); 15 where no Rind
does. -/
def answerRind (s : State) (q : FabricPacket) : Nat :=
  let counter := coreRind s (coreOfField (fldN q.body 37 11))
  let r : Option Nat := match fabOp q with
    | 0 | 1 | 2 => addrRind s (paLocal (fldN q.hdr 0 57))
    | 6 | 11 => counter
    | 8 | 9 | 10 => coreRind s (nameCore (fldN q.body 96 32))
    | 12 => (getCluster s (clusterOf (fldN q.body 46 2) (fldN q.body 43 3) (fldN q.body 40 3))).rind
    | 13 => if fldN q.body 128 8 = 1 then addrRind s (paLocal (fldN q.body 0 64)) else counter
    | _ => none
  r.getD 15

/-- A packet answered on the fabric (R413, R414): op, error and body, with the request's tag. -/
def fabAnswer (s : State) (q : FabricPacket) (op err len : Nat) (body : BitVec 640) : State :=
  let h := fabHeader s (fldN q.hdr 104 12) (answerRind s q) len op (fldN q.hdr 87 3) 0 (fldN q.hdr 67 16) err 0
  sendFlit s { hdr := h, body := body } (answerRind s q) none

/-- The low n bits of a body. -/
def fabBits (n : Nat) : BitVec 640 := BitVec.ofNat 640 (2 ^ n - 1)

/-- A body fits its op (R414): it has the slots that the table gives, and is zero where the table puts nothing. used: the bits
that the op's contents fill. -/
def fabFits (q : FabricPacket) (slots : Nat) (used : BitVec 640) : Bool :=
  fabLen q == slots && q.body &&& ~~~used &&& fabBits (128 * slots) == 0

/-- The watch whose message is in flight (R175): accepted, it frees its slot; refused, it waits. -/
def settleWatch (s : State) (m : BitVec 512) (accepted : Bool) : State :=
  match s.watches.find? (fun e => e.2.sent && e.2.fired == some m) with
  | none => s
  | some (key, w) =>
    if accepted then { s with watches := tdel s.watches key }
    else { s with watches := tput s.watches key { w with sent := false, after := s.cycle + 256 } }

/-- The message is for a port of another node. -/
def forOtherNode (s : State) (m : BitVec 512) : Bool := msgDk m == 0 && nameNode (msgDst m) != s.node

/-- A message of the hardware sent on to another node with the order that it carries; its answer is awaited (R413, R414). -/
def forwardMessage (s : State) (f : Flight) (m : BitVec 512) : State :=
  sendFabric s (fun t => fabHeader s (nameNode (msgDst m)) (msgRind m) 4 8 0 (ordsc f.ord) t 0 0) (m.setWidth 640) (some f)
    (msgRind m) f.launch

/-- Commands that an engine's inbox holds at most (R176, R287, R305): engine 6 is the Harp. -/
def inboxSize (e : Nat) : Nat := if e = 6 then 32 else 16

/-- The inbox of an engine of a cluster. -/
def inboxOf (s : State) (cl e : Nat) : List Queued :=
  if e = 6 then (getCluster s cl).harp.inbox else tget [] (getCluster s cl).inbox e
def setInbox (s : State) (cl e : Nat) (l : List Queued) : State :=
  modCluster s cl (fun c => if e = 6 then { c with harp := { c.harp with inbox := l } }
    else { c with inbox := tput c.inbox e l })

/-- A command enters an inbox, or is refused whole when it is full (R176, R287, R305, R308). -/
def placeCommand (s : State) (unit : Nat) (q : Queued) : State × Bool :=
  let l := inboxOf s (unit / 8) (unit % 8)
  if l.length < inboxSize (unit % 8) then (setInbox s (unit / 8) (unit % 8) (l ++ [q]), true) else (s, false)

/-- A refusal on its way back to the context whose flight it was: one packet, which also sets full the register that the
flight was to fill (R167). -/
def refuseFlight (s : State) (f : Flight) (r : Reply) (t : TrapRec) : State :=
  putByIssue s r.ctx { owner := some (r.ctx, r.gen), ord := f.ord, launch := f.launch
                       body := if r.reg = 0 then .ack r.ctx r.gen false (some t) else .refill r (some t) }

/-- A message or command in flight reaches its port or inbox; the sender is answered (R176, R343). -/
def deliverFlight (s : State) (n : Nat) : State :=
  match s.net[n]? with
  | none => s
  | some f =>
    if !mayPerform s n f then s
    else match f.body with
      | .message m =>
        let s := { s with net := dropNth s.net n }
        if forOtherNode s m then forwardMessage s f m
        else
          let (s, ok) := placeMessage s m
          match f.owner with
          | some (k, gen) => sendFor s f.launch (.ack k gen true (if ok then none else some (portRefused m)))
          | none => settleWatch s m ok
      | .resend m after =>
        if s.cycle < after ∨ !inSeries s n f then s
        else
          let s := { s with net := dropNth s.net n }
          if forOtherNode s m then forwardMessage s f m
          else
            let (s, ok) := placeMessage s m
            if ok then s
            else { s with net := s.net ++ [{ f with body := .resend m (s.cycle + 256) }] }
      | .command unit m body l r =>
        let s := { s with net := dropNth s.net n }
        let (s, ok) := placeCommand s unit { msg := m, body := body, launch := l, owner := f.owner, ord := f.ord, reply := r }
        if ok then s
        else match f.owner with
          | some (k, gen) => refuseFlight s f { r with ctx := k, gen := gen } (portRefused m)
          | none => s
      | _ => s

/-- An arrival is placed or refused (R333). -/
def execMessageArrival (src : PacketRef) (s : State) : Host.Outcome State Fault Refusal :=
  match src with
  | .net n => .next (deliverFlight s n)
  | .fabric q =>
    if fabOp q ≠ 8 then .next s
    else
      let m : BitVec 512 := q.body.setWidth 512
      let target := coreRind s (nameCore (msgDst m))
      if fabLen q ≠ 4 ∨ msgDk m ≠ 0 ∨ !(match target with | some r => peerOk s r q | none => false) then
        .next (fabAnswer s q 5 2 0 0)
      else
        let (s, ok) := placeMessage s m
        .next (if ok then fabAnswer s q 4 0 0 0 else fabAnswer s q 5 2 0 0)

/-- A flight of a kind of hardware message sent again (R175, R343, R359, R361). -/
def resendFlight (s : State) (n : Nat) (kinds : List Nat) : State :=
  match s.net[n]? with
  | some { body := .resend m _, .. } => if kinds.contains (msgKind m) then deliverFlight s n else s
  | _ => s

def execStartMessageResend (n : Nat) (s : State) : Host.Outcome State Fault Refusal := .next (resendFlight s n [5])
def execCompletionResend (n : Nat) (s : State) : Host.Outcome State Fault Refusal := .next (resendFlight s n [4])
def execHardwareResend (n : Nat) (s : State) : Host.Outcome State Fault Refusal := .next (resendFlight s n [1, 2, 3, 4])

/-- A refused watch message of a slot is sent again every 256 cycles (R175, R219, R343). -/
def execWatchResend (core slot : Nat) (s : State) : Host.Outcome State Fault Refusal :=
  match tfind s.watches (core * 64 + slot) with
  | some w => match w.fired with
    | some m => if w.sent || decide (s.cycle < w.after) then .next s
      else .next (sendPacket { s with watches := tput s.watches (core * 64 + slot) { w with sent := true } } (.message m))
    | none => .next s
  | none => .next s

/-! ### Acknowledgements (R343, R382) -/

/-- A refusal queued at its context; one that is waiting wakes in order to take the trap. -/
def queueRefusal (s : State) (k : Nat) (t : TrapRec) : State :=
  let s := modCtx s k (fun c => { c with deferred := c.deferred ++ [(s.cycle, t)] })
  let c := getCtx s k
  match c.act with
  | .waiting .seat => s
  | .waiting .migrate => s
  | .waiting _ => if stTrap c.st then s else makeRunnable s k 64 true
  | _ => s

/-- An acknowledgement reaches its context (R341, R343, R167). -/
def applyAck (s : State) (k : Nat) (gen : BitVec 8) (dec : Bool) (t : Option TrapRec) : State :=
  let c := getCtx s k
  if stGen c.st ≠ gen then discard s k
  else
    let s := if dec then modCtx s k (fun c => { c with unacked := c.unacked - 1 }) else s
    let s := match (getCtx s k).act with
      | .waiting .acks => if dec then makeRunnable s k 64 true else s
      | _ => s
    match t with
    | none => s
    | some t => queueRefusal s k t

/-- A refused load of a register: the refusal is queued, and the register becomes full with its old value, in one step; a
stale one is counted once (R44, R167). -/
def applyRefusal (s : State) (r : Reply) (t : Option TrapRec) : State :=
  if stGen (getCtx s r.ctx).st ≠ r.gen then discard s r.ctx
  else applyRefill (applyAck s r.ctx r.gen false t) r

/-! ### Sending (R340, R341) -/

/-- A port name that an instruction may send to (R171, R341): no reserved bit, and a core of this node lies in the
sender's Rind. -/
def nameBad (s : State) (c : Ctx) (name : Nat) : Bool :=
  decide (2 ^ 29 ≤ name) || (nameNode name == s.node && coreRind s (nameCore name) != some (stRind c.st))

/-- A message put on its way, and the send counted (R341). -/
def sendMessage (s : State) (k : Nat) (m : BitVec 512) (acq rel : Bool) (scope : Nat) : State × Done :=
  let c := getCtx s k
  let o : Ord := { sendOrd acq rel with scope := scope }
  if msgDk m = 0 ∧ nameNode (msgDst m) ≠ s.node then
    if mustWait s k o then (s, .hold)
    else
      let s := modCtx s k (fun c => { c with unacked := c.unacked + 1 })
      let f : Flight := { owner := some (k, stGen c.st), ord := o, body := .message m, launch := c.launch }
      (sendFabric s (fun t => fabHeader s (nameNode (msgDst m)) (stRind c.st) 4 8 0 (ordsc o) t 0 0) (m.setWidth 640) (some f) (stRind c.st) c.launch, .next)
  else
    (launchPacket (modCtx s k (fun c => { c with unacked := c.unacked + 1 })) (some (k, stGen c.st)) o (.message m), .next)

/-- The last checks of R341 and the send: the name, the four unacknowledged sends, the header. h holds dst, rpt and
rv; fmt, dk and kind are the message's. -/
def sendChecked (s : State) (dst rpt : Nat) (rv : Bool) (fmt dk kind : Nat) (payload : BitVec 384) (o sc : BitVec 2) :
    State × Done :=
  let k := s.me
  let c := getCtx s k
  if nameBad s c dst then (s, .trap (simpleTrap 0x0B (BitVec.ofNat 64 dst)))
  else if 4 ≤ c.unacked then (parkAt s k .acks, .moved)
  else
    let h := mkHeader dst rpt dk (stRind c.st) rv fmt (coreField (ctxCore k)) kind 0 (stCtx c.st)
    sendMessage s k (mkMessage h (convSend fmt payload)) (ordAcq o) (ordRel o) sc.toNat

/-- The payload of six g registers from b on. -/
def payloadG (c : Ctx) (b : BitVec 5) : BitVec 384 :=
  BitVec.ofNat 384 (packElems 64 ((List.range 6).map (fun i => (c.readG (b.toNat + i)).toNat)))

/-- The registers g[b] to g[b + 5]. -/
def sixRegs (b : BitVec 5) : List Nat := (List.range 6).map (fun i => b.toNat + i)

/-- SEND and SENDV after the register test. -/
def sendHeader (a : BitVec 5) (f : BitVec 3) (sc o : BitVec 2) (payload : Ctx → BitVec 384) (s : State) (c : Ctx) :
    State × Done :=
  let h := c.readG a.toNat
  if f ≠ 0 ∧ !stSys c.st then (s, .trap (simpleTrap 0x05 0))
  else if fldN h 61 2 ≠ 0 then (s, .trap (simpleTrap 0x0B h))
  else sendChecked s (fldN h 0 32) (fldN h 32 29) (bitAt h 63) f.toNat 0 0 (payload c) o sc

def execSend (a b : BitVec 5) (f : BitVec 3) (sc o : BitVec 2) (s : State) : Host.Outcome State Fault Refusal :=
  issue s { reads := gr a :: sixRegs b } (sendHeader a f sc o (fun c => payloadG c b))

def execSendv (a b : BitVec 5) (f : BitVec 3) (sc o : BitVec 2) (s : State) : Host.Outcome State Fault Refusal :=
  issue s { reads := [gr a, vr b] } (sendHeader a f sc o (fun c => (c.readV b.toNat).setWidth 384))

def execReply (a b : BitVec 5) (f : BitVec 3) (sc o : BitVec 2) (s : State) : Host.Outcome State Fault Refusal :=
  issue s { reads := gr a :: sixRegs b } (fun s c =>
    if f ≠ 0 ∧ !stSys c.st then (s, .trap (simpleTrap 0x05 0))
    else withBlock s (c.readG a.toNat) (fun s m =>
      if !bitAt m 55 then (s, .trap (simpleTrap 0x0B (c.readG a.toNat)))
      else sendChecked s (fldN m 64 32) (fldN m 64 32) false f.toNat 0 0 (payloadG c b) o sc))

/-- The reserved bit of a message header is set (R328). -/
def headerReserved (m : BitVec 512) : Bool := bitAt m 40

/-- PMSG (R341). -/
def execPmsg (a : BitVec 5) (sc o : BitVec 2) (s : State) : Host.Outcome State Fault Refusal :=
  issue s { reads := [gr a] } (fun s c =>
    let ea := c.readG a.toNat
    withBlock s ea (fun s m =>
      let sys := stSys c.st
      if (msgDk m ≠ 0 ∧ !(msgDk m = 5 ∧ sys)) ∨ headerReserved m then (s, .trap (simpleTrap 0x0B ea))
      else if !sys ∧ msgFmt m ≠ 0 then (s, .trap (simpleTrap 0x0B ea))
      else sendChecked s (msgDst m) (fldN m 64 32) (bitAt m 55) (msgFmt m) (msgDk m) (if sys then msgKind m else 0)
        (msgPayload m) o sc))

/-! ### Ports and patterns (R345 to R348) -/

/-- The port holds nothing. -/
def portEmpty (q : Port) : Bool := q.queue.isEmpty && q.count == 0

/-- The launch that owns a port: none once it is disabled and empty (R346). -/
def portOwner (q : Port) : Option Nat := if !q.en && portEmpty q then none else q.owner

/-- An owner that is another launch (R335, R346, R347): what no launch owns is open to every launch. -/
def otherLaunch (owner launch : Option Nat) : Bool := owner.isSome && owner != launch

/-- Whether a valid pattern of the core references a port. -/
def portReferenced (s : State) (cn p : Nat) : Bool :=
  (List.range 32).any (fun i => match tfind s.patterns (cn * 32 + i) with
    | some x => x.refs.any (fun r => r.1 == p)
    | none => false)

/-- PCFG's status and effect (R346). The order of the checks is the model's choice: 3, 1, 2 (log 18). -/
def configPort (s : State) (cn : Nat) (launch : Option Nat) (sys : Bool) (w : Dword) : State × Dword :=
  let p := fldN w 0 6
  let q := getPort s cn p
  let en := bitAt w 63
  let cnt := bitAt w 62
  let cap := fldN w 40 8
  if fldN w 48 14 ≠ 0 ∨ fldN w 6 34 ≠ 0 ∨ (en ∧ !cnt ∧ cap = 0) then (s, 3)
  else if !sys ∧ (p = 63 ∨ otherLaunch (portOwner q) launch) then (s, 1)
  else if cnt ≠ q.count? ∧ (!portEmpty q ∨ portReferenced s cn p) then (s, 2)
  else
    (setPort s cn p { q with
      en := en, count? := cnt, cap := if cnt then q.cap else cap,
      owner := if !q.en && portEmpty q then launch else q.owner }, 0)

/-- PCFG: a store to its port, performed when it completes (R345, R356). -/
def execPcfg (d a : BitVec 5) (s : State) : Host.Outcome State Fault Refusal :=
  issue s { reads := [gr a], writes := [gr d] } (fun s c =>
    let k := s.me
    if mustWait s k (sendOrd false false) then (s, .hold)
    else
      let (s, v) := configPort s (ctxCore k) c.launch (stSys c.st) (c.readG a.toNat)
      (modCtx s k (fun c => c.writeG d.toNat v), .next))

/-- The references of a pattern block, in order, up to the first unused one (R334). -/
def blockRefs (b : BitVec 256) : List (Nat × Nat) :=
  ((List.range 4).map (fun i => fld b (32 * i) 32)).filterMap (fun r =>
    if bitAt r 31 then some (fldN r 16 6, fldN r 0 16) else none)

/-- Whether a pattern block is malformed for a launch on a core (R335). Port 63 belongs to the launcher on every core
(R358). -/
def blockBad (s : State) (cn : Nat) (launch : Option Nat) (b : BitVec 256) : Bool :=
  let vs := (List.range 4).map (fun i => bitAt b (32 * i + 31))
  let refs := blockRefs b
  let queued := refs.filter (fun r => !(getPort s cn r.1).count?)
  let gap := (List.range 3).any (fun i => !vs.getD i false && vs.getD (i + 1) false)
  let cmask := fldN b 176 16
  !vs.getD 0 false || gap
    || decide ((refs.map (fun r => r.1)).eraseDups.length < refs.length)
    || refs.any (fun r => r.2 == 0) || queued.any (fun r => decide (8 < r.2))
    || decide (8 < queued.foldl (fun (n : Nat) (r : Nat × Nat) => n + r.2) 0)
    || refs.any (fun r => let q := getPort s cn r.1; !q.en || r.1 == 63 || otherLaunch (portOwner q) launch)
    || cmask == 0
    || (bitsOf cmask 16).any (fun i => launch.isNone || (getCtx s (ctxKey cn i)).launch != launch)
    || fldN b 192 2 != 0

/-- What R132 consults of a PBIND or PUNBIND: a store to its pattern, told from every byte of memory (R356). -/
def patternOrd (cn : Nat) (index : Dword) : Ord :=
  let lo := 2 ^ 64 + 2 ^ 40 + 32 * cn + fldN index 0 5
  { sendOrd false false with lo := lo, hi := lo + 1 }

/-- PBIND's status and effect on a block that has been read (R347). -/
def bindPattern (s : State) (cn : Nat) (launch : Option Nat) (sys : Bool) (index : Dword) (b : BitVec 256) : State × Dword :=
  let i := fldN index 0 5
  let old := tfind s.patterns (cn * 32 + i)
  if fldN index 5 59 ≠ 0 then (s, 3)
  else if i = 31 ∧ !sys then (s, 1)
  else if blockBad s cn launch b then (s, 3)
  else if (match old with | some p => otherLaunch p.owner launch | none => false) then (s, 1)
  else
    let p : Pattern := { refs := blockRefs b, handler := fld b 192 64, cmask := fldN b 176 16, prio := fldN b 168 3,
                         owner := launch }
    ({ s with patterns := tput s.patterns (cn * 32 + i) p }, 0)

/-- PBIND: the block is read at issue, and the pattern is bound as the status is filled (R345, R347, R356). -/
def execPbind (d a b : BitVec 5) (s : State) : Host.Outcome State Fault Refusal :=
  issue s { reads := [gr a, gr b], writes := [gr d] } (fun s c =>
    withBlock32 s (c.readG a.toNat) (fun s blk =>
      let k := s.me
      let p : Packet := .bind (ctxCore k) c.launch (stSys c.st) (c.readG b.toNat) blk (replyOf s k d.toNat)
      let s := launchPacket s (some (k, stGen c.st)) (patternOrd (ctxCore k) (c.readG b.toNat)) p
      (modCtx s k (fun c => c.setEmpty d.toNat true), .next)))

/-- PUNBIND (R345, R347, R356). -/
def execPunbind (d a : BitVec 5) (s : State) : Host.Outcome State Fault Refusal :=
  issue s { reads := [gr a], writes := [gr d] } (fun s c =>
    let k := s.me
    let g := c.readG a.toNat
    if mustWait s k (patternOrd (ctxCore k) g) then (s, .hold) else
    let key := ctxCore k * 32 + fldN g 0 5
    let (s, v) : State × Dword :=
      if fldN g 5 59 ≠ 0 then (s, 3)
      else if fldN g 0 5 = 31 ∧ !stSys c.st then (s, 1)
      else if (match tfind s.patterns key with | some p => otherLaunch p.owner c.launch | none => false) then (s, 1)
      else ({ s with patterns := tdel s.patterns key }, 0)
    (modCtx s k (fun c => c.writeG d.toNat v), .next))

/-- The state word of a port (R348). -/
def portWord (q : Port) : Dword :=
  bit64 q.en 63 ||| bit64 q.count? 62 ||| at64 (q.queue.headD 0 % 256) 48 ||| at64 (q.queue.length % 256) 40
    ||| at64 (if q.count? then q.count % 65536 else 0) 0

def execPpeek (d a : BitVec 5) (s : State) : Host.Outcome State Fault Refusal :=
  issue s { reads := [gr a], writes := [gr d] } (fun s c =>
    (setCtx s s.me (c.writeG d.toNat (portWord (getPort s (ctxCore s.me) (fldN (c.readG a.toNat) 0 6)))), .next))

end Sys2Proof.Machine
end

