-- ==== Sys2Proof/Machine/Ctr.lean ====
section
/-!
DEFINITION. Mailbox counters and watches (R169 to R175), and the completion bitmap forms of SSTAT (R218, R219).
-/

namespace Sys2Proof.Machine

/-! ### Counter names (R169) -/

/-- The node, the core and the index that a counter name names. -/
def ctrNode (n : Dword) : Nat := fldN n 48 12
def ctrCore (n : Dword) : Nat := coreOfField (fldN n 37 11)
def ctrIndex (n : Dword) : Nat := fldN n 0 8

/-- v = 0 or a reserved bit is set. -/
def ctrMalformed (n : Dword) : Bool := !bitAt n 63 || fldN n 60 3 != 0 || fldN n 8 29 != 0

/-- A name that a Rind may not use (R173): malformed, or a core of this node outside the Rind. -/
def ctrBad (s : State) (rind : Nat) (n : Dword) : Bool :=
  ctrMalformed n || (ctrNode n == s.node && coreRind s (ctrCore n) != some rind)

/-- What R132 consults of a counter access: an RC access to a place of the counter's own (R136, R174). -/
def ctrOrd (n : Dword) (ld : Bool) (o sc : BitVec 2) : Ord :=
  let place := 2 ^ 60 + n.toNat % 2 ^ 60
  { okind := 2, ld := ld, st := !ld, acq := ordAcq o, rel := ordRel o, lo := place, hi := place + 1, scope := sc.toNat }

/-- The counter has reached a target (R170). -/
def reached (v t : Word) : Bool := decide ((v - t).toNat < 2 ^ 31)

/-! ### Watches (R175) -/

/-- The watch message of a counter. -/
def watchMessage (rind core : Nat) (port : Word) (name : Dword) (t v : Word) : BitVec 512 :=
  mkMessage (mkHeader port.toNat 0 0 rind false 0 (coreField core) 1 0 0xFF)
    (BitVec.ofNat 384 (name.toNat + t.toNat * 2 ^ 64 + v.toNat * 2 ^ 96))

/-- A free watch slot of a core: its key. -/
def freeWatch (s : State) (core : Nat) : Option Nat :=
  ((List.range 64).find? (fun i => (tfind s.watches (core * 64 + i)).isNone)).map (fun i => core * 64 + i)

/-- An update of a counter: the armed watches that it satisfies fire (R173, R175). -/
def updateCounter (s : State) (core i : Nat) (addend : Word) : State :=
  let v := getCounter s core i + addend
  let s := setCounter s core i v
  (s.watches.filter (fun e => e.1 / 64 == core && e.2.bitmap.isNone && e.2.counter == i && e.2.fired.isNone
      && reached v e.2.target)).foldl (fun s e =>
    let m := watchMessage e.2.rind core e.2.port e.2.name e.2.target v
    sendPacket { s with watches := tput s.watches e.1 { e.2 with fired := some m, sent := true } } (.message m)) s

/-- A watch request at the counter's core (R175): the status. -/
def watchAt (s : State) (rind : Nat) (name arg : Dword) : State × Nat :=
  let core := ctrCore name
  let v := getCounter s core (ctrIndex name)
  let t : Word := fld arg 0 32
  let port : Word := fld arg 32 32
  if reached v t then (sendPacket s (.resend (watchMessage rind core port name t v) 0), 1)
  else match freeWatch s core with
    | none => (s, 2)
    | some key =>
      let w : Watch := { bitmap := none, counter := ctrIndex name, target := t, name := name, port := port, rind := rind,
                         fired := none, sent := false }
      ({ s with watches := tput s.watches key w }, 0)

/-- A bitmap watch request at the dword's home (R219): the status. A host line's home is no core and has no watch
slots. -/
def bitmapWatchAt (s : State) (rind home : Nat) (pa : Nat) (va mask : Dword) (port : Word) : State × Nat :=
  let d := dwordAt s home pa
  if d &&& mask = mask then (sendPacket s (.resend (bitmapMessage rind home port va mask d) 0), 1)
  else match (if windowOf pa = .host then none else freeWatch s home) with
    | none => (s, 2)
    | some key =>
      let w : Watch := { bitmap := some (pa, va, mask), counter := 0, target := 0, name := 0, port := port, rind := rind,
                         fired := none, sent := false }
      ({ s with watches := tput s.watches key w }, 0)

/-! ### CTR (R172 to R175) -/

/-- CINC and CADD: the post of an addend (R173). -/
def postBody (name : Dword) (addend : Word) (o sc : BitVec 2) (s : State) (c : Ctx) : State × Done :=
  let k := s.me
  let ord := ctrOrd name false o sc
  let f : Flight := { owner := some (k, stGen c.st), ord := ord.issued s, body := .post name addend (stRind c.st), launch := c.launch }
  if ctrBad s (stRind c.st) name then (s, .trap (simpleTrap 0x0C name))
  else ({ s with net := s.net ++ [f] }, .next)

def execCinc (a : BitVec 5) (sc o : BitVec 2) (s : State) : Host.Outcome State Fault Refusal :=
  issue s { reads := [gr a] } (fun s c => postBody (c.readG a.toNat) 1 o sc s c)

def execCadd (a b : BitVec 5) (sc o : BitVec 2) (s : State) : Host.Outcome State Fault Refusal :=
  issue s { reads := [gr a, gr b] } (fun s c => postBody (c.readG a.toNat) (fld (c.readG b.toNat) 0 32) o sc s c)

/-- CRDC (R174). -/
def execCrdc (d a : BitVec 5) (sc o : BitVec 2) (s : State) : Host.Outcome State Fault Refusal :=
  issue s { reads := [gr a], writes := [gr d] } (fun s c =>
    let k := s.me
    let name := c.readG a.toNat
    let ord := ctrOrd name true o sc
    let f : Flight :=
      { owner := some (k, stGen c.st), ord := ord.issued s, body := .counterRead name (stRind c.st) (replyOf s k d.toNat),
        launch := c.launch }
    let empty := fun (s : State) => modCtx s k (fun c => c.setEmpty d.toNat true)
    if ctrBad s (stRind c.st) name then (s, .trap (simpleTrap 0x0C name))
    else if ctrNode name = s.node then
      if ctrCore name = ctxCore k then
        if mustWait s k ord then (s, .hold)
        else (modCtx s k (fun c => c.writeG d.toNat (zx (getCounter s (ctrCore name) (ctrIndex name)))), .next)
      else ({ empty s with net := s.net ++ [f] }, .next)
    else if mustWait s k ord then (s, .hold)
    else (sendFabric (empty s) (fun t => fabHeader s (ctrNode name) (stRind c.st) 1 6 2 (ordsc ord) t 0 0)
      (BitVec.ofNat 640 name.toNat) (some f) (stRind c.st) c.launch, .next))

/-- CWATCH (R175). -/
def execCwatch (d a b : BitVec 5) (s : State) : Host.Outcome State Fault Refusal :=
  issue s { reads := [gr a, gr b], writes := [gr d] } (fun s c =>
    let k := s.me
    let name := c.readG a.toNat
    let arg := c.readG b.toNat
    let p : Packet := .watch name arg (stRind c.st) (replyOf s k d.toNat)
    if ctrBad s (stRind c.st) name then (s, .trap (simpleTrap 0x0C name))
    else if fldN arg 61 3 ≠ 0 then (s, .trap (simpleTrap 0x0B (zx (fld arg 32 32))))
    else
      let s := modCtx s k (fun c => c.setEmpty d.toNat true)
      if ctrNode name = s.node then (launchPacket s (some (k, stGen c.st)) (sendOrd false false) p, .next)
      else
        let f : Flight := { owner := some (k, stGen c.st), ord := sendOrd false false, body := p, launch := c.launch }
        (sendFabric s (fun t => fabHeader s (ctrNode name) (stRind c.st) 2 13 3 0 t 0 0)
          (BitVec.ofNat 640 (name.toNat + arg.toNat * 2 ^ 64)) (some f) (stRind c.st) c.launch, .next))

/-! ### SSTAT on a completion bitmap -/

/-- SSTAT, bitmap test (R218). -/
def execSstatBt (d a b : BitVec 5) (sc : BitVec 2) (s : State) : Host.Outcome State Fault Refusal :=
  issue s { reads := [gr a, gr b], writes := [gr d] } (fun s c => accessBody s
    { op := .load, n := 8, ea := c.readG a.toNat, dest := .bits d.toNat (c.readG b.toNat), size := 3, acq := true,
      scope := sc.toNat })

/-- SSTAT, bitmap watch (R219). -/
def execSstatBw (d a b : BitVec 5) (s : State) : Host.Outcome State Fault Refusal :=
  issue s { reads := [gr a, gr b, gr d], writes := [gr d] } (fun s c =>
    let k := s.me
    let va := c.readG a.toNat
    let mask := c.readG b.toNat
    let port : Word := fld (c.readG d.toNat) 0 32
    if va.toNat % 8 ≠ 0 then (s, .trap (simpleTrap 0x02 va))
    else match translate s (ctxReq s k) va .load with
      | (s, .error n) => (s, (noXl .load va n).done)
      | (s, .ok x) =>
        if fldN port 29 3 ≠ 0 then (s, .trap (simpleTrap 0x0B (zx port)))
        else
          let p : Packet := .bitmap (paLocal x.pa) va mask port x.home (stRind c.st) (replyOf s k d.toNat) s.tick
          let s := modCtx (touchLeaf s (ctxReq s k) x .load) k (fun c => c.setEmpty d.toNat true)
          if isLocal s x.pa then (launchPacket s (some (k, stGen c.st)) (sendOrd false false) p, .next)
          else
            let f : Flight := { owner := some (k, stGen c.st), ord := sendOrd false false, body := p, launch := c.launch }
            (sendFabric s (fun t => fabHeader s (paNode x.pa) (stRind c.st) 2 13 3 0 t 0 0)
              (BitVec.ofNat 640 (x.pa + mask.toNat * 2 ^ 64 + 2 ^ 128 + port.toNat * 2 ^ 160)) (some f) (stRind c.st)
              c.launch, .next))

/-! ### The events at the counter's core -/

/-- A request of another node whose counter name or scratchpad this node does not admit: a refusal, counted at the core that
it names (R167, R168, R173). -/
def refuseFabric (s : State) (q : FabricPacket) (core : Nat) : State :=
  fabAnswer (modCore s core (fun c => { c with nack := c.nack + 1 })) q 5 2 0 0

/-- A post whose turn has come is applied, or leaves for another node (R173, R414). One of an engine awaits no answer. -/
def performPost (s : State) (f : Flight) (name : Dword) (addend : Word) (rind : Nat) : State :=
  if ctrNode name = s.node then updateCounter s (ctrCore name) (ctrIndex name) addend
  else sendFabric s (fun t => fabHeader s (ctrNode name) rind 1 11 0 (ordsc f.ord) t 0 0)
    (BitVec.ofNat 640 (name.toNat + addend.toNat * 2 ^ 64)) (if f.owner.isSome then some f else none) rind f.launch

/-- A counter increment is applied (R173). -/
def execCounterPost (src : PacketRef) (s : State) : Host.Outcome State Fault Refusal :=
  match src with
  | .net n =>
    match s.net[n]? with
    | some f => match f.body with
      | .post name addend rind =>
        if mayPerform s n f && inSeries s n f then .next (performPost { s with net := dropNth s.net n } f name addend rind)
        else .next s
      | .counterRead name _ r =>
        if mayPerform s n f then
          .next (sendFillD { s with net := dropNth s.net n } r (zx (getCounter s (ctrCore name) (ctrIndex name))))
        else .next s
      | _ => .next s
    | none => .next s
  | .fabric q =>
    let name : Dword := q.body.setWidth 64
    let ok := !ctrMalformed name && ctrNode name == s.node &&
      (match coreRind s (ctrCore name) with | some r => peerOk s r q | none => false)
    if fabOp q ≠ 11 ∧ fabOp q ≠ 6 then .next s
    else if !fabFits q 1 (fabBits (if fabOp q = 11 then 96 else 64)) then .next (fabAnswer s q 5 2 0 0)
    else if !ok then .next (refuseFabric s q (ctrCore name))
    else if fabOp q = 11 then
      .next (fabAnswer (updateCounter s (ctrCore name) (ctrIndex name) (fld q.body 64 32)) q 4 0 0 0)
    else .next (fabAnswer s q 3 0 1 ((getCounter s (ctrCore name) (ctrIndex name)).setWidth 640))

/-- A watch request reaches the counter's core (R175). -/
def execWatchRequest (src : PacketRef) (s : State) : Host.Outcome State Fault Refusal :=
  match src with
  | .net n =>
    match s.net[n]? with
    | some f => match f.body with
      | .watch name arg rind r =>
        let (s, v) := watchAt { s with net := dropNth s.net n } rind name arg
        .next (sendFillD s r (BitVec.ofNat 64 v))
      | _ => .next s
    | none => .next s
  | .fabric q =>
    if fabOp q ≠ 13 ∨ fldN q.body 128 8 = 1 then .next s
    else
      let name : Dword := q.body.setWidth 64
      if !fabFits q 2 (fabBits 128) then .next (fabAnswer s q 5 2 0 0)
      else match coreRind s (ctrCore name) with
        | none => .next (refuseFabric s q (ctrCore name))
        | some r =>
          if !ctrMalformed name ∧ ctrNode name = s.node ∧ peerOk s r q then
            let (s, v) := watchAt s r name (fld q.body 64 64)
            .next (fabAnswer s q 14 0 1 (BitVec.ofNat 640 v))
          else .next (refuseFabric s q (ctrCore name))

/-- The core that stands for the home of a physical address that comes without a leaf (log 67): one of the cluster whose L2
holds the line, or core 0 of the die whose slice performs the access; the owner of a scratchpad. -/
def leaflessHome (s : State) (a : Nat) : Nat :=
  if windowOf a = .scratch then scratchCore a
  else
    let p := pathOf s a
    match p.cl with
    | some cl => 8 * cl
    | none => 512 * p.die

/-- A dword read at a home for a watch (R219): none when it cannot be corrected (R120). -/
def watchRead (s : State) (home a : Nat) (launch : Option Nat) : State × Option Vec :=
  homeRead s home a 8 (caveHolds a && colBit s (clusterDie (coreCluster home)) a) { nalloc := true, launch := launch }

/-- A window of the scratchpad that holds a dword does not admit its reading by a core, or by another node (R165). -/
def watchRefused (s : State) (reader : Option Nat) (a : Nat) : Bool :=
  windowOf a == .scratch && reader != some (scratchCore a) && !windowAdmits s (scratchCore a) (a % 2 ^ 18) 8 false

/-- The refusal of a bitmap watch (R167, R381): a load of the dword into g[d]. -/
def refusedWatch (va : Dword) (r : Reply) : TrapRec :=
  { code := 0x31, eaddr := va, info := BitVec.ofNat 64 (8 * 2 ^ 24 + r.reg * 2 ^ 16 + 3 * 2 ^ 8 + 2), frame := [] }

/-- A bitmap watch request reaches the dword's home (R219). An uncorrectable dword is an error of the register
(R120). -/
def execBitmapWatchRequest (src : PacketRef) (s : State) : Host.Outcome State Fault Refusal :=
  match src with
  | .net n =>
    match s.net[n]? with
    | some f => match f.body with
      | .bitmap pa va mask port home rind r _ =>
        let s := { s with net := dropNth s.net n }
        if watchRefused s (some (ctxCore r.ctx)) pa then .next (refuseFlight (countNack s pa) f r (refusedWatch va r))
        else match watchRead s home pa f.launch with
          | (s, none) => .next (sendPacket s (.error r (accessTrap 0x0E .load va)))
          | (s, some _) =>
            let (s, v) := bitmapWatchAt s rind home pa va mask port
            .next (sendFillD s r (BitVec.ofNat 64 v))
      | _ => .next s
    | none => .next s
  | .fabric q =>
    if fabOp q ≠ 13 ∨ fldN q.body 128 8 ≠ 1 then .next s
    else
      let pa := fldN q.body 0 64
      let la := paLocal pa
      if !fabFits q 2 (fabBits 136 ||| fabBits 32 <<< 160) ∨ pa % 8 ≠ 0 then .next (fabAnswer s q 5 2 0 0)
      else match (if pa < 2 ^ 57 then addrRind s la else none) with
      | none => .next (fabAnswer s q 5 1 0 0)
      | some r =>
        if !peerOk s r q then .next (fabAnswer s q 5 2 0 0)
        else if isHole s r la then .next (fabAnswer s q 5 1 0 0)
        else if watchRefused s none la then .next (refuseFabric s q (scratchCore la))
        else match watchRead s (leaflessHome s la) la none with
          | (s, none) => .next (fabAnswer s q 5 4 0 0)
          | (s, some _) =>
            let (s, v) := bitmapWatchAt s r (leaflessHome s la) la (BitVec.ofNat 64 pa) (fld q.body 64 64) (fld q.body 160 32)
            .next (fabAnswer s q 14 0 1 (BitVec.ofNat 640 v))

end Sys2Proof.Machine
end

