-- ==== Sys2Proof/Machine/CtxOps.lean ====
section
/-!
DEFINITION. The context instructions (R254, R349 to R355), and the events that move contexts: arrival, migration,
seating, selection, pre-emption (R117, R370, R371, R385, R386).
-/

namespace Sys2Proof.Machine

/-- PARK in its simple form (R254). -/
def execPark (s : State) : Host.Outcome State Fault Refusal :=
  issue s {} (fun s _ =>
    (leaveSlot (modCtx s s.me (fun c => { nextPc c c.pc with hint := none, walked := [], asks := [], trail := { c.trail with moves := 0 } })) s.me (.waiting .park), .moved))

/-- EXIT (R254, R349). -/
def execExit (s : State) : Host.Outcome State Fault Refusal :=
  issue s {} (fun s _ => (endCtx s s.me 1 0, .moved))

/-- The running context becomes runnable again, at the next word or where it stands (R350, R387). -/
def yieldCtx (s : State) (k : Nat) : State := makeRunnable (leaveSlot s k .runnable) k 64 true

/-- YIELD (R350). -/
def execYield (s : State) : Host.Outcome State Fault Refusal :=
  issue s {} (fun s _ =>
    (yieldCtx (modCtx s s.me (fun c => { nextPc c c.pc with hint := none, walked := [], asks := [], trail := { c.trail with moves := 0 } })) s.me, .moved))

/-! ### SPAWN and SPAWNR (R351) -/

/-- The lowest dormant seated context that a launch claims on a core. -/
def dormantOf (s : State) (cn : Nat) (launch : Option Nat) : Option Nat :=
  if launch.isNone then none else dormantIn s cn 0xFFFF launch

/-- st of a context that SPAWN or SPAWNR starts: the issuer's Rind, class, live and dem; roam as given. -/
def spawnSt (issuer old : Dword) (roam : Bool) : Dword :=
  let st := putFld (putFld old 56 4 (fld issuer 56 4)) 5 3 (fld issuer 5 3)
  let st := stBit (stBit st 3 (stLive issuer)) 4 (stDem issuer)
  stBit (stBit (stBit st 0 false) 1 false) 2 roam

/-- The registers g[b] to g[b + n − 1]. -/
def runRegs (b : BitVec 5) (n : Nat) : List Nat := (List.range n).map (fun i => b.toNat + i)

/-- SPAWN: a send for R132, performed at issue. -/
def execSpawn (d a b : BitVec 5) (s : State) : Host.Outcome State Fault Refusal :=
  issue s { reads := gr a :: runRegs b 5, writes := [gr d] } (fun s c =>
    let k := s.me
    let pc := c.readG a.toNat
    if fldN pc 0 2 ≠ 0 then (s, .trap (simpleTrap 0x01 pc))
    else if mustWait s k (sendOrd false false) then (s, .hold)
    else match dormantOf s (ctxCore k) c.launch with
      | none => (answer s k d 1, .next)
      | some i =>
        let t := ctxKey (ctxCore k) i
        let s := modCtx s t (fun x =>
          let y := startHandler x pc 0 (payloadG c b) false []
          { y with st := spawnSt c.st y.st false })
        let s := makeRunnable (freshRegs s t (fun r => decide (1 ≤ r) && decide (r ≤ 6))) t 64 true
        (answer s k d (at64 i 8), .next))

/-- The core that SPAWNR places its packet at (R351, R391), as homeKey numbers it. -/
inductive SpawnAt where
  | stop (x : Stop)
  | core (dest : Nat)
deriving DecidableEq, Repr

/-- The destination of a SPAWNR. -/
def spawnTarget (s : State) (k : Nat) (h : Bool) (va : Dword) : State × SpawnAt :=
  let here := s.node * 2048 + ctxCore k
  if !h then (s, .core here)
  else match translate s (ctxReq s k) va .load with
    | (s, .error n) => (s, .stop (noXl .load va n))
    | (s, .ok x) =>
      let s := touchLeaf s (ctxReq s k) x .load
      if x.pkind = 4 ∨ (isLocal s x.pa && (getCore s x.home).off) = true then (s, .core here)
      else (s, .core (homeKey x.pa x.home))

/-- An arrival packet (R330, R414): to a core of this package, or over the fabric with its header, the launch's ASID and
the eight words. -/
def sendArrival (s : State) (owner : Option (Nat × BitVec 8)) (src sctx dest l : Nat) (words : List Dword) (trail : Trail)
    (reply : Option Reply) : State :=
  let f : Flight := { owner := owner, ord := (sendOrd false false).issued s, body := .arrival (dest % 2048) src l words trail reply, launch := some l }
  if dest / 2048 = s.node then { s with net := s.net ++ [f] }
  else
    let rind := stRind (words.getD 1 0)
    let name := dest / 2048 * 2 ^ 17 + coreField (dest % 2048) * 64
    let h := mkHeader (name % 2 ^ 32) 0 4 rind false 0 (coreField src) 0 (fldN (getRec s src l).asid 0 16) sctx
    sendFabric s (fun t => fabHeader s (dest / 2048) rind 5 10 0 0 t 0 0)
      (BitVec.ofNat 640 (h.toNat + 2 ^ 128 * packElems 64 (words.map BitVec.toNat))) (some f) rind (some l)

/-- SPAWNR. -/
def execSpawnr (d a b : BitVec 5) (h : BitVec 1) (s : State) : Host.Outcome State Fault Refusal :=
  issue s { reads := gr a :: runRegs b 6, writes := [gr d] } (fun s c =>
    let k := s.me
    let pc := c.readG a.toNat
    let l := c.launch.getD 0
    let live := match getLaunch s l with
      | some x => x.roaming
      | none => 0
    if fldN pc 0 2 ≠ 0 then (s, .trap (simpleTrap 0x01 pc))
    else if 65536 ≤ live then (answer s k d 1, .next)
    else
      let words := [pc, spawnSt c.st 0 true] ++ (runRegs b 6).map c.readG
      let reply := replyOf s k d.toNat
      match spawnTarget s k (h == 1) (c.readG b.toNat) with
      | (s, .stop x) => (s, x.done)
      | (s, .core dest) =>
        if dest / 2048 ≠ s.node ∧ mustWait s k (sendOrd false false) = true then (s, .hold)
        else
          let s := modLaunch (modCtx s k (fun c => c.setEmpty d.toNat true)) l (fun x => { x with roaming := x.roaming + 1 })
          (sendArrival s (some (k, stGen c.st)) (ctxCore k) (stCtx c.st) dest l words {} (some reply), .next))

/-! ### MIGR, Hoops and KILL -/

/-- MIGR (R352). -/
def execMigr (a : BitVec 5) (s : State) : Host.Outcome State Fault Refusal :=
  issue s { reads := [gr a] } (fun s c =>
    let k := s.me
    let va := c.readG a.toNat
    match translate s (ctxReq s k) va .load with
    | (s, .error n) => (s, (noXl .load va n).done)
    | (s, .ok x) =>
      let s := touchLeaf s (ctxReq s k) x .load
      if stRoam c.st && x.pkind != 4 && homeKey x.pa x.home != s.node * 2048 + ctxCore k then
        startMigration s k (homeKey x.pa x.home) true
      else (s, .next))

/-- A Hoop instruction on a block: an atomic at the home of its first dword (R353). -/
def hoopBody (s : State) (d : BitVec 5) (op : AccOp) (ea : Dword) : State × Done :=
  if fldN ea 0 6 ≠ 0 then (s, .trap (simpleTrap 0x02 ea))
  else doAccess s s.me { op := op, n := 8, ea := ea, dest := .g d.toNat false, size := 3 }

/-- HOOPIN (R353). A roaming context takes context-class with the number of ctx.hoop. -/
def execHoopin (d a : BitVec 5) (s : State) : Host.Outcome State Fault Refusal :=
  issue s { reads := [gr a], writes := [gr d], ctl := some 0x242 } (fun s c => hoopBody s d .hoopIn (c.readG a.toNat))

/-- HOOPOUT (R353). -/
def execHoopout (d : BitVec 5) (s : State) : Host.Outcome State Fault Refusal :=
  issue s { writes := [gr d], ctl := some 0x242 } (fun s c =>
    if c.hoop = 0 then (answer s s.me d (BitVec.allOnes 64), .next) else hoopBody s d .hoopOut c.hoop)

/-- The context key that a context name names on this node (R331). -/
def nameCtx (n : Dword) : Nat := ctxKey (coreOfField (fldN n 29 11)) (fldN n 0 8)

/-- KILL's status for a name (R355); 0: the target ends. -/
def killStatus (s : State) (c : Ctx) (n : Dword) : Nat :=
  let t := nameCtx n
  let x := getCtx s t
  if fldN n 48 16 ≠ 0 ∨ fldN n 8 21 ≠ 0 then 3
  else if coreRind s (ctxCore t) ≠ some (stRind c.st) ∨ (!stSys c.st ∧ x.launch.isSome ∧ x.launch ≠ c.launch) then 2
  else if x.act = .dormant ∨ stGen x.st ≠ fld n 40 8 ∨ stCtx x.st ≠ fldN n 0 8 then 1
  else 0

/-- KILL (R355). -/
def execKill (d a : BitVec 5) (s : State) : Host.Outcome State Fault Refusal :=
  issue s { reads := [gr a], writes := [gr d] } (fun s c =>
    let k := s.me
    let n := c.readG a.toNat
    let v := killStatus s c n
    if v ≠ 0 then (answer s k d (BitVec.ofNat 64 v), .next)
    else
      let t := nameCtx n
      let s := answer s k d 0
      let s := endCtx s t 3 0
      if t = k then (s, .moved) else (s, .next))

/-! ### Arrival and migration -/

/-- An arrival packet reaches its core; the status of SPAWNR follows (R330, R351, R371). Neither R330 nor R414 gives the
packet a field for the moves of its instruction or for the predictor updates that it is owed: from another node it enters with
none, and the limit of two migrations starts afresh (log 84). -/
def execArrivalPacket (src : PacketRef) (s : State) : Host.Outcome State Fault Refusal :=
  match src with
  | .net n =>
    match s.net[n]? with
    | some f =>
      match f.body with
      | .arrival cn _ l words trail reply =>
        if !mayPerform s n f then .next s
        else
          let s := placeArrival { s with net := dropNth s.net n } cn l words trail
          .next (match reply with
            | some r => sendFillD s r 0
            | none => s)
      | _ => .next s
    | none => .next s
  | .fabric q =>
    if fabOp q ≠ 10 then .next s
    else
      let hdr : BitVec 128 := q.body.setWidth 128
      let cn := nameCore (fldN hdr 96 32)
      let rind := coreRind s cn
      let owner := s.launches.find? (fun e => some e.2.rind == rind && e.2.asid == fldN hdr 8 16)
      if fabLen q ≠ 5 ∨ !(match rind with | some r => peerOk s r q | none => false) then .next (fabAnswer s q 5 2 0 0)
      else match owner with
        | none => .next (fabAnswer s q 5 2 0 0)
        | some (l, _) =>
          let words := (List.range 8).map (fun i =>
            let x : Dword := fld q.body (128 + 64 * i) 64
            if i = 1 then putFld x 56 4 (BitVec.ofNat 4 (rind.getD 0)) else x)
          let s := modLaunch s l (fun x => { x with roaming := x.roaming + 1 })
          .next (fabAnswer (placeArrival s cn l words {}) q 4 0 0 0)

/-- A roaming context departs once its earlier accesses are performed (R117, R343): its slot frees, and its eight
words travel to the home. -/
def execMigration (core ctx : Nat) (s : State) : Host.Outcome State Fault Refusal :=
  let k := ctxKey core ctx
  let c := getCtx s k
  match c.act, c.migrTo with
  | .waiting .migrate, some (dest, advance) =>
    if !(pendingOf s k).isEmpty ∨ harpUnderway s k ∨ c.unacked ≠ 0 then .next s
    else if !c.deferred.isEmpty ∨ (!advance ∧ dest / 2048 = s.node ∧ (getCore s (dest % 2048)).off) then
      -- A refusal came in the meantime, or the home went offline (R391): the context wakes, to take the refusal, and the move
      -- is decided again.
      .next (makeRunnable (modCtx s k (fun c => { c with migrTo := none, pc := if advance then c.pc - 4 else c.pc })) k 64 true)
    else
      let words := [c.pc, c.st] ++ [1, 2, 3, 4, 5, 6].map c.readG
      let trail : Trail := if advance then c.trail else { c.trail with moves := c.trail.moves + 1 }
      .next (sendArrival (releaseSlot s k) none core (stCtx c.st) dest (c.launch.getD 0) words trail none)
  | _, _ => .next s

/-! ### Seating a roaming context (R385) -/

/-- What a context has under way goes on under another key, in its place in program order (R132, R357): flights, commands
in inboxes and chain commands. The answers keep their own addresses. -/
def reown (s : State) (k j : Nat) : State :=
  let g := fun (o : Option (Nat × BitVec 8)) => match o with
    | some (x, _) => if x = k then some (j, stGen (getCtx s j).st) else o
    | none => o
  let fl := fun (f : Flight) => { f with owner := g f.owner }
  let qu := fun (q : Queued) => { q with owner := g q.owner }
  modCluster { s with net := s.net.map fl, awaiting := s.awaiting.map (fun (e : Nat × Flight) => (e.1, fl e.2)) }
    (coreCluster (ctxCore k)) (fun c => { c with
      inbox := c.inbox.map (fun (e : Nat × List Queued) => (e.1, e.2.map qu))
      harp := { c.harp with
        inbox := c.harp.inbox.map qu
        cmds := c.harp.cmds.map (fun (e : Nat × HCmd) => (e.1, { e.2 with cmd := qu e.2.cmd })) } })

/-- A trapped roaming context is seated, or killed when its launch claims no seated context on the core. -/
def execRoamingSeat (core slot : Nat) (s : State) : Host.Outcome State Fault Refusal :=
  let k := ctxKey core (128 + slot)
  let c := getCtx s k
  match c.pending with
  | none => .next s
  | some t =>
    if c.act ≠ .waiting .seat then .next s
    else if !(List.range 16).any (fun i => c.launch.isSome && (getCtx s (ctxKey core i)).launch == c.launch) then
      .next (logCore (endCtx s k 3 0) core 0x0C c.pc)
    else if (issueTest c [1, 2, 3, 4, 5, 6]) != .pass || c.unacked != 0 then .next s
    else match dormantOf s core c.launch with
      | none => .next s
      | some i =>
        let j := ctxKey core i
        let s := modCtx s j (fun x =>
          let y := ([1, 2, 3, 4, 5, 6] : List Nat).foldl (fun (y : Ctx) r => y.writeG r (c.readG r)) x
          { y with
            pc := t.resume
            st := putFld (putFld c.st 32 8 (stGen x.st)) 8 8 (BitVec.ofNat 8 i)
            deferred := c.deferred, frames := [], hint := none, empty := [], trail := { c.trail with moves := 0 } })
        let s := freshRegs s j (fun r => decide (1 ≤ r) && decide (r ≤ 6))
        let s := modLaunch (reown s k j) (c.launch.getD 0) (fun x => { x with roaming := x.roaming - 1 })
        let s := enterTrap (releaseSlot s k) j t t.resume (getCtx s j).st
        .next (makeRunnable s j 64 true)

/-! ### Selection and pre-emption (R370, R386) -/

/-- The class of a context (R370). -/
def ctxClass (c : Ctx) : Nat := if stDem c.st then 7 else stPcls c.st

/-- The runnable contexts of a core. -/
def runnableOf (s : State) (cn : Nat) : List (Nat × Ctx) :=
  s.ctxs.filter (fun e => ctxCore e.1 == cn && e.2.act == .runnable)

/-- The first of two records: earliest arrival, then lower port, then lower st.ctx. -/
def recBefore (x y : Nat × Ctx) : Bool :=
  let a := x.2.sel
  let b := y.2.sel
  decide (a.arrival < b.arrival) || (a.arrival == b.arrival && (decide (a.port < b.port)
    || (a.port == b.port && decide (stCtx x.2.st < stCtx y.2.st))))

/-- The first record of a list. -/
def firstRec : List (Nat × Ctx) → Option (Nat × Ctx)
  | [] => none
  | x :: xs => match firstRec xs with
    | none => some x
    | some y => some (if recBefore y x then y else x)

/-- The record that a core selects, with its class's records (R370). -/
def selectRec (s : State) (cn : Nat) : Option ((Nat × Ctx) × List (Nat × Ctx)) :=
  let all := runnableOf s cn
  let low := all.foldl (fun (m : Nat) e => min m (ctxClass e.2)) 8
  let c := all.filter (fun e => ctxClass e.2 == low)
  let ovr := c.filter (fun e => decide ((getCore s cn).bypass ≤ e.2.sel.bypass))
  let hits := c.filter (fun e => e.2.sel.hit)
  (firstRec (if !ovr.isEmpty then ovr else if !hits.isEmpty then hits else c)).map (fun r => (r, c))

/-- A free issue slot takes the record that R370 chooses. -/
def execSchedulerSelection (core : Nat) (s : State) : Host.Outcome State Fault Refusal :=
  let x := getCore s core
  if x.off ∨ x.takeover ∨ x.running.isSome then .next s
  else match selectRec s core with
    | none => .next s
    | some ((k, r), c) =>
      let s := c.foldl (fun s e => if e.1 ≠ k ∧ e.2.sel.arrival < r.sel.arrival then
          modCtx s e.1 (fun y => { y with sel := { y.sel with bypass := y.sel.bypass + 1 } }) else s) s
      let s := modCtx s k (fun y => { y with act := .running, selected := s.cycle })
      .next (modCore s core (fun y => { y with running := some k, block := none, left := none }))

/-- The running context of a core is to be pre-empted at this instruction boundary (R386): a record of a lower class waits, and
its quantum is over or its launch is demoted. -/
def preemptDue (s : State) (core k : Nat) : Bool :=
  let c := getCtx s k
  let q := (getCore s core).quant.toNat
  !stSys c.st && c.hint.isNone && c.act == .running
    && (runnableOf s core).any (fun e => decide (ctxClass e.2 < ctxClass c))
    && ((q != 0 && decide (q ≤ s.cycle - c.selected)) || stDem c.st)

/-- Pre-emption (R386, R387): the context yields. -/
def execPreemption (core : Nat) (s : State) : Host.Outcome State Fault Refusal :=
  match (getCore s core).running with
  | none => .next s
  | some k => if preemptDue s core k then .next (yieldCtx s k) else .next s

/-- A queued refusal is taken at an instruction boundary (R382). -/
def execDeferredTrap (core : Nat) (s : State) : Host.Outcome State Fault Refusal :=
  match (getCore s core).running with
  | none => .next s
  | some k =>
    let c := getCtx s k
    if c.act = .running ∧ c.hint.isNone ∧ deferredReady s k then .next (takeDeferred s k) else .next s

/-- A core with a gating request enters the gated state after its two quiet cycles (R377). -/
def execGatedEntry (core : Nat) (s : State) : Host.Outcome State Fault Refusal :=
  let x := getCore s core
  match x.gateAt with
  | none => .next s
  | some t => if x.gateState = 1 ∧ t < s.cycle then
      .next (modCore s core (fun y => { y with gateState := 2, gateAt := none })) else .next s

end Sys2Proof.Machine
end

