-- ==== Sys2Proof/Machine/Tasks.lean ====
section
/-!
DEFINITION. Tasks: the arming table, the Rack, TARM, TDONE, TAKE, STEAL and TDISARM (R363 to R369).
-/

namespace Sys2Proof.Machine

/-! ### Names and blocks (R363, R364) -/

def taskNode (n : Dword) : Nat := fldN n 48 12
def taskCluster (n : Dword) : Nat := clusterOf (fldN n 46 2) (fldN n 43 3) (fldN n 40 3)
def taskEntry (n : Dword) : Nat := fldN n 0 10

/-- v = 0 or a reserved bit is set. -/
def taskMalformed (n : Dword) : Bool := !bitAt n 63 || fldN n 60 3 != 0 || fldN n 10 30 != 0

/-- A name of this node whose cluster belongs to the Rind. -/
def taskOwn (s : State) (rind : Nat) (n : Dword) : Bool :=
  taskNode n == s.node && (getCluster s (taskCluster n)).rind == some rind

/-- A bad task name (R364). Arming entries of another node can only be posted to (R414). -/
def taskBad (s : State) (rind : Nat) (n : Dword) (post : Bool) : Bool :=
  taskMalformed n || !(taskOwn s rind n || (post && taskNode n != s.node))

/-- A malformed task control block (R363, R367): a reserved bit, or a misaligned list that is not empty. -/
def tcbBad (t : Vec) : Bool :=
  fldN t 355 29 != 0 || fldN t 328 8 != 0 || (fldN t 320 8 != 0 && fldN t 384 3 != 0)

/-! ### Arming entries and the Rack (R365, R366) -/

def getArm (s : State) (cl e : Nat) : Arm := tget {} (getCluster s cl).arms e
def putArm (s : State) (cl e : Nat) (a : Arm) : State := modCluster s cl (fun c => { c with arms := tput c.arms e a })

/-- The class of an entry on the Rack: 7 while its launch is demoted (R366). -/
def armClass (s : State) (a : Arm) : Nat :=
  match getLaunch s a.owner with
  | some l => if l.demoted then 7 else a.pcls
  | none => a.pcls

/-- Rack order (R366). -/
def rackBefore (s : State) (x y : Nat × Arm) : Bool :=
  let a := armClass s x.2
  let b := armClass s y.2
  decide (a < b) || (a == b && (decide (x.2.readyAt < y.2.readyAt) || (x.2.readyAt == y.2.readyAt && decide (x.1 < y.1))))

/-- The first entry of a list in Rack order. -/
def rackFirst (s : State) : List (Nat × Arm) → Option (Nat × Arm)
  | [] => none
  | x :: xs => match rackFirst s xs with
    | none => some x
    | some y => some (if rackBefore s y x then y else x)

/-- The entries on a cluster's Rack, and the Ready entries that wait for a place. -/
def rackOf (s : State) (cl : Nat) : List (Nat × Arm) := (getCluster s cl).arms.filter (fun e => e.2.onRack)
def rackWaiting (s : State) (cl : Nat) : List (Nat × Arm) :=
  (getCluster s cl).arms.filter (fun e => e.2.state == .ready && !e.2.onRack)

/-- An entry taken for a reply: it is free at once, and its block address is filled (R365, R369, R370). Until
the fill the task counts for its launch (R360). -/
def takeEntry (s : State) (cl e : Nat) (a : Arm) (r : Reply) : State :=
  sendFor (modCluster s cl (fun c => { c with arms := tdel c.arms e })) (some a.owner) (.task r a.block a.probe)

/-- A waiting TAKE is still wanted: its context has not ended (R44). -/
def takerLives (s : State) (t : Reply × Nat) : Bool := stGen (getCtx s t.1.ctx).st == t.1.gen

/-- An entry is placed on the Rack; the oldest TAKE of its launch that waits there takes it (R366, R369). -/
def placeOnRack (s : State) (cl e : Nat) : State :=
  let s := modCluster s cl (fun c => { c with takers := c.takers.filter (takerLives s) })
  let a := { getArm s cl e with onRack := true }
  match (getCluster s cl).takers.find? (fun t => t.2 == a.owner) with
  | some t =>
    let s := modCluster s cl (fun c => { c with takers := c.takers.filter (fun u => u != t) })
    takeEntry s cl e a t.1
  | none => putArm s cl e a

/-- An entry becomes Ready (R365). -/
def readyArm (s : State) (a : Arm) : Arm := { a with state := .ready, readyAt := s.cycle }

/-- Entries that became Ready in one cycle join the Rack in ascending order, as it has places and unless others wait (R366,
R403). -/
def enterRack (s : State) (cl : Nat) (es : List Nat) : State :=
  if (rackWaiting s cl).any (fun e => !es.contains e.1) then s
  else (es.mergeSort (fun a b => decide (a ≤ b))).foldl (fun s e =>
    if (rackOf s cl).length < 512 then placeOnRack s cl e else s) s

/-- A Ready entry is placed as a Rack place frees, in Rack order (R366). -/
def execRackPlacement (cluster : Nat) (s : State) : Host.Outcome State Fault Refusal :=
  if (rackOf s cluster).length < 512 then
    match rackFirst s (rackWaiting s cluster) with
    | some (e, _) => .next (placeOnRack s cluster e)
    | none => .next s
  else .next s

/-- A done post at its entry (R365): the state, and the entry when the post makes it Ready. -/
def countDone (s : State) (cl e launch : Nat) : State × Option Nat :=
  let a := getArm s cl e
  if a.state = .free ∨ a.owner ≠ launch then (modCluster s cl (fun c => { c with drop := c.drop + 1 }), none)
  else
    let a := { a with count := min (a.count + 1) 65535 }
    if a.state = .armed ∧ a.quota ≤ a.count then (putArm s cl e (readyArm s a), some e) else (putArm s cl e a, none)

/-- Done posts at the entries of a cluster, in list order: the state and the entries made Ready. -/
def countDones (cl launch : Nat) : List Nat → State → List Nat → State × List Nat
  | [], s, es => (s, es)
  | e :: rest, s, es => match countDone s cl e launch with
    | (s, x) => countDones cl launch rest s (es ++ x.toList)

/-- The done posts of one request to a cluster, applied in one step (R403). -/
def postDone (s : State) (names : List Dword) (launch : Nat) : State :=
  let cl := taskCluster (names.headD 0)
  match countDones cl launch (names.map taskEntry) s [] with
  | (s, es) => enterRack s cl es

/-! ### TARM, TDISARM and TDONE (R368) -/

/-- The launch that an instruction acts for. -/
def launchOf (c : Ctx) : Nat := c.launch.getD 0

/-- Arming at the entry (R365): the status. -/
def armAt (s : State) (name : Dword) (launch : Nat) (block : Dword) (t : Vec) : State × Nat :=
  let cl := taskCluster name
  let e := taskEntry name
  let a := getArm s cl e
  if a.state ≠ .free then (s, if a.owner = launch then 1 else 2)
  else
    let new : Arm := { state := .armed, owner := launch, count := 0, quota := fldN t 336 16, pcls := fldN t 352 3,
                       probe := fld t 448 64, block := block }
    (if new.quota = 0 then enterRack (putArm s cl e (readyArm s new)) cl [e] else putArm s cl e new, 0)

def execTarm (d a b : BitVec 5) (s : State) : Host.Outcome State Fault Refusal :=
  issue s { reads := [gr a, gr b], writes := [gr d] } (fun s c =>
    let k := s.me
    let va := c.readG a.toNat
    let name := c.readG b.toNat
    withBlock s va (fun s t =>
      if tcbBad t then (answer s k d 3, .next)
      else if taskBad s (stRind c.st) name false then (answer s k d 2, .next)
      else
        let (s, v) := armAt s name (launchOf c) va t
        (answer s k d (BitVec.ofNat 64 v), .next)))

def execTdisarm (d a : BitVec 5) (s : State) : Host.Outcome State Fault Refusal :=
  issue s { reads := [gr a], writes := [gr d] } (fun s c =>
    let k := s.me
    let name := c.readG a.toNat
    if taskBad s (stRind c.st) name false then (answer s k d 2, .next)
    else
      let cl := taskCluster name
      let e := taskEntry name
      let x := getArm s cl e
      if x.state = .free then (answer s k d 1, .next)
      else if x.owner ≠ launchOf c then (answer s k d 2, .next)
      else (answer (modCluster s cl (fun y => { y with arms := tdel y.arms e })) k d 0, .next))

/-- The requests of a TDONE: the posts to each cluster of this package in one, in list order (R403); a packet to another node
carries one post (R414). -/
def doneRequests (s : State) (ns : List Dword) : List (List Dword) :=
  let (here, away) := ns.partition (fun n => taskNode n == s.node)
  ((here.map taskCluster).eraseDups.map (fun cl => here.filter (fun n => taskCluster n == cl))) ++ away.map (fun n => [n])

/-- The done posts of a TDONE put on their way, each with the word's order and scope. -/
def sendDone (s : State) (k batch : Nat) (launch : Nat) (o sc : BitVec 2) : List (List Dword) → State
  | [] => s
  | ns :: rest =>
    let c := getCtx s k
    let n := ns.headD 0
    let ord : Ord := { sendOrd (ordAcq o) (ordRel o) with scope := sc.toNat }
    let f : Flight := { owner := some (k, stGen c.st), ord := ord.issued s, body := .done ns launch batch, launch := c.launch }
    let s := if taskNode n = s.node then { s with net := s.net ++ [f] }
      else sendFabric s (fun t => fabHeader s (taskNode n) (stRind c.st) 1 12 0 (ordsc ord) t 0 0)
        (BitVec.ofNat 640 n.toNat) (some f) (stRind c.st) c.launch
    sendDone s k batch launch o sc rest

/-- A number for a new batch of done posts. -/
def newBatch (s : State) : Nat := s.batches.foldl (fun (m : Nat) e => max m (e.1 + 1)) 0

/-- TDONE. -/
def execTdone (d a : BitVec 5) (sc o : BitVec 2) (s : State) : Host.Outcome State Fault Refusal :=
  issue s { reads := [gr a], writes := [gr d] } (fun s c =>
    let k := s.me
    withBlock s (c.readG a.toNat) (fun s t =>
      if tcbBad t then (answer s k d 3, .next)
      else withList s (fld t 384 64) (fldN t 320 8) (fun s ns =>
          let ord : Ord := { sendOrd (ordAcq o) (ordRel o) with scope := sc.toNat }
          if ns.any (fun n => taskBad s (stRind c.st) n true) then (answer s k d 2, .next)
          else if ns.isEmpty then (answer s k d 0, .next)
          else if ns.any (fun n => taskNode n != s.node) && mustWait s k ord then (s, .hold)
          else
            let b := newBatch s
            let r := replyOf s k d.toNat
            let s := modCtx { s with batches := tput s.batches b { left := ns.length, reply := r } } k
              (fun c => c.setEmpty d.toNat true)
            (sendDone s k b (launchOf c) o sc (doneRequests s ns), .next))))

/-- n posts of a batch have been applied; the last of them fills TDONE's status (R368). -/
def settleBatch (s : State) (b n : Nat) : State :=
  match tfind s.batches b with
  | none => s
  | some x =>
    if x.left ≤ n then sendFillD { s with batches := tdel s.batches b } x.reply 0
    else { s with batches := tput s.batches b { x with left := x.left - n } }

/-- A request of done posts reaches its cluster (R365, R403). One from another node names no launch: it counts as the owner's. -/
def execDonePost (src : PacketRef) (s : State) : Host.Outcome State Fault Refusal :=
  match src with
  | .net n =>
    match s.net[n]? with
    | some f => match f.body with
      | .done names launch batch =>
        if mayPerform s n f then .next (settleBatch (postDone { s with net := dropNth s.net n } names launch) batch names.length)
        else .next s
      | _ => .next s
    | none => .next s
  | .fabric q =>
    if fabOp q ≠ 12 then .next s
    else
      let name : Dword := q.body.setWidth 64
      let ok := fabFits q 1 (fabBits 64) && !taskMalformed name && taskNode name == s.node &&
        (match (getCluster s (taskCluster name)).rind with | some r => peerOk s r q | none => false)
      .next (if ok then fabAnswer (postDone s [name] (getArm s (taskCluster name) (taskEntry name)).owner) q 4 0 0 0
        else fabAnswer s q 5 2 0 0)

/-! ### TAKE and STEAL (R369) -/

/-- The first entry of a launch on a cluster's Rack. -/
def rackTask (s : State) (cl launch : Nat) : Option (Nat × Arm) :=
  rackFirst s ((rackOf s cl).filter (fun e => e.2.owner == launch))

def execTake (d : BitVec 5) (w : BitVec 1) (s : State) : Host.Outcome State Fault Refusal :=
  issue s { writes := [gr d] } (fun s c =>
    let k := s.me
    let cl := coreCluster (ctxCore k)
    let r := replyOf s k d.toNat
    let s1 := modCtx s k (fun c => c.setEmpty d.toNat true)
    match rackTask s cl (launchOf c) with
    | some (e, a) => (takeEntry s1 cl e a r, .next)
    | none =>
      if w = 0 then (answer s k d 0, .next)
      else
        let s := modCluster s1 cl (fun x => { x with takers := x.takers ++ [(r, launchOf c)] })
        (leaveSlot (modCtx s k (fun c => { nextPc c c.pc with hint := none, walked := [], asks := [], trail := { c.trail with moves := 0 } })) k (.waiting (.take d.toNat)), .moved))

/-- The steal order from a cluster: its four neighbours, then the rest of its die (R369). -/
def stealOrder (cl : Nat) : List Nat :=
  let die := clusterDie cl
  let x := clusterX cl
  let y := clusterY cl
  let near := (if y < 7 then [clusterOf die x (y + 1)] else []) ++ (if x < 7 then [clusterOf die (x + 1) y] else [])
    ++ (if 0 < y then [clusterOf die x (y - 1)] else []) ++ (if 0 < x then [clusterOf die (x - 1) y] else [])
  near ++ ((List.range 64).map (fun i => 64 * die + i)).filter (fun c => c != cl && !near.contains c)

/-- STEAL: its walk over the Racks starts; it is an acquire (R369). -/
def execSteal (d : BitVec 5) (s : State) : Host.Outcome State Fault Refusal :=
  issue s { writes := [gr d] } (fun s c =>
    let k := s.me
    let o : Ord := { okind := 2, ld := true, st := false, acq := true, rel := false, lo := 0, hi := 0, scope := 3 }
    let p : Packet := .steal (replyOf s k d.toNat) (launchOf c) (stealOrder (coreCluster (ctxCore k)))
    let s := launchPacket s (some (k, stGen c.st)) o p
    (modCtx s k (fun c => c.setEmpty d.toNat true), .next))

/-- One step of a STEAL's walk: the next Rack of its order is examined, or the walk ends with 0 (R369). Clusters outside the
Rind are passed over. -/
def stealStep (s : State) (n : Nat) (f : Flight) (r : Reply) (launch : Nat) (todo : List Nat) : State :=
  let s' := { s with net := dropNth s.net n }
  let x := getCtx s r.ctx
  if !mayPerform s n f then s
  else if stGen x.st ≠ r.gen then discard s' r.ctx
  else match todo.dropWhile (fun cl => (getCluster s cl).rind != some (stRind x.st)) with
    | [] => sendFillD s' r 0
    | cl :: rest => match rackTask s cl launch with
      | some (e, a) => takeEntry s' cl e a r
      | none => { s with net := s.net.set n { f with body := .steal r launch rest } }

end Sys2Proof.Machine
end

