-- ==== Sys2Proof/Machine/Net.lean ====
section
/-!
DEFINITION. The events that carry packets to their ends: fills, acknowledgements, remote word accesses, and the
walkers' own steps (R17, R44, R59, R102, R120, R140, R167, R343, R413 to R416).
-/

namespace Sys2Proof.Machine

/-! ### Fills (R44, R370) -/

/-- The residency probe of a task (R140): whether the cluster's L2 holds the line of a virtual address, translated only
through what the cluster's TLB holds. -/
def probeL2 (s : State) (k : Nat) (va : Dword) : Bool :=
  let r : Req := { ctxReq s k with engine := true }
  if va = 0 then true
  else match tlbFind s r va with
    | none => false
    | some t => match selectFrame s r t.entry t.comp t.shift with
      | none => false
      | some f =>
        let pa := f + va.toNat % 2 ^ t.shift
        (checkLeaf s r .load t.entry t.comp (some pa)).isNone
          && (tfind s.l2 (l2Key (coreCluster (ctxCore k)) (replLine s pa))).isSome

/-- The register fill that a fabric packet carries (R330, R414): where it goes, and its value. -/
def fabFill (q : FabricPacket) : Nat × Reply × Vec :=
  let h : BitVec 128 := q.body.setWidth 128
  let core := nameCore (fldN h 96 32)
  let reg := fldN h 10 6
  (core, { ctx := ctxKey core (fldN h 16 8), gen := fld h 24 8, reg := reg, inTrap := bitAt h 9 },
    if reg < 32 then (fldN q.body 128 64 : Nat) else (fldN q.body 128 512 : Nat))

/-- An access of a Rind that issued before a tick has not been performed: one in flight, or one of a chain command that kept
its leaves from acceptance (R106, R311). -/
def accessBefore (s : State) (rind before : Nat) : Bool :=
  (s.net ++ s.awaiting.map (fun e => e.2)).any (fun f => match f.body with
    | .access a => a.rind == rind && decide (a.born < before)
    | .hoopStep a _ => a.rind == rind && decide (a.born < before)
    | .bitmap _ _ _ _ _ k _ born => k == rind && decide (born < before)
    | .lost r _ _ _ pa => r.rind == rind && pa.isSome
    | _ => false)
  || s.clusters.any (fun e => e.2.rind == some rind
    && e.2.harp.cmds.any (fun c => !c.2.leaves.isEmpty && decide (c.2.born < before)))

/-- The acknowledgement of a refused part of a load stands before the n-th flight: its register becomes full after that (R167). -/
def partRefused (s : State) (n : Nat) (r : Reply) : Bool :=
  (s.net.take n).any (fun f => match f.body with
    | .ack k gen dec t => k == r.ctx && gen == r.gen && !dec && t.isSome
    | _ => false)

/-- A fill packet reaches its context: a value, a task, an error record or a refusal; or what the hardware does before a
fill is done. -/
def execFill (src : PacketRef) (s : State) : Host.Outcome State Fault Refusal :=
  match src with
  | .net n =>
    match s.net[n]? with
    | some f =>
      let s' := { s with net := dropNth s.net n }
      match f.body with
      | .fill r v => .next (if inSeries s n f then applyFill s' r v else s)
      | .descFill r v =>
        .next (if !mayPerform s n f then s else if r.reg = 0 then s' else applyFill s' r (v.setWidth 512))
      | .task r block probe =>
        let was := (getCtx s' r.ctx).act
        let s' := applyFill s' r (block.setWidth 512)
        let woke := was != .runnable && (getCtx s' r.ctx).act == .runnable
        .next (if woke then
          modCtx s' r.ctx (fun c => { c with sel := { c.sel with hit := probeL2 s' r.ctx probe } }) else s')
      | .error r e => .next (applyError s' r e)
      | .refill r t => .next (if partRefused s n r then s else applyRefusal s' r t)
      | .shoot r rind before => .next (if accessBefore s rind before then s else applyFill s' r 0)
      | .bind cn launch sys index blk r =>
        if !mayPerform s n f then .next s
        else
          let (s, v) := bindPattern s' cn launch sys index blk
          .next (if r.reg = 0 then s else applyFill s r (v.setWidth 512))
      | .steal r launch todo => .next (stealStep s n f r launch todo)
      | .lost r va m leave none => .next (loseMember s' f r va m leave)
      | _ => .next s
    | none => .next s
  | .fabric q =>
    if fabOp q ≠ 9 then .next s
    else
      let (core, r, v) := fabFill q
      let lenOk := fabLen q == (if r.reg < 32 then 2 else 5)
      if lenOk && (match coreRind s core with | some k => peerOk s k q | none => false) then
        .next (fabAnswer (applyFill s r v) q 4 0 0 0)
      else .next (fabAnswer s q 5 2 0 0)

/-! ### Remote word accesses (R17, R120, R123, R124, R167) -/

/-- Where the result of an access goes. -/
def accessReply (a : Access) : Reply := { ctx := a.ctx, gen := a.gen, reg := destReg a.dest, inTrap := a.inTrap }

/-- How a part of a collected load ended. -/
inductive PartEnd where
  | data (v : Vec)
  | refused
  | error (t : TrapRec)
deriving DecidableEq, Repr

/-- A part of a VLDU or VGATH returns (R123, R124): the last one fills the register, or ends the load as the parts
have ended. -/
def collectPart (s : State) (a : Access) (off : Nat) (e : PartEnd) : State :=
  let r := accessReply a
  let c := getCtx s a.ctx
  if stGen c.st ≠ a.gen then discard s a.ctx
  else match tfind c.collect r.reg with
    | none => s
    | some x =>
      let x := match e with
        | .data v => { x with val := putPart x.val off a.n v, left := x.left - 1 }
        | .refused => { x with refused := true, left := x.left - 1 }
        | .error t => { x with err := x.err.or (some t), left := x.left - 1 }
      if 0 < x.left then modCtx s a.ctx (fun c => { c with collect := tput c.collect r.reg x })
      else
        let s := modCtx s a.ctx (fun c => { c with collect := tdel c.collect r.reg })
        match x.err with
        | some t => sendPacket s (.error r t)
        | none => if x.refused then sendPacket s (.refill r none) else sendFill s r x.val

/-- The result of an access performed away from its context, sent back. -/
def answerAccess (s : State) (f : Flight) (a : Access) (p : Performed) : State :=
  let r := accessReply a
  let refuse := fun (s : State) (reg : Nat) => refuseFlight s f { r with reg := reg } (refusedTrap a)
  match a.dest, p with
  -- A store that an engine issued has no context to tell (R167).
  | .none, .refused => if f.owner.isSome then refuse s 0 else s
  | .none, _ => s
  | .part _ off, .ok v => collectPart s a off (.data v)
  | .part _ off, .refused => collectPart (refuse s 0) a off .refused
  | .part _ off, .dataError => collectPart s a off (.error (accessTrap 0x0E (opAcc a.op) a.va))
  | _, .ok v => sendFill s r (destValue a v)
  | _, .refused => refuse s r.reg
  | _, .dataError => if r.reg = 0 then s else sendPacket s (.error r (accessTrap 0x0E (opAcc a.op) a.va))

/-- A request of another node for memory of this one (R414, R416): the access that it asks for. The packet names no home:
it is performed where the line is found (log 67), in the view of its sector (R151). -/
def fabAccess (s : State) (q : FabricPacket) (rind : Nat) : Option Access :=
  let pa := fldN q.hdr 0 57
  let la := paLocal pa
  let code := fldN q.hdr 87 3
  let n := if code = 4 then 64 else 2 ^ code
  let base : Access :=
    { ctx := 0, gen := 0, inTrap := false, op := .load, dest := .none, n := n, pa := pa, va := 0, data := 0, expect := 0,
      pkind := if windowOf la = .scratch then 3 else 0, home := leaflessHome s la, col := none, nalloc := true,
      rind := rind, launch := none, size := code }
  if 4 < code ∨ pa % n ≠ 0 then none
  else match fabOp q with
    | 0 => if fabFits q 0 0 then some base else none
    | 1 => if fabFits q (if code = 4 then 4 else 1) (fabBits (8 * n)) then some { base with op := .store, data := q.body.setWidth 512 }
      else none
    | 2 =>
      let op := fldN q.body 128 8
      if fabFits q 2 (if op = 1 then fabBits 136 else fabBits 64 ||| fabBits 8 <<< 128) ∧ op ≤ 10 ∧ (n = 8 ∨ n = 4) ∧ windowOf la ≠ .alias_ ∧ windowOf la ≠ .host then
        some { base with op := .atomic op, data := q.body.setWidth 64 |>.setWidth 512, expect := fld q.body 64 64 }
      else none
    | _ => none

/-- A scratchpad access of another node, the host or the Starter, which the owner's windows admit or refuse (R165, R167). -/
def outsideScratch (s : State) (a : Access) : State × Performed :=
  let la := paLocal a.pa
  if !windowAdmits s (scratchCore la) (la % 2 ^ 18) a.n (opStores a.op) then
    (modCore s (scratchCore la) (fun c => { c with nack := c.nack + 1 }), .refused)
  else performAt s { a with pkind := 0 }

/-- An access of another node at its home. -/
def fabPerform (s : State) (a : Access) : State × Performed :=
  if windowOf (paLocal a.pa) = .scratch then outsideScratch s a else performAt s a

/-- An access without a leaf at the Cave slice of the die that holds the bytes, in the view of its sector (R151, R437): it
reaches no L1 or L2. -/
def leafless (s : State) (a : Access) : State × Performed :=
  let la := paLocal a.pa
  match windowOf la with
  | .scratch => outsideScratch s a
  | .host => performAt s a
  | _ =>
    let die := storageDie s la
    let view := colBit s die la
    let put := fun (s : State) (v : Vec) =>
      fireBitmaps (sliceWrite s die (cellsOf (fun i => if view then colAddr (la + i) else la + i) a.n v (BitVec.allOnes 64)) {}) la a.n view
    match a.op with
    | .store => (put s a.data, .ok 0)
    | op => match sliceRead s die (viewAddrs la a.n view) {} with
      | (s, none) => (s, .dataError)
      | (s, some old) => match op with
        | .atomic op =>
          let arg := fldN a.data 0 64 % 2 ^ (8 * a.n)
          if op = 1 ∧ old.toNat ≠ a.expect.toNat % 2 ^ (8 * a.n) then (s, .ok old)
          else (put s (BitVec.ofNat 512 (atomicNew op a.n old.toNat arg)), .ok old)
        | _ => (s, .ok old)

/-- A remote word access is performed at its home (R17), or leaves for another node in its turn (R64). -/
def execRemoteWordAccess (src : PacketRef) (s : State) : Host.Outcome State Fault Refusal :=
  match src with
  | .net n =>
    match s.net[n]? with
    | some f => match f.body with
      | .access a =>
        if !mayPerform s n f then .next s
        else if !isLocal s a.pa then .next (sendRemoteNode { s with net := dropNth s.net n } f a)
        else
          let (s, p) := performAt { s with net := dropNth s.net n } a
          .next (answerAccess s f a p)
      | _ => .next s
    | none => .next s
  | .fabric q =>
    if 2 < fabOp q then .next s
    else
      let la := paLocal (fldN q.hdr 0 57)
      match fabAccess s q ((addrRind s la).getD 15), addrRind s la with
      | none, _ => .next (fabAnswer s q 5 2 0 0)
      | some _, none => .next (fabAnswer s q 5 1 0 0)
      | some a, some r =>
        if !peerOk s r q then .next (fabAnswer s q 5 2 0 0)
        else if isHole s r la then .next (fabAnswer s q 5 1 0 0)
        else
            match fabPerform s a with
              | (s, .refused) => .next (fabAnswer s q 5 2 0 0)
              | (s, .dataError) => .next (fabAnswer s q 5 4 0 0)
              | (s, .ok v) =>
                if fabOp q = 1 then .next (fabAnswer s q 4 0 0 0)
                else .next (fabAnswer s q 3 0 (if a.n = 64 then 4 else 1) (v.setWidth 640))

/-! ### Acknowledgements (R343, R413, R415) -/

/-- The refusal of a request that no access frame fits: a post of a word, a task post of a dword, or an arrival of another
node, as a store of n bytes (R167, R173, R378, R381). -/
def refusedPost (name : Dword) (n : Nat) (d0 : Dword) : TrapRec :=
  let size := if n = 4 then 2 else if n = 8 then 3 else 4
  { code := 0x31, eaddr := name, info := BitVec.ofNat 64 (n % 128 * 2 ^ 24 + 2 ^ 12 + size * 2 ^ 8 + 2), frame := [d0] }

/-- The refusal of a CRDC: the load of a word into g[d] (R167, R174, R381). -/
def refusedRead (name : Dword) (r : Reply) : TrapRec :=
  { code := 0x31, eaddr := name, info := BitVec.ofNat 64 (4 * 2 ^ 24 + r.reg * 2 ^ 16 + 2 * 2 ^ 8 + 2) }

/-- A flight of another node ends with an error or with no data (R415). err 0 stands for success. -/
def endRemote (s : State) (ctx : Nat) (gen : BitVec 8) (r : Option Reply) (acc : AccKind) (ea : Dword) (refusal : TrapRec)
    (err : Nat) : State :=
  if err = 0 then s
  else if err = 2 then
    match r with
    | some r => applyRefusal s r (some refusal)
    | none => applyAck s ctx gen false (some refusal)
  else
    let t := accessTrap (if err = 4 then 0x0E else 0x17) acc ea
    match r with
    | some r => applyError s r t
    | none => if err = 4 then s else applyAck s ctx gen false (some t)

/-- A Hoop instruction's next step on a block of another node, whose dword holds v: it ends without effect, is done once the
swap has found the value seen, or swaps from v (R353). -/
def hoopAnswer (s : State) (f : Flight) (a : Access) (seen : Option Dword) (v : Dword) : State :=
  let r := accessReply a
  let fill := fun (s : State) (x : Dword) => if r.reg = 0 then s else applyFill s r (x.setWidth 512)
  let m : Word := fld v 0 32
  if seen = some v then
    if a.op = .hoopIn then fill (setHoop s a a.va) (zx m) else fill (setHoop s a 0) (zx (m - 1))
  else if a.op = .hoopIn ∧ ((getCtx s a.ctx).hoop ≠ 0 ∨ m = BitVec.allOnes 32) then fill s (BitVec.allOnes 64)
  else sendHoop s f a (some v)

/-- The decrement of a Hoop block of another node for a member that has ended (R354). -/
def leaveAccess (ctx : Nat) (gen : BitVec 8) (r : Req) (va : Dword) (pa : Nat) : Access :=
  { ctx := ctx, gen := gen, inTrap := false, op := .hoopOut, dest := .none, n := 8, pa := pa, va := va, data := 0, expect := 0,
    pkind := 0, home := 0, col := none, nalloc := true, rind := r.rind, launch := r.launch, size := 3 }

/-- A walk with the answer of another node (R64, R102). -/
def WalkJob.answered (j : WalkJob) (ans : Nat × Vec) : WalkJob :=
  { j with phase := match j.phase with
    | .reading lv t a _ => .reading lv t a (some ans)
    | .touching e c sh slot _ => .touching e c sh slot (some ans) }

/-- The answer of another node to a request that awaits it. -/
def endAwaited (s : State) (f : Flight) (q : FabricPacket) : State :=
  let op := fabOp q
  let err := if op = 5 then max 1 (fldN q.hdr 64 3) else 0
  let (ctx, gen) := f.owner.getD (0, 0)
  match f.body with
  | .access a =>
    let r := accessReply a
    let v : Vec := q.body.setWidth 512 &&&
      (if a.n < 64 then BitVec.ofNat 512 (2 ^ (8 * a.n) - 1) else BitVec.allOnes 512)
    match a.dest with
    | .block =>
      let c := getCtx s a.ctx
      if stGen c.st = a.gen ∧ c.act = .waiting .block then
        makeRunnable (modCtx s a.ctx (fun c => { c with got := c.got ++ [{ pa := a.pa, err := err, val := v }] })) a.ctx 64 true
      else discard s a.ctx
    | .part _ off =>
      if err = 0 then collectPart s a off (.data v)
      else if err = 2 then collectPart (applyAck s a.ctx a.gen false (some (refusedTrap a))) a off .refused
      else collectPart s a off (.error (accessTrap (if err = 4 then 0x0E else 0x17) (opAcc a.op) a.va))
    | .none => if f.owner.isSome then endRemote s ctx gen none (opAcc a.op) a.va (refusedTrap a) err else s
    | _ =>
      if err = 0 then (if r.reg = 0 then s else applyFill s r (destValue a v))
      else endRemote s ctx gen (if r.reg = 0 then none else some r) (opAcc a.op) a.va (refusedTrap a) err
  | .resend m _ =>
    if err = 0 then s
    else { s with net := s.net ++ [{ f with body := .resend m (s.cycle + 256) }] }
  | .message m =>
    let name := BitVec.ofNat 64 (msgDst m)
    if f.owner.isNone then settleWatch s m (err == 0)
    else applyAck s ctx gen true (if err = 0 then none else if err = 2 then some (portRefused m)
      else some (accessTrap (if err = 4 then 0x0E else 0x17) .store name))
  | .post name addend _ => endRemote s ctx gen none .store name (refusedPost name 4 (zx addend)) err
  | .counterRead name _ r =>
    if err = 0 then (if r.reg = 0 then s else applyFill s r (zx (fld q.body 0 32) |>.setWidth 512))
    else endRemote s ctx gen (some r) .load name (refusedRead name r) err
  | .watch name _ _ r =>
    if err = 0 then applyFill s r ((fld q.body 0 8).setWidth 512)
    else endRemote s ctx gen (some r) .load name (refusedWatch name r) err
  | .bitmap _ va _ _ _ _ r _ =>
    if err = 0 then applyFill s r ((fld q.body 0 8).setWidth 512)
    else endRemote s ctx gen (some r) .load va (refusedWatch va r) err
  | .done names _ b =>
    let name := names.headD 0
    settleBatch (endRemote s ctx gen none .store name (refusedPost name 8 0) err) b 1
  | .arrival _ src l words trail r =>
    -- The context counts at its new node, unless it has not come there (log 74).
    let s := modLaunch s l (fun x => { x with roaming := x.roaming - 1 })
    match r with
    | some r => if err = 0 then applyFill s r 0
      else endRemote s ctx gen (some r) .load (words.getD 0 0) (refusedPost (words.getD 0 0) 64 0) err
    | none => if err = 0 then s
      else placeArrival (modLaunch s l (fun x => { x with roaming := x.roaming + 1 })) src l words { trail with moves := 2 }
  | .hoopStep a seen =>
    if err = 0 then hoopAnswer s f a seen (fld q.body 0 64)
    else
      let r := accessReply a
      endRemote s ctx gen (if r.reg = 0 then none else some r) (opAcc a.op) a.va (refusedTrap a) err
  | .lost r va m leave pa =>
    if err ≠ 0 then s
    else
      let blk : Vec := q.body.setWidth 512
      let s := if bitAt blk 127 then
          { s with net := s.net ++ [{ f with body := .resend (putFld m 96 32 (fld blk 96 29 |>.setWidth 32)) 0 }] }
        else s
      if leave then sendHoop s f (leaveAccess ctx gen r va (pa.getD 0)) (some (fld blk 0 64)) else s
  | .unspill cn l trail => unspillAnswer s cn l trail err (q.body.setWidth 512)
  | .walk cl id =>
    let v : Vec := q.body.setWidth 512
    modCluster s cl (fun c => { c with walks := c.walks.map (fun j => if j.id == id then j.answered (err, v) else j) })
  | .code cn half =>
    modCore s cn (fun x => { x with
      code := tput x.code half (err, q.body.setWidth 512), asked := x.asked.filter (fun h => h != half) })
  | _ => s

/-- An acknowledgement reaches its context, from inside the package or from another node. -/
def execAcknowledgement (src : PacketRef) (s : State) : Host.Outcome State Fault Refusal :=
  match src with
  | .net n =>
    match s.net[n]? with
    | some f => match f.body with
      | .ack ctx gen dec t => .next (applyAck { s with net := dropNth s.net n } ctx gen dec t)
      | .noRoute tag =>
        let s := { s with net := dropNth s.net n }
        match tfind s.awaiting tag with
        | some f => .next (endAwaited { s with awaiting := tdel s.awaiting tag } f
            { hdr := fabHeader s s.node 15 0 5 0 0 tag 3 0, body := 0 })
        | none => .next s
      | _ => .next s
    | none => .next s
  | .fabric q =>
    let tag := fldN q.hdr 67 16
    let lost := s.net.any (fun f => f.body == .noRoute tag)
    if ([3, 4, 5, 14] : List Nat).contains (fabOp q) && !lost then
      match tfind s.awaiting tag with
      | some f => .next (endAwaited { s with awaiting := tdel s.awaiting tag } f q)
      | none => .next s
    else .next s

/-! ### The walkers and the scanner (R59, R102) -/

/-- Misses that a core holds enter the walk queue as places free, or join a walk of their page (R102). -/
def refillWalks (s : State) (cl : Nat) : State :=
  match (List.range 8).find? (fun i => !(getCore s (8 * cl + i)).misses.isEmpty) with
  | none => s
  | some i =>
    let c := getCluster s cl
    match (getCore s (8 * cl + i)).misses with
    | [] => s
    | j :: rest =>
      let drop := fun (s : State) => modCore s (8 * cl + i) (fun x => { x with misses := rest })
      if c.walks.any (fun w => w.same j.req j.va) then
        modCluster (drop s) cl (fun c => { c with walks := c.walks.map (fun w =>
          if w.same j.req j.va then w.join j.req c.walkSeq else w), walkSeq := c.walkSeq + 1 })
      else if c.walks.length < 64 then
        modCluster (drop s) cl (fun c => { c with walks := c.walks ++ [{ j with id := c.walkSeq }], walkSeq := c.walkSeq + 1 })
      else s

/-- A walk ends: it has installed its leaf, or its result goes to the contexts that still ask for it, or to the engine. -/
def endWalk (s : State) (cl : Nat) (j : WalkJob) (left : Option Walk) : State :=
  let s := modCluster s cl (fun c => { c with walks := c.walks.filter (fun w => w.id != j.id) })
  let page := pageOf j.va
  let s := match left with
    | none => s
    | some w =>
      let s := j.waiters.foldl (fun s k =>
        if (getCtx s k).asks.contains page then modCtx s k (fun c => { c with walked := c.walked ++ [(page, w)] }) else s) s
      if j.req.who.isNone then modCluster s cl (fun c => { c with walked := c.walked ++ [(j.req.rind, j.req.asid, page, w)] }) else s
  refillWalks s cl

/-- A walk's request to another node: a read of a slot's 64 bytes, or the swap of first touch (R64, R96, R102). -/
def walkFlight (cl : Nat) (j : WalkJob) : Flight := hardwareFlight j.req.launch (.walk cl j.id)

/-- A walk goes on in another phase. -/
def setPhase (s : State) (cl : Nat) (j : WalkJob) (p : WalkPhase) : State :=
  modCluster s cl (fun c => { c with walks := c.walks.map (fun w => if w.id == j.id then { w with phase := p } else w) })

/-- The swap of first touch on a companion word that another node holds (R96). -/
def askTouch (s : State) (cl : Nat) (j : WalkJob) (e : Dword) (c : BitVec 128) (sh slot : Nat) : State :=
  let s := setPhase s cl j (.touching e c sh slot none)
  atomicRemote s (slot + 24) j.req.rind 1 (fld (homeSetTo c j.req.core) 64 64) (fld c 64 64) (some (walkFlight cl j)) j.req.launch

/-- A walk at its leaf: one that fails a check of R99 installs nothing (R102). A home that another node's table does not hold
yet is set there first (R96). -/
def walkLeaf (s : State) (cl : Nat) (j : WalkJob) (e : Dword) (c : BitVec 128) (sh slot : Nat) : State :=
  match useLeaf s j.req j.va j.acc e c sh slot with
  | (s, .error _) => endWalk s cl j (some (.leaf e c sh slot))
  | (s, .ok _) =>
    if !isLocal s slot && !homed c then askTouch s cl j e c sh slot
    else endWalk (installLeaf s j.req j.va e c sh slot) cl j none

/-- One step of a walk (R91, R96, R102). -/
def walkStep (s : State) (cl : Nat) (j : WalkJob) : State :=
  match j.phase with
  | .reading lv t asked ans =>
    match walkFrom s j.req (j.req.who.toList ++ j.waiters) j.va lv t ans with
    | (s, .wait) => s
    | (s, .fault code) => endWalk s cl j (some (.fault code))
    | (s, .leaf e c sh slot) => walkLeaf s cl j e c sh slot
    | (s, .away lv' t') =>
      if asked ∧ lv' = lv ∧ t' = t then s
      else
        let s := setPhase s cl j (.reading lv' t' true none)
        askRemote s ((t' + 32 * levelIndex j.va lv') / 64 * 64) j.req.rind (walkFlight cl j) j.req.launch
  | .touching e c sh slot ans =>
    match ans with
    | none => s
    | some (err, v) =>
      if err ≠ 0 then endWalk s cl j (some (.fault (if err = 4 then 0x0E else 0x17)))
      else
        let now : Dword := fld v 0 64
        if now = fld c 64 64 then endWalk (installLeaf s j.req j.va e (homeSetTo c j.req.core) sh slot) cl j none
        else
          let c := putFld c 64 64 now
          if compHomeset c then endWalk (installLeaf s j.req j.va e c sh slot) cl j none else askTouch s cl j e c sh slot

/-- One of the 16 walkers of a cluster takes a step of the walk that it carries for an address: the queue's first 16 are
carried (R102). -/
def execPageWalk (core ctx : Nat) (va : BitVec 64) (acc : AccKind) (s : State) : Host.Outcome State Fault Refusal :=
  let cl := coreCluster core
  match ((getCluster s cl).walks.take 16).find? (fun j => pageOf j.va == pageOf va && j.acc == acc
      && (j.req.who == none || j.req.who == some (ctxKey core ctx))) with
  | some j => .next (walkStep s cl j)
  | none => .next s

/-- The scanner reads the page that the running context of a core fetches from (R57 to R60). -/
def execCodePageScan (core : Nat) (va : BitVec 64) (s : State) : Host.Outcome State Fault Refusal :=
  match (getCore s core).running with
  | none => .next s
  | some k =>
    let c := getCtx s k
    if c.pc.toNat / 65536 = va.toNat / 65536 then .next (translateFetch s (ctxReq s k) c.pc).1 else .next s

end Sys2Proof.Machine
end

