-- ==== Sys2Proof/Machine/Engine.lean ====
section
/-!
DEFINITION. What the engines share: command images (R179, R288, R308), their translations and accesses (R101, R120,
R165 to R167, R209, R321, R322), and their completion objects (R183, R294).
-/

namespace Sys2Proof.Machine

/-! ### Command images -/

/-- Fields of a command image that all engines lay out alike (R179, R288, R308). -/
def imgKind (m : BitVec 512) : Nat := fldN (msgPayload m) 0 4
def imgOrd (m : BitVec 512) : BitVec 2 := fld (msgPayload m) 4 2
def imgScope (m : BitVec 512) : Nat := fldN (msgPayload m) 6 2
def imgReg (m : BitVec 512) : Nat := fldN (msgPayload m) 11 5
def imgCtx (m : BitVec 512) : Nat := fldN (msgPayload m) 16 8
def imgGen (m : BitVec 512) : BitVec 8 := fld (msgPayload m) 24 8
def imgCore (m : BitVec 512) : Nat := coreOfField (fldN (msgPayload m) 33 11)
def imgRind (m : BitVec 512) : Nat := fldN (msgPayload m) 44 4
def imgAsid (m : BitVec 512) : Nat := fldN (msgPayload m) 48 16
def imgPbva (m : BitVec 512) : Dword := fld (msgPayload m) 64 64
def imgArg (m : BitVec 512) : Dword := fld (msgPayload m) 128 64

/-- The common fields of a command of a context, as a number: its kind, order, scope, reply register, context,
generation, core, Rind and ASID. -/
def imageBase (s : State) (k kind : Nat) (o sc : BitVec 2) (reg : Nat) : Nat :=
  let c := getCtx s k
  kind + o.toNat * 2 ^ 4 + sc.toNat * 2 ^ 6 + reg % 32 * 2 ^ 11 + stCtx c.st * 2 ^ 16 + (stGen c.st).toNat * 2 ^ 24
    + coreField (ctxCore k) * 2 ^ 33 + stRind c.st * 2 ^ 44 + fldN (getRec s (ctxCore k) (c.launch.getD 0)).asid 0 16 * 2 ^ 48

/-- The whole command message to an engine of the issuing core's cluster (R328): dk 1 Ladle, 2 Press, 3 Harp, and the
engine's index in the port field. -/
def commandMessage (s : State) (k dk index : Nat) (image : BitVec 384) : BitVec 512 :=
  let c := getCtx s k
  mkMessage (mkHeader (portName s (8 * coreCluster (ctxCore k)) index) 0 dk (stRind c.st) false 0 (coreField (ctxCore k)) 0 0
    (stCtx c.st)) image

/-- A command on its way to the inbox of engine e of the issuing core's cluster, its reply register emptied (R178, R287,
R308). With acq it counts as a release store, and without it as a plain one (R187, R294, R318). -/
def sendCommand (s : State) (k e : Nat) (m : BitVec 512) (body : Vec) (o sc : BitVec 2) (r : Reply) : State :=
  let c := getCtx s k
  let s := modCtx s k (fun c => c.setEmpty r.reg true)
  launchPacket s (some (k, stGen c.st)) { sendOrd false (ordAcq o) with scope := sc.toNat }
    (.command (8 * coreCluster (ctxCore k) + e) m body c.launch r)

/-! ### Accesses of engines -/

/-- The requester of a command at a cluster (R101, R179): first touch and the group check are the issuing core's. -/
def engReq (s : State) (cl : Nat) (q : Queued) (sys : Bool) : Req :=
  let core := imgCore q.msg
  { rind := imgRind q.msg, asid := imgAsid q.msg,
    root := fldN (getRec s core (q.launch.getD 0)).root 14 43 * 16384, user := !sys,
    core := if coreCluster core = cl then core else 8 * cl, launch := q.launch, engine := true }

/-- One access of an engine. -/
structure EngWant where
  op   : AccOp
  n    : Nat
  va   : Dword
  data : Vec := 0
  be   : BitVec 64 := BitVec.allOnes 64
  /-- The column view is asked for (R215). -/
  col  : Bool := false
  /-- The access is to a compressed block (R210, R323). -/
  comp : Bool := false
  /-- The order and scope that a request to another node carries (R414). -/
  ord  : Ord := sendOrd false false
deriving DecidableEq, Repr

/-- What an engine's access comes to. A fault carries the cause that a core access would have taken, 0 for none. -/
inductive EngRes where
  | ok (v : Vec)
  | fault (code : Nat)
  | refused
  | dataError
  /-- A walk is under way: nothing is done in this step (R102). -/
  | hold
deriving DecidableEq, Repr

/-- The context key of an agent that is no context: windows are always checked (R165). -/
def engineKey : Nat := ctxKey 4096 0

/-- An engine's access to a translated address. -/
def engAcc (s : State) (r : Req) (x : Xl) (w : EngWant) : Access :=
  { ctx := engineKey, gen := 0, inTrap := false, op := w.op, dest := .none, n := w.n, pa := x.pa, va := w.va,
    data := w.data, expect := 0, pkind := x.pkind, home := x.home, col := if w.col then some true else none,
    nalloc := false, rind := r.rind, launch := r.launch, size := 4, born := s.tick }

/-- An access to another node: the packet is sent, and the answer is a free choice (log 12). -/
def engRemote (s : State) (r : Req) (x : Xl) (w : EngWant) : State × EngRes :=
  let t := s.tick * 65536 + s.nextTag.toNat
  (sendRequest s none w.ord (engAcc s r x w), match Config.choice 40 t % 4 with
    | 0 => .ok (Config.freeVec 40 t &&& BitVec.ofNat 512 (2 ^ (8 * w.n) - 1))
    | 1 => .refused
    | 2 => .fault 0x17
    | _ => .dataError)

/-- A store with byte enables performed at its home (R200, R321, R322). -/
def engStoreAt (s : State) (a : Access) (be : BitVec 64) : State × EngRes :=
  let la := paLocal a.pa
  let view := accessView s a
  if a.pkind = 3 ∧ !windowAdmits s (scratchCore la) (la % 2 ^ 18) a.n true then
    (modCore s (scratchCore la) (fun c => { c with nack := c.nack + 1 }), .refused)
  else (fireBitmaps (homeWrite s a.home la a.n a.data be view (accessVia a)) la a.n view, .ok 0)

/-- An access of an engine to a translated address of this package. -/
def engPerform (s : State) (r : Req) (x : Xl) (w : EngWant) : State × EngRes :=
  let a := engAcc s r x w
  match w.op with
  | .store => engStoreAt s a w.be
  | _ => match performAt s a with
    | (s, .ok v) => (s, .ok v)
    | (s, .refused) => (s, .refused)
    | (s, .dataError) => (s, .dataError)

/-- The page or its frame is one that core accesses take compressed-access at (R209). -/
def compressedAt (s : State) (x : Xl) : Bool := x.pkind == 1 || (isLocal s x.pa && inKind7 s (paLocal x.pa))

/-- The cause that a core access takes where a block is not a compressed one (R184, R209): 0 when it takes none. -/
def plainCause (s : State) (x : Xl) : Nat := if compressedAt s x then 0x18 else 0

/-- A page of kind 1 whose frame on this package lies in a region of kind 7 (R210, R323). -/
def compressedPlace (s : State) (x : Xl) : Bool := isLocal s x.pa && x.pkind == 1 && inKind7 s (paLocal x.pa)

/-- Why a translated access of an engine is not performed: a cause code (R115, R128, R152, R209). A column view of a frame of
another node is refused, as for cores (log 68). -/
def engRefuses (s : State) (x : Xl) (w : EngWant) : Option Nat :=
  let la := paLocal x.pa
  if w.comp then (if compressedPlace s x then none else some (plainCause s x))
  else if w.col && (columnBad s x.pkind la x.home || !isLocal s x.pa) then some 0x1A
  else if compressedAt s x then some 0x18
  else if opAtomic w.op && (x.pkind == 4 || windowOf la == .alias_ || (x.pkind == 2 && w.n == 8)) then some 0x19
  else none

/-- An access of an engine translated and checked, and what is then done with it (R101, R115, R128, R152, R209). The walker's
updates follow the checks (R100). -/
def engWith (act : State → Req → Xl → EngWant → State × EngRes) (s : State) (r : Req) (w : EngWant) : State × EngRes :=
  match translate s r w.va (opAcc w.op) with
  | (s, .error (.fault code)) => (s, .fault code)
  | (s, .error .walking) => (s, .hold)
  | (s, .ok x) => match engRefuses s x w with
    | some code => (s, .fault code)
    | none => act (touchLeaf s r x (opAcc w.op)) r x w

/-- One access of an engine, performed at once (R120, R167). -/
def engAccess (s : State) (r : Req) (w : EngWant) : State × EngRes :=
  engWith (fun s r x w => if isLocal s x.pa then engPerform s r x w else engRemote s r x w) s r w

/-- A store of an engine issued and not yet performed: it is on its way to its home (R187). -/
def engIssue (s : State) (r : Req) (w : EngWant) : State × EngRes :=
  engWith (fun s r x w =>
    ({ s with net := s.net ++ [{ owner := none, ord := w.ord, launch := none, body := .access (engAcc s r x w) }] }, .ok 0)) s r w

/-- A store of a command's result: performed, or with rel = 0 only issued, as a free choice gives (R187). -/
def engStore (s : State) (r : Req) (late : Bool) (w : EngWant) : State × EngRes :=
  if late then engIssue s r w else engAccess s r w

/-- Whether the stores of a command's step are only issued: never under rel = 1 (R187, R294). -/
def mayIssue (s : State) (q : Queued) : Bool := !ordRel (imgOrd q.msg) && Config.choice 46 s.tick % 2 == 1

/-- How a list of accesses ended: all done with the values, one that failed with its address, or none of them done. -/
inductive EngList where
  | ok (vs : List Vec)
  | failed (va : Dword) (r : EngRes)
  | hold
deriving DecidableEq, Repr

/-- Accesses one after another; the first that fails ends the list. -/
def engAll (s : State) (r : Req) : List EngWant → List Vec → State × EngList
  | [], acc => (s, .ok acc.reverse)
  | w :: ws, acc =>
    match engAccess s r w with
    | (s, .ok v) => engAll s r ws (v :: acc)
    | (s, .hold) => (s, .hold)
    | (s, .fault code) => (s, .failed w.va (.fault code))
    | (s, .refused) => (s, .failed w.va .refused)
    | (s, .dataError) => (s, .failed w.va .dataError)

/-- Stores of a command's result one after another, performed or only issued (R187); the first that fails ends the list. -/
def storeAll (s : State) (r : Req) (late : Bool) : List EngWant → State × EngList
  | [] => (s, .ok [])
  | w :: ws =>
    match engStore s r late w with
    | (s, .ok _) => storeAll s r late ws
    | (s, .hold) => (s, .hold)
    | (s, .fault code) => (s, .failed w.va (.fault code))
    | (s, .refused) => (s, .failed w.va .refused)
    | (s, .dataError) => (s, .failed w.va .dataError)

/-- A step whose accesses wait for a walk is not taken: of it only the walks asked for stay. -/
def keepWalks (s t : State) (cl : Nat) : State :=
  let c := getCluster t cl
  modCluster s cl (fun x => { x with walks := c.walks, walkSeq := c.walkSeq })

/-- The low n bytes of values, joined in order. -/
def joinBytes (n : Nat) (vs : List Vec) : List Byte := vs.flatMap (fun v => bytesOf v n)

/-- The status, address and cause that a failed access gives a command (R182, R293): f is the status of a fault. -/
def failEnding (f : Nat) (va : Dword) (e : EngRes) (prog : Word) : Ending :=
  match e with
  | .fault code => { status := f, fva := va, cause := code, prog := prog }
  | .refused => { status := 4, fva := va, prog := prog }
  | _ => { status := 6, fva := va, cause := 0x0E, prog := prog }

/-! ### Completion objects (R183, R184, R294) -/

/-- A status word of a Ladle or Press (R182, R293). -/
def statusWord (e : Ending) (tag : Nat) : Dword :=
  BitVec.ofNat 64 (e.prog.toNat * 2 ^ 32 + (if e.prog = BitVec.allOnes 32 then 0 else tag % 65536 * 2 ^ 16) + e.status % 256)

/-- The completion message (R184). The spec gives an engine no core number: scor is a free value. -/
def completionMessage (s : State) (port rind : Nat) (sw pbva : Dword) (e : Ending) : BitVec 512 :=
  mkMessage (mkHeader port 0 0 rind false 0 (fldN (Config.freeVec 3 s.tick) 0 11) 4 0 0xFF)
    (BitVec.ofNat 384 (sw.toNat + e.fva.toNat * 2 ^ 64 + pbva.toNat * 2 ^ 128 + e.cause % 256 * 2 ^ 192))

/-- What a posting of a finished command carries to another node: with rel it is a release store at the command's scope
(R187, R294, R414). -/
def postOrd (q : Queued) : Ord := { sendOrd false (ordRel (imgOrd q.msg)) with scope := imgScope q.msg }

/-- The increment of a counter named by a block (R181, R183): in flight to its core, here or on another node. -/
def postCounter (s : State) (name : Dword) (rind : Nat) (launch : Option Nat) (o : Ord) : State :=
  if bitAt name 63 then { s with net := s.net ++ [{ owner := none, ord := o, body := .post name 1 rind, launch := launch }] } else s

/-- The packets that s has put in flight since t are one series. -/
def asSeries (s t : State) : State :=
  { s with net := s.net.take t.net.length ++ (s.net.drop t.net.length).map (fun f => { f with series := t.tick + 1 }) }

/-- The objects of a finished command, in order: the reply fill, the message if a port is given, and on status 0 the
counter (R183, R294). -/
def postObjects (s : State) (q : Queued) (e : Ending) (tag : Nat) (port : Option Nat) (pbva ctr : Dword) : State :=
  let t := s
  let sw := statusWord e tag
  let o := postOrd q
  let s := sendFillD s q.reply sw
  let s := match port with
    | some p => launchPacket s none o (.resend (completionMessage s p (imgRind q.msg) sw pbva e) 0)
    | none => s
  let s := if e.status = 0 then postCounter s ctr (imgRind q.msg) q.launch o else s
  asSeries s t

/-- A counter name of a block is malformed (R181). -/
def blockCtrBad (s : State) (rind : Nat) (ctr : Dword) : Bool := bitAt ctr 63 && ctrBad s rind ctr

/-- Whether a command and its context's launch and tag are those that a stop or query names. -/
def sameLaunch (c : Ctx) (q : Queued) : Bool := q.launch == c.launch

/-- A command of the context is still on its way to an engine: a query or stop of that engine follows it (log 4). -/
def commandUnderway (s : State) (k unit : Nat) : Bool :=
  s.net.any (fun f => ownedBy k f && (match f.body with
    | .command u .. => u == unit
    | _ => false))

/-- A 64-byte block as memory holds it, for a command that still waits in its inbox (R191, R297). -/
def peekBlock (s : State) (r : Req) (va : Dword) : Option (BitVec 512) :=
  if va.toNat % 64 ≠ 0 then none
  else match engAccess s r { op := .load, n := 64, va := va } with
    | (_, .ok v) => some v
    | _ => none

/-! ### Header tables (R81) -/

/-- The local address of the header of the compressed block at a local address. -/
def headerAddr (s : State) (la : Nat) : Nat := rmBase (rmapOf s (la / 2 ^ 30)) + 32 * (la % 2 ^ 30 / 4096)

/-- The header table of a region lies in plain regions of the Rind (R68). -/
def headerOk (s : State) (rind la : Nat) : Bool := tableOk s rind (rmBase (rmapOf s (la / 2 ^ 30))) (2 ^ 23)

/-- A header read or written by a Ladle, which names it by no virtual address (log 19). none: it cannot be corrected. -/
def headerRead (s : State) (a : Nat) (launch : Option Nat) : State × Option (BitVec 256) :=
  let (s, bs) := physRead s ((List.range 32).map (fun i => a + i)) { launch := launch }
  (s, bs.map (ofBytes 256))

def headerWrite (s : State) (a : Nat) (h : BitVec 256) (launch : Option Nat) : State :=
  physWrite s (cellsOf (fun i => a + i) 32 (h.setWidth 512) (BitVec.allOnes 64)) { launch := launch }

end Sys2Proof.Machine
end

