-- ==== Sys2Proof/Machine/Ladle.lean ====
section
/-!
DEFINITION. The Ladles: their commands, acceptance, the movement of chunks, expansion and compression of blocks,
completion bitmaps and completions (R176 to R193, R209 to R217, R323 to R325).
-/

namespace Sys2Proof.Machine

/-! ### The instructions (R177, R178, R186, R191, R192) -/

/-- The command message of a Ladle (R179). -/
def ladleMessage (s : State) (k kind : Nat) (o sc : BitVec 2) (reg : Nat) (ladle : Nat) (pbva arg : Dword) : BitVec 512 :=
  let sys := if stSys (getCtx s k).st then 2 ^ 32 else 0
  commandMessage s k 1 ladle
    (BitVec.ofNat 384 (imageBase s k kind o sc reg + sys + pbva.toNat * 2 ^ 64 + arg.toNat * 2 ^ 128))

/-- CPY, CPYM and CPYC after the register test. -/
def copyBody (kind : Nat) (d a : BitVec 5) (arg : Ctx → Dword) (l : BitVec 1) (sc o : BitVec 2) (s : State) (c : Ctx) :
    State × Done :=
  let k := s.me
  let pb := c.readG a.toNat
  if pb.toNat % 64 ≠ 0 then (s, .trap (simpleTrap 0x02 pb))
  else if kind = 2 ∧ (arg c).toNat % 64 ≠ 0 then (s, .trap (simpleTrap 0x02 (arg c)))
  else (sendCommand s k l.toNat (ladleMessage s k kind o sc d.toNat l.toNat pb (arg c)) 0 o sc (replyOf s k d.toNat), .next)

def execCpy (d a : BitVec 5) (l : BitVec 1) (sc o : BitVec 2) (s : State) : Host.Outcome State Fault Refusal :=
  issue s { reads := [gr a], writes := [gr d] } (copyBody 0 d a (fun _ => 0) l sc o)

def execCpym (d a b : BitVec 5) (l : BitVec 1) (sc o : BitVec 2) (s : State) : Host.Outcome State Fault Refusal :=
  issue s { reads := [gr a, gr b], writes := [gr d] } (copyBody 1 d a (fun c => c.readG b.toNat) l sc o)

def execCpyc (d a b : BitVec 5) (l : BitVec 1) (sc o : BitVec 2) (s : State) : Host.Outcome State Fault Refusal :=
  issue s { reads := [gr a, gr b], writes := [gr d] } (copyBody 2 d a (fun c => c.readG b.toNat) l sc o)

/-- The entries of every Ladle's block cache of a Rind that satisfy a test are removed (R186). -/
def dropBlocks (s : State) (rind : Nat) (f : Nat → Bool) : State :=
  let cs := (s.clusters.filter (fun e => e.2.rind == some rind)).map (fun e => e.1)
  cs.foldl (fun s cl => modCluster s cl (fun c =>
    { c with bcache := List.map (fun (e : Nat × List (Nat × Nat × BitVec 16 × BitVec 512)) =>
        (e.1, e.2.filter (fun x => !f x.1))) c.bcache })) s

def execCpbiBlk (d a : BitVec 5) (s : State) : Host.Outcome State Fault Refusal :=
  issue s { reads := [gr a], writes := [gr d] } (fun s c =>
    let k := s.me
    let va := c.readG a.toNat
    match translate s (ctxReq s k) va .load with
    | (s, .error n) => (s, (noXl .load va n).done)
    | (s, .ok x) =>
      let s := touchLeaf s (ctxReq s k) x .load
      (answer (dropBlocks s (stRind c.st) (fun pa => pa == x.pa / 64 * 64)) k d 0, .next))

def execCpbiAll (d : BitVec 5) (s : State) : Host.Outcome State Fault Refusal :=
  issue s { writes := [gr d] } (fun s c =>
    let s := modRind s (stRind c.st) (fun r => { r with blkGen := r.blkGen + 1 })
    (answer (dropBlocks s (stRind c.st) (fun _ => true)) s.me d 0, .next))

/-! ### Parameter blocks (R180, R181, R212, R216, R323) -/

def pbSrc (b : BitVec 512) : Dword := fld b 0 64
def pbDst (b : BitVec 512) : Dword := fld b 64 64
def pbRowbytes (b : BitVec 512) : Nat := fldN b 128 21
def pbRows (b : BitVec 512) : Nat := fldN b 160 16
def pbSstride (b : BitVec 512) : Dword := sx (fld b 192 32)
def pbDstride (b : BitVec 512) : Dword := sx (fld b 224 32)
def pbXform (b : BitVec 512) : Nat := fldN b 256 4
def pbTag (b : BitVec 512) : Nat := fldN b 304 16
def pbBmap (b : BitVec 512) : Dword := fld b 320 64
def pbCtr (b : BitVec 512) : Dword := fld b 384 64
def pbStart (b : BitVec 512) : Nat := fldN b 448 32
/-- L of R181. -/
def pbLen (b : BitVec 512) : Nat := pbRows b * pbRowbytes b

/-- A malformed parameter block. -/
def pbBad (s : State) (rind : Nat) (b : BitVec 512) : Bool :=
  let m := fun (x n : Nat) => x % n != 0
  let x := pbXform b
  m (pbSrc b).toNat 4 || m (pbDst b).toNat 4 || m (pbRowbytes b) 4 || m (pbSstride b).toNat 4 || m (pbDstride b).toNat 4
    || m (pbStart b) 4 || decide (0xFFFFFFFC < pbLen b) || decide (pbLen b < pbStart b) || decide (1048576 < pbRowbytes b)
    || decide (3 < x) || blockCtrBad s rind (pbCtr b)
    || (x == 1 && (m (pbSrc b).toNat 4096 || m (pbSstride b).toNat 4096 || m (pbRowbytes b) 4096 || m (pbStart b) 4096
        || m (pbDst b).toNat 64 || m (pbDstride b).toNat 64))
    || (x == 2 && (m (pbDst b).toNat 4096 || m (pbDstride b).toNat 4096 || m (pbRowbytes b) 4096 || m (pbStart b) 4096
        || m (pbSrc b).toNat 64 || m (pbSstride b).toNat 64))
    || (pbBmap b != 0 && (m (pbBmap b).toNat 64 || decide (262144 < pbLen b)))

/-- The source and destination address of a traversal offset (R181). -/
def srcAt (b : BitVec 512) (o : Nat) : Dword :=
  pbSrc b + BitVec.ofNat 64 (o / pbRowbytes b) * pbSstride b + BitVec.ofNat 64 (o % pbRowbytes b)
def dstAt (b : BitVec 512) (o : Nat) : Dword :=
  pbDst b + BitVec.ofNat 64 (o / pbRowbytes b) * pbDstride b + BitVec.ofNat 64 (o % pbRowbytes b)

/-- Bytes of a piece of a copy: a 512-byte chunk, or a block for xform 2 (R216, R325). -/
def pieceBytes (b : BitVec 512) : Nat := if pbXform b = 2 then 4096 else 512

/-- The number of the first piece, and one more than that of the last. -/
def firstPiece (b : BitVec 512) : Nat := pbStart b / pieceBytes b
def endPiece (b : BitVec 512) : Nat := if pbLen b ≤ pbStart b then firstPiece b else (pbLen b - 1) / pieceBytes b + 1

/-- The lowest piece from one on that is not in a list; the list's length bounds the search. -/
def firstUndone (done : List Nat) : Nat → Nat → Nat
  | 0, c => c
  | f + 1, c => if done.contains c then firstUndone done f (c + 1) else c

/-- Every piece of the copy has been moved. -/
def allMoved (x : Copy) : Bool := decide (endPiece x.block ≤ firstPiece x.block + x.done.length)

/-- The pieces that are certainly written: a piece whose words have only been issued is not among them (R187). -/
def writtenPieces (x : Copy) : List Nat := x.done.filter (fun n => !x.late.contains n)

/-- off of R182: the lowest traversal offset not certainly written; L once the last write is issued. -/
def copyOff (x : Copy) : Nat :=
  let b := x.block
  if allMoved x then pbLen b
  else max (pbStart b) (firstUndone (writtenPieces x) (x.done.length + 1) (firstPiece b) * pieceBytes b)

/-- The status word's off as a word; none stands for a block that was never used. -/
def offWord (o : Nat) : Word := BitVec.ofNat 32 o

/-- off at a query: that of the ending, once there is one (R182, R191). -/
def offNow (x : Copy) : Word :=
  match x.ending with
  | some e => e.prog
  | none => offWord (copyOff x)

/-! ### Queries and stops (R191, R192) -/

/-- The requester of a Ladle command: its sys bit is bit 32 (R179). -/
def ladleReq (s : State) (cl : Nat) (q : Queued) : Req := engReq s cl q (bitAt (msgPayload q.msg) 32)

/-- The active places of a Ladle, oldest acceptance first. -/
def activeCopies (s : State) (cl ladle : Nat) : List (Nat × Copy) :=
  ((getCluster s cl).copies.filter (fun e => e.1 / 4 == ladle)).mergeSort (fun x y => decide (x.2.seq ≤ y.2.seq))

/-- The tag of a command that waits in an inbox: that of its block as memory holds it at the query. -/
def queuedTag (s : State) (cl : Nat) (q : Queued) : Option Nat := (peekBlock s (ladleReq s cl q) (imgPbva q.msg)).map pbTag

/-- The query form of CSTAT. -/
def copyState (s : State) (cl ladle : Nat) (c : Ctx) (tag : Nat) : Dword :=
  match (activeCopies s cl ladle).find? (fun e => sameLaunch c e.2.cmd && e.2.known && pbTag e.2.block == tag) with
  | some (_, x) => at64 (offNow x).toNat 32 ||| at64 tag 16 ||| (if x.stopping then 3 else 2)
  | none =>
    if (inboxOf s cl ladle).any (fun q => sameLaunch c q && queuedTag s cl q == some tag) then
      at64 0xFFFFFFFF 32 ||| at64 tag 16 ||| 1
    else at64 tag 16

def execCstat (d a : BitVec 5) (l : BitVec 1) (s : State) : Host.Outcome State Fault Refusal :=
  issue s { reads := [gr a], writes := [gr d] } (fun s c =>
    let k := s.me
    let cl := coreCluster (ctxCore k)
    if commandUnderway s k (8 * cl + l.toNat) then (s, .hold)
    else (answer s k d (copyState s cl l.toNat c (fldN (c.readG a.toNat) 0 16)), .next))

/-- An active copy that a stop ends: it has not come to an end. A CPYC has not while its follow-on is not accepted (R190). -/
def stoppable (x : Copy) : Bool := x.ending.isNone && !x.stopping && (x.follow.isSome || !allMoved x)

/-- A command that ends before it is accepted (R192, R297): status 1 with the progress word of all ones. -/
def endQueued (s : State) (q : Queued) (port : Option Nat) : State :=
  postObjects s q { status := 1, prog := BitVec.allOnes 32 } 0 port (imgPbva q.msg) 0

/-- The port that a Ladle command's completion message goes to: CPYM only (R183). -/
def copyPort (q : Queued) : Option Nat := if imgKind q.msg = 1 then some ((imgArg q.msg).toNat % 2 ^ 32) else none

def execCstatStop (d a : BitVec 5) (l : BitVec 1) (s : State) : Host.Outcome State Fault Refusal :=
  issue s { reads := [gr a], writes := [gr d] } (fun s c =>
    let k := s.me
    let cl := coreCluster (ctxCore k)
    if commandUnderway s k (8 * cl + l.toNat) then (s, .hold)
    else
      let tag := fldN (c.readG a.toNat) 0 16
      let hit := fun (q : Queued) => sameLaunch c q && queuedTag s cl q == some tag
      let gone := (inboxOf s cl l.toNat).filter hit
      let act := ((getCluster s cl).copies.filter (fun e => e.1 / 4 == l.toNat && sameLaunch c e.2.cmd
        && e.2.known && pbTag e.2.block == tag && stoppable e.2))
      let s := setInbox s cl l.toNat ((inboxOf s cl l.toNat).filter (fun q => !hit q))
      let s := gone.foldl (fun s q => endQueued s q (copyPort q)) s
      let s := act.foldl (fun s e => modCluster s cl (fun x =>
        { x with copies := tput x.copies e.1 { e.2 with stopping := true } })) s
      (answer s k d (BitVec.ofNat 64 (gone.length + act.length)), .next))

/-! ### Acceptance (R176, R185, R190) -/

/-- What a read at acceptance comes to. -/
inductive Accepted where
  | block (b : BitVec 512)
  | unusable (status : Nat)
  | hold
deriving DecidableEq, Repr

/-- A store of the issuing context to the bytes of a block, made before the command's issue, has not been performed (R185). -/
def storeBefore (s : State) (q : Queued) (pa : Nat) : Bool :=
  match q.owner with
  | none => false
  | some (k, _) => (pendingOf s k).any (fun f => f.ord.st && decide (f.ord.born < q.ord.born)
      && f.ord.overlaps { f.ord with lo := pa, hi := pa + 64, col := isLocal s pa && colBit s (pathOf s (paLocal pa)).die (paLocal pa) })

/-- A 64-byte block read at acceptance (R185, R190); a refusal has the status of R167. -/
def acceptRead (s : State) (r : Req) (va : Dword) (bad refused : Nat) : State × Accepted :=
  match engAccess s r { op := .load, n := 64, va := va } with
  | (s, .ok v) => (s, .block v)
  | (s, .hold) => (s, .hold)
  | (s, .refused) => (s, .unusable refused)
  | (s, _) => (s, .unusable bad)

/-- The parameter block, from the Ladle's cache when the turn says so and an entry is there, else from memory, which
enters it; the context's own earlier stores to it come first (R185). -/
def readParams (s : State) (cl ladle : Nat) (r : Req) (q : Queued) (cached : Bool) : State × Accepted :=
  let va := imgPbva q.msg
  let gen := (getRind s r.rind).blkGen
  let cache := tget [] (getCluster s cl).bcache ladle
  match translate s r va .load with
  | (s, .error (.fault _)) => (s, .unusable 5)
  | (s, .error .walking) => (s, .hold)
  | (s, .ok x) =>
    if storeBefore s q x.pa then (s, .hold)
    else match (if cached then cache.find? (fun e => e.1 == x.pa && e.2.1 == r.rind && e.2.2.1 == gen) else none) with
    | some (_, _, _, b) => (s, .block b)
    | none =>
      match acceptRead s r va 5 4 with
      | (s, .block b) =>
        let kept := cache.filter (fun e => e.1 != x.pa)
        let kept := if kept.length < 32 then kept else dropNth kept (Config.choice 4 s.tick % kept.length)
        (modCluster s cl (fun c => { c with bcache := tput c.bcache ladle (kept ++ [(x.pa, r.rind, gen, b)]) }), .block b)
      | res => res

/-- A follow-on block that names no Press of this node (R190). The spec gives no condition under which a follow-on is malformed:
that one naming no such Press ends the copy with status 5 is the model's choice (log 31). -/
def followBad (s : State) (m : BitVec 512) : Bool :=
  let d := msgDst m
  msgDk m != 2 || nameNode d != s.node || decide (4 ≤ d % 64)

/-- A copy as it enters an active place. -/
def newCopy (q : Queued) (b : Option (BitVec 512)) (f : Option (BitVec 512)) (e : Option Ending) : Copy :=
  { cmd := q, block := b.getD 0, follow := f, done := [], ending := e, stopping := false, known := b.isSome }

/-- A copy accepted: its snapshot, and how it ends at once when a block is unusable. -/
def acceptCopy (s : State) (cl ladle : Nat) (q : Queued) (cached : Bool) : State × Option Copy :=
  let r := ladleReq s cl q
  let never := fun (b : Option (BitVec 512)) (va : Dword) (st : Nat) =>
    some (newCopy q b none (some { status := st, fva := if st = 4 then va else 0, prog := BitVec.allOnes 32 }))
  match readParams s cl ladle r q cached with
  | (s, .hold) => (s, none)
  | (s, .unusable st) => (s, never none (imgPbva q.msg) st)
  | (s, .block b) =>
    let bad := pbBad s r.rind b
    let ok := fun (f : Option (BitVec 512)) => some (newCopy q (some b) f none)
    if imgKind q.msg = 2 then
      match acceptRead s r (imgArg q.msg) 5 4 with
      | (s, .hold) => (s, none)
      | (s, .unusable st) => (s, never (some b) (imgArg q.msg) st)
      | (s, .block m) => if bad || followBad s m then (s, never (some b) 0 5) else (s, ok (some m))
    else if bad then (s, never (some b) 0 5) else (s, ok none)

/-- A Ladle with a free place accepts the oldest command of its inbox. -/
def execLadleAccept (cluster ladle : Nat) (cached : Bool) (s : State) : Host.Outcome State Fault Refusal :=
  if 2 ≤ ladle then .next s
  else
    match inboxOf s cluster ladle, (List.range 4).find? (fun i => (tfind (getCluster s cluster).copies (4 * ladle + i)).isNone) with
    | q :: rest, some i =>
      match acceptCopy s cluster ladle q cached with
      | (s, none) => .next s
      | (s, some x) =>
        let s := setInbox s cluster ladle rest
        .next (modCluster s cluster (fun c => { c with
          copies := tput c.copies (4 * ladle + i) { x with seq := c.copySeq }, copySeq := c.copySeq + 1 }))
    | _, _ => .next s

/-! ### Moving words (R181, R188, R215) -/

/-- How the movement of a piece ends. -/
inductive Moved where
  | done
  | hold
  | failed (e : Ending)
deriving DecidableEq, Repr

/-- The words at a list of traversal offsets moved one by one, each written or only issued; the first that fails ends the
piece. -/
def moveWords (r : Req) (late : Bool) (b : BitVec 512) : List Nat → State → State × Moved
  | [], s => (s, .done)
  | o :: os, s =>
    match engAccess s r { op := .load, n := 4, va := srcAt b o, col := pbXform b == 3 } with
    | (s, .hold) => (s, .hold)
    | (s, .ok v) =>
      match engStore s r late { op := .store, n := 4, va := dstAt b o, data := v } with
      | (s, .ok _) => moveWords r late b os s
      | (s, .hold) => (s, .hold)
      | (s, .fault code) => (s, .failed (failEnding 3 (dstAt b o) (.fault code) (offWord o)))
      | (s, .refused) => (s, .failed (failEnding 3 (dstAt b o) .refused (offWord o)))
      | (s, .dataError) => (s, .failed (failEnding 3 (dstAt b o) .dataError (offWord o)))
    | (s, .fault code) =>
      if pbXform b = 3 ∧ code = 0x1A then (s, .failed { status := 9, prog := offWord o })
      else (s, .failed (failEnding 2 (srcAt b o) (.fault code) (offWord o)))
    | (s, .refused) => (s, .failed (failEnding 2 (srcAt b o) .refused (offWord o)))
    | (s, .dataError) => (s, .failed (failEnding 2 (srcAt b o) .dataError (offWord o)))

/-- The traversal offsets of the words of a chunk (R216). -/
def chunkWords (b : BitVec 512) (c : Nat) : List Nat :=
  let lo := max (pbStart b) (512 * c)
  let hi := min (pbLen b) (512 * c + 512)
  (List.range ((hi - lo) / 4)).map (fun i => lo + 4 * i)

/-- Words of content written to destinations from a traversal offset on. -/
def putWords (r : Req) (late : Bool) (b : BitVec 512) : List (Nat × Vec) → State → State × Moved
  | [], s => (s, .done)
  | (o, v) :: rest, s =>
    match engStore s r late { op := .store, n := 4, va := dstAt b o, data := v } with
    | (s, .ok _) => putWords r late b rest s
    | (s, .hold) => (s, .hold)
    | (s, .fault code) => (s, .failed (failEnding 3 (dstAt b o) (.fault code) (offWord o)))
    | (s, .refused) => (s, .failed (failEnding 3 (dstAt b o) .refused (offWord o)))
    | (s, .dataError) => (s, .failed (failEnding 3 (dstAt b o) .dataError (offWord o)))

/-! ### Expansion (R209 to R213) -/

/-- A compressed block read and expanded (R210): its 4,096 bytes. Status 2 for a source that is not one. -/
inductive Expanded where
  | ok (bs : List Byte)
  | malformed
  | failed (va : Dword) (r : EngRes)
  | hold
deriving DecidableEq, Repr

/-- The block at a source address expanded. -/
def expandAt (s : State) (r : Req) (va : Dword) : State × Expanded :=
  match translate s r va .load with
  | (s, .error (.fault code)) => (s, .failed va (.fault code))
  | (s, .error .walking) => (s, .hold)
  | (s, .ok x) =>
    let la := paLocal x.pa
    if !compressedPlace s x then (s, .failed va (.fault (plainCause s x)))
    else if !headerOk s r.rind la then (s, .failed va (.fault 0x17))
    else match headerRead s (headerAddr s la) r.launch with
      | (s, none) => (s, .failed va .dataError)
      | (s, some h) =>
        let hdr := blkHdr h
        let total := (hdr.lens.take hdr.n).sum
        if 4096 < total then (s, .malformed)
        else
          let want : List EngWant := (List.range ((total + 63) / 64)).map (fun i =>
            { op := .load, n := 64, va := va + BitVec.ofNat 64 (64 * i), comp := true })
          match engAll s r want [] with
          | (s, .hold) => (s, .hold)
          | (s, .failed ea e) => (s, .failed ea e)
          | (s, .ok vs) =>
            match expandBlock hdr ((joinBytes 64 vs).take total) with
            | none => (s, .malformed)
            | some bs => (s, .ok bs)

/-- The word of a raced block: it holds any value (R214; log 76). -/
def racedWord (s : State) (t : Nat) : Vec := Config.freeVec 41 (s.tick * 1024 + t / 4 % 1024) &&& BitVec.ofNat 512 (2 ^ 32 - 1)

/-- The words of a chunk of a block whose content is bs, at the given traversal offsets from o on. first: the content that the
block had when its first chunk was read; one that has changed since is being written while it expands (R214). -/
def chunkContent (s : State) (o : Nat) (bs : List Byte) (first : Option (List Byte)) (ts : List Nat) : List (Nat × Vec) :=
  ts.map (fun t => (t, if (first.getD bs) = bs then ofBytes 512 ((bs.drop (t - o)).take 4) else racedWord s t))

/-- Some words of a chunk of an expanding copy, at the offsets ts (R210, R212). -/
def expandWords (r : Req) (late : Bool) (x : Copy) (c : Nat) (ts : List Nat) (s : State) : State × Moved × List Byte :=
  let b := x.block
  let o := 512 * c / 4096 * 4096
  match expandAt s r (srcAt b o) with
  | (s, .hold) => (s, .hold, [])
  | (s, .malformed) => (s, .failed { status := 8, prog := offWord o }, [])
  | (s, .failed va e) => (s, .failed (failEnding 2 va e (offWord (512 * c))), [])
  | (s, .ok bs) =>
    let (s, m) := putWords r late b (chunkContent s o bs (tfind x.places (c / 8)) ts) s
    (s, m, bs)

/-! ### Permits (R211) -/

/-- The permits that the copies of a Ladle hold, and those of the streams: a ring slot each. -/
def copyPermits (s : State) (cl ladle : Nat) : Nat := ((activeCopies s cl ladle).map (fun e => e.2.places.length)).sum
def streamPermits (s : State) (cl ladle : Nat) : Nat :=
  ((s.streams.filter (fun e => coreCluster (ctxCore e.2.ctx) == cl && streamLadle e.2.desc == ladle
    && !streamWrite e.2.desc && streamXform e.2.desc == 1)).map (fun e => e.2.far / 64 - e.2.pos / 64)).sum

/-- A Ladle has a permit to give. -/
def permitFree (s : State) (cl ladle : Nat) : Bool := decide (copyPermits s cl ladle + streamPermits s cl ladle < 16)

/-- A copy may read the header of a block: it holds the block's permit, or gets one. -/
def blockPermitted (s : State) (cl ladle : Nat) (x : Copy) (blk : Nat) : Bool :=
  (tfind x.places blk).isSome || (permitFree s cl ladle && decide (x.places.length < 4))

/-- The permit taken for a chunk's block, which its last chunk returns. -/
def takePlace (x : Copy) (c : Nat) (bs : List Byte) : Copy :=
  let blk := c / 8
  if (List.range 8).all (fun i => x.done.contains (8 * blk + i)) then { x with places := tdel x.places blk }
  else if (tfind x.places blk).isSome then x
  else { x with places := tput x.places blk bs }

/-! ### Compression (R323 to R325) -/

/-- The i-th piece of n of a list. -/
def pieceOf {α : Type} (n : Nat) (l : List α) (i : Nat) : List α := (l.drop (n * i)).take n

/-- A list cut into pieces of n. -/
def cutList {α : Type} (n : Nat) (l : List α) : List (List α) := (List.range (l.length / n)).map (pieceOf n l)

/-- Tags for k groups of zeros (R324). -/
def zeroTags (k : Nat) : List Byte :=
  List.replicate (k / 128) 0x7F ++ (if k % 128 = 0 then [] else [BitVec.ofNat 8 (k % 128 - 1)])

/-- A group that is not zero, in the 0x80 form (R84, R324). -/
def groupBytes (es : Nat) (xs : List Nat) : List Byte :=
  let mask := xs.zipIdx.foldl (fun (m : Nat) e => if e.1 = 0 then m else m + 2 ^ e.2) 0
  let nz := xs.filter (fun x => x != 0)
  let pres := nz.foldl (fun (m : Nat) x => m ||| x) 0
  let planes := ((List.range (8 * es)).reverse.filter (fun p => pres.testBit p)).flatMap (fun p =>
    bytesOf (BitVec.ofNat 64 (nz.zipIdx.foldl (fun (m : Nat) e => if e.1.testBit p then m + 2 ^ e.2 else m) 0)) ((nz.length + 7) / 8))
  [(0x80 : Byte)] ++ bytesOf (BitVec.ofNat 64 mask) 8 ++ bytesOf (BitVec.ofNat 64 pres) es ++ planes

/-- The zero-run encoding of a list of groups, with z groups of zeros before them. -/
def zeroRunEncode (es : Nat) : List (List Nat) → Nat → List Byte
  | [], z => zeroTags z
  | g :: gs, z =>
    if g.all (fun x => x == 0) then zeroRunEncode es gs (z + 1)
    else zeroTags z ++ groupBytes es g ++ zeroRunEncode es gs 0

/-- The dictionary of R324: at most 15 exponents, by count and then by value. -/
def expDict (exps : List Nat) : List Nat :=
  let distinct := (List.range 256).filter exps.contains
  let counted := distinct.map (fun v => (v, exps.count v))
  ((counted.mergeSort (fun a b => decide (b.2 < a.2) || (a.2 == b.2 && decide (a.1 ≤ b.1)))).map (fun e => e.1)).take 15

/-- The exponent-entropy encoding of elements of es bytes (R84, R324). -/
def entropyEncode (es : Nat) (xs : List Nat) : List Byte :=
  let mw := if es = 2 then 7 else 23
  let exps := xs.map (fun x => x / 2 ^ mw % 256)
  let dict := expDict exps
  let codes := exps.map (fun e => if dict.contains e then dict.idxOf e else 15)
  let pairs := (cutList 2 codes).map (fun p => BitVec.ofNat 8 (p.getD 0 0 + 16 * p.getD 1 0))
  let lits := (exps.filter (fun e => !dict.contains e)).map (BitVec.ofNat 8)
  let sm := xs.flatMap (fun x =>
    bytesOf (BitVec.ofNat 32 (x / 2 ^ (8 * es - 1) % 2 * 2 ^ mw + x % 2 ^ mw)) (es - 1))
  [BitVec.ofNat 8 dict.length] ++ dict.map (BitVec.ofNat 8) ++ pairs ++ lits ++ sm

/-- One sub-stream encoded under a template's codec and width. -/
def encodeSub (codec ew : Nat) (bs : List Byte) : List Byte :=
  let es := 2 ^ ew
  let xs := (cutList es bs).map natOfBytes
  match codec with
  | 1 => zeroRunEncode es (cutList 64 xs) 0
  | 2 => entropyEncode es xs
  | _ => bs

/-- A header of the given fields, every other bit zero (R82, R325). -/
def makeHeader (codec n ew : Nat) (lens : List Nat) : BitVec 256 :=
  BitVec.ofNat 256 (codec + (n - 1) * 2 ^ 2 + ew * 2 ^ 5
    + lens.zipIdx.foldl (fun (m : Nat) e => m + e.1 * 2 ^ (8 + 13 * e.2)) 0)

/-- A block's content encoded under a template header: the stored bytes and the new header (R324, R325). -/
def compressBlock (h : BlkHdr) (content : List Byte) : List Byte × BitVec 256 :=
  let chunks := cutList 512 content
  let subs := (List.range h.n).map (fun i => (subChunks h.n i).flatMap (fun c => chunks.getD c []))
  let encs := subs.map (encodeSub h.codec h.ew)
  if (subs.zip encs).any (fun e => decide (e.1.length < e.2.length)) then
    (subs.flatten, makeHeader 0 h.n h.ew (subs.map List.length))
  else (encs.flatten, makeHeader h.codec h.n h.ew (encs.map List.length))

/-- Stored bytes written to a block's place in pieces of at most 64 bytes (R325). -/
def storeBlock (va : Dword) (bs : List Byte) : List EngWant :=
  (List.range ((bs.length + 63) / 64)).map (fun i =>
    let p := pieceOf 64 bs i
    { op := .store, n := 64, va := va + BitVec.ofNat 64 (64 * i), data := ofBytes 512 p,
      be := BitVec.ofNat 64 (2 ^ p.length - 1), comp := true })

/-- The first words of a block that a failed piece leaves: its address, status 3 or 4. -/
def storeEnding (va : Dword) (e : EngRes) (o : Nat) : Ending := failEnding 3 va e (offWord o)

/-- A block of a compressing copy (R323 to R325). -/
def compressPiece (r : Req) (b : BitVec 512) (n : Nat) (s : State) : State × Moved :=
  let o := 4096 * n
  let want : List EngWant := (List.range 1024).map (fun i => { op := .load, n := 4, va := srcAt b (o + 4 * i) })
  match engAll s r want [] with
  | (s, .hold) => (s, .hold)
  | (s, .failed va e) => (s, .failed (failEnding 2 va e (offWord o)))
  | (s, .ok vs) =>
    let dva := dstAt b o
    match translate s r dva .store with
    | (s, .error (.fault code)) => (s, .failed { status := 3, fva := dva, cause := code, prog := offWord o })
    | (s, .error .walking) => (s, .hold)
    | (s, .ok x) =>
      let la := paLocal x.pa
      if !compressedPlace s x then (s, .failed { status := 3, fva := dva, cause := plainCause s x, prog := offWord o })
      else if !headerOk s r.rind la then (s, .failed { status := 3, fva := dva, cause := 0x17, prog := offWord o })
      else match headerRead s (headerAddr s la) r.launch with
        | (s, none) => (s, .failed { status := 3, fva := dva, cause := 0x0E, prog := offWord o })
        | (s, some h) =>
          let hdr := blkHdr h
          if hdr.codec = 3 ∨ hdr.ew = 3 ∨ (hdr.codec = 2 ∧ hdr.ew = 0) then (s, .failed { status := 8, prog := offWord o })
          else
            let (stored, new) := compressBlock hdr (joinBytes 4 vs)
            match engAll s r (storeBlock dva stored) [] with
            | (s, .ok _) => (headerWrite s (headerAddr s la) new r.launch, .done)
            | (s, .failed va e) => (s, .failed (storeEnding va e o))
            | (s, .hold) => (s, .hold)

/-! ### Bitmaps and pieces (R217) -/

/-- The bits of a finished piece posted by an OR at the home of their dword, under rel = 1 as a release store (R217). -/
def postBits (r : Req) (q : Queued) (b : BitVec 512) (n : Nat) (s : State) : State × Moved :=
  if pbBmap b = 0 then (s, .done)
  else
    let first := n * (pieceBytes b / 512)
    let bits := (List.range (pieceBytes b / 512)).foldl (fun (m : Nat) i =>
      if 512 * (first + i) < pbLen b ∧ pbStart b < 512 * (first + i) + 512 then m + 2 ^ ((first + i) % 64) else m) 0
    match engAccess s r { op := .atomic 4, n := 8, va := pbBmap b + BitVec.ofNat 64 (first / 64 * 8),
                          data := BitVec.ofNat 512 bits, ord := postOrd q } with
    | (s, .ok _) => (s, .done)
    | (s, .hold) => (s, .hold)
    | (s, .fault code) => (s, .failed { status := 3, fva := pbBmap b, cause := code })
    | (s, .refused) => (s, .failed { status := 3, fva := pbBmap b, cause := 0x31 })
    | (s, .dataError) => (s, .failed { status := 3, fva := pbBmap b, cause := 0x0E })

/-- The copy in a place rewritten. -/
def putCopy (s : State) (cl key : Nat) (x : Copy) : State := modCluster s cl (fun c => { c with copies := tput c.copies key x })

/-- A failed piece ends its copy: off is the failed word when every lower word is written, else the lowest piece that is
not (R182). late: the words before it in its piece have only been issued. -/
def failCopy (late : Bool) (x : Copy) (n : Nat) (e : Ending) : Copy :=
  let low := firstUndone (writtenPieces x) (x.done.length + 1) (firstPiece x.block)
  let off := if low = n ∧ !late then e.prog else offWord (copyOff x)
  { x with ending := some { e with prog := if e.status = 8 ∨ e.status = 9 then e.prog else off } }

/-- A step of the copy may only issue its words: never one whose follow-on waits for them, nor that of a compressed block
(R187, R190; log 91). -/
def issuesLate (s : State) (x : Copy) : Bool := mayIssue s x.cmd && x.follow.isNone && pbXform x.block != 2

/-- One piece moved, with the copy's permits after it. -/
def movePiece (r : Req) (x : Copy) (n : Nat) (s : State) : State × Moved × Copy :=
  let b := x.block
  let late := issuesLate s x
  let ended := { x with done := n :: x.done, late := if late then n :: x.late else x.late }
  match pbXform b with
  | 1 =>
    let (s, m, bs) := expandWords r late x n (chunkWords b n) s
    (s, m, takePlace ended n bs)
  | 2 =>
    let (s, m) := compressPiece r b n s
    (s, m, ended)
  | _ =>
    let (s, m) := moveWords r late b (chunkWords b n) s
    (s, m, ended)

/-- A chunk of a running copy is moved, and its bitmap bit is posted (R181, R216, R217). For xform 2 the number is that
of a block (R325). -/
def execChunkComplete (cluster ladle place chunk : Nat) (s : State) : Host.Outcome State Fault Refusal :=
  let key := 4 * ladle + place
  match tfind (getCluster s cluster).copies key with
  | none => .next s
  | some x =>
    if 2 ≤ ladle ∨ 4 ≤ place ∨ x.ending.isSome ∨ x.stopping ∨ x.done.contains chunk ∨ chunk < firstPiece x.block
        ∨ endPiece x.block ≤ chunk ∨ (pbXform x.block = 1 ∧ !blockPermitted s cluster ladle x (chunk / 8)) then .next s
    else
      let r := ladleReq s cluster x.cmd
      let late := issuesLate s x
      match movePiece r x chunk s with
      | (t, .hold, _) => .next (keepWalks s t cluster)
      | (t, .failed e, _) => .next (putCopy t cluster key (failCopy late x chunk e))
      | (t, .done, x) =>
        let t := countEnergy t (unitKey 2 (2 * cluster + ladle)) 4 (pieceBytes x.block / 64) r.rind r.launch
        match postBits r x.cmd x.block chunk t with
        | (t, .hold) => .next (keepWalks s t cluster)
        | (t, .failed e) => .next (putCopy t cluster key { x with ending := some { e with prog := offWord (copyOff x) } })
        | (t, .done) => .next (putCopy t cluster key x)

/-! ### Stopping (R192) -/

/-- A stopping copy comes to a word boundary: some words of its lowest chunk may have been moved by then; of a compressing copy
no part of a block (R325). With the words counted in off. -/
def stopWords (r : Req) (x : Copy) (s : State) : State × Nat :=
  let b := x.block
  let c := firstUndone x.done (x.done.length + 1) (firstPiece b)
  let all := chunkWords b c
  let ts := all.take (Config.choice 42 s.tick % (all.length + 1))
  if allMoved x ∨ pbXform b = 2 ∨ ts.isEmpty then (s, copyOff x)
  else match (if pbXform b = 1 then
      (if (tfind x.places (c / 8)).isSome then let (s, m, _) := expandWords r false x c ts s; (s, m) else (s, .hold))
      else moveWords r false b ts s) with
    | (t, .done) => (t, if x.late.isEmpty then copyOff x + 4 * ts.length else copyOff x)
    | _ => (s, copyOff x)

/-! ### Completion (R183, R190, R192) -/

/-- How a copy ends, once it may end. -/
def copyEnding (x : Copy) : Option Ending :=
  match x.ending with
  | some e => some e
  | none =>
    if x.stopping then some { status := 1, prog := offWord (copyOff x) }
    else if allMoved x then some { status := 0, prog := offWord (pbLen x.block) }
    else none

/-- The follow-on sent to its Press with the sys of the copy (R190); false when its inbox is full. -/
def sendFollow (s : State) (q : Queued) (m : BitVec 512) : State × Bool :=
  let m := putFld m (128 + 8) 1 (BitVec.ofBool (bitAt (msgPayload q.msg) 32))
  let d := msgDst m
  let unit := 8 * coreCluster (nameCore d) + 2 + d % 64
  let r : Reply := { ctx := ctxKey (imgCore m) (imgCtx m), gen := imgGen m, reg := imgReg m, inTrap := q.reply.inTrap }
  placeCommand s unit { msg := m, body := 0, launch := q.launch, owner := none, ord := sendOrd false false, reply := r }

/-- The objects of a finished copy are posted, and its place is free. -/
def finishCopy (s : State) (cl key : Nat) (x : Copy) (e : Ending) : State :=
  let s := modCluster s cl (fun c => { c with copies := tdel c.copies key })
  postObjects s x.cmd e (pbTag x.block) (copyPort x.cmd) (imgPbva x.cmd.msg) (pbCtr x.block)

/-- The follow-on of a successful copy is offered to its Press; accepted, the objects follow; refused, it waits 64
cycles. -/
def offerFollow (s : State) (cl key : Nat) (x : Copy) (e : Ending) (m : BitVec 512) : State :=
  match sendFollow s x.cmd m with
  | (s, true) => finishCopy s cl key { x with follow := none } e
  | (s, false) => putCopy s cl key { x with retry := s.cycle + 64 }

/-- A copy that has come to its end posts its objects, a follow-on going first. -/
def execLadleCompletion (cluster ladle place : Nat) (s : State) : Host.Outcome State Fault Refusal :=
  let key := 4 * ladle + place
  match tfind (getCluster s cluster).copies key with
  | none => .next s
  | some x =>
    match copyEnding x with
    | none => .next s
    | some e =>
      if x.ending.isNone ∧ x.stopping then
        let (s, off) := stopWords (ladleReq s cluster x.cmd) x s
        .next (finishCopy s cluster key x { e with prog := offWord off })
      else match x.follow with
        | some m =>
          if e.status ≠ 0 then .next (finishCopy s cluster key x e)
          else if x.retry ≠ 0 then .next s
          else .next (offerFollow s cluster key x e m)
        | none => .next (finishCopy s cluster key x e)

/-- A refused follow-on is sent again after 64 cycles (R190). -/
def execFollowOnResend (cluster ladle place : Nat) (s : State) : Host.Outcome State Fault Refusal :=
  let key := 4 * ladle + place
  match tfind (getCluster s cluster).copies key with
  | none => .next s
  | some x =>
    match copyEnding x, x.follow with
    | some e, some m =>
      if e.status = 0 ∧ x.retry ≠ 0 ∧ x.retry ≤ s.cycle then .next (offerFollow s cluster key x e m) else .next s
    | _, _ => .next s

end Sys2Proof.Machine
end

