-- ==== Sys2Proof/Machine/Harp.lean ====
section
/-!
DEFINITION. The Harps (R300 to R319): descriptors, chain loads and gradient stores, CFNC, and the slice accesses.
-/

namespace Sys2Proof.Machine

/-! ### The instructions (R306 to R308) -/

/-- The command message of a Harp (R308). lo holds the class, form and sys bits. -/
def harpMessage (s : State) (k kind : Nat) (o sc : BitVec 2) (reg lo : Nat) (opnd arg : Dword) : BitVec 512 :=
  let sys := if stSys (getCtx s k).st then 2 ^ 8 else 0
  commandMessage s k 3 0
    (BitVec.ofNat 384 (imageBase s k kind o sc reg + lo + sys + opnd.toNat * 2 ^ 256 + arg.toNat * 2 ^ 320))

/-- A chain command sent to the Harp of the cluster; reg is the reply register in the numbering of R40. -/
def sendHarp (s : State) (kind : Nat) (o sc : BitVec 2) (reg lo : Nat) (opnd arg : Dword) (body : Vec) : State × Done :=
  let k := s.me
  (sendCommand s k 6 (harpMessage s k kind o sc (reg % 32) lo opnd arg) body o sc (replyOf s k reg), .next)

/-- CDESC (R310). -/
def execCdesc (d a b : BitVec 5) (s : State) : Host.Outcome State Fault Refusal :=
  issue s { reads := [gr a, gr b], writes := [gr d] } (fun s c =>
    let ga := c.readG a.toNat
    if ga.toNat % 64 ≠ 0 then (s, .trap (simpleTrap 0x02 ga))
    else sendHarp s 0 0 0 d.toNat 0 ga (c.readG b.toNat) 0)

/-- CLD, v form (R311). -/
def execCld (d a : BitVec 5) (sc o : BitVec 2) (s : State) : Host.Outcome State Fault Refusal :=
  issue s { reads := [gr a], writes := [vr d], noStream := some (vr d) } (fun s c =>
    sendHarp s 1 o sc (vr d) (2 ^ 32) (c.readG a.toNat) 0 0)

/-- CLD, g form. -/
def execCldG (d a : BitVec 5) (sc o : BitVec 2) (s : State) : Host.Outcome State Fault Refusal :=
  issue s { reads := [gr a], writes := [gr d] } (fun s c => sendHarp s 1 o sc d.toNat (2 ^ 10) (c.readG a.toNat) 0 0)

/-- CSTG, v form (R313). -/
def execCstg (d a b : BitVec 5) (sc o : BitVec 2) (s : State) : Host.Outcome State Fault Refusal :=
  issue s { reads := [gr a, vr b], writes := [gr d] } (fun s c =>
    sendHarp s 2 o sc d.toNat 0 (c.readG a.toNat) 0 (c.readV b.toNat))

/-- CSTG, g form. -/
def execCstgG (d a b : BitVec 5) (sc o : BitVec 2) (s : State) : Host.Outcome State Fault Refusal :=
  issue s { reads := [gr a, gr b], writes := [gr d] } (fun s c =>
    sendHarp s 2 o sc d.toNat (2 ^ 10) (c.readG a.toNat) (zx (fld (c.readG b.toNat) 0 32)) 0)

/-- CFNC (R315): it issues once everything that it orders has been performed, and the Harp fills 0. -/
def execCfnc (d : BitVec 5) (sc : BitVec 2) (s : State) : Host.Outcome State Fault Refusal :=
  issue s { writes := [gr d] } (fun s _ =>
    if !(pendingOf s s.me).isEmpty || harpUnderway s s.me then (s, .hold) else sendHarp s 3 0 sc d.toNat 0 0 0 0)

/-! ### Descriptors (R300 to R304) -/

/-- Dword i of a registered descriptor, and dword j of record k. -/
def dsDword (d : List Dword) (i : Nat) : Dword := d.getD i 0
def dsRec (d : List Dword) (k j : Nat) : Dword := dsDword d (8 + 4 * k + j)
def dsN (d : List Dword) : Nat := fldN (dsDword d 0) 0 4
def dsW (d : List Dword) : Nat := fldN (dsDword d 0) 8 8
def dsBf16 (d : List Dword) : Bool := bitAt (dsDword d 0) 16
def dsUpdate (d : List Dword) : Bool := bitAt (dsDword d 0) 17
def dsSerial (d : List Dword) : Bool := bitAt (dsDword d 0) 18
def dsScale (d : List Dword) : Nat := fldN (dsDword d 0) 32 32
def dsHome (d : List Dword) (k : Nat) : Nat :=
  clusterOf (fldN (dsRec d k 0) 6 2) (fldN (dsRec d k 0) 3 3) (fldN (dsRec d k 0) 0 3)
def dsFmt (d : List Dword) (k : Nat) : Nat := fldN (dsRec d k 0) 8 3
def dsRank (d : List Dword) (k : Nat) : Nat := fldN (dsRec d k 0) 32 8
def dsRadix (d : List Dword) (k : Nat) : Nat := fldN (dsRec d k 0) 40 24
def dsStride (d : List Dword) (k : Nat) : Nat := fldN (dsRec d k 1) 32 32
def dsBase (d : List Dword) (k : Nat) : Dword := dsRec d k 2
def dsGbase (d : List Dword) (k : Nat) : Dword := dsRec d k 3

/-- q(k) of R300. -/
def dsQ (d : List Dword) (k : Nat) : Nat := if k = 0 then 1 else if k = dsN d then dsW d else dsRank d (k - 1)

/-- The element format of a code, and its bytes (R302). -/
def chainFmt (c : Nat) : Fmt :=
  match c with
  | 0 => .fp32
  | 1 => .bf16
  | 2 => .fp16
  | 3 => .e4m3
  | _ => .e5m2
def chainBytes (c : Nat) : Nat := (chainFmt c).bits / 8

/-- P(k) of R303. -/
def dsP (d : List Dword) (k : Nat) : Nat := dsQ d k * dsQ d (k + 1) * chainBytes (dsFmt d k)

/-- E of R300. -/
def dsRows (d : List Dword) : Nat := (List.range (dsN d)).foldl (fun (e : Nat) k => e * dsRadix d k) 1

/-- A malformed record (R304). -/
def recBad (s : State) (rind : Nat) (d : List Dword) (k : Nat) : Bool :=
  decide (5 ≤ dsFmt d k) || dsRadix d k == 0
    || (decide (k + 1 < dsN d) && (dsRank d k == 0 || decide (64 < dsRank d k)))
    || decide (32768 < dsP d k) || (dsBase d k).toNat % 4 != 0 || dsStride d k % 4 != 0
    || (decide (1 < dsRadix d k) && decide (dsStride d k < dsP d k))
    || (!dsUpdate d && (dsGbase d k == 0 || (dsGbase d k).toNat % 4 != 0))
    || (getCluster s (dsHome d k)).rind != some rind

/-- A malformed header. -/
def headBad (d : List Dword) : Bool := dsN d == 0 || decide (8 < dsN d) || dsW d == 0 || decide (128 < dsW d)

/-- The factor that R309 names for a malformed descriptor: none when it is well formed. The header is checked before the
records, and the records before what concerns them together. -/
def descFactor (s : State) (rind : Nat) (d : List Dword) : Option Nat :=
  if headBad d then some 0xFF
  else match (List.range (dsN d)).find? (recBad s rind d) with
    | some k => some k
    | none =>
      if 2 ^ 40 < dsRows d ∨ (dsSerial d && (List.range (dsN d)).any (fun k => dsHome d k != dsHome d 0)) = true then some 0xFF
      else none

/-! ### Accesses of slices (R303) -/

/-- The requester of a chain command: its sys bit is bit 8, its ASID the slot's (R308, R310). -/
def harpReq (s : State) (cl : Nat) (q : Queued) (asid : Nat) : Req :=
  { engReq s cl q (bitAt (msgPayload q.msg) 8) with asid := asid }

/-- Whether a translated slice address is one that R303 allows. -/
def slicePage (s : State) (x : Xl) : Bool :=
  let w := windowOf (paLocal x.pa)
  isLocal s x.pa && x.pkind == 0 && (w == .whey || w == .hbm)

/-- The first address of each 64 KiB page that n bytes from an address touch. -/
def pagesOf (va : Dword) (n : Nat) : List Dword :=
  let first := va.toNat / 65536
  let last := (va.toNat + n - 1) / 65536
  (List.range (last - first + 1)).map (fun i => if i = 0 then va else BitVec.ofNat 64 ((first + i) * 65536))

/-- What the translations of a command's pages come to. -/
inductive Pages where
  | ok (xs : List (AccKind × Xl))
  | bad
  | hold
deriving DecidableEq, Repr

/-- Pages translated for an access, each to one that R303 allows (R311). -/
def slicePages (s : State) (r : Req) (acc : AccKind) : List Dword → List (AccKind × Xl) → State × Pages
  | [], xs => (s, .ok xs)
  | va :: vs, xs =>
    match translate s r va acc with
    | (s, .error (.fault _)) => (s, .bad)
    | (s, .error .walking) => (s, .hold)
    | (s, .ok x) => if slicePage s x then slicePages s r acc vs ((acc, x) :: xs) else (s, .bad)

/-- The leaves of translated pages, as a command keeps them. -/
def leavesOf (xs : List (AccKind × Xl)) : Tab (Dword × BitVec 128 × Nat × Nat) :=
  xs.foldl (fun t e => tput t (pageOf e.2.va) (e.2.entry, e.2.comp, e.2.shift, e.2.slot)) []

/-- One element access of a Harp, through the leaf of its acceptance (R311, R314). The twin frame is selected now, and an
update, like a read of the frame so selected, meets a hole or a fault now; a read of any other page has met them at acceptance. -/
def harpAccess (s : State) (r : Req) (x : HCmd) (w : EngWant) (acc : AccKind) : State × EngRes :=
  match tfind x.leaves (pageOf w.va) with
  | none => (s, .fault 0)
  | some (e, c, sh, slot) =>
    if acc = .load ∧ !compTwin c then
      engPerform s r { va := w.va, pa := leafFrame e sh + w.va.toNat % 2 ^ sh, entry := e, comp := c, shift := sh, slot := slot } w
    else match useLeaf s r w.va acc e c sh slot with
      | (s, .ok y) => if slicePage s y then engPerform s r y w else (s, .fault 0)
      | (s, .error (.fault code)) => (s, .fault code)
      | (s, .error .walking) => (s, .hold)

/-- Elements of n bytes read one after another. -/
def harpReads (s : State) (r : Req) (x : HCmd) (acc : AccKind) (n : Nat) : List Dword → List Nat → State × EngList
  | [], vs => (s, .ok (vs.reverse.map (BitVec.ofNat 512)))
  | va :: vas, vs =>
    match harpAccess s r x { op := .load, n := n, va := va } acc with
    | (s, .ok v) => harpReads s r x acc n vas (v.toNat :: vs)
    | (s, .hold) => (s, .hold)
    | (s, .fault code) => (s, .failed va (.fault code))
    | (s, .refused) => (s, .failed va .refused)
    | (s, .dataError) => (s, .failed va .dataError)

/-- Elements of n bytes written one after another. -/
def harpWrites (s : State) (r : Req) (x : HCmd) (n : Nat) : List (Dword × Nat) → State × EngList
  | [] => (s, .ok [])
  | (va, v) :: rest =>
    match harpAccess s r x { op := .store, n := n, va := va, data := BitVec.ofNat 512 v } .store with
    | (s, .ok _) => harpWrites s r x n rest
    | (s, .hold) => (s, .hold)
    | (s, .fault code) => (s, .failed va (.fault code))
    | (s, .refused) => (s, .failed va .refused)
    | (s, .dataError) => (s, .failed va .dataError)

/-- The status of R309 that a failed access gives. -/
def chainStatus (e : EngRes) : Nat := match e with | .dataError => 5 | _ => 3

/-- The address of a slice, and of a gradient slice (R303). -/
def sliceAddr (d : List Dword) (k j : Nat) : Dword := dsBase d k + BitVec.ofNat 64 (j * dsStride d k)
def gradAddr (d : List Dword) (k j : Nat) : Dword := dsGbase d k + BitVec.ofNat 64 (j * 4 * (dsQ d k * dsQ d (k + 1)))

/-! ### Operands (R307) and digits (R300) -/

def opSlot (x : Dword) : Nat := fldN x 48 6
def opIndex (x : Dword) : Nat := fldN x 0 40

/-- The form, operand, gradient argument and kind of a chain command. -/
def hcForm (q : Queued) : Bool := bitAt (msgPayload q.msg) 10
def hcOpnd (q : Queued) : Dword := fld (msgPayload q.msg) 256 64
def hcArg (q : Queued) : Dword := fld (msgPayload q.msg) 320 64

/-- Lanes of a command: 1 for the g forms, 32 for a CLD in BF16, else 16. -/
def hcLanes (d : List Dword) (q : Queued) : Nat := if hcForm q then 1 else if imgKind q.msg = 1 ∧ dsBf16 d then 32 else 16

/-- c0 of a command, and its columns below w. -/
def hcCol0 (d : List Dword) (q : Queued) : Nat := fldN (hcOpnd q) 40 8 * hcLanes d q
def hcCols (d : List Dword) (q : Queued) : List Nat :=
  (List.range (min (hcLanes d q) (dsW d - hcCol0 d q))).map (fun l => hcCol0 d q + l)

/-- The digits of a row, d(0) first: the last factor is the least significant. -/
def rowDigits (d : List Dword) : Nat → Nat → List Nat
  | 0, _ => []
  | k + 1, x => rowDigits d k (x / dsRadix d k) ++ [x % dsRadix d k]

/-! ### Chain products (R300, R236, R311, R313) -/

/-- A fused dot product rounded once to FP32: the products summed exactly from the first. -/
def fusedDot (xs ys : List Val) : Val :=
  match (xs.zip ys).map (fun e => Val.mul e.1 e.2) with
  | [] => .fin false 0 0
  | p :: ps => Fmt.fp32.decode (Fmt.fp32.encode .nearestEven (ps.foldl (Val.add .nearestEven) p))

/-- The values of a slice as rows of q columns. -/
def sliceVals (fmt q : Nat) (xs : List Nat) : List (List Val) := cutList q (xs.map (chainFmt fmt).decode)

/-- One step of the product: a row times a matrix, for the columns given. -/
def chainStep (L : List Val) (m : List (List Val)) (cols : List Nat) : List Val :=
  cols.map (fun c => fusedDot L (m.map (fun row => row.getD c .nan)))

/-- The slices of a command as matrices. -/
def cmdSlices (x : HCmd) : List (List (List Val)) :=
  (List.range (dsN x.desc)).map (fun k => sliceVals (dsFmt x.desc k) (dsQ x.desc (k + 1)) (tget [] x.slices k))

/-- L(0) to L(n - 1) of R313. -/
def chainLefts (d : List Dword) (ms : List (List (List Val))) : Nat → List (List Val)
  | 0 => [[.fin false 1 0]]
  | k + 1 =>
    let ls := chainLefts d ms k
    ls ++ [chainStep (ls.getLastD []) (ms.getD k []) (List.range (dsQ d (k + 1)))]

/-- The row's values at the command's columns (R300). -/
def chainRow (x : HCmd) : List Val :=
  let d := x.desc
  let ms := cmdSlices x
  chainStep ((chainLefts d ms (dsN d - 1)).getLastD []) (ms.getD (dsN d - 1) []) (hcCols d x.cmd)

/-- The gradient lanes of a CSTG (R313). -/
def cmdGrad (x : HCmd) : List Val :=
  (List.range (hcCols x.desc x.cmd).length).map (fun l =>
    Fmt.fp32.decode (if hcForm x.cmd then fldN (hcArg x.cmd) 0 32 else lane x.cmd.body 4 l))

/-- U(k) for k from n - 1 down (R313): U at k after j steps down. -/
def chainRight (x : HCmd) (ms : List (List (List Val))) : Nat → List Val
  | 0 => cmdGrad x
  | j + 1 =>
    let k := dsN x.desc - 1 - j
    let m := ms.getD k []
    let cols := if j = 0 then hcCols x.desc x.cmd else List.range (dsQ x.desc (k + 1))
    m.map (fun row => fusedDot (chainRight x ms j) (cols.map (fun c => row.getD c .nan)))

/-- The columns of factor k that a CSTG updates. -/
def gradCols (x : HCmd) (k : Nat) : List Nat :=
  if k + 1 = dsN x.desc then hcCols x.desc x.cmd else List.range (dsQ x.desc (k + 1))

/-- grad(k)(a, b) as row, column and value (R313). -/
def chainGrad (x : HCmd) (k : Nat) : List (Nat × Nat × Val) :=
  let ms := cmdSlices x
  let l := (chainLefts x.desc ms (dsN x.desc - 1)).getD k []
  let u := chainRight x ms (dsN x.desc - 1 - k)
  (l.zipIdx).flatMap (fun a => ((gradCols x k).zip u).map (fun b =>
    (a.2, b.1, Fmt.fp32.decode (Fmt.fp32.encode .nearestEven (Val.mul a.1 b.2)))))

/-! ### Completion objects (R309, R311, R312) -/

/-- The status word of R309. -/
def chainWord (factor status : Nat) : Dword := BitVec.ofNat 64 (factor % 256 * 256 + status % 256)

/-- A command ends with a status: a CLD leaves an error record against its register, the others fill the word. -/
def chainEnd (s : State) (q : Queued) (factor status : Nat) : State :=
  if imgKind q.msg = 1 then
    if q.reply.reg = 0 then s
    else sendPacket s (.error q.reply { code := 0x0F, eaddr := hcOpnd q, info := 3, frame := [chainWord factor status] })
  else sendFillD s q.reply (chainWord factor status)

/-- The value that a CLD fills (R311). -/
def chainValue (x : HCmd) : Vec :=
  let f := if dsBf16 x.desc then Fmt.bf16 else Fmt.fp32
  packElems f.bits ((chainRow x).map (fun v => f.encode .nearestEven v)) |> BitVec.ofNat 512

/-! ### Acceptance (R310, R311, R314) -/

/-- The records of a descriptor read one by one: the dwords, or the factor that failed. -/
def readDesc (s : State) (r : Req) (va : Dword) : Nat → Nat → List Dword → State × Option (Except Nat (List Dword))
  | 0, _, acc => (s, some (.ok acc))
  | n + 1, k, acc =>
    match engAccess s r { op := .load, n := 32, va := va + BitVec.ofNat 64 (64 + 32 * k) } with
    | (s, .ok v) => readDesc s r va n (k + 1) (acc ++ (List.range 4).map (fun i => fld v (64 * i) 64))
    | (s, .hold) => (s, none)
    | (s, .fault _) => (s, some (.error k))
    | (s, .refused) => (s, some (.error k))
    | (s, .dataError) => (s, some (.error k))

/-- The access that a CDESC counts as: a store to its slot, told from every byte of memory (R320). -/
def slotOrd (q : Queued) : Ord :=
  let lo := 2 ^ 64 + 64 * coreCluster (imgCore q.msg) + (hcArg q).toNat % 64
  { sendOrd false false with lo := lo, hi := lo + 1 }

/-- A CDESC ends: its status fill is the performing of its store (R320). -/
def descEnd (s : State) (q : Queued) (factor status : Nat) : State :=
  putByIssue s q.reply.ctx { owner := q.owner, ord := { slotOrd q with born := q.ord.born }, launch := none
                             body := .descFill q.reply (chainWord factor status) }

/-- CDESC at acceptance: the state with its fill sent, and whether it is accepted; it is not while a walk is under way. -/
def acceptDesc (s : State) (cl : Nat) (q : Queued) : State × Bool :=
  let r := engReq s cl q (bitAt (msgPayload q.msg) 8)
  let slot := hcArg q
  let put := fun (s : State) (f : Harp → Harp) => modCluster s cl (fun c => { c with harp := f c.harp })
  let ends := fun (s : State) (k st : Nat) => (descEnd s q k st, true)
  if fldN slot 6 58 ≠ 0 then ends s 0xFF 4
  else if hcOpnd q = 0 then ends (put s (fun h => { h with slots := tdel h.slots slot.toNat })) 0xFF 0
  else match engAccess s r { op := .load, n := 64, va := hcOpnd q } with
    | (s, .hold) => (s, false)
    | (s, .ok v) =>
      let head := (List.range 8).map (fun i => fld v (64 * i) 64)
      if headBad head then ends s 0xFF 4
      else match readDesc s r (hcOpnd q) (dsN head) 0 head with
        | (s, none) => (s, false)
        | (s, some (.error k)) => ends s k 4
        | (s, some (.ok d)) => match descFactor s r.rind d with
          | some k => ends s k 4
          | none => ends (put s (fun h => { h with slots := tput h.slots slot.toNat (d, imgAsid q.msg, q.launch) })) 0xFF 0
    | (s, _) => ends s 0xFF 4

/-- The pages of factor k's slice, and of its destination for a CSTG (R303, R311, R314). -/
def factorPages (s : State) (r : Req) (d : List Dword) (digits : List Nat) (store : Bool) (k : Nat) (xs : List (AccKind × Xl)) :
    State × Pages :=
  let j := digits.getD k 0
  match slicePages s r .load (pagesOf (sliceAddr d k j) (dsP d k)) xs with
  | (s, .ok xs) =>
    if !store then (s, .ok xs)
    else if dsUpdate d then slicePages s r .atomic (pagesOf (sliceAddr d k j) (dsP d k)) xs
    else slicePages s r .atomic (pagesOf (gradAddr d k j) (4 * (dsQ d k * dsQ d (k + 1)))) xs
  | x => x

/-- What the translations of every factor come to. -/
inductive Factors where
  | ok (xs : List (AccKind × Xl))
  | bad (k : Nat)
  | hold
deriving DecidableEq, Repr

/-- Every address of a command is translated before anything else (R311, R314): the first factor that fails is named. -/
def translateFactors (r : Req) (d : List Dword) (digits : List Nat) (store : Bool) :
    List Nat → List (AccKind × Xl) → State → State × Factors
  | [], xs, s => (s, .ok xs)
  | k :: ks, xs, s =>
    match factorPages s r d digits store k xs with
    | (s, .ok xs) => translateFactors r d digits store ks xs s
    | (s, .bad) => (s, .bad k)
    | (s, .hold) => (s, .hold)

/-- CLD or CSTG at acceptance: the state with the command in progress, or ended, and whether it is accepted. The walker's
updates follow the checks (R100). -/
def acceptChain (s : State) (cl : Nat) (q : Queued) : State × Bool :=
  let x := hcOpnd q
  let ends := fun (s : State) (k st : Nat) => (chainEnd s q k st, true)
  match tfind (getCluster s cl).harp.slots (opSlot x) with
  | none => ends s 0xFF (if fldN x 54 10 ≠ 0 then 2 else 1)
  | some (d, asid, l) =>
    if fldN x 54 10 ≠ 0 then ends s 0xFF 2
    else if l ≠ q.launch then ends s 0xFF 1
    else if dsRows d ≤ opIndex x ∨ dsW d ≤ hcCol0 d q then ends s 0xFF 2
    else
      let digits := rowDigits d (dsN d) (opIndex x)
      let r := harpReq s cl q asid
      match translateFactors r d digits (imgKind q.msg == 2) (List.range (dsN d)) [] s with
      | (s, .hold) => (s, false)
      | (s, .bad k) => ends s k 3
      | (s, .ok xs) =>
        let s := xs.foldl (fun s e => touchLeaf s r e.2 e.1) s
        (modCluster s cl (fun c => { c with harp := { c.harp with
          cmds := tput c.harp.cmds c.harp.seq
            { cmd := q, desc := d, asid := asid, digits := digits, leaves := leavesOf xs, born := s.tick }
          seq := c.harp.seq + 1 } }), true)

/-- What the front Harp does with the oldest command of its inbox. -/
def acceptHarp (s : State) (cl : Nat) (q : Queued) : State × Bool :=
  match imgKind q.msg with
  | 0 => acceptDesc s cl q
  | 1 => acceptChain s cl q
  | 2 => acceptChain s cl q
  | 3 => (sendFillD s q.reply (chainWord 0 0), true)
  | _ => (chainEnd s q 0xFF 4, true)

/-- The front Harp accepts the oldest command of its inbox. -/
def execHarpAccept (cluster : Nat) (s : State) : Host.Outcome State Fault Refusal :=
  match inboxOf s cluster 6 with
  | [] => .next s
  | q :: rest => match acceptHarp (setInbox s cluster 6 rest) cluster q with
    | (s, true) => .next s
    | (t, false) => .next (keepWalks s t cluster)

/-! ### Slice requests (R305, R314, R316, R317) -/

/-- Every slice has been read. -/
def allRead (x : HCmd) : Bool := (List.range (dsN x.desc)).all (fun k => (tfind x.slices k).isSome)

/-- Every request of a command at a home has been performed. -/
def doneAt (x : HCmd) (home : Nat) : Bool :=
  x.fail.isSome && (x.updated.isEmpty || imgKind x.cmd.msg == 1) ||
  (List.range (dsN x.desc)).all (fun k => dsHome x.desc k != home ||
    ((tfind x.slices k).isSome && (imgKind x.cmd.msg == 1 || x.updated.contains k)))

/-- An earlier command of the same context, whatever handler issued it, still has a request at a home (R305, R357). -/
def blockedAt (s : State) (cl n home : Nat) (x : HCmd) : Bool :=
  (getCluster s cl).harp.cmds.any (fun e => decide (e.1 < n) && e.2.cmd.owner.map Prod.fst == x.cmd.owner.map Prod.fst && !doneAt e.2 home)

/-- 64-byte units of a slice access, for the energy count (R374). -/
def countSlice (s : State) (d : List Dword) (k : Nat) (r : Req) : State :=
  countEnergy s (unitKey 3 (dsHome d k)) 4 ((dsP d k + 63) / 64) r.rind r.launch

/-- One slice read (R316). -/
def readSlice (s : State) (r : Req) (x : HCmd) (k : Nat) : Option (State × HCmd) :=
  let d := x.desc
  let es := chainBytes (dsFmt d k)
  let n := dsQ d k * dsQ d (k + 1)
  let a := sliceAddr d k (x.digits.getD k 0)
  match harpReads s r x .load es ((List.range n).map (fun i => a + BitVec.ofNat 64 (i * es))) [] with
  | (_, .hold) => none
  | (s, .ok vs) => some (countSlice s d k r, { x with slices := tput x.slices k (vs.map BitVec.toNat) })
  | (s, .failed _ e) => some (s, { x with slices := tput x.slices k (List.replicate n 0), fail := x.fail.or (some (k, chainStatus e)) })

/-- The lower-numbered of two failures (R314). -/
def lowerFail (a : Option (Nat × Nat)) (k st : Nat) : Option (Nat × Nat) :=
  match a with
  | some (j, t) => if k < j then some (k, st) else some (j, t)
  | none => some (k, st)

/-- The address of element (a, b) of the destination of a factor's update (R314). -/
def destAddr (x : HCmd) (k a b : Nat) : Dword :=
  let d := x.desc
  let j := x.digits.getD k 0
  let i := a * dsQ d (k + 1) + b
  if dsUpdate d then sliceAddr d k j + BitVec.ofNat 64 (i * chainBytes (dsFmt d k)) else gradAddr d k j + BitVec.ofNat 64 (4 * i)

/-- The destination slice of an update, row by row. -/
def destSlice (x : HCmd) (k : Nat) : List Dword :=
  (List.range (dsQ x.desc k)).flatMap (fun a => (List.range (dsQ x.desc (k + 1))).map (destAddr x k a))

/-- One slice update (R314): the whole slice is read, and the elements that have a gradient are changed and written, or the
destination is left as it is. -/
def updateSlice (s : State) (r : Req) (x : HCmd) (k : Nat) : Option (State × HCmd) :=
  let d := x.desc
  let f := if dsUpdate d then chainFmt (dsFmt d k) else Fmt.fp32
  let n := f.bits / 8
  let q := dsQ d (k + 1)
  let scale := Fmt.fp32.decode (dsScale d)
  let x' := { x with updated := k :: x.updated }
  match harpReads s r x .atomic n (destSlice x k) [] with
  | (_, .hold) => none
  | (t, .ok vs) =>
    let new := (chainGrad x k).map (fun g =>
      (destAddr x k g.1 g.2.1, f.encode .nearestEven
        (Val.add .nearestEven (f.decode (vs.getD (g.1 * q + g.2.1) 0).toNat) (Val.mul scale g.2.2))))
    match harpWrites t r x n new with
    | (_, .hold) => none
    | (t, .ok _) => some (countSlice t d k r, x')
    | (_, .failed _ e) => some (s, { x' with fail := lowerFail x.fail k (chainStatus e) })
  | (_, .failed _ e) => some (s, { x' with fail := lowerFail x.fail k (chainStatus e) })

/-- A list of factors acted on one after another, as one step (R317). -/
def eachFactor (f : State → HCmd → Nat → Option (State × HCmd)) : List Nat → State × HCmd → Option (State × HCmd)
  | [], p => some p
  | k :: ks, (s, x) => match f s x k with
    | none => none
    | some p => eachFactor f ks p

/-- A serial command at its home: every read and, for a CSTG whose reads succeed, every update (R317). -/
def serialStep (s : State) (r : Req) (x : HCmd) : Option (State × HCmd) :=
  let ks := List.range (dsN x.desc)
  match eachFactor (fun s x k => readSlice s r x k) ks (s, x) with
  | none => none
  | some (s, x) =>
    if imgKind x.cmd.msg = 1 ∨ x.fail.isSome then some (s, x) else eachFactor (fun s x k => updateSlice s r x k) ks (s, x)

/-- What a slice request does for a command: a read that is not made yet, or the update that follows the reads. -/
def sliceStep (s : State) (r : Req) (x : HCmd) (k : Nat) : Option (State × HCmd) :=
  if dsSerial x.desc then (if allRead x then none else serialStep s r x)
  else if (tfind x.slices k).isNone then (if x.fail.isSome then none else readSlice s r x k)
  else if imgKind x.cmd.msg = 2 ∧ allRead x ∧ !x.updated.contains k ∧ (x.fail.isNone ∨ !x.updated.isEmpty) then
    updateSlice s r x k
  else none

/-- A home Harp performs a request of a front Harp's command. -/
def execSliceRequest (cluster cmd factor : Nat) (s : State) : Host.Outcome State Fault Refusal :=
  match tfind (getCluster s cluster).harp.cmds cmd with
  | none => .next s
  | some x =>
    if dsN x.desc ≤ factor ∨ blockedAt s cluster cmd (dsHome x.desc factor) x then .next s
    else match sliceStep s (harpReq s cluster x.cmd x.asid) x factor with
      | none => .next s
      | some (s, x) =>
        .next (modCluster s cluster (fun c => { c with harp := { c.harp with cmds := tput c.harp.cmds cmd x } }))

/-- A command whose requests have all been performed, or whose reads have failed, ends (R311, R314). -/
def chainDone (x : HCmd) : Bool :=
  if imgKind x.cmd.msg = 1 then x.fail.isSome || allRead x
  else (x.fail.isSome && x.updated.isEmpty) || (List.range (dsN x.desc)).all (fun k => x.updated.contains k)

/-- The status of a CSTG with rel = 0 may be filled once its updates are accepted by their homes, which is when its reads have
been made (R314; log 77): the turn that a free choice gives it. -/
def earlyStatus (s : State) (x : HCmd) : Bool :=
  imgKind x.cmd.msg == 2 && !ordRel (imgOrd x.cmd.msg) && !x.filled && x.fail.isNone && allRead x && Config.choice 45 s.tick % 2 == 1

/-- The front Harp fills the row or the status. -/
def execHarpCompletion (cluster cmd : Nat) (s : State) : Host.Outcome State Fault Refusal :=
  match tfind (getCluster s cluster).harp.cmds cmd with
  | none => .next s
  | some x =>
    let put := fun (s : State) (f : Tab HCmd → Tab HCmd) =>
      modCluster s cluster (fun c => { c with harp := { c.harp with cmds := f c.harp.cmds } })
    if !chainDone x then
      .next (if earlyStatus s x then chainEnd (put s (fun t => tput t cmd { x with filled := true })) x.cmd 0xFF 0 else s)
    else
      let s := put s (fun t => tdel t cmd)
      if x.filled then .next s
      else match x.fail with
        | some (k, st) => .next (chainEnd s x.cmd k st)
        | none =>
          if imgKind x.cmd.msg = 1 then .next (sendFill s x.cmd.reply (chainValue x))
          else .next (chainEnd s x.cmd 0xFF 0)

end Sys2Proof.Machine
end

