-- ==== Sys2Proof/Machine/Sys.lean ====
section
/-!
DEFINITION. The SYS group, the control registers and the hints (R36 to R39, R49 to R53, R248 to R253, R376).
-/

namespace Sys2Proof.Machine

/-! ### Control registers (R36) -/

/-- The launch of a context, or number 0 when none claims it: the key of its records. -/
def launchKey (c : Ctx) : Nat := c.launch.getD 0

/-- ctx.name's core field and the rest of a context name (R331) are those of Ops.ctxName. The value of a control
register; none for an unassigned index (R36). csp.data is read by cspRead. -/
def ctlReg (s : State) (k i : Nat) : Option Dword :=
  let c := getCtx s k
  let cn := ctxCore k
  let core := getCore s cn
  let rec_ := getRec s cn (launchKey c)
  if i = 0x000 then some c.st
  else if i = 0x001 then some c.fepol
  else if i = 0x002 then some c.fmap
  else if i = 0x00E then some c.tsv1
  else if i = 0x00F then some c.tsv2
  else if i = 0x010 then some c.epc
  else if i = 0x011 then some c.ecause
  else if i = 0x012 then some c.eaddr
  else if i = 0x013 then some c.eseq
  else if i = 0x014 then some rec_.tvec
  else if i = 0x015 then some c.est
  else if i = 0x016 then some c.tfInfo
  else if i = 0x017 then some c.tarea
  else if 0x018 ≤ i ∧ i ≤ 0x01F then some (tget 0 c.tfd (i - 0x018))
  else if i = 0x020 then some (match getLaunch s (launchKey c) with
    | some l => l.ebud
    | none => 0)
  else if i = 0x021 then some (match getLaunch s (launchKey c) with
    | some l => BitVec.ofNat 64 (l.reported / 1024)
    | none => 0)
  else if 0x100 ≤ i ∧ i ≤ 0x103 then some (tget 0 core.win (i - 0x100))
  else if i = 0x104 then some (at64 (core.wakes % 2 ^ 32) 32 ||| at64 (core.gateState % 4) 0)
  else if i = 0x105 then some (at64 (core.ce % 2 ^ 32) 32 ||| at64 (min core.ue 65535) 16 ||| bit64 core.off 1
    ||| bit64 core.sp 0)
  else if i = 0x200 then some rec_.root
  else if i = 0x201 then some rec_.asid
  else if i = 0x202 then some (getRind s (stRind c.st)).twin
  else if i = 0x210 then some (zx core.nack)
  else if i = 0x220 then some c.loopCnt
  else if i = 0x221 then some c.loopEnd
  else if i = 0x222 then some c.loopLen
  else if i = 0x230 then some c.cspAddr
  else if i = 0x240 then some rec_.sbase
  else if i = 0x241 then some (zx core.refc)
  else if i = 0x242 then some c.hoop
  else if i = 0x243 then some (ctxName s k)
  else if i = 0x250 then some rec_.spill
  else if i = 0x251 then some (BitVec.ofNat 64 (core.bypass % 16))
  else if i = 0x252 then some (zx (getCluster s (coreCluster cn)).drop)
  else if i = 0x253 then some (zx core.quant)
  else if i = 0x260 then some (dieTs s (coreDie (ctxCore k)))
  else if i = 0x800 then some (bit64 core.held 0)
  else if i = 0x801 then some core.fmask
  else if i = 0x802 then some (zx core.snapSeq)
  else if i = 0x803 then some core.snapTs
  else if i = 0x804 then some core.snapSrc
  else if i = 0x805 then some (zx core.miss)
  else if 0x810 ≤ i ∧ i ≤ 0x84F then some (tget 0 core.snapRegs i)
  else none

/-- Whether an index is assigned (R36). -/
def ctlAssigned (i : Nat) : Bool := i == 0x231 || (ctlReg State.reset 0 i).isSome

/-- A Rind's snapshot released at every core (R400). -/
def releaseSnapshot (s : State) (rind : Nat) : State :=
  let s := modRind s rind (fun r => { r with held := false })
  (rindCores s rind).foldl (fun s cn => modCore s cn (fun c => { c with held := false })) s

/-- A launch's contexts with st.dem set or cleared (R376). -/
def setDemoted (s : State) (l : Nat) (b : Bool) : State :=
  let s := modLaunch s l (fun x => { x with demoted := b })
  let ks := (s.ctxs.filter (fun e => e.2.launch == some l)).map (fun e => e.1)
  ks.foldl (fun s k => modCtx s k (fun c => { c with st := stBit c.st 4 b })) s

/-- ebud written (R375, R376): above eused it replenishes a demoted launch. -/
def writeEbud (s : State) (l : Nat) (v : Dword) : State :=
  let s := modLaunch s l (fun x => { x with ebud := v })
  match getLaunch s l with
  | none => s
  | some x => if x.demoted && decide (x.reported / 1024 < v.toNat) then setDemoted s l false else s

/-- A control register written in system mode, field by field (R3, R36); the read-only ones ignore it (R37). -/
def ctlPut (s : State) (k i : Nat) (v : Dword) : State :=
  let cn := ctxCore k
  let l := launchKey (getCtx s k)
  let onCtx := fun (f : Ctx → Ctx) => modCtx s k f
  let onRec := fun (f : LRec → LRec) => modRec s cn l f
  let loops := fun (f : Ctx → Ctx) =>
    freshRegs (modCtx s k f) k (fun r => r + 0x220 == i + 72)
  if i = 0x000 then onCtx (fun c => { c with st := putFld c.st 5 3 (fld v 5 3) })
  else if i = 0x001 then onCtx (fun c => { c with fepol := v &&& ~~~1#64 })
  else if i = 0x00E then onCtx (fun c => { c with tsv1 := v })
  else if i = 0x00F then onCtx (fun c => { c with tsv2 := v })
  else if i = 0x010 then onCtx (fun c => { c with epc := v &&& ~~~3#64 })
  else if i = 0x014 then onRec (fun r => { r with tvec := v &&& ~~~3#64 })
  else if i = 0x017 then onCtx (fun c => { c with tarea := v &&& ~~~63#64 })
  else if i = 0x020 then writeEbud s l v
  else if 0x100 ≤ i ∧ i ≤ 0x103 then
    modCore s cn (fun c => { c with win := tput c.win (i - 0x100) (v &&& 0xE007FFFF0003FFC0) })
  else if i = 0x200 then onRec (fun r => { r with root := v &&& 0x01FFFFFFFFFFC000 })
  else if i = 0x201 then onRec (fun r => { r with asid := v &&& 0xFFFF })
  else if i = 0x220 then loops (fun c => { c with loopCnt := v })
  else if i = 0x221 then loops (fun c => { c with loopEnd := v &&& ~~~3#64 })
  else if i = 0x222 then loops (fun c => { c with loopLen := v &&& 0x7FF })
  else if i = 0x230 then onCtx (fun c => { c with cspAddr := v &&& 0x1FFFFFFFFFF8 })
  else if i = 0x240 then onRec (fun r => { r with sbase := v &&& ~~~0x3FFFF#64 })
  else if i = 0x250 then onRec (fun r => { r with spill := v &&& 0x01FFFFFFFFC00000 })
  else if i = 0x251 then modCore s cn (fun c => { c with bypass := fldN v 0 4 })
  else if i = 0x253 then modCore s cn (fun c => { c with quant := fld v 0 32 })
  else if i = 0x800 then if bitAt v 1 then releaseSnapshot s (stRind (getCtx s k).st) else s
  else if i = 0x801 then modCore s cn (fun c => { c with fmask := v })
  else s

/-! ### CRD and CWR (R250) -/

/-- The loop register that a control index names, by its number in State.badReg. -/
def loopOf (i : Nat) : List Nat := if 0x220 ≤ i ∧ i ≤ 0x222 then [i - 0x220 + 72] else []

/-- CRD (R250). A read of fmap tests no register and never parks: g[d] keeps its full/empty bit (R39). -/
def execCrd (d : BitVec 5) (i : BitVec 12) (s : State) : Host.Outcome State Fault Refusal :=
  issue s { writes := if i = 2 then [] else [gr d], ctl := some i.toNat, loops := loopOf i.toNat } (fun s c =>
    if i = 0x231 then cspRead d s c
    else match ctlReg s s.me i.toNat with
      | none => (s, .trap (simpleTrap 0x04 (zx i)))
      | some v => (freshRegs (setCtx s s.me (c.writeG d.toNat v)) s.me (fun r => r == d.toNat), .next))

def execCwr (a : BitVec 5) (i : BitVec 12) (s : State) : Host.Outcome State Fault Refusal :=
  issue s { reads := [gr a], ctl := some i.toNat } (fun s c =>
    let v := c.readG a.toNat
    if !ctlAssigned i.toNat then (s, .trap (simpleTrap 0x04 (zx i)))
    else if !stSys c.st ∧ i ≠ 1 then (s, .trap (simpleTrap 0x05 0))
    else if i = 0x231 then cspWrite v s c
    else (ctlPut s s.me i.toNat v, .next))

/-- CRD of csp.data (R260). -/
def execCspDataRead (d : BitVec 5) (s : State) : Host.Outcome State Fault Refusal :=
  issue s { writes := [gr d], ctl := some 0x231 } (cspRead d)

/-- CWR of csp.data (R260). -/
def execCspDataWrite (a : BitVec 5) (s : State) : Host.Outcome State Fault Refusal :=
  issue s { reads := [gr a], ctl := some 0x231 } (fun s c => cspWrite (c.readG a.toNat) s c)

/-- CWR of ebud (R375, R376). -/
def execEbudWrite (a : BitVec 5) (s : State) : Host.Outcome State Fault Refusal :=
  issue s { reads := [gr a], ctl := some 0x020 } (fun s c =>
    if !stSys c.st then (s, .trap (simpleTrap 0x05 0)) else (writeEbud s (launchKey c) (c.readG a.toNat), .next))

/-! ### The other members -/

/-- NOP (R55). -/
def execNop (s : State) : Host.Outcome State Fault Refusal := issue s {} (fun s _ => (s, .next))

/-- TRAP (R249): it resumes after the word. -/
def execTrap (code : BitVec 12) (s : State) : Host.Outcome State Fault Refusal :=
  issue s {} (fun s c => (takeTrap s s.me (simpleTrap 0x08 (zx code)) (c.pc + 4), .moved))

/-- ERET (R249, R384, R385). -/
def execEret (s : State) : Host.Outcome State Fault Refusal :=
  issue s { writes := [1, 2] } (fun s c =>
    if !stSys c.st || !stTrap c.st then (s, .trap (simpleTrap 0x05 0))
    else if stRoam c.est then (returnRoaming s s.me, .moved)
    else (returnTrap s s.me, .moved))

/-- SNAP (R251, R399, R400). -/
def execSnap (d : BitVec 5) (s : State) : Host.Outcome State Fault Refusal :=
  issue s { writes := [gr d] } (fun s c =>
    let k := s.me
    if !stSys c.st then (s, .trap (simpleTrap 0x05 0))
    else if !(pendingOf s k).isEmpty then (s, .hold)
    else
      let rind := stRind c.st
      let r := getRind s rind
      let reply := replyOf s k d.toNat
      let late := r.trigger.isNone && (r.held || decide (s.cycle < r.joinTo))
      let s := raiseTrigger s rind (at64 (coreField (ctxCore k)) 29)
      let s := modCtx s k (fun c => c.setEmpty d.toNat true)
      if late then (sendFillD s reply (zx r.latches), .next)
      else
        (modRind s rind (fun r => match r.trigger with
          | some t => { r with trigger := some { t with waiters := t.waiters ++ [reply] } }
          | none => r), .next))

/-- The unit that an energy name names: its key, or none when the name is bad for the Rind (R252). -/
def energyUnit (s : State) (rind : Nat) (name : Dword) : Option Nat :=
  let kind := fldN name 60 4
  let die := fldN name 46 2
  let c := clusterOf die (fldN name 43 3) (fldN name 40 3)
  let i := fldN name 32 8
  if fldN name 48 12 ≠ 0 ∨ fldN name 0 32 ≠ 0 then none
  else
    let own := (getCluster s c).rind == some rind
    match kind with
    | 0 => if i < 8 && own then some (unitKey 0 (8 * c + i)) else none
    | 1 => if i < 4 && own then some (unitKey 1 (4 * c + i)) else none
    | 2 => if i < 2 && own then some (unitKey 2 (2 * c + i)) else none
    | 3 => if i = 0 && own then some (unitKey 3 c) else none
    | 4 => if i < 12 then some (unitKey 4 i) else none
    | 5 => if i < 32 then some (unitKey 5 i) else none
    | 6 => if i < 48 then some (unitKey 6 i) else none
    | _ => none

/-- ERD (R252, R374): whole nanojoules. R252 leaves open at which moment after issue the value is taken: the model takes it in
the step that issues ERD (log 96). -/
def execErd (d a : BitVec 5) (s : State) : Host.Outcome State Fault Refusal :=
  issue s { reads := [gr a], writes := [gr d] } (fun s c =>
    let g := c.readG a.toNat
    match energyUnit s (stRind c.st) g with
    | none => (s, .trap (simpleTrap 0x04 g))
    | some u => (answer s s.me d (BitVec.ofNat 64 (tget 0 (getRind s (stRind c.st)).energy u / 1024)), .next))

/-- Some context of a core is runnable or running. -/
def coreBusy (s : State) (cn : Nat) : Bool :=
  s.ctxs.any (fun e => ctxCore e.1 == cn && (e.2.act == .runnable || e.2.act == .running))

/-- GATE (R253, R377): a simple PARK, with a request to gate the core unless another context is ready. -/
def execGate (s : State) : Host.Outcome State Fault Refusal :=
  issue s {} (fun s c =>
    let k := s.me
    if !stSys c.st then (s, .trap (simpleTrap 0x05 0))
    else
      let s := leaveSlot (modCtx s k (fun c => { nextPc c c.pc with hint := none, walked := [], asks := [], trail := { c.trail with moves := 0 } })) k (.waiting .gate)
      let cn := ctxCore k
      if coreBusy s cn then (s, .moved)
      else (modCore s cn (fun x => { x with gateState := 1, gateAt := some (s.cycle + 2) }), .moved))

/-! ### Hints (R49 to R53) -/

/-- A hint issues before its target: it is kept for the next word, and its address is where the pair resumes. -/
def latchHint (h : Instr) (s : State) : Host.Outcome State Fault Refusal :=
  issue s {} (fun s c => (setCtx s s.me { c with hint := some (c.pc, h), pc := c.pc + 4 }, .moved))

def execHImm (p : BitVec 23) (s : State) : Host.Outcome State Fault Refusal := latchHint (.hImm p) s
def execHSched (l o : BitVec 2) (s : State) : Host.Outcome State Fault Refusal := latchHint (.hSched l o) s
def execHMod (r : BitVec 3) (n : BitVec 1) (s : State) : Host.Outcome State Fault Refusal := latchHint (.hMod r n) s

end Sys2Proof.Machine
end

