-- ==== Sys2Proof/Machine/Launch.lean ====
section
/-!
DEFINITION. The launcher and the energy account (R138, R255, R256, R358 to R361, R373, R375, R376, R401, R404, R405).
-/

namespace Sys2Proof.Machine

/-! ### The launch block (R255) -/

def lbTag (b : BitVec 384) : Nat := fldN b 0 32
/-- The done port with its reserved bits taken as zero. -/
def lbDone (b : BitVec 384) : Nat := fldN b 32 29
def lbNctx (b : BitVec 384) : Nat := fldN b 96 5

/-- The chosen cores, in the order of their ranks (R255, R256). -/
def chosenCores (b : BitVec 384) : List Nat :=
  (bitsOf (fldN b 101 32) 32).flatMap (fun g => (bitsOf (fldN b 75 8) 8).flatMap (fun x =>
    (bitsOf (fldN b 83 8) 8).map (fun c => 8 * clusterOf (g / 8) x (g % 8) + c)))

/-- The block breaks a limit of R255. -/
def blockLimit (b : BitVec 384) : Bool :=
  fldN b 192 2 != 0 || lbNctx b == 0 || decide (16 < lbNctx b) || (chosenCores b).isEmpty

/-! ### Admission (R359, R373, R391) -/

/-- Seated contexts of a core that no launch holds. -/
def freeSeats (s : State) (cn : Nat) : List Nat :=
  (List.range 16).filter (fun i => (getCtx s (ctxKey cn i)).launch.isNone)

/-- A number entered in a rising list. -/
def insertNat (i : Nat) : List Nat → List Nat
  | [] => [i]
  | j :: js => if i < j then i :: j :: js else j :: insertNat i js

/-- The lowest-numbered free area of a Rind's pool. -/
def freeArea (s : State) (rind : Nat) : Option Nat :=
  let r := getRind s rind
  let i := firstFree r.areas 0
  if i < r.spoolCnt.toNat then some i else none

/-- The area lies in plain regions of the Rind. -/
def areaOk (s : State) (rind i : Nat) : Bool :=
  let a := areaAddr s rind i
  isLocal s a && tableOk s rind (paLocal a) (2 ^ 22)

/-- The lowest status that refuses a block (R359, R361, R391), or the spill area of the launch. -/
def admitTest (s : State) (rind : Nat) (b : BitVec 384) : Except Nat Nat :=
  let cores := chosenCores b
  if blockLimit b then .error 1
  else if cores.any (fun cn => coreRind s cn != some rind) then .error 2
  else if cores.any (fun cn => (getCore s cn).off || decide ((freeSeats s cn).length < lbNctx b)) then .error 3
  else match freeArea s rind with
    | none => .error 4
    | some i => if areaOk s rind i then .ok i else .error 4

/-- A core's contexts claimed for a launch (R359). -/
def claimSeats (s : State) (l n cn : Nat) : State :=
  ((freeSeats s cn).take n).foldl (fun s i => modCtx s (ctxKey cn i) (fun c => { c with launch := some l })) s

/-- The start message of a context (R256, R359): its core, its index, its rank and the number of contexts. -/
def startMessage (s : State) (rind front : Nat) (b : BitVec 384) (cn idx rank total : Nat) : BitVec 512 :=
  let payload : BitVec 384 := BitVec.ofNat 384 (fldN b 320 64 + rank * 2 ^ 64 + total * 2 ^ 128 + fldN b 0 64 * 2 ^ 192)
  mkMessage (mkHeader (portName s cn 63) 0 0 rind false 0 (coreField front) 5 (idx * 256) 0xFF) payload

/-- The completion message of a launch (R361). -/
def doneMessage (rind front : Nat) (b : BitVec 384) (status used dropped : Nat) : BitVec 512 :=
  let payload : BitVec 384 := BitVec.ofNat 384 (lbTag b % 65536 + status * 2 ^ 16 + used % 2 ^ 64 * 2 ^ 32
    + min dropped (2 ^ 32 - 1) * 2 ^ 96)
  mkMessage (mkHeader (lbDone b) 0 0 rind false 0 (coreField front) 4 0 0xFF) payload

/-- A launch admitted (R359): contexts claimed, the record written on the chosen cores, the start messages sent. -/
def admitLaunch (s : State) (rind front area : Nat) (b : BitVec 384) : State :=
  let l := s.nextLaunch
  let cores := chosenCores b
  let n := lbNctx b
  let seats := cores.flatMap (fun cn => ((freeSeats s cn).take n).map (fun i => (cn, i)))
  let clusters := (cores.map coreCluster).eraseDups
  let s := clusters.foldl (fun s cl => if clusterIdle s cl then setFused s cl (bitAt b 91) else s) s
  let new : Launch := { rind := rind, asid := fldN b 133 16, front := front, block := b, ebud := fld b 256 64,
                        starts := seats.length, area := some area }
  let s := { s with nextLaunch := l + 1, launches := tput s.launches l new }
  let s := modRind s rind (fun r => { r with areas := insertNat area r.areas })
  let s := cores.foldl (fun s cn => modRec (claimSeats s l n cn) cn l (fun _ => newRecord s rind area b cn)) s
  (seats.zip (List.range seats.length)).foldl (fun s (e : (Nat × Nat) × Nat) =>
    sendPacket s (.resend (startMessage s rind front b e.1.1 e.1.2 e.2 seats.length) 0)) s

/-- The message image in a slot of the shared store (R332). -/
def slotMessage (s : State) (cn i : Nat) : BitVec 512 :=
  ofBytes 512 ((List.range 64).map (fun j => memGet s.mem (slotAddr cn i + j)))

/-- The launcher takes the oldest launch message of its port: it admits the launch, or refuses it (R359). -/
def execLaunchAdmission (rind : Nat) (s : State) : Host.Outcome State Fault Refusal :=
  match frontCore s rind with
  | none => .next s
  | some front =>
    let q := getPort s front 63
    match q.queue with
    | [] => .next s
    | sl :: rest =>
      let b := msgPayload (slotMessage s front sl)
      let s := { setPort s front 63 { q with queue := rest } with slots := tput s.slots (front * 256 + sl) false }
      match admitTest s rind b with
      | .error st => .next (sendPacket s (.resend (doneMessage rind front b st 0 0) 0))
      | .ok area => .next (admitLaunch s rind front area b)

/-! ### The end of a launch (R360, R361, R404, R405) -/

/-- A seated context counts in its launch's activity. -/
def ctxCounts (c : Ctx) : Bool :=
  match c.act with
  | .dormant => false
  | .runnable => true
  | .running => true
  | .waiting (.take _) => false
  | .waiting .park => (List.range 64).any c.isEmpty
  | .waiting .gate => (List.range 64).any c.isEmpty
  | .waiting _ => true

/-- A flight is a send of a launch that is not acknowledged, a post that is not applied, or a task under TAKE (R360, R405). -/
def sendCounts (l : Nat) (f : Flight) : Bool :=
  f.launch == some l && (match f.body with
    | .message _ => true
    | .post .. => f.owner.isSome
    | .done .. => true
    | .task .. => true
    | .ack _ _ dec _ => dec
    | _ => false)

/-- A command of the launch waits or runs in an engine of a cluster. -/
def engineCounts (l : Nat) (c : Cluster) : Bool :=
  c.inbox.any (fun e => e.2.any (fun q => q.launch == some l))
    || c.copies.any (fun e => e.2.cmd.launch == some l)
    || c.press.any (fun e => e.2.cmds.any (fun y => y.cmd.launch == some l))
    || c.harp.inbox.any (fun q => q.launch == some l)
    || c.harp.cmds.any (fun e => e.2.cmd.launch == some l)

/-- The launch has something under way: its activity count is not zero (R360). -/
def launchActive (s : State) (l : Nat) (x : Launch) : Bool :=
  decide (0 < x.roaming)
    || s.ctxs.any (fun e => e.2.launch == some l && decide (ctxIdx e.1 < 128) && ctxCounts e.2)
    || s.clusters.any (fun e => e.2.arms.any (fun a => a.2.owner == l && a.2.state != .free) || engineCounts l e.2)
    || s.net.any (fun f => sendCounts l f || (f.launch == some l && (match f.body with | .command .. => true | _ => false)))
    || s.awaiting.any (fun e => sendCounts l e.2)

/-- A claimed context is released with its launch: one that waits becomes dormant. -/
def releaseSeat (s : State) (k : Nat) : State :=
  let s := if (getCtx s k).act = .dormant then s else clearSeated (freeFrames (closeStreams s k) k) k
  modCtx s k (fun c => { c with launch := none, hoop := 0 })

/-- A port of an ended launch is disabled and cleared, and its slots are free. -/
def clearPort (s : State) (key : Nat) : State :=
  let q := tget {} s.ports key
  { s with
    ports := tdel s.ports key
    slots := q.queue.foldl (fun t i => tput t (key / 64 * 256 + i) false) s.slots }

/-- A cluster without its arming entries and waiting TAKEs of an ended launch (R365, R404). -/
def clearTasks (l : Nat) (c : Cluster) : Cluster :=
  { c with arms := tkeep c.arms (fun _ a => a.owner != l), takers := c.takers.filter (fun t => t.2 != l) }

/-- What a launch holds is released, and its completion is sent (R360, R361). Its records stay, for drains that still
run. -/
def endLaunch (s : State) (l : Nat) (x : Launch) : State :=
  let mine := s.ports.filter (fun e => portOwner e.2 == some l)
  let dropped := mine.foldl (fun (n : Nat) e => n + e.2.queue.length) 0
  let s := mine.foldl (fun s e => clearPort s e.1) s
  let s := { s with patterns := tkeep s.patterns (fun _ p => p.owner != some l) }
  let ks := (s.ctxs.filter (fun e => e.2.launch == some l && decide (ctxIdx e.1 < 128))).map (fun e => e.1)
  let s := ks.foldl releaseSeat s
  let s := { s with
    clusters := List.map (fun (e : Nat × Cluster) => (e.1, clearTasks l e.2)) s.clusters
    launches := tdel s.launches l }
  let s := modRind s x.rind (fun r => { r with areas := r.areas.filter (fun i => some i != x.area) })
  let cls := (ks.map (fun k => coreCluster (ctxCore k))).eraseDups
  let s := cls.foldl partIdle s
  sendPacket s (.resend (doneMessage x.rind x.front x.block 0 (x.reported / 1024) dropped) 0)

/-- A launch whose start messages are taken and whose activity count is zero ends (R360). -/
def execLaunchEnd (launch : Nat) (s : State) : Host.Outcome State Fault Refusal :=
  match getLaunch s launch with
  | none => .next s
  | some x => if x.starts ≠ 0 ∨ launchActive s launch x then .next s else .next (endLaunch s launch x)

/-! ### Energy (R375, R376) -/

/-- The units report what they have counted for a launch. -/
def execEnergyReport (launch : Nat) (s : State) : Host.Outcome State Fault Refusal :=
  .next (modLaunch s launch (fun x => { x with reported := x.energy }))

/-- A launch whose eused has reached ebud is demoted. -/
def execDemotion (launch : Nat) (s : State) : Host.Outcome State Fault Refusal :=
  match getLaunch s launch with
  | none => .next s
  | some x =>
    let behind := s.ctxs.any (fun e => e.2.launch == some launch && !stDem e.2.st)
    if x.ebud.toNat ≤ x.reported / 1024 ∧ (!x.demoted || behind) = true then .next (setDemoted s launch true) else .next s

end Sys2Proof.Machine
end

