-- ==== Sys2Proof/Machine/HostLink.lean ====
section
/-!
DEFINITION. The host link (R406 to R411, R437): launch writes, the host queue, CXL.mem, CXL.cache, and the writes of
registers from outside the cores (R3, R66, R92, R374, R409).
-/

namespace Sys2Proof.Machine

/-! ### The launch-port page (R409 to R411) -/

/-- A page of the window changed. -/
def modPage (s : State) (rind : Nat) (f : HostPage → HostPage) : State := modRind s rind (fun r => { r with page := f r.page })

/-- The launch window of a Rind is open (R422). -/
def windowOpen (s : State) (rind : Nat) : Bool := decide (rind < 12) && (getRind s rind).started

/-- The message that a launch write becomes (R358, R410). -/
def launchMessage (rind : Nat) (m : BitVec 512) : BitVec 512 :=
  putFld (putFld (putFld m 60 4 (5 : BitVec 4)) 56 4 (BitVec.ofNat 4 rind)) 32 8 (6 : BitVec 8)

/-- A launch write is held, or dropped and counted while 16 are held (R410). -/
def execLaunchWrite (rind : Nat) (block : BitVec 512) (s : State) : Host.Outcome State Fault Refusal :=
  if !windowOpen s rind then .next s
  else .next (modPage s rind (fun g =>
    if g.held.length < 16 then { g with held := g.held ++ [launchMessage rind block] } else { g with ldrop := g.ldrop + 1 }))

/-- The oldest held message is presented to port 63; refused, it waits for 256 cycles (R410). -/
def execLaunchRetry (rind : Nat) (s : State) : Host.Outcome State Fault Refusal :=
  let g := (getRind s rind).page
  match g.held with
  | [] => .next s
  | m :: rest =>
    if s.cycle < g.after ∨ (frontCore s rind).isNone then .next s
    else match placeMessage s m with
      | (s, true) => .next (modPage s rind (fun g => { g with held := rest, after := 0 }))
      | (s, false) => .next (modPage s rind (fun g => { g with after := s.cycle + 256 }))

/-- The head of the host queue written (R411). -/
def writeHead (g : HostPage) (v : Word) : HostPage :=
  if 2 ^ (min (fldN g.ctl 0 4) 12) < (g.tail - v).toNat then g else { g with head := v }

def execHeadWrite (rind : Nat) (value : BitVec 32) (s : State) : Host.Outcome State Fault Refusal :=
  .next (if windowOpen s rind then modPage s rind (fun g => writeHead g value) else s)

/-- A write of a dword of a page (R409): an unlisted or partial write is counted. The table gives lsz the range 0 to 12 and
calls no value reserved: a larger one is treated as R5 treats a reserved value (log 75). -/
def writePage (g : HostPage) (off : Nat) (v : Dword) : HostPage :=
  match off with
  | 0x40 => g
  | 0x48 => g
  | 0x80 => { g with ring := v &&& ~~~63#64 }
  | 0x88 => { g with ctl := bit64 (bitAt v 63) 63 ||| zx (keepField g.ctl v 0 (fun (x : BitVec 4) => 12 < x.toNat)) }
  | 0x90 => g
  | 0x98 => writeHead g (v.setWidth 32)
  | _ => { g with ldrop := g.ldrop + 1 }

/-- A dword of a page as the host reads it (R409): msg is write-only, and reserved bits read as zero. -/
def readPage (g : HostPage) (off : Nat) : Dword :=
  match off with
  | 0x40 => BitVec.ofNat 64 (16 - g.held.length)
  | 0x48 => zx g.ldrop
  | 0x80 => g.ring
  | 0x88 => g.ctl
  | 0x90 => zx g.tail
  | 0x98 => zx g.head
  | _ => 0

/-- The host reads a dword of an open launch-port page. -/
def hostPageRead (s : State) (rind off : Nat) : State :=
  if windowOpen s rind then { s with hostOut := s.hostOut ++ [readPage (getRind s rind).page off] } else s

/-- A register written by the Starter or the host under its access code (R3). -/
def execRegisterWrite (reg : StarterReg) (value : BitVec 64) (s : State) : Host.Outcome State Fault Refusal :=
  match reg with
  | .control a => match ctlAt a with
    | some r => .next (ctlWrite s true r value)
    | none => .next s
  | .twin k => .next (if k < 12 then modRind s k (fun r => { r with twin := value &&& 0x01FFFFFFC0000000 }) else s)
  | .page k off => .next (if windowOpen s k then modPage s k (fun g => writePage g off value) else s)
  | .energyWeight e => .next (if e < 8 then { s with weights := tput s.weights e value.toNat } else s)

/-! ### CXL.mem (R408, R437) -/

/-- The plain HBM regions of a Rind in ascending order, a quarantined one in its place: an access to it is one to a hole
(R68). -/
def plainRegions (s : State) (rind : Nat) : List Nat :=
  (List.range 576).filter (fun r => rmRind (rmapOf s r) == rind && rmKind (rmapOf s r) == 0)

/-- The local address under an offset of HDM decoder k; none beyond its range. -/
def hdmAddr (s : State) (rind addr : Nat) : Option Nat :=
  ((plainRegions s rind)[addr / 2 ^ 30]?).map (fun r => r * 2 ^ 30 + addr % 2 ^ 30)

/-- An aligned dword accessed without a leaf for the host or the Starter, in the view of its sector (R151, R408, R437). -/
def outsideAccess (s : State) (rind la : Nat) (write : Bool) (data : BitVec 64) : State × Performed :=
  leafless s { ctx := engineKey, gen := 0, inTrap := false, op := if write then .store else .load, dest := .none, n := 8,
               pa := s.node * 2 ^ 45 + la, va := 0, data := data.setWidth 512, expect := 0, pkind := 0,
               home := leaflessHome s la, col := none, nalloc := true, rind := rind, launch := none, size := 3 }

/-- One aligned dword of a CXL.mem access. addr is the offset in the range of the Rind's HDM decoder. An access to a hole changes
nothing, and what a read of one returns is a free value (log 89). -/
def execCxlMemAccess (rind : Nat) (write : Bool) (addr : Nat) (data : BitVec 64) (s : State) :
    Host.Outcome State Fault Refusal :=
  if !windowOpen s rind ∨ addr % 8 ≠ 0 then .next s
  else match hdmAddr s rind addr with
    | none => .next s
    | some la =>
      if isHole s rind la then .next (if write then s else { s with hostOut := s.hostOut ++ [fld (Config.freeVec 48 s.tick) 0 64] })
      else match outsideAccess s rind la write data with
      | (s, .ok v) => .next (if write then s else { s with hostOut := s.hostOut ++ [v.setWidth 64] })
      | (s, _) => .next (quarantineFrame
          (if write then s else { s with hostOut := s.hostOut ++ [BitVec.allOnes 64], rasUe := true }) (s.node * 2 ^ 45 + la))

/-- An access of the Starter to memory, performed as a CXL.mem access is (R437): HBM, the Whey tier, or a window over them; a
scratchpad under its windows (R165). Another address is not memory. One to a hole changes nothing, and what a read of it returns
is a free value (R65, R68, R75, R78; log 89). -/
def starterMem (s : State) (write : Bool) (la : Nat) (data : BitVec 64) : State :=
  let out := fun (s : State) (v : BitVec 64) => if write then s else { s with starterOut := s.starterOut ++ [v] }
  let owner := if windowOf la = .scratch then (coreRind s (scratchCore la)).getD 15 else ownerRind s la
  let go := if isHole s owner la then out s (fld (Config.freeVec 48 s.tick) 0 64)
    else match outsideAccess s owner la write data with
    | (s, .ok v) => out s (v.setWidth 64)
    | (s, .refused) => s
    | (s, .dataError) => quarantineFrame (out s (BitVec.allOnes 64)) (s.node * 2 ^ 45 + la)
  if la % 8 ≠ 0 then s
  else match windowOf la with
    | .host => s
    | .control => s
    | .hole => s
    | _ => go

/-- The Starter reads a register of control space (R66). -/
def starterControl (s : State) (a : Nat) : State :=
  match ctlAt a with
  | some r => { s with starterOut := s.starterOut ++ [ctlRead s r] }
  | none => s

/-! ### CXL.cache (R407) -/

/-- The local address of a line of host memory. -/
def hostLineAddr (line : Nat) : Nat := 0x100000000000 + 128 * line

/-- A snoop of the host: the line's modified bytes return to host memory, and the line leaves the cache when the
host invalidates it; data is what the host then writes to a line that the device does not hold. -/
def execCxlCacheSnoop (line : Nat) (inval : Bool) (data : Option (BitVec 1024)) (s : State) :
    Host.Outcome State Fault Refusal :=
  if 2 ^ 37 ≤ line then .next s
  else
    let a := hostLineAddr line
    let s := { s with
      mem := (overIn s.top a 128).foldl (fun m e => memPut m e.1 e.2) s.mem
      top := overDrop s.top a 128
      hostLines := if inval then s.hostLines.filter (fun l => l != a / 128) else s.hostLines }
    match data with
    | none => .next s
    | some d => if s.hostLines.contains (a / 128) then .next s
      else .next { s with mem := memPuts s.mem a (bytesOf d 128) }

/-- The host link recovers as CXL defines: nothing of this part changes (R406). -/
def execHostLinkRecovery (s : State) : Host.Outcome State Fault Refusal := .next s

end Sys2Proof.Machine
end

