-- ==== Sys2Proof/Machine/Sha3.lean ====
section
/-!
DEFINITION. SHA3-512 of a measurement slot followed by a digest (R418). The rule names the function; its steps are those of
the standard (log 22). A 512-bit value stands for its 64 bytes, byte 0 in the low bits (R1).
-/

namespace Sys2Proof.Machine.Sha3

/-- Lane x, y of the 5 × 5 lanes of 64 bits. -/
def lane (a : List (BitVec 64)) (x y : Nat) : BitVec 64 := a.getD (x % 5 + 5 * (y % 5)) 0

/-- A list of the 25 lanes by x and y. -/
def lanes (f : Nat → Nat → BitVec 64) : List (BitVec 64) := (List.range 25).map (fun i => f (i % 5) (i / 5))

/-- The rotation of each lane. -/
def offsets : List Nat :=
  [0, 1, 62, 28, 27, 36, 44, 6, 55, 20, 3, 10, 43, 25, 39, 41, 45, 15, 21, 8, 18, 2, 61, 56, 14]

/-- The constants of the 24 rounds. -/
def constants : List (BitVec 64) :=
  [0x0000000000000001, 0x0000000000008082, 0x800000000000808A, 0x8000000080008000,
   0x000000000000808B, 0x0000000080000001, 0x8000000080008081, 0x8000000000008009,
   0x000000000000008A, 0x0000000000000088, 0x0000000080008009, 0x000000008000000A]
  ++ [0x000000008000808B, 0x800000000000008B, 0x8000000000008089, 0x8000000000008003,
   0x8000000000008002, 0x8000000000000080, 0x000000000000800A, 0x800000008000000A,
   0x8000000080008081, 0x8000000000008080, 0x0000000080000001, 0x8000000080008008]

/-- The sum of a column. -/
def column (a : List (BitVec 64)) (x : Nat) : BitVec 64 :=
  lane a x 0 ^^^ lane a x 1 ^^^ lane a x 2 ^^^ lane a x 3 ^^^ lane a x 4

/-- One round: the columns mixed, the lanes rotated and moved, the rows combined, and the constant. -/
def round (a : List (BitVec 64)) (c : BitVec 64) : List (BitVec 64) :=
  let d := (List.range 5).map (fun x => column a (x + 4) ^^^ (column a (x + 1)).rotateLeft 1)
  let b := lanes (fun x y => lane a x y ^^^ d.getD x 0)
  -- Lane (x, y) comes from (x + 3y, x).
  let m := lanes (fun x y => (lane b (x + 3 * y) x).rotateLeft (offsets.getD ((x + 3 * y) % 5 + 5 * x) 0))
  let r := lanes (fun x y => lane m x y ^^^ (~~~(lane m (x + 1) y) &&& lane m (x + 2) y))
  match r with
  | [] => []
  | h :: t => (h ^^^ c) :: t

/-- A block of nine lanes taken in. -/
def absorb (a block : List (BitVec 64)) : List (BitVec 64) :=
  constants.foldl round ((List.range 25).map (fun i => a.getD i 0 ^^^ block.getD i 0))

/-- The dwords of a 512-bit value, lowest first. -/
def dwords (v : BitVec 512) : List (BitVec 64) := (List.range 8).map (fun i => (v >>> (64 * i)).setWidth 64)

/-- SHA3-512(slot ‖ digest): 16 lanes of message, and the padding. -/
def extend (slot digest : BitVec 512) : BitVec 512 :=
  let m := dwords slot ++ dwords digest
  let a := absorb (absorb [] (m.take 9)) (m.drop 9 ++ [0x06, 0x8000000000000000])
  (List.range 8).foldl (fun (v : BitVec 512) i => v ||| ((a.getD i 0).setWidth 512 <<< (64 * i))) 0

end Sys2Proof.Machine.Sha3
end

