-- ==== Sys2Proof/Machine/Press.lean ====
section
/-!
DEFINITION. The Presses (R280 to R299, R231 to R234): their commands, weight buffers and banks, the K-blocks, and the
escalation of checksum mismatches. The buffer, the accepted commands with their tiles and the resume records belong to
the logical Press, so that a take-over keeps them; the banks belong to the physical one (R296; log 21).
-/

namespace Sys2Proof.Machine

/-! ### The instructions (R286, R287, R297, R299) -/

/-- The unit key of a logical Press's inbox. -/
def pressUnit (cl p : Nat) : Nat := 8 * cl + 2 + p

def getPress (s : State) (cl p : Nat) : Press := tget {} (getCluster s cl).press p
def modPress (s : State) (cl p : Nat) (f : Press → Press) : State :=
  modCluster s cl (fun c => { c with press := tput c.press p (f (tget {} c.press p)) })

/-- The command message of a Press (R288). -/
def pressMessage (s : State) (k kind : Nat) (o sc : BitVec 2) (reg p : Nat) (pbva : Dword) (port : Option Dword) : BitVec 512 :=
  let sys := if stSys (getCtx s k).st then 2 ^ 8 else 0
  let arg := match port with
    | some n => 2 ^ 32 + n.toNat % 2 ^ 32 * 2 ^ 128
    | none => 0
  commandMessage s k 2 p (BitVec.ofNat 384 (imageBase s k kind o sc reg + sys + arg + pbva.toNat * 2 ^ 64))

/-- PWLD, PMMA and PRES after the register test (R287). -/
def pressBody (kind : Nat) (d a b : BitVec 5) (p sc o : BitVec 2) (s : State) (c : Ctx) : State × Done :=
  let k := s.me
  let ga := c.readG a.toNat
  let gb := c.readG b.toNat
  if kind ≠ 3 ∧ ga.toNat % 64 ≠ 0 then (s, .trap (simpleTrap 0x02 ga))
  else if b ≠ 0 ∧ fldN gb 29 3 ≠ 0 then (s, .trap (simpleTrap 0x0B (zx (fld gb 0 32))))
  else
    let pb : Dword := if kind = 3 then zx (fld ga 0 16) else ga
    let m := pressMessage s k kind o sc d.toNat p.toNat pb (if b = 0 then none else some gb)
    (sendCommand s k (2 + p.toNat) m 0 o sc (replyOf s k d.toNat), .next)

def execPwld (d a b : BitVec 5) (p sc o : BitVec 2) (s : State) : Host.Outcome State Fault Refusal :=
  issue s { reads := [gr a, gr b], writes := [gr d] } (pressBody 0 d a b p sc o)

def execPmma (d a b : BitVec 5) (p sc o : BitVec 2) (s : State) : Host.Outcome State Fault Refusal :=
  issue s { reads := [gr a, gr b], writes := [gr d] } (pressBody 1 d a b p sc o)

def execPres (d a b : BitVec 5) (p sc o : BitVec 2) (s : State) : Host.Outcome State Fault Refusal :=
  issue s { reads := [gr a, gr b], writes := [gr d] } (pressBody 3 d a b p sc o)

/-! ### Blocks (R289 to R291) -/

def wlSrc (b : BitVec 512) : Dword := fld b 0 64
def wlBoff (b : BitVec 512) : Nat := fldN b 64 18
def wlLen (b : BitVec 512) : Nat := fldN b 96 32

def mmAsrc (b : BitVec 512) : Dword := fld b 0 64
def mmAscl (b : BitVec 512) : Dword := fld b 64 64
def mmDst (b : BitVec 512) : Dword := fld b 128 64
def mmSave (b : BitVec 512) : Dword := fld b 192 64
def mmAstride (b : BitVec 512) : Dword := sx (fld b 320 32)
def mmDstride (b : BitVec 512) : Dword := sx (fld b 352 32)
def mmM (b : BitVec 512) : Nat := fldN b 384 16
def mmRow0 (b : BitVec 512) : Nat := fldN b 400 16
def mmKb0 (b : BitVec 512) : Nat := fldN b 416 3
def mmMode (b : BitVec 512) : Nat := fldN b 419 2
def mmBf16 (b : BitVec 512) : Bool := bitAt b 421
def mmRs (b : BitVec 512) : Bool := bitAt b 422
def mmAfmt (b : BitVec 512) : Nat := fldN b 423 5
def mmWofs (b : BitVec 512) : Nat := fldN b 428 18

/-- The tag and the counter name of a command's block, by the command's kind. -/
def pressTag (kind : Nat) (b : BitVec 512) : Nat := if kind = 0 then fldN b 128 16 else fldN b 464 16
def pressCtr (kind : Nat) (b : BitVec 512) : Dword := if kind = 0 then fld b 192 64 else fld b 256 64

/-- A malformed PWLD block (R289). -/
def wlBad (s : State) (rind : Nat) (b : BitVec 512) : Bool :=
  (wlSrc b).toNat % 64 != 0 || wlBoff b % 64 != 0 || wlLen b % 64 != 0 || decide (wlLen b < 64) || decide (262144 < wlLen b)
    || decide (0x40000 < wlBoff b + wlLen b) || blockCtrBad s rind (pressCtr 0 b)

/-- What makes a PMMA block malformed by itself, before its tile is loaded (R291). -/
def mmBadEarly (s : State) (rind : Nat) (b : BitVec 512) : Bool := mmWofs b % 64 != 0 || blockCtrBad s rind (pressCtr 1 b)

/-- Bk and NK of R291 for a loaded tile. -/
def mmBk (b : BitVec 512) (t : Bank) : Nat := min (opFmt (mmAfmt b)).block (opFmt t.fmt).block
def mmNk (b : BitVec 512) (t : Bank) : Nat := t.k / mmBk b t

/-- The other conditions of R291. -/
def mmBad (b : BitVec 512) (t : Bank) : Bool :=
  let al := if mmBf16 b then 2 else 4
  decide (2 ≤ mmMode b) || mmM b == 0 || decide (mmM b < mmRow0 b) || t.k % (opFmt (mmAfmt b)).block != 0
    || decide (mmNk b t ≤ mmKb0 b) || (mmKb0 b != 0 && !(mmRs b && mmSave b != 0)) || (mmRs b && mmKb0 b == 0)
    || (mmAsrc b).toNat % 32 != 0 || (mmAstride b).toNat % 32 != 0 || (mmSave b).toNat % 64 != 0
    || (mmDst b).toNat % al != 0 || (mmDstride b).toNat % al != 0

/-- prog of a PMMA (R293). -/
def mmProg (row kb : Nat) : Word := BitVec.ofNat 32 (row % 2 ^ 17 * 2 ^ 15 + kb % 8 * 2 ^ 12)

/-- The command completes without having started. -/
def neverStarted (status : Nat) (fva : Dword) : Ending := { status := status, fva := fva, prog := BitVec.allOnes 32 }

/-- prog of a command at a moment (R293, R299). -/
def pressProg (x : PCmd) : Word :=
  match x.phase with
  | .copy n => BitVec.ofNat 32 n
  | .load => mmProg (mmRow0 x.block) (mmKb0 x.block)
  | .resume => BitVec.allOnes 32
  | .rows g => mmProg g.r g.kb
  | .ends e => e.prog

/-! ### Stops and queries (R297, R299) -/

/-- The requester of a Press command: its sys bit is bit 8 (R288). -/
def pressReq (s : State) (cl : Nat) (q : Queued) : Req := engReq s cl q (bitAt (msgPayload q.msg) 8)

/-- The port of a Press command's completion message, and the block address that the message names (R294). -/
def pressPort (q : Queued) : Option Nat :=
  if bitAt (msgPayload q.msg) 32 then some ((imgArg q.msg).toNat % 2 ^ 32) else none
def pressPbva (q : Queued) : Dword := if imgKind q.msg = 3 then 0 else imgPbva q.msg

/-- The tag of a command that waits in an inbox: that of its block as memory holds it at the query; a PRES carries its
own. -/
def waitingTag (s : State) (cl : Nat) (q : Queued) : Option Nat :=
  if imgKind q.msg = 3 then some ((imgPbva q.msg).toNat % 2 ^ 16)
  else (peekBlock s (pressReq s cl q) (imgPbva q.msg)).map (pressTag (imgKind q.msg))

/-- The ASID of the issuing launch of a context. -/
def ctxAsid (s : State) (k : Nat) : Nat := (ctxReq s k).asid

def pcmdEnded (x : PCmd) : Bool := match x.phase with | .ends _ => true | _ => false

/-- The tag of an accepted command; a PRES that has not found its record carries its own. -/
def pcmdTag (x : PCmd) : Nat :=
  match x.phase with
  | .resume => (imgPbva x.cmd.msg).toNat % 2 ^ 16
  | _ => pressTag (imgKind x.cmd.msg) x.block

/-- An accepted command that carries an ASID and a tag and has not ended. -/
def runningMatch (asid tag : Nat) (x : PCmd) : Bool :=
  imgAsid x.cmd.msg == asid && pcmdTag x == tag && !pcmdEnded x

/-- A command has nothing left to do but to end (R297). A PRES that has not looked for its record has still to. -/
def pcmdThrough (x : PCmd) : Bool :=
  match x.phase with
  | .copy n => decide (wlLen x.block ≤ n)
  | .load => mmRow0 x.block == mmM x.block
  | _ => false

def execPstop (d a : BitVec 5) (p : BitVec 2) (s : State) : Host.Outcome State Fault Refusal :=
  issue s { reads := [gr a], writes := [gr d] } (fun s c =>
    let k := s.me
    let cl := coreCluster (ctxCore k)
    let e := 2 + p.toNat
    let asid := ctxAsid s k
    let tag := fldN (c.readG a.toNat) 0 16
    if commandUnderway s k (8 * cl + e) then (s, .hold)
    else
      let hit := fun (q : Queued) => imgAsid q.msg == asid && waitingTag s cl q == some tag
      let gone := (inboxOf s cl e).filter hit
      let run := fun (x : PCmd) => runningMatch asid tag x && !pcmdThrough x && !x.stopping
      let n := ((getPress s cl p.toNat).cmds.filter run).length
      let s := setInbox s cl e ((inboxOf s cl e).filter (fun q => !hit q))
      let s := gone.foldl (fun s q => postObjects s q (neverStarted 1 0) 0 (pressPort q) (pressPbva q) 0) s
      let s := modPress s cl p.toNat (fun x =>
        { x with cmds := x.cmds.map (fun y => if run y then { y with stopping := true } else y) })
      (answer s k d (BitVec.ofNat 64 (gone.length + n)), .next))

/-- The query form of PSTAT. -/
def pressState (s : State) (cl p asid tag : Nat) : Dword :=
  let x := getPress s cl p
  let word := fun (prog : Word) (st : Nat) => at64 prog.toNat 32 ||| at64 tag 16 ||| BitVec.ofNat 64 st
  match x.cmds.find? (runningMatch asid tag) with
  | some y => word (pressProg y) (if y.stopping then 3 else 2)
  | none =>
    if (inboxOf s cl (2 + p)).any (fun q => imgAsid q.msg == asid && waitingTag s cl q == some tag) then
      word (BitVec.allOnes 32) 1
    else match x.recs.reverse.find? (fun r => r.asid == asid && pressTag 1 r.block == tag) with
      | some r => word (mmProg r.row r.kb) 4
      | none => word 0 0

def execPstat (d a : BitVec 5) (p : BitVec 2) (s : State) : Host.Outcome State Fault Refusal :=
  issue s { reads := [gr a], writes := [gr d] } (fun s c =>
    let k := s.me
    let cl := coreCluster (ctxCore k)
    if commandUnderway s k (pressUnit cl p.toNat) then (s, .hold)
    else (answer s k d (pressState s cl p.toNat (ctxAsid s k) (fldN (c.readG a.toNat) 0 16)), .next))

/-- The health word (R299). -/
def healthWord (s : State) (cl p : Nat) : Dword :=
  let x := getPress s cl p
  at64 x.mism.toNat 32 ||| at64 (x.host.getD p % 4) 8 ||| bit64 x.ret 4 ||| at64 (x.spares % 8) 0

def execPstatHl (d : BitVec 5) (p : BitVec 2) (s : State) : Host.Outcome State Fault Refusal :=
  issue s { writes := [gr d] } (fun s _ =>
    (answer s s.me d (healthWord s (coreCluster (ctxCore s.me)) p.toNat), .next))

/-! ### Acceptance (R285, R288, R296, R298) -/

/-- The physical Press that serves a logical one, and whether any Press of the cluster works. -/
def pressHost (s : State) (cl p : Nat) : Nat := (getPress s cl p).host.getD p
def pressWorks (s : State) (cl : Nat) : Bool := (List.range 4).any (fun y => !(getPress s cl y).ret)

/-- A physical Press that serves several inboxes takes them in turn (R296). R296 speaks of two: that the turn of three or four
goes round in ascending order from the one served last is the model's choice (log 21). -/
def pressTurn (s : State) (cl p : Nat) : Bool :=
  let y := pressHost s cl p
  let z := (getPress s cl y).served
  z == 4 || ((List.range 4).map (fun i => (z + 1 + i) % 4)).find?
    (fun q => pressHost s cl q == y && !(inboxOf s cl (2 + q)).isEmpty) == some p

/-- A physical Press that must retire waits for the take-over of a core of its cluster, and runs nothing meanwhile (R394). -/
def pressHeld (s : State) (cl y : Nat) : Bool := (getCluster s cl).failures.contains (.press y)

/-- The newest resume record of an ASID and tag: its place (R298). -/
def findRec (recs : List PRec) (asid tag : Nat) : Option Nat :=
  (List.range recs.length).reverse.find? (fun i => match recs[i]? with
    | some r => r.asid == asid && pressTag 1 r.block == tag
    | none => false)

/-- The block that PRES runs: the record's, from its progress on (R298). -/
def resumeBlock (r : PRec) : BitVec 512 :=
  putFld (putFld (putFld r.block 400 16 (BitVec.ofNat 16 r.row)) 416 3 (BitVec.ofNat 3 r.kb)) 422 1
    (BitVec.ofBool (r.kb != 0))

/-- How a block's command begins: its phase. -/
def firstPhase (s : State) (rind kind : Nat) (b : BitVec 512) : PressPhase :=
  if kind = 0 then (if wlBad s rind b then .ends (neverStarted 5 0) else .copy 0)
  else if mmBadEarly s rind b then .ends (neverStarted 5 0)
  else .load

/-- A command accepted by a logical Press: the state after its block has been read, and the command; none while a walk is
under way. R287 tests the alignment of pbva at issue only, and the spec names no check for a follow-on: that its 64 bytes are
read at any address is the model's choice (log 92). -/
def acceptPress (s : State) (cl : Nat) (q : Queued) : State × Option PCmd :=
  let r := pressReq s cl q
  let kind := imgKind q.msg
  let mk := fun (b : BitVec 512) (ph : PressPhase) => some ({ cmd := q, block := b, phase := ph, stopping := false } : PCmd)
  if (getCluster s cl).rind ≠ some (imgRind q.msg) then (s, mk 0 (.ends (neverStarted 9 0)))
  else if !pressWorks s cl then (s, mk 0 (.ends (neverStarted 10 0)))
  else if kind = 3 then (s, mk 0 .resume)
  else if kind ≠ 0 ∧ kind ≠ 1 then (s, mk 0 (.ends (neverStarted 5 0)))
  else match acceptRead s r (imgPbva q.msg) 5 4 with
    | (s, .hold) => (s, none)
    | (s, .unusable st) => (s, mk 0 (.ends (neverStarted st (if st = 4 then imgPbva q.msg else 0))))
    | (s, .block b) => (s, mk b (firstPhase s r.rind kind b))

/-- The accepted commands of a physical Press with their logical ones, in acceptance order (R285, R296). -/
def servedCmds (s : State) (cl y : Nat) : List (Nat × PCmd) :=
  (((List.range 4).filter (fun p => pressHost s cl p == y)).flatMap (fun p => (getPress s cl p).cmds.map (fun c => (p, c)))).mergeSort
    (fun a b => decide (a.2.seq ≤ b.2.seq))

/-- The commands that the same physical Press accepted before one of a logical Press. -/
def servedBefore (s : State) (cl p : Nat) (c : PCmd) : List PCmd :=
  ((servedCmds s cl (pressHost s cl p)).filter (fun e => decide (e.2.seq < c.seq))).map (fun e => e.2)

/-- A Press accepts the oldest command of an inbox. At most two accepted commands stand at a physical Press (R284). -/
def execPressAccept (cluster press : Nat) (s : State) : Host.Outcome State Fault Refusal :=
  if 4 ≤ press then .next s
  else match inboxOf s cluster (2 + press) with
    | [] => .next s
    | q :: rest =>
      if 2 ≤ (servedCmds s cluster (pressHost s cluster press)).length ∨ !pressTurn s cluster press
          ∨ pressHeld s cluster (pressHost s cluster press) then .next s
      else match acceptPress s cluster q with
        | (s, none) => .next s
        | (s, some x) =>
          let s := setInbox s cluster (2 + press) rest
          let x := { x with seq := (getCluster s cluster).copySeq }
          let s := modCluster s cluster (fun c => { c with copySeq := c.copySeq + 1 })
          let s := modPress s cluster press (fun y => { y with cmds := y.cmds ++ [x] })
          .next (modPress s cluster (pressHost s cluster press) (fun y => { y with served := press }))

/-! ### Tile images and banks (R281 to R284) -/

/-- n bytes of a weight buffer from an offset. -/
def bufBytes (x : Press) (a n : Nat) : List Byte := (List.range n).map (fun i => memGet x.buf (a + i))

/-- One record taken from the bytes of an image (R282): the converted block and the bytes after it. -/
def readRecord (code : Nat) (sp : Bool) (bs : List Byte) : Option ((Nat × List Int) × List Byte) :=
  let o := opFmt code
  let hs := if o.scale then 1 else 0
  let hb := if sp then o.block / 8 else 0
  if bs.length < hs + hb then none
  else
    let scale := (natOfBytes (bs.take hs))
    let mask := if sp then natOfBytes ((bs.drop hs).take hb) else 2 ^ o.block - 1
    let n := ((List.range o.block).filter (fun j => mask.testBit j)).length
    let len := (n * o.bits + 7) / 8
    let rest := bs.drop (hs + hb)
    if rest.length < len then none
    else
      let packed := natOfBytes (rest.take len)
      let xs := spread mask o.block 0 ((List.range n).map (packedElem packed o.bits))
      some (portBlock code scale xs, rest.drop len)

/-- n records one after another. -/
def readRecords (code : Nat) (sp : Bool) : Nat → List Byte → Option (List (Nat × List Int) × List Byte)
  | 0, bs => some ([], bs)
  | n + 1, bs => match readRecord code sp bs with
    | none => none
    | some (b, rest) => (readRecords code sp n rest).map (fun r => (b :: r.1, r.2))

/-- A tile image read from a buffer offset of logical Press p, or none when it is malformed (R282, R283). -/
def loadImage (x : Press) (p off : Nat) : Option Bank :=
  let h : BitVec 512 := ofBytes 512 (bufBytes x off 64)
  let code := fldN h 0 5
  let k := fldN h 8 8
  let n := fldN h 16 8
  let len := fldN h 32 32
  let bw := (opFmt code).block
  if n = 0 ∨ 128 < n ∨ k = 0 ∨ 128 < k ∨ k % bw ≠ 0 ∨ len < 64 ∨ 0x40000 < off + len then none
  else match readRecords code (bitAt h 5) (n * (k / bw)) (bufBytes x (off + 64) (len - 64)) with
    | some (blocks, []) =>
      some { home := p, valid := true, off := off, len := len, fmt := code, k := k, n := n, cols := cutList (k / bw) blocks }
    | _ => none

/-- The bank of a number. -/
def bankOf (x : Press) (i : Nat) : Option Bank := if i = 0 then x.bank0 else x.bank1
def setBank (x : Press) (i : Nat) (b : Option Bank) : Press := if i = 0 then { x with bank0 := b } else { x with bank1 := b }

/-- The bank whose tag matches a tile offset of a logical Press and is valid (R283). -/
def validBank (z : Press) (p off : Nat) : Option Nat :=
  ([0, 1] : List Nat).find? (fun i => match bankOf z i with
    | some b => b.valid && b.home == p && b.off == off
    | none => false)

/-- A bank that no earlier command still uses. -/
def bankFree (before : List PCmd) (i : Nat) : Bool :=
  before.all (fun y => y.bank != i || (match y.phase with | .rows _ => false | _ => true))

/-- The phase of a PMMA whose tile stands in a bank. A stop that has reached a PRES ends it with status 1 (R297). -/
def tiledPhase (b : BitVec 512) (t : Bank) (stopping : Bool) : PressPhase :=
  if mmBad b t then .ends (neverStarted 5 0)
  else if mmRow0 b = mmM b then .ends { status := if stopping then 1 else 0, prog := mmProg (mmM b) 0 }
  else .rows { r := mmRow0 b, kb := mmKb0 b, first := true }

/-- A command that has not done what a later PWLD or bank load waits for (R285). -/
def unloaded (y : PCmd) : Bool := match y.phase with | .copy _ => true | .load => true | .resume => true | _ => false

/-- The tile of a PMMA of logical Press p (x) is found in a bank of the physical one (z) or loaded into the one that the most
recent PMMA did not use (R283, R285): the physical Press and the command afterwards. None while it must wait. -/
def loadTile (x z : Press) (p : Nat) (before : List PCmd) (y : PCmd) : Option (Press × PCmd) :=
  let take := fun (z : Press) (i : Nat) (t : Bank) =>
    some ({ z with last := i }, { y with bank := i, tile := some t, phase := tiledPhase y.block t y.stopping })
  if before.any unloaded then none
  else match (validBank z p (mmWofs y.block)).bind (fun i => (bankOf z i).map (fun t => (i, t))) with
    | some (i, t) => take z i t
    | none =>
      let i := if z.last = 0 then 1 else 0
      match loadImage x p (mmWofs y.block) with
      | none => some (z, { y with phase := .ends { status := 8, prog := mmProg (mmRow0 y.block) (mmKb0 y.block) } })
      | some t => if bankFree before i then take (setBank z i (some t)) i t else none

/-- A PRES whose turn has come finds the newest record of its launch's ASID and tag and removes it (R285, R298). -/
def takeRecord (s : State) (cl p i : Nat) (y : PCmd) : State :=
  let x := getPress s cl p
  let put := fun (x : Press) (b : BitVec 512) (ph : PressPhase) =>
    modPress s cl p (fun _ => { x with cmds := x.cmds.set i { y with block := b, phase := ph } })
  match findRec x.recs (imgAsid y.cmd.msg) ((imgPbva y.cmd.msg).toNat % 2 ^ 16) with
  | none => put x 0 (.ends (neverStarted 7 0))
  | some j =>
    let b := match x.recs[j]? with
      | some rc => resumeBlock rc
      | none => 0
    put { x with recs := dropNth x.recs j } b (firstPhase s (imgRind y.cmd.msg) 1 b)

/-- A PMMA's bank load; a PRES at the head of its logical Press first finds its record. -/
def execBankLoad (cluster press : Nat) (s : State) : Host.Outcome State Fault Refusal :=
  let x := getPress s cluster press
  match x.cmds.findIdx? (fun y => match y.phase with | .load => true | .resume => true | _ => false) with
  | none => .next s
  | some i => match x.cmds[i]? with
    | none => .next s
    | some y =>
      match y.phase with
      | .resume => .next (if i = 0 then takeRecord s cluster press i y else s)
      | _ =>
        let h := pressHost s cluster press
        if pressHeld s cluster h then .next s
        else match loadTile x (getPress s cluster h) press (servedBefore s cluster press y) y with
        | none => .next s
        | some (z, y) =>
          let s := modPress s cluster h (fun _ => z)
          .next (modPress s cluster press (fun x => { x with cmds := x.cmds.set i y }))

/-! ### K-blocks (R231 to R234, R292) -/

/-- One K-block value (R233). -/
def kbValue (wa ww xa xw : Nat) (sum : Int) : Nat :=
  if xa = 255 ∨ xw = 255 then 0x7FC00000
  else Fmt.fp32.roundFin .nearestEven (decide (sum < 0)) sum.natAbs
    ((xa : Int) + xw - 254 - ((wa : Int) - 2) - ((ww : Int) - 2)) false

/-- The exact sum of products. -/
def dotInt (xs ys : List Int) : Int := (xs.zip ys).foldl (fun (a : Int) e => a + e.1 * e.2) 0

/-- Bk consecutive elements of a row or column of blocks of size B: the exponent of their block, and the mantissas. -/
def kSlice (blocks : List (Nat × List Int)) (B Bk kb : Nat) : Nat × List Int :=
  let b := blocks.getD (kb * Bk / B) (127, [])
  (b.1, (b.2.drop (kb * Bk % B)).take Bk)

/-- The K-block kb of a row of activations and a column of weights. -/
def kbOf (b : BitVec 512) (t : Bank) (kb : Nat) (row col : List (Nat × List Int)) : Nat :=
  let a := kSlice row (opFmt (mmAfmt b)).block (mmBk b t) kb
  let w := kSlice col (opFmt t.fmt).block (mmBk b t) kb
  kbValue (opFmt (mmAfmt b)).w (opFmt t.fmt).w a.1 w.1 (dotInt a.2 w.2)

/-- The accumulators after one more K-block (R234). -/
def accumulate (b : BitVec 512) (t : Bank) (kb : Nat) (acc : List (List Nat)) (rows : List (List (Nat × List Int))) :
    List (List Nat) :=
  (acc.zip rows).map (fun e => (e.1.zip t.cols).map (fun x =>
    Fmt.fp32.addBits .nearestEven x.1 (kbOf b t kb e.2 x.2)))

/-- Rows of the group that begins at a row (R292). -/
def groupRows (b : BitVec 512) (r : Nat) : List Nat := (List.range (min 128 (mmM b - r))).map (fun i => r + i)

/-- The address of an output element and its bytes. -/
def outAddr (b : BitVec 512) (i n : Nat) : Dword :=
  mmDst b + BitVec.ofNat 64 i * mmDstride b + BitVec.ofNat 64 (n * (if mmBf16 b then 2 else 4))
def outBytes (b : BitVec 512) : Nat := if mmBf16 b then 2 else 4

/-- The address of a word of the save area. -/
def saveAddr (b : BitVec 512) (t : Bank) (i n : Nat) : Dword := mmSave b + BitVec.ofNat 64 (4 * (t.n * i + n))

/-- What a series of reads comes to. -/
inductive Reads (α : Type) where
  | ok (s : State) (x : α)
  | fail (s : State) (e : Ending)
  | hold (s : State)

/-- Single bytes read from an address on (R292). -/
def readBytesAt (s : State) (r : Req) (va : Dword) (n : Nat) (prog : Word) : Reads (List Byte) :=
  match engAll s r ((List.range n).map (fun i => { op := .load, n := 1, va := va + BitVec.ofNat 64 i })) [] with
  | (s, .ok vs) => .ok s (vs.map (fun v => v.setWidth 8))
  | (s, .failed ea e) => .fail s (failEnding 2 ea e prog)
  | (s, .hold) => .hold s

/-- The activation blocks of row i from block number f on, n of them; the blocks before f are not read. -/
def readRowFrom (r : Req) (b : BitVec 512) (t : Bank) (i : Nat) (prog : Word) :
    Nat → Nat → List (Nat × List Int) → State → Reads (List (Nat × List Int))
  | 0, _, acc, s => .ok s acc.reverse
  | n + 1, f, acc, s =>
    let o := opFmt (mmAfmt b)
    let bytes := o.block * o.bits / 8
    let at_ := mmAsrc b + BitVec.ofNat 64 i * mmAstride b + BitVec.ofNat 64 (f * bytes)
    let sc := mmAscl b + BitVec.ofNat 64 (i * (t.k / o.block) + f)
    match readBytesAt s r sc (if o.scale then 1 else 0) prog with
    | .hold s => .hold s
    | .fail s e => .fail s e
    | .ok s scale =>
      match readBytesAt s r at_ bytes prog with
      | .hold s => .hold s
      | .fail s e => .fail s e
      | .ok s bs =>
        let xs := (List.range o.block).map (packedElem (natOfBytes bs) o.bits)
        readRowFrom r b t i prog n (f + 1) (portBlock (mmAfmt b) (natOfBytes scale) xs :: acc) s

/-- The activation rows of a group; f0 is the first block that its K-blocks use. -/
def readRows (r : Req) (b : BitVec 512) (t : Bank) (f0 : Nat) (prog : Word) :
    List Nat → List (List (Nat × List Int)) → State → Reads (List (List (Nat × List Int)))
  | [], acc, s => .ok s acc.reverse
  | i :: is, acc, s =>
    match readRowFrom r b t i prog (t.k / (opFmt (mmAfmt b)).block - f0) f0 [] s with
    | .hold s => .hold s
    | .fail s e => .fail s e
    | .ok s row => readRows r b t f0 prog is ((List.replicate f0 (127, []) ++ row) :: acc) s

/-- The accumulators' start read for a group (R292): from the save area, from the destination, or zero. -/
def readStart (s : State) (r : Req) (b : BitVec 512) (t : Bank) (g : Group) (prog : Word) : Reads (List (List Nat)) :=
  let rows := groupRows b g.r
  let elems := rows.flatMap (fun i => (List.range t.n).map (fun n => (i, n)))
  if g.first && mmRs b then
    match engAll s r (elems.map (fun e => { op := .load, n := 4, va := saveAddr b t (e.1 - g.r) e.2 })) [] with
    | (s, .ok vs) => .ok s (cutList t.n (vs.map BitVec.toNat))
    | (s, .failed ea e) => .fail s (failEnding 2 ea e prog)
    | (s, .hold) => .hold s
  else if mmMode b = 1 then
    match engAll s r (elems.map (fun e => { op := .load, n := outBytes b, va := outAddr b e.1 e.2 })) [] with
    | (s, .ok vs) => .ok s (cutList t.n (vs.map (fun v => if mmBf16 b then v.toNat * 65536 else v.toNat)))
    | (s, .failed ea e) => .fail s (failEnding 3 ea e prog)
    | (s, .hold) => .hold s
  else .ok s (rows.map (fun _ => List.replicate t.n 0))

/-- Everything that a group reads, once (R292). -/
def readGroup (s : State) (r : Req) (b : BitVec 512) (t : Bank) (g : Group) (prog : Word) : Reads GroupIn :=
  match readStart s r b t g prog with
  | .hold s => .hold s
  | .fail s e => .fail s e
  | .ok s st =>
    match readRows r b t (g.kb * mmBk b t / (opFmt (mmAfmt b)).block) prog (groupRows b g.r) [] s with
    | .hold s => .hold s
    | .fail s e => .fail s e
    | .ok s rows => .ok s { start := st, rows := rows }

/-- The stores of a group's outputs, row by row (R292, R322). -/
def outputStores (b : BitVec 512) (t : Bank) (g : Group) : List EngWant :=
  ((groupRows b g.r).zip g.acc).flatMap (fun e => ((List.range t.n).zip e.2).map (fun x =>
    { op := .store, n := outBytes b, va := outAddr b e.1 x.1,
      data := BitVec.ofNat 512 (if mmBf16 b then Fmt.bf16.encode .nearestEven (Fmt.fp32.decode x.2) else x.2) }))

/-- The stores of the accumulators to the save area. -/
def saveStores (b : BitVec 512) (t : Bank) (g : Group) : List EngWant :=
  ((List.range g.acc.length).zip g.acc).flatMap (fun e => ((List.range t.n).zip e.2).map (fun x =>
    { op := .store, n := 4, va := saveAddr b t e.1 x.1, data := BitVec.ofNat 512 x.2 }))

/-- prog of a group that fails: its first row, and its first K-block when it began from the save area (R293). -/
def groupProg (b : BitVec 512) (g : Group) : Word := mmProg g.r (if g.first && mmRs b then mmKb0 b else 0)

/-- The stores to the save area. When one fails, none has been made: no failure writes the save area (R293). -/
def saveGroup (s : State) (r : Req) (ws : List EngWant) : State × EngList :=
  match engAll s r ws [] with
  | (_, .failed ea e) => (match ws.find? (fun w => w.va == ea) with
      | some w => (engAccess s r w).1
      | none => s, .failed ea e)
  | x => x

/-- The outputs of a command's last group may only be issued by the step that ends it (R187, R294). -/
def issuesOutputs (s : State) (q : Queued) (b : BitVec 512) (g : Group) (stopping : Bool) : Bool :=
  mayIssue s q && !stopping && decide (mmM b ≤ g.r + g.acc.length)

/-- A PMMA after one K-block has been accumulated: the state, and the phase; none while a walk is under way. -/
def afterKBlock (s : State) (r : Req) (q : Queued) (b : BitVec 512) (t : Bank) (g : Group) (stopping : Bool) :
    State × Option PressPhase :=
  let nk := mmNk b t
  if stopping ∧ mmSave b ≠ 0 ∧ g.kb + 1 < nk then
    match saveGroup s r (saveStores b t g) with
    | (s, .ok _) => (s, some (.ends { status := 1, prog := mmProg g.r (g.kb + 1) }))
    | (s, .failed ea e) => (s, some (.ends (failEnding 3 ea e (groupProg b g))))
    | (s, .hold) => (s, none)
  else if g.kb + 1 < nk then (s, some (.rows { g with kb := g.kb + 1 }))
  else
    match storeAll s r (issuesOutputs s q b g stopping) (outputStores b t g) with
    | (s, .ok _) =>
      let row := g.r + g.acc.length
      (s, some (if stopping then .ends { status := 1, prog := mmProg row 0 }
        else if row < mmM b then .rows { r := row, kb := 0, first := false }
        else .ends { status := 0, prog := mmProg row 0 }))
    | (s, .failed ea e) => (s, some (.ends (failEnding 3 ea e (groupProg b g))))
    | (s, .hold) => (s, none)

/-- What a group has read, or reads now, once (R292). -/
def groupIn (s : State) (r : Req) (b : BitVec 512) (t : Bank) (g : Group) : Reads GroupIn :=
  match g.ins with
  | some i => .ok s i
  | none => readGroup s r b t g (groupProg b g)

/-! ### Mismatches (R295, R296) -/

/-- An event of a physical Press (R397). -/
def logPress (s : State) (cl y code : Nat) (data : Dword) : State :=
  let e := logEntry s (getPress s cl y).evSeq 1 cl y code data
  logUnit (modPress s cl y (fun x => { x with evSeq := x.evSeq + 1 })) (match (getCluster s cl).rind with | some r => [r] | none => []) e

/-- n mismatches counted at a logical Press. -/
def countMism (s : State) (cl p n : Nat) : State := modPress s cl p (fun x => { x with mism := x.mism + BitVec.ofNat 32 n })

/-- The running command of a logical Press restarts at the first row of its group (R296). -/
def restartGroup (y : PCmd) : PCmd :=
  match y.phase with
  | .rows g => { y with phase := .rows { g with
      kb := if g.first then mmKb0 y.block else 0
      inside := false
      acc := match g.ins with
        | some i => i.start
        | none => [] } }
  | _ => y

/-- Every accepted command of a cluster without a working Press ends with status 10 (R296). -/
def noPress (y : PCmd) : PCmd :=
  match y.phase with
  | .ends _ => y
  | .rows g => { y with phase := .ends { status := 10, prog := groupProg y.block g } }
  | .copy n => { y with phase := .ends { status := 10, prog := BitVec.ofNat 32 n } }
  | .load => { y with phase := .ends { status := 10, prog := mmProg (mmRow0 y.block) (mmKb0 y.block) } }
  | .resume => { y with phase := .ends (neverStarted 10 0) }

/-- A physical Press retires: the lowest-numbered working Press serves its inboxes, or none is left (R296). -/
def retirePress (s : State) (cl y : Nat) : State :=
  let s := modPress s cl y (fun x => { x with ret := true })
  let mine := (List.range 4).filter (fun p => pressHost s cl p == y)
  match (List.range 4).find? (fun z => !(getPress s cl z).ret) with
  | some z =>
    let s := mine.foldl (fun s p => modPress s cl p (fun x => { x with host := some z, cmds := x.cmds.map restartGroup })) s
    logPress s cl y 0x04 (BitVec.ofNat 64 z)
  | none =>
    let s := (List.range 4).foldl (fun s p => modPress s cl p (fun x => { x with cmds := x.cmds.map noPress })) s
    logPress s cl y 0x04 ((Config.freeVec 5 s.tick).setWidth 64)

/-- A physical Press must retire: at once, or when the take-over of a core has logged its event (R296, R394). -/
def failPress (s : State) (cl y : Nat) : State :=
  if takeoverRuns s cl then deferFailure s cl (.press y) else retirePress s cl y

/-- Runs of a K-block of a command counted as Press cycles (R374): n row groups pass through the array. -/
def countRows (s : State) (cl y : Nat) (r : Req) (cycles n : Nat) : State :=
  if n = 0 then s else countEnergy s (unitKey 1 (4 * cl + y)) 3 (cycles * n) r.rind r.launch

/-- What the checks of a K-block that has been formed lead to (R295): the state, and whether they pass in the end. Each rerun
brings the group's rows into the array again. -/
def checkKBlock (s : State) (cl p : Nat) (r : Req) (cycles : Nat) (d : PressDefect) : State × Bool :=
  let y := pressHost s cl p
  let rerun := fun (s : State) (mism runs : Nat) => countRows (countMism s cl p mism) cl y r cycles runs
  match d with
  | .none => (s, true)
  | .transient => (rerun s 1 1, true)
  | .lasting => (failPress (rerun s 2 1) cl y, false)
  | .column n cured =>
    if (getPress s cl y).spares < 4 then
      let s := modPress (rerun s 2 2) cl y (fun x => { x with spares := x.spares + 1 })
      let s := logPress s cl y 0x03 (BitVec.ofNat 64 n)
      if cured then (s, true) else (failPress (countMism s cl p 1) cl y, false)
    else (failPress (rerun s 2 1) cl y, false)

/-- Press cycles of one row group (R280, R374). -/
def groupCycles (b : BitVec 512) (t : Bank) (rows : Nat) : Nat :=
  let wa := (opFmt (mmAfmt b)).w
  wa / 2 * (if wa = 16 ∧ (opFmt t.fmt).w = 16 then 2 else 1) * rows

/-- The rows of a PMMA's last K-block are in the array, and nothing behind them (R284). -/
def lastRows (y : PCmd) : Bool :=
  match y.phase, y.tile with
  | .rows g, some t => g.inside && decide (mmM y.block ≤ g.r + 128) && decide (mmNk y.block t ≤ g.kb + 1)
  | _, _ => false

/-- Whether the rows of a PMMA may enter the array now: every command before it has ended, or only the last rows of the one
before it are still in the array, on the other bank (R284, R285). -/
def mayEnter (before : List PCmd) (y : PCmd) : Bool :=
  match before.filter (fun e => !pcmdEnded e) with
  | [] => true
  | [e] => lastRows e && e.bank != y.bank
  | _ => false

/-- Whether a PMMA forms a K-block now: behind the rows of another it writes nothing yet (R285). -/
def mayRun (before : List PCmd) (y : PCmd) (g : Group) (t : Bank) : Bool :=
  mayEnter before y && (before.all pcmdEnded || (decide (g.kb + 1 < mmNk y.block t) && !(y.stopping && mmSave y.block != 0)))

/-- The i-th accepted command of a logical Press in another phase. -/
def putPhase (s : State) (cl p i : Nat) (y : PCmd) (ph : PressPhase) : State :=
  modPress s cl p (fun x => { x with cmds := x.cmds.set i { y with phase := ph } })

/-- A step of the i-th accepted PMMA of a logical Press: its group's rows enter, and a K-block is formed and checked, unless the
step is the entry alone. -/
def stepPmma (s : State) (cl p : Nat) (defect : PressDefect) (i : Nat) (y : PCmd) (g : Group) (t : Bank) (only : Bool) : State :=
  let r := pressReq s cl y.cmd
  let b := y.block
  let cycles := groupCycles b t (groupRows b g.r).length
  match groupIn s r b t g with
  | .hold t => keepWalks s t cl
  | .fail s e => putPhase s cl p i y (.ends e)
  | .ok s1 x =>
    let s1 := if g.inside then s1 else countRows s1 cl (pressHost s1 cl p) r cycles 1
    let g := { g with ins := some x, acc := if g.ins.isSome then g.acc else x.start, inside := true }
    let s1 := putPhase s1 cl p i y (.rows g)
    if only then s1
    else match checkKBlock s1 cl p r cycles defect with
      | (s1, false) => s1
      | (s1, true) =>
        match afterKBlock s1 r y.cmd b t { g with acc := accumulate b t g.kb g.acc x.rows } y.stopping with
        | (s1, none) => keepWalks s s1 cl
        | (s1, some ph) => putPhase s1 cl p i y ph

/-- A step of a running PMMA of a logical Press: the oldest, or by a free choice the one behind it (R285); by another its rows
only enter. -/
def execKBlock (cluster press : Nat) (defect : PressDefect) (s : State) : Host.Outcome State Fault Refusal :=
  let x := getPress s cluster press
  let ready := (x.cmds.zipIdx).filterMap (fun (e : PCmd × Nat) => match e.1.phase, e.1.tile with
    | .rows g, some t =>
      let before := servedBefore s cluster press e.1
      let run := mayRun before e.1 g t
      if run || (!g.inside && mayEnter before e.1) then
        some (e.2, e.1, g, t, !run || (!g.inside && Config.choice 44 s.tick % 2 == 1))
      else none
    | _, _ => none)
  if pressHeld s cluster (pressHost s cluster press) then .next s
  else match ready[Config.choice 43 s.tick % ready.length]? with
    | none => .next s
    | some (i, y, g, t, only) => .next (stepPmma s cluster press defect i y g t only)

/-! ### Completion (R289, R293, R294, R298) -/

/-- A PWLD's bytes written to the buffer of logical Press p; a bank whose image they touch is no longer valid (R283). -/
def writeBuffer (s : State) (cl p a : Nat) (bs : List Byte) : State :=
  let touch := fun (b : Option Bank) => b.map (fun b =>
    if b.home = p ∧ b.off < a + bs.length ∧ a < b.off + b.len then { b with valid := false } else b)
  let s := modPress s cl p (fun x => { x with buf := memPuts x.buf a bs })
  (List.range 4).foldl (fun s y => modPress s cl y (fun x => { x with bank0 := touch x.bank0, bank1 := touch x.bank1 })) s

/-- 64 bytes of a PWLD copied into the buffer (R289). -/
def copyWeights (s : State) (cl p i : Nat) (y : PCmd) (n : Nat) : State :=
  let r := pressReq s cl y.cmd
  let put := fun (s : State) (ph : PressPhase) => modPress s cl p (fun x => { x with cmds := x.cmds.set i { y with phase := ph } })
  if y.stopping ∨ wlLen y.block ≤ n then
    put s (.ends { status := if n < wlLen y.block then 1 else 0, prog := BitVec.ofNat 32 n })
  else
    let va := wlSrc y.block + BitVec.ofNat 64 n
    match engAccess s r { op := .load, n := 64, va := va } with
    | (s, .hold) => s
    | (s, .ok v) => put (writeBuffer s cl p (wlBoff y.block + n) (bytesOf v 64)) (.copy (n + 64))
    | (s, e) => put s (.ends (failEnding 2 va e (BitVec.ofNat 32 n)))

/-- A resume record is left by a PMMA that ends with status 1 to 4 or 6 after it has started (R298). -/
def leaveRecord (x : Press) (y : PCmd) (e : Ending) : Press :=
  if imgKind y.cmd.msg ≠ 0 ∧ e.prog ≠ BitVec.allOnes 32 ∧ ([1, 2, 3, 4, 6] : List Nat).contains e.status then
    let new : PRec := { block := y.block, row := fldN e.prog 15 17, kb := fldN e.prog 12 3, asid := imgAsid y.cmd.msg,
                        launch := y.cmd.launch }
    { x with recs := (if x.recs.length < 4 then x.recs else x.recs.drop 1) ++ [new] }
  else x

/-- The oldest accepted command of a physical Press posts its objects when it has ended; a PWLD that may write the buffer
copies its next 64 bytes (R285, R289, R294). -/
def execPressCompletion (cluster press : Nat) (s : State) : Host.Outcome State Fault Refusal :=
  let x := getPress s cluster press
  match x.cmds with
  | [] => .next s
  | y :: rest =>
    match y.phase with
    | .ends e =>
      if !(servedBefore s cluster press y).isEmpty then .next s
      else
        let s := modPress s cluster press (fun x => leaveRecord { x with cmds := rest } y e)
        .next (postObjects s y.cmd e (pressTag (imgKind y.cmd.msg) y.block) (pressPort y.cmd) (pressPbva y.cmd)
          (pressCtr (imgKind y.cmd.msg) y.block))
    | _ =>
      match x.cmds.findIdx? unloaded with
      | none => .next s
      | some i => match x.cmds[i]? with
        | none => .next s
        | some y => match y.phase with
          | .copy n => .next (if (servedBefore s cluster press y).any unloaded || pressHeld s cluster (pressHost s cluster press) then s
              else copyWeights s cluster press i y n)
          | _ => .next s

end Sys2Proof.Machine
end

