-- ==== Sys2Proof/Machine/Snapshot.lean ====
section
/-!
DEFINITION. Snapshots (R399, R400): the triggers from outside, the latch, and the release.
-/

namespace Sys2Proof.Machine

/-- The Rinds that a 16-bit mask names. -/
def maskRinds (m : BitVec 16) : List Nat := bitsOf m.toNat 12

/-- The registers that a core latches (R400), by index from 0x810. -/
def latchRegs (s : State) (cn : Nat) : Tab Dword :=
  let live := fun (k : Nat) => if (getCtx s k).act = .dormant then (0 : Dword) else (getCtx s k).pc
  ((List.range 16).flatMap (fun c =>
      [(0x810 + 2 * c, live (ctxKey cn c)), (0x811 + 2 * c, (getCtx s (ctxKey cn c)).st)]))
    ++ (List.range 32).map (fun i => (0x830 + i, live (ctxKey cn (128 + i))))

/-- A core latches its snapshot. -/
def latchCore (s : State) (t : Trigger) (seq : Word) (cn : Nat) : State :=
  let regs := latchRegs s cn
  modCore s cn (fun c => { c with held := true, snapSeq := seq, snapTs := t.ts, snapSrc := t.src, snapRegs := regs })

/-- The word of an active place of a Ladle (R191). -/
def placeWordOf (c : Cluster) (key : Nat) : Dword :=
  match tfind c.copies key with
  | some x => at64 (offNow x).toNat 32 ||| at64 (pbTag x.block) 16 ||| (if x.stopping then 3 else 2)
  | none => 0

/-- The query word of a Press's running command (R299): the oldest that has not ended. -/
def pressWordOf (x : Press) : Dword :=
  match x.cmds.find? (fun y => !pcmdEnded y) with
  | some y => at64 (pressProg y).toNat 32 ||| at64 (pcmdTag y) 16 ||| (if y.stopping then 3 else 2)
  | none => 0

/-- The words that a cluster's engines latch (R400), and the walks queued. -/
def latchPage (c : Cluster) : Tab Dword :=
  (List.range 8).map (fun p => (8 * p, placeWordOf c p))
    ++ (List.range 4).map (fun j => (0x40 + 8 * j, pressWordOf (tget {} c.press j)))
    ++ [(0x60, BitVec.ofNat 64 c.harp.inbox.length), (0x68, BitVec.ofNat 64 c.walks.length)]

/-- The stacks that hold a region of a Rind. -/
def rindStacks (s : State) (rind : Nat) : List Nat := (List.range 12).filter (fun i => (stackRinds s i).contains rind)

/-- Every block of the Rind latches (R399): the cores, the engines, the controllers; the SNAPs that wait are filled. -/
def latchRind (s : State) (rind : Nat) (t : Trigger) : State :=
  let seq := (getRind s rind).latches + 1
  let s := modRind s rind (fun r => { r with trigger := none, held := true, latches := seq, joinTo := t.cycle + 65 })
  let s := (rindCores s rind).foldl (fun s cn => latchCore s t seq cn) s
  let s := { s with clusters := List.map (fun (e : Nat × Cluster) =>
    (e.1, if e.2.rind == some rind then { e.2 with latched := latchPage e.2 } else e.2)) s.clusters }
  let s := (rindStacks s rind).foldl (fun s i => modStack s i (fun m => { m with latched := m.acnt })) s
  let s := t.waiters.foldl (fun s r => sendFillD s r (zx seq)) s
  match frontCore s rind with
  | some cn => logCore s cn 0x0D (zx seq)
  | none => s

/-- A trigger of a Rind whose 64 cycles are over after n more cycles latches now at the latest (R399). -/
def latchDue (s : State) (n : Nat) : State :=
  s.rinds.foldl (fun s e => match (getRind s e.1).trigger with
    | some t => if t.cycle + 64 < s.cycle + n then latchRind s e.1 t else s
    | none => s) s

def execSnapshotLatch (rind : Nat) (s : State) : Host.Outcome State Fault Refusal :=
  match (getRind s rind).trigger with
  | none => .next s
  | some t => .next (latchRind s rind t)

/-- The triggers of a list of Rinds raised with a source code. -/
def raiseAll (s : State) (src : Dword) (rinds : List Nat) : State := rinds.foldl (fun s k => raiseTrigger s k src) s

/-- The external pin raises the trigger of every Rind (R399). -/
def execSnapshotPin (s : State) : Host.Outcome State Fault Refusal := .next (raiseAll s 2 (List.range 12))

/-- A snapshot request of another node (R399, R413). -/
def execSnapshotRequest (mask : BitVec 16) (s : State) : Host.Outcome State Fault Refusal :=
  .next (raiseAll s 3 (maskRinds mask))

/-- Writing snap.ctl.rel (R400). -/
def execSnapshotRelease (rind : Nat) (s : State) : Host.Outcome State Fault Refusal :=
  .next (if rind < 12 then releaseSnapshot s rind else s)

end Sys2Proof.Machine
end

