-- ==== Sys2Proof/Machine/Boot.lean ====
section
/-!
DEFINITION. The Starter: cold reset and measurement (R418, R419), bring-up and Rind assignment (R417, R422), and
management (R420, R421).
-/

namespace Sys2Proof.Machine

/-! ### Measurement (R418, R419) -/

/-- Verified digests extended into the measurement slots from slot i on; there are eight. -/
def extendSlots (t : Tab (BitVec 512)) : Nat → List (BitVec 512) → Tab (BitVec 512)
  | _, [] => t
  | i, d :: ds => if 8 < i then t else extendSlots (tput t i (Sha3.extend (tget 0 t i) d)) (i + 1) ds

/-- What survives a cold reset: the model's own fields, host memory, the physical defects of memory, the node number, which
rows a spare serves (R88), what is fused (R418, R419), and what has already left the package. -/
def coldState (s : State) : State :=
  { turn := s.turn, tick := s.tick, cycle := s.cycle, ts := s.ts, skew := s.skew, me := s.me, node := s.node
    fuseVersion := s.fuseVersion, fuseKey := s.fuseKey, fuseSecret := s.fuseSecret
    mem := s.mem.filter (fun e => decide (0x100000000000 ≤ e.1)), badMem := s.badMem, softMem := s.softMem
    ctls := s.ctls.map (fun (e : Nat × Stack) => (e.1, ({ repaired := e.2.repaired } : Stack)))
    fabOut := s.fabOut, mgmtOut := s.mgmtOut, msix := s.msix, hostOut := s.hostOut, starterOut := s.starterOut }

/-- The count that the fused monotonic bits hold: an image whose security version is below it is refused (R418). -/
def fusedCount (s : State) : Nat := ((List.range 64).filter (fun i => s.fuseVersion.getLsbD i)).length

/-- Images are accepted: their signatures verify under the fused key (ok), and the lowest of their security versions, which is
free, is not below the fused counter (R418). -/
def imagesPass (s : State) (ok : Bool) (digests : List (BitVec 512)) : Bool :=
  ok && !digests.isEmpty && decide (fusedCount s ≤ fldN (Config.freeVec 49 s.tick) 0 64)

/-- Cold reset: the images verify or the package stays in recovery (R418). digests: those verified, in slot order. -/
def execColdReset (ok : Bool) (digests : List (BitVec 512)) (s : State) : Host.Outcome State Fault Refusal :=
  .next { coldState s with slotsM := extendSlots [] 1 digests, verified := digests, recovery := !imagesPass s ok digests }

/-- A firmware update over PLDM: in recovery, images that verify let the package boot (R418, R420). -/
def execPldmFirmwareUpdate (ok : Bool) (digests : List (BitVec 512)) (s : State) : Host.Outcome State Fault Refusal :=
  if s.recovery && imagesPass s ok digests then
    .next { s with slotsM := extendSlots s.slotsM 1 digests, verified := digests, recovery := false }
  else .next s

/-- Words answered on a management transport. -/
def respond (s : State) (ws : List (BitVec 64)) : State := { s with mgmtOut := s.mgmtOut ++ ws }

/-- The dwords of a digest, lowest first. -/
def digestWords (d : BitVec 512) : List (BitVec 64) := (List.range 8).map (fun i => fld d (64 * i) 64)

/-- One of the digests that the Starter has verified, the n-th of a Rind: which image it belongs to is free (log 22). -/
def rindDigest (s : State) (n : Nat) : BitVec 512 :=
  s.verified.getD (Config.choice (108 + n) s.tick % s.verified.length) 0

/-- The device identity key and the alias key, which a change of Starter firmware changes (R419). -/
def identityKey (s : State) : BitVec 256 := Config.identityKey s.fuseSecret
def aliasKey (s : State) : BitVec 256 := Config.aliasKey s.fuseSecret (tget 0 s.slotsM 1)

/-- SPDM: index i returns slot i, and 0x10 + k the digests of Rind k's configuration and launcher, as verified (R419). The
signature over the answer is not part of it (log 22). -/
def execAttestation (index : Nat) (s : State) : Host.Outcome State Fault Refusal :=
  if 1 ≤ index ∧ index ≤ 8 then .next (respond s (digestWords (tget 0 s.slotsM index)))
  else if 0x10 ≤ index ∧ index < 0x1C then
    .next (respond s (digestWords (rindDigest s (2 * (index - 0x10))) ++ digestWords (rindDigest s (2 * (index - 0x10) + 1))))
  else .next s

/-! ### Rind assignment (R417) -/

/-- Everything that a cluster holds for a Rind goes: its contexts are killed, and its scratchpads, counters, ports,
patterns, tasks, caches, engines and their buffers are set to zero (R417). -/
def wipeCluster (s : State) (cl : Nat) : State :=
  let mine := fun (cn : Nat) => coreCluster cn == cl
  let gone := (s.cores.filter (fun e => mine e.1)).flatMap (fun e => e.2.spilled.map (fun p => p.1))
  let s := gone.foldl (fun s l => modLaunch s l (fun x => { x with roaming := x.roaming - 1 })) s
  let s := { s with cores := List.map (fun (e : Nat × Core) => (e.1, if mine e.1 then { e.2 with spilled := [] } else e.2)) s.cores }
  let ks := (s.ctxs.filter (fun e => mine (ctxCore e.1) && e.2.act != .dormant)).map (fun e => e.1)
  let s := ks.foldl (fun s k => endCtx s k 3 0) s
  let lines := (s.l2.filter (fun e => e.1 % 256 == cl && e.2.replica.isNone)).map (fun e => e.1 / 256)
  let pads := fun (a : Nat) => windowOf a == .scratch && mine (scratchCore a)
  { s with
    ctxs := List.map (fun (e : Nat × Ctx) => (e.1, if mine (ctxCore e.1) then { e.2 with launch := none, hoop := 0 } else e.2)) s.ctxs
    cores := List.map (fun (e : Nat × Core) => (e.1,
      if mine e.1 then { e.2 with block := none, left := none, misses := [], code := [], asked := [] } else e.2)) s.cores
    mem := s.mem.filter (fun e => !pads e.1)
    counters := tkeep s.counters (fun k _ => !mine (k / 256))
    ports := tkeep s.ports (fun k _ => !mine (k / 64))
    patterns := tkeep s.patterns (fun k _ => !mine (k / 32))
    slots := tkeep s.slots (fun k _ => !mine (k / 256))
    streams := tkeep s.streams (fun k _ => !mine (k / 16))
    top := lines.foldl (fun t l => overDrop t (128 * l) 128) s.top
    l1 := tkeep s.l1 (fun k _ => !mine (k % 2048))
    l2 := tkeep s.l2 (fun k _ => k % 256 != cl)
    l1i := tkeep s.l1i (fun k _ => !mine (k % 2048))
    clusters := tput s.clusters cl
      (let c := getCluster s cl
       { rind := c.rind, spareUsed := c.spareUsed, drop := c.drop, latched := c.latched
         press := List.map (fun (e : Nat × Press) => (e.1,
           ({ mism := e.2.mism, ret := e.2.ret, spares := e.2.spares, host := e.2.host, evSeq := e.2.evSeq } : Press))) c.press }) }

/-- A cluster given to a Rind: one that another Rind had is wiped first, and st.rind of its contexts is set. -/
def giveCluster (s : State) (rind cl : Nat) : State :=
  let old := (getCluster s cl).rind
  let s := if old.isSome && old != some rind then wipeCluster s cl else s
  let s := modCluster s cl (fun c => { c with rind := some rind })
  (List.range 128).foldl (fun s i =>
    modCtx s (ctxKey (8 * cl + i / 16) (i % 16)) (fun c => { c with st := putFld c.st 56 4 (BitVec.ofNat 4 rind) })) s

/-- A region given to a Rind (R67). -/
def giveRegion (s : State) (rind r : Nat) : State :=
  if r < 576 then { s with rmap := tput s.rmap r (putFld (rmapOf s r) 60 4 (BitVec.ofNat 4 rind)) } else s

/-- The launcher's pattern: it references port 63 with quota 1. The firmware's handler and priority are free values, and it
takes no seated context: its firing is LaunchAdmission (log 73). -/
def launcherPattern (s : State) : Pattern :=
  { refs := [(63, 1)], handler := fld (Config.freeVec 47 s.tick) 0 64, cmask := 0,
    prio := fldN (Config.freeVec 47 s.tick) 64 3, owner := none }

/-- The launcher's port of the front core, a queue port with cap 16, and its pattern (R358). -/
def openLauncher (s : State) (rind : Nat) : State :=
  match frontCore s rind with
  | none => s
  | some cn =>
    { setPort s cn 63 { getPort s cn 63 with en := true, count? := false, cap := 16 } with
      patterns := tput s.patterns (cn * 32 + 31) (launcherPattern s) }

/-- What the configuration image assigns to one Rind (R417), and its launch window opened (R422). -/
def assignRind (s : State) (m : RindImage) : State :=
  if 12 ≤ m.rind then s
  else
    let k := m.rind
    let s := (m.clusters.filter (fun c => decide (c < 256))).foldl (fun s c => giveCluster s k c) s
    let s := m.regions.foldl (fun s r => giveRegion s k r) s
    let s := (List.range 4).foldl (fun s d => match m.rcfg[d]? with
      | some v => writeRcfg s d k v
      | none => s) s
    let s := (List.range 16).foldl (fun s e => match m.peers[e]? with
      | some v => ctlWrite s true (.peer k e) v
      | none => s) s
    let s := ctlWrite (ctlWrite (ctlWrite s true (.hwin k) m.hwin) true (.spoolBase k) m.spoolBase) true (.spoolCnt k) m.spoolCnt
    let s := modRind s k (fun r => { r with twin := m.twin &&& 0x01FFFFFFC0000000, started := true })
    openLauncher s k

/-- A channel of a stack is replaced by a spare (R88): the rows of its pseudo-channels leave the count. -/
def spareChannel (s : State) (i ch : Nat) : State :=
  let s := modStack s i (fun m => { m with chans := m.chans + 1, copying := none, rows := tdel (tdel m.rows (2 * ch)) (2 * ch + 1) })
  logStack s i 0x08 (BitVec.ofNat 64 ch)

/-- A stack trained at bring-up: which channels fail link training and take a spare is a free choice (R88). -/
def trainStack (s : State) (i : Nat) : State :=
  (List.range (Config.choice (60 + i) s.tick % 3)).foldl (fun s j =>
    spareChannel s i (Config.choice (80 + 2 * i + j) s.tick % 32)) s

/-- Hard repair at bring-up: the rows that a spare serves by soft repair are repaired for good, and their defects are gone
(R88). -/
def hardRepair (s : State) : State :=
  let fixed := s.ctls.flatMap (fun e => e.2.repaired)
  let keep := fun (l : List Nat) => l.filter (fun h => !fixed.contains (h / 2))
  { s with badMem := keep s.badMem, softMem := keep s.softMem }

/-- Bring-up after power is good (R422): once the images are verified, the memories are trained, the Rinds assigned, and
the launch windows opened. -/
def execPowerGood (image : List RindImage) (s : State) : Host.Outcome State Fault Refusal :=
  if s.recovery ∨ s.slotsM.isEmpty then .next s
  else
    let s := (List.range 12).foldl trainStack (hardRepair s)
    .next (image.foldl assignRind s)

/-! ### Management (R420, R421) -/

/-- A command that names Rinds: completion code 2 when the mask names one that does not exist, else its effect and code 0. -/
def mgmtCommand (s : State) (mask : BitVec 16) (f : State → State × List (BitVec 64)) : State :=
  if 4096 ≤ mask.toNat then respond s [2]
  else
    let (s, ws) := f s
    respond s (0 :: ws)

/-- The four dwords of log entry head − 1 − n of a Rind (R397, R421). -/
def logWords (s : State) (n rind : Nat) : List (BitVec 64) :=
  let l := (getRind s rind).log
  let e := tget 0 l.ents ((l.head - 1 - BitVec.ofNat 32 n).toNat % 1024)
  (List.range 4).map (fun i => fld e (64 * i) 64)

/-- Command 0x01. -/
def execEventRead (mask : BitVec 16) (n : Nat) (s : State) : Host.Outcome State Fault Refusal :=
  .next (mgmtCommand s mask (fun s => (s, (maskRinds mask).flatMap (logWords s n))))

/-- Command 0x02. The spec codes no source for it: snap.src is a free value. -/
def execMgmtSnapshot (mask : BitVec 16) (s : State) : Host.Outcome State Fault Refusal :=
  .next (mgmtCommand s mask (fun s => (raiseAll s (zx (fld (Config.freeVec 6 s.tick) 0 8)) (maskRinds mask), [])))

/-- Command 0x03. -/
def execMgmtRelease (mask : BitVec 16) (s : State) : Host.Outcome State Fault Refusal :=
  .next (mgmtCommand s mask (fun s => ((maskRinds mask).foldl releaseSnapshot s, [])))

/-- Command 0x04 with its Rind mask (R421): power and temperature are free values. -/
def powerQuery (s : State) (mask : BitVec 16) : State := mgmtCommand s mask (fun s => (s, [Config.powerReading s.tick]))

/-- Command 0x04 as the table's row has it, which gives no mask: one that names no bad Rind. -/
def execPowerQuery (s : State) : Host.Outcome State Fault Refusal := .next (powerQuery s 0)

/-- A Rind reset (R421): every launch ends with status 0, and every cluster is wiped under R417. -/
def resetRind (s : State) (rind : Nat) : State :=
  let s := (s.launches.filter (fun e => e.2.rind == rind)).foldl (fun s e => match getLaunch s e.1 with
    | some x => endLaunch s e.1 x
    | none => s) s
  let s := ((List.range 256).filter (fun c => (getCluster s c).rind == some rind)).foldl wipeCluster s
  if (getRind s rind).started then openLauncher s rind else s

/-- Command 0x05. -/
def execRindReset (mask : BitVec 16) (s : State) : Host.Outcome State Fault Refusal :=
  .next (mgmtCommand s mask (fun s => ((maskRinds mask).foldl resetRind s, [])))

/-- A PLDM monitoring request is answered with a reading, a free value (R420). -/
def execPldmMonitoring (s : State) : Host.Outcome State Fault Refusal := .next (respond s [Config.powerReading s.tick])

end Sys2Proof.Machine
end

