-- ==== Sys2Proof/Machine/Control.lean ====
section
/-!
DEFINITION. Branches, jumps, calls and loops (R243 to R247).
-/

namespace Sys2Proof.Machine

/-- A transfer to a computed address: a target whose bits 1:0 are not zero takes misaligned-fetch at the
transferring instruction (R26, R244). -/
def jumpTo (s : State) (t : Dword) : State × Done :=
  if fldN t 0 2 = 0 then (s, .jump t) else (s, .trap (simpleTrap 0x01 t))

/-- BCC with a test of g[a] (R243). -/
def branchOn (a : BitVec 5) (o : BitVec 16) (test : Dword → Bool) (s : State) :
    Host.Outcome State Fault Refusal :=
  issue s { reads := [gr a] } (fun s c => (s, if test (c.readG a.toNat) then .jump (branchTarget c o) else .next))

def execBeqz (a : BitVec 5) (o : BitVec 16) (s : State) := branchOn a o isZero s
def execBnez (a : BitVec 5) (o : BitVec 16) (s : State) := branchOn a o (fun x => !isZero x) s
def execBltz (a : BitVec 5) (o : BitVec 16) (s : State) := branchOn a o isNeg s
def execBgez (a : BitVec 5) (o : BitVec 16) (s : State) := branchOn a o (fun x => !isNeg x) s
def execBgtz (a : BitVec 5) (o : BitVec 16) (s : State) := branchOn a o isPos s
def execBlez (a : BitVec 5) (o : BitVec 16) (s : State) := branchOn a o (fun x => !isPos x) s
def execBodd (a : BitVec 5) (o : BitVec 16) (s : State) := branchOn a o isOdd s
def execBevn (a : BitVec 5) (o : BitVec 16) (s : State) := branchOn a o (fun x => !isOdd x) s

/-- br: always taken. -/
def execBr (o : BitVec 16) (s : State) : Host.Outcome State Fault Refusal :=
  issue s {} (fun s c => (s, .jump (branchTarget c o)))

/-- bemp and bful test the full/empty bit and never park (R243); a roaming context that names a register
outside g1 to g6 takes the trap of R35. -/
def branchFull (a : BitVec 5) (o : BitVec 16) (want : Bool) (s : State) : Host.Outcome State Fault Refusal :=
  let c := getCtx s s.me
  if stRoam c.st && 6 < a.toNat then
    .next (takeTrap s s.me (simpleTrap 0x03 (zx a)) (resumeAddr c))
  else issue s {} (fun s c => (s, if c.isEmpty a.toNat = want then .jump (branchTarget c o) else .next))

def execBemp (a : BitVec 5) (o : BitVec 16) (s : State) := branchFull a o true s
def execBful (a : BitVec 5) (o : BitVec 16) (s : State) := branchFull a o false s

/-- JMP (R244). -/
def execJmp (o : BitVec 26) (s : State) : Host.Outcome State Fault Refusal :=
  issue s {} (fun s c => (s, .jump (jumpTarget c o)))

/-- CALL (R244): g31 takes the address of the next word. -/
def execCall (o : BitVec 26) (s : State) : Host.Outcome State Fault Refusal :=
  issue s { writes := [31] } (fun s c => (setCtx s s.me (c.writeG 31 (c.pc + 4)), .jump (jumpTarget c o)))

/-- JR (R244). -/
def execJr (a : BitVec 5) (s : State) : Host.Outcome State Fault Refusal :=
  issue s { reads := [gr a] } (fun s c => jumpTo s (c.readG a.toNat))

/-- CALLR (R244): g[a] is read before g31 is written. -/
def execCallr (a : BitVec 5) (s : State) : Host.Outcome State Fault Refusal :=
  issue s { reads := [gr a], writes := [31] } (fun s c =>
    let t := c.readG a.toNat
    if fldN t 0 2 = 0 then (setCtx s s.me (c.writeG 31 (c.pc + 4)), .jump t) else (s, .trap (simpleTrap 0x01 t)))

/-- RET (R244). -/
def execRet (s : State) : Host.Outcome State Fault Refusal :=
  issue s { reads := [31] } (fun s c => jumpTo s (c.readG 31))

/-- A loop of n iterations over the L words after the LOOP word (R247). -/
def startLoop (s : State) (c : Ctx) (n : Dword) (L : BitVec 10) : State × Done :=
  if c.loopCnt ≠ 0 then (s, .trap (simpleTrap 0x07 c.pc))
  else if n = 0 then (s, .jump (c.pc + 4 + zx L * 4))
  else
    (setCtx s s.me { c with
      loopCnt := n
      loopEnd := (c.pc + zx L * 4) &&& ~~~3#64
      loopLen := bit64 (stTrap c.st) 10 ||| zx L }, .next)

/-- REP (R245, R247). A roaming context takes context-class with the number of loop.cnt. -/
def execRep (a : BitVec 5) (L : BitVec 10) (s : State) : Host.Outcome State Fault Refusal :=
  issue s { reads := [gr a], ctl := some 0x220, loops := [72] } (fun s c => startLoop s c (c.readG a.toNat) L)

/-- The elements of a stream not yet popped or pushed (R208). -/
def streamRem (t : Stream) : Nat := streamCount t.desc - t.pos

/-- REPS (R203, R247): the trip count is the stream's rem. The register is not tested under R42, as SSTAT's is
not (R208). -/
def execReps (a : BitVec 5) (L : BitVec 10) (s : State) : Host.Outcome State Fault Refusal :=
  issue s { ctl := some 0x220, loops := [72] } (fun s c =>
    if c.loopCnt ≠ 0 then (s, .trap (simpleTrap 0x07 c.pc))
    else match (streamSlot s s.me a.toNat).bind (tfind s.streams) with
      | none => (s, .trap (simpleTrap 0x09 (BitVec.ofNat 64 (vr a))))
      | some t => startLoop s c (BitVec.ofNat 64 (streamRem t)) L)

end Sys2Proof.Machine
end

