-- ==== Sys2Proof/Machine/Failures.lean ====
section
/-!
DEFINITION. Failures and take-over (R86 to R89, R389 to R394), the thermal limit (R422), and the Kealia link's own steps
(R395, R412, R415).
-/

namespace Sys2Proof.Machine

/-! ### Patrol scrub, row repair and channel sparing (R86, R88, R89) -/

/-- A half that the patrol reads: an uncorrectable one quarantines its frame; corrected data is written back corrected (R86,
R89). -/
def patrolHalf (s : State) (h : Nat) : State :=
  if halfBad s h then quarantineFrame (meetBad s h) (s.node * 2 ^ 45 + h)
  else if halfSoft s h then healHalf (meetSoft s h) h
  else s

/-- What the patrol finds beyond the defects that stand: it adds them, each a new defect of its row (R88). -/
def patrolAdds (s : State) (a : Nat) (found : PatrolFinding) : State :=
  let p := place s a / 64
  match found with
  | .clean => s
  | .corrected => if s.softMem.contains p then s else { strikeHalf s p with softMem := s.softMem ++ [p] }
  | .uncorrectable => if s.badMem.contains p then s else { strikeHalf s p with badMem := s.badMem ++ [p] }

/-- The patrol reads the granule at a local address of a stack or the Whey tier (R86, R89, R392). -/
def execPatrolScrub (pa : Nat) (found : PatrolFinding) (s : State) : Host.Outcome State Fault Refusal :=
  let a := pa / 128 * 128
  let go := patrolHalf (patrolHalf (patrolAdds s a found) a) (a + 64)
  match windowOf a with
  | .hbm => .next go
  | .whey => .next go
  | _ => .next s

/-- A channel's copy is complete, and its spare serves alone (R88). -/
def execChannelCopyComplete (stack : Nat) (s : State) : Host.Outcome State Fault Refusal :=
  match (getStack s stack).copying with
  | none => .next s
  | some ch => .next (startSparing (spareChannel s stack ch) stack)

/-! ### Cores (R389 to R391) -/

/-- A core retires at a checker mismatch, or for its register errors; without a free spare it goes offline. During another
take-over of the cluster it waits (R394). -/
def execCoreRetirement (core : Nat) (checker : Bool) (s : State) : Host.Outcome State Fault Refusal :=
  let x := getCore s core
  if 2048 ≤ core ∨ x.off ∨ x.takeover ∨ !(checker || errorsRetire s core) then .next s
  else .next (failCore s core)

/-- The failures that waited for a take-over are dealt with, oldest first (R394). -/
def takeFailures (s : State) (cl : Nat) : State :=
  let fs := (getCluster s cl).failures
  fs.foldl (fun s u => match u with
    | .core cn => if (getCore s cn).off then s else failCore s cn
    | .press y => if (getPress s cl y).ret then s else failPress s cl y) (modCluster s cl (fun c => { c with failures := [] }))

/-- The spare runs (R390). -/
def execSpareRun (core : Nat) (s : State) : Host.Outcome State Fault Refusal :=
  let x := getCore s core
  if !x.takeover then .next s
  else
    let s := modCore s core (fun c => { c with takeover := false, sp := true, killed := 0 })
    let s := (List.range 32).foldl (fun s _ => unspillOne s core) (logCore s core 0x01 (BitVec.ofNat 64 x.killed))
    .next (takeFailures s (coreCluster core))

/-! ### The Kealia ports (R393, R395, R412, R415) -/

/-- A lane is dropped; the third that is lost takes the port down, and it leaves every route set. -/
def execLaneDrop (port : Nat) (s : State) : Host.Outcome State Fault Refusal :=
  let x := tget {} s.kports port
  if 48 ≤ port ∨ x.lanes < 2 then .next s
  else
    let n := x.lanes - 1
    let e := logEntry s x.evSeq 6 (64 * (port / 12)) port 0x0A (BitVec.ofNat 64 n)
    let s := { s with kports := tput s.kports port { x with lanes := n, evSeq := x.evSeq + 1 } }
    let s := if 2 ≤ n then s
      else { s with routes := List.map (fun (r : Nat × BitVec 64) => (r.1, r.2 &&& ~~~(1#64 <<< port))) s.routes }
    .next (logUnit s [] e)

/-- A timestamp of another node: the domain timestamp is that of the sender when the flit left, and the time that it
travelled, which is free (R395). -/
def execTimestamp (ts : BitVec 64) (s : State) : Host.Outcome State Fault Refusal :=
  .next { s with ts := ts + BitVec.ofNat 64 (Config.nanoseconds s.tick) }

/-- A route update sets the ports of a node in a port's table; ports that are down do not join a set (R415). -/
def execRouteUpdate (port : Nat) (node : BitVec 16) (ports : BitVec 64) (s : State) : Host.Outcome State Fault Refusal :=
  if 48 ≤ port ∨ 4096 ≤ node.toNat then .next s
  else
    let up := (List.range 48).foldl (fun (m : BitVec 64) p =>
      if 2 ≤ (tget {} s.kports p).lanes then m ||| (1#64 <<< p) else m) 0
    .next { s with routes := tput s.routes (4096 * port + node.toNat) (ports &&& up) }

/-- The held flits of a port from a sequence number on; none when it holds no such flit. -/
def flitsFrom (seq : BitVec 16) : List (BitVec 16 × FabricPacket × Option Nat) → List (BitVec 16 × FabricPacket × Option Nat)
  | [] => []
  | x :: xs => if x.1 = seq then x :: xs else flitsFrom seq xs

/-- The flits of a port are sent again from a sequence number on: those before it have been received (R412). Each flit
sent is counted (R374); the packets themselves are neither lost nor doubled. -/
def execFlitReplay (port : Nat) (seq : BitVec 16) (s : State) : Host.Outcome State Fault Refusal :=
  let x := tget {} s.kports port
  match flitsFrom seq x.held with
  | [] => .next s
  | fs =>
    let wire := match fs.getLast? with
      | some e => flitImage e.1 x.rx (fld (Config.freeVec 51 s.tick) 0 32) e.2.1
      | none => x.wire
    let s := { s with kports := tput s.kports port { x with held := fs, wire := wire } }
    .next (fs.foldl (fun s f => countEnergy s (unitKey 6 port) 7 1 (fldN f.2.1.hdr 100 4) f.2.2) s)

/-- A flit reaches a port (R412): it acknowledges the held flits up to a sequence number, which leave, it returns credits, and
its own number is acknowledged by the next flit. -/
def receiveFlit (s : State) (port : Nat) (hdr : BitVec 128) : State :=
  let x := tget {} s.kports port
  let held := match flitsFrom (fld hdr 16 16) x.held with
    | [] => x.held
    | _ :: rest => rest
  let credits := (List.range 4).foldl (fun t c => tput t c (tget 0 t c + fldN hdr (32 + 8 * c) 8)) x.credits
  if 48 ≤ port ∨ x.lanes < 2 then s
  else { s with kports := tput s.kports port { x with held := held, rx := fld hdr 0 16, credits := credits } }

/-- A packet of the management channel (R399, R395, R413 to R415): a snapshot request, a timestamp or a route update. One whose
body does not match its op is answered with err 2 and changes nothing. -/
def receiveManagement (s : State) (port : Nat) (q : FabricPacket) : Host.Outcome State Fault Refusal :=
  match fabOp q with
  | 16 => if fabFits q 1 (fabBits 16) then execSnapshotRequest (fld q.body 0 16) s else .next (fabAnswer s q 5 2 0 0)
  | 17 => if fabFits q 1 (fabBits 64) then execTimestamp (fld q.body 0 64) s else .next (fabAnswer s q 5 2 0 0)
  | 18 => if fabFits q 1 (fabBits 16 ||| fabBits 48 <<< 64) then execRouteUpdate port (fld q.body 0 16) (fld q.body 64 64) s
    else .next (fabAnswer s q 5 2 0 0)
  | _ => .next s

/-- A die above 105 °C runs at half clock until it falls below 95 °C (R422). -/
def execThermalThrottle (die : Nat) (tenths : Nat) (s : State) : Host.Outcome State Fault Refusal :=
  if 4 ≤ die then .next s
  else if 1050 < tenths then .next (modCave s die (fun c => { c with halfClock := true }))
  else if tenths < 950 then .next (modCave s die (fun c => { c with halfClock := false }))
  else .next s

/-! ### What comes from outside the package (R66, R409, R412 to R414, R421, R437) -/

/-- What the host, the Starter, the management client or a neighbour on the Kealia link does besides the rows of the opcode
table; a command byte that is not listed is answered with completion code 1 (R421). -/
def execOutside (a : Outside) (s : State) : Host.Outcome State Fault Refusal :=
  match a with
  | .pageRead rind off => .next (hostPageRead s rind off)
  | .starterMem w la d => .next (starterMem s w la d)
  | .mgmtUnknown => .next (respond s [1])
  | .powerQuery mask => .next (powerQuery s mask)
  | .starterControl a => .next (starterControl s a)
  | .flit port hdr => .next (receiveFlit s port hdr)
  | .management port hdr body => receiveManagement s port { hdr := hdr, body := body }

end Sys2Proof.Machine
end

