-- ==== Sys2Proof/Machine/Scalar.lean ====
section
/-!
DEFINITION. The integer instructions: INTR, the immediate forms, SHI and LHI (R237 to R242).
-/

namespace Sys2Proof.Machine

/-! ### Values -/

/-- A 32-bit result sign-extended (R238). -/
def sx32 (x : BitVec 32) : Dword := sx x
/-- The low word of a register (R238). -/
def lo32 (x : Dword) : BitVec 32 := x.setWidth 32

/-- The shifts of R238 at a width: an amount at or above the width gives 0, or the sign. -/
def shlV {w : Nat} (x : BitVec w) (amt : Nat) : BitVec w := if w ≤ amt then 0 else x <<< amt
def shrV {w : Nat} (x : BitVec w) (amt : Nat) : BitVec w := if w ≤ amt then 0 else x >>> amt
def sarV {w : Nat} (x : BitVec w) (amt : Nat) : BitVec w :=
  if w ≤ amt then (if x.msb then BitVec.allOnes w else 0) else x.sshiftRight amt

/-- Division and remainder of R239 at a width. -/
def divS {w : Nat} (x y : BitVec w) : BitVec w := if y = 0 then BitVec.allOnes w else x.sdiv y
def divU {w : Nat} (x y : BitVec w) : BitVec w := if y = 0 then BitVec.allOnes w else x / y
def remS {w : Nat} (x y : BitVec w) : BitVec w := if y = 0 then x else x.srem y
def remU {w : Nat} (x y : BitVec w) : BitVec w := if y = 0 then x else x % y

/-- Leading zeros among the low n bits. -/
def clzN (x : Dword) : Nat → Nat
  | 0 => 0
  | n + 1 => if x.getLsbD n then 0 else 1 + clzN x n

/-- Trailing zeros from bit i on, n bits left. -/
def ctzN (x : Dword) : Nat → Nat → Nat
  | 0, _ => 0
  | n + 1, i => if x.getLsbD i then 0 else 1 + ctzN x n (i + 1)

/-- One bits among the low n. -/
def popN (x : Dword) : Nat → Nat
  | 0 => 0
  | n + 1 => (if x.getLsbD n then 1 else 0) + popN x n

/-- An operation at 64 bits, or at 32 with its result sign-extended (R238). -/
def atWidth (w : BitVec 1) (f64 : Dword → Dword → Dword) (f32 : BitVec 32 → BitVec 32 → BitVec 32)
    (x y : Dword) : Dword :=
  if w = 1 then sx32 (f32 (lo32 x) (lo32 y)) else f64 x y

/-- The shift amount of g[b] (R238). -/
def amtOf (y : Dword) : Nat := fldN y 0 8

/-! ### Forms -/

/-- g[d] := f(g[a], g[b]). -/
def aluRR (d a b : BitVec 5) (f : Dword → Dword → Dword) (s : State) : Host.Outcome State Fault Refusal :=
  issue s { reads := [gr a, gr b], writes := [gr d] }
    (pureBody (fun c => c.writeG d.toNat (f (c.readG a.toNat) (c.readG b.toNat))))

/-- g[d] := f(g[a]). -/
def aluR (d a : BitVec 5) (f : Dword → Dword) (s : State) : Host.Outcome State Fault Refusal :=
  issue s { reads := [gr a], writes := [gr d] } (pureBody (fun c => c.writeG d.toNat (f (c.readG a.toNat))))

/-- g[d] := f(g[a], immediate), the immediate taken from the context. -/
def aluRI (d a : BitVec 5) (imm : Ctx → Dword) (f : Dword → Dword → Dword) (s : State) :
    Host.Outcome State Fault Refusal :=
  issue s { reads := [gr a], writes := [gr d] }
    (pureBody (fun c => c.writeG d.toNat (f (c.readG a.toNat) (imm c))))

/-! ### INTR (R237 to R239) -/

def execAdd (d a b : BitVec 5) (w : BitVec 1) (s : State) := aluRR d a b (atWidth w (· + ·) (· + ·)) s
def execSub (d a b : BitVec 5) (w : BitVec 1) (s : State) := aluRR d a b (atWidth w (· - ·) (· - ·)) s
def execAnd (d a b : BitVec 5) (s : State) := aluRR d a b (fun x y => x &&& y) s
def execOr (d a b : BitVec 5) (s : State) := aluRR d a b (fun x y => x ||| y) s
def execXor (d a b : BitVec 5) (s : State) := aluRR d a b (fun x y => x ^^^ y) s
def execAndn (d a b : BitVec 5) (s : State) := aluRR d a b (fun x y => x &&& ~~~y) s
def execShl (d a b : BitVec 5) (w : BitVec 1) (s : State) :=
  aluRR d a b (fun x y => atWidth w (fun x _ => shlV x (amtOf y)) (fun x _ => shlV x (amtOf y)) x y) s
def execShr (d a b : BitVec 5) (w : BitVec 1) (s : State) :=
  aluRR d a b (fun x y => atWidth w (fun x _ => shrV x (amtOf y)) (fun x _ => shrV x (amtOf y)) x y) s
def execSar (d a b : BitVec 5) (w : BitVec 1) (s : State) :=
  aluRR d a b (fun x y => atWidth w (fun x _ => sarV x (amtOf y)) (fun x _ => sarV x (amtOf y)) x y) s
def execSlt (d a b : BitVec 5) (s : State) := aluRR d a b (fun x y => boolD (ltS x y)) s
def execSltn (d a b : BitVec 5) (s : State) := aluRR d a b (fun x y => boolD (ltU x y)) s
def execMin (d a b : BitVec 5) (s : State) := aluRR d a b (fun x y => if ltS y x then y else x) s
def execMax (d a b : BitVec 5) (s : State) := aluRR d a b (fun x y => if ltS x y then y else x) s
def execMinn (d a b : BitVec 5) (s : State) := aluRR d a b (fun x y => if ltU y x then y else x) s
def execMaxn (d a b : BitVec 5) (s : State) := aluRR d a b (fun x y => if ltU x y then y else x) s
def execMul (d a b : BitVec 5) (w : BitVec 1) (s : State) := aluRR d a b (atWidth w (· * ·) (· * ·)) s
def execMulh (d a b : BitVec 5) (s : State) :=
  aluRR d a b (fun x y => BitVec.ofInt 64 (x.toInt * y.toInt / 2 ^ 64)) s
def execMulhn (d a b : BitVec 5) (s : State) :=
  aluRR d a b (fun x y => BitVec.ofNat 64 (x.toNat * y.toNat / 2 ^ 64)) s
def execDiv (d a b : BitVec 5) (w : BitVec 1) (s : State) := aluRR d a b (atWidth w divS divS) s
def execDivn (d a b : BitVec 5) (w : BitVec 1) (s : State) := aluRR d a b (atWidth w divU divU) s
def execRem (d a b : BitVec 5) (w : BitVec 1) (s : State) := aluRR d a b (atWidth w remS remS) s
def execRemn (d a b : BitVec 5) (w : BitVec 1) (s : State) := aluRR d a b (atWidth w remU remU) s
def execClz (d a : BitVec 5) (s : State) := aluR d a (fun x => BitVec.ofNat 64 (clzN x 64)) s
def execCtz (d a : BitVec 5) (s : State) := aluR d a (fun x => BitVec.ofNat 64 (ctzN x 64 0)) s
def execPopc (d a : BitVec 5) (s : State) := aluR d a (fun x => BitVec.ofNat 64 (popN x 64)) s

/-! ### Immediate forms (R240 to R242) -/

def execAddi (d a : BitVec 5) (i : BitVec 16) (s : State) := aluRI d a (fun c => immS c i) (· + ·) s
def execAndi (d a : BitVec 5) (i : BitVec 16) (s : State) := aluRI d a (fun c => immZ c i) (fun x y => x &&& y) s
def execOri (d a : BitVec 5) (i : BitVec 16) (s : State) := aluRI d a (fun c => immZ c i) (fun x y => x ||| y) s
def execXori (d a : BitVec 5) (i : BitVec 16) (s : State) := aluRI d a (fun c => immZ c i) (fun x y => x ^^^ y) s
def execSlti (d a : BitVec 5) (i : BitVec 16) (s : State) :=
  aluRI d a (fun c => immS c i) (fun x y => boolD (ltS x y)) s
def execSltin (d a : BitVec 5) (i : BitVec 16) (s : State) :=
  aluRI d a (fun c => immZ c i) (fun x y => boolD (ltU x y)) s

/-- ADDPC (R240): the base is the address of the ADDPC word itself. -/
def execAddpc (d : BitVec 5) (i : BitVec 16) (s : State) : Host.Outcome State Fault Refusal :=
  issue s { writes := [gr d] } (pureBody (fun c => c.writeG d.toNat (c.pc + immS c i)))

def execShli (d a : BitVec 5) (m : BitVec 8) (s : State) := aluR d a (fun x => shlV x m.toNat) s
def execShri (d a : BitVec 5) (m : BitVec 8) (s : State) := aluR d a (fun x => shrV x m.toNat) s
def execSari (d a : BitVec 5) (m : BitVec 8) (s : State) := aluR d a (fun x => sarV x m.toNat) s
def execShliW (d a : BitVec 5) (m : BitVec 8) (s : State) := aluR d a (fun x => sx32 (shlV (lo32 x) m.toNat)) s
def execShriW (d a : BitVec 5) (m : BitVec 8) (s : State) := aluR d a (fun x => sx32 (shrV (lo32 x) m.toNat)) s
def execSariW (d a : BitVec 5) (m : BitVec 8) (s : State) := aluR d a (fun x => sx32 (sarV (lo32 x) m.toNat)) s

/-- LHI (R242): bits 16q + 15 : 16q of g[d] replaced; g[d] is a source too. -/
def execLhi (d : BitVec 5) (q : BitVec 2) (i : BitVec 16) (s : State) : Host.Outcome State Fault Refusal :=
  issue s { reads := [gr d], writes := [gr d] }
    (pureBody (fun c => c.writeG d.toNat (putFld (c.readG d.toNat) (16 * q.toNat) 16 i)))

end Sys2Proof.Machine
end

