-- ==== Sys2Proof/Machine/Vector.lean ====
section
/-!
DEFINITION. The vector unit: VINT, VFLT, VCVT, VPRM, VRED and VPRED (R262 to R276).
-/

namespace Sys2Proof.Machine

/-! ### Frames -/

/-- An instruction that writes lanes of n bytes of v[d] under a mask (R263). reads: its sources beside the mask. -/
def vecOp (d : BitVec 5) (m : BitVec 3) (z : Bool) (n : Nat) (reads : List Nat) (f : Ctx → List Nat) (s : State) :
    Host.Outcome State Fault Refusal :=
  let mask := (getCtx s s.me).readP m.toNat
  issue s { reads := reads ++ [pr m], writes := [vr d], lanes := pushLanes mask n z, vec := true
            merges := if z = false ∧ m ≠ 0 then [vr d] else [] }
    (pureBody (fun c => c.writeV d.toNat (mergeLanes (c.readP m.toNat) n z (c.readV d.toNat) (f c))))

/-- A destination that an instruction without a zero bit also reads: under a mask other than p0 (R264). -/
def maskMerges (d : Nat) (m : BitVec 3) : List Nat := if m ≠ 0 then [d] else []

/-- The bytes of a lane of type code t, and whether it is signed (R266). -/
def intBytes (t : BitVec 3) : Nat := 2 ^ (t.toNat % 4)
def intSigned (t : BitVec 3) : Bool := decide (t.toNat < 4)

/-- A lane read as its type reads it. -/
def laneInt (t : BitVec 3) (x : Nat) : Int := if intSigned t then toSigned (8 * intBytes t) x else (x : Int)

/-- An integer operation on two lanes (R266). -/
def vint2 (d a b : BitVec 5) (t m : BitVec 3) (z : BitVec 1) (f : Nat → Nat → Nat → Nat) (s : State) :
    Host.Outcome State Fault Refusal :=
  let n := intBytes t
  vecOp d m (z == 1) n [vr a, vr b] (fun c =>
    (lanes (c.readV a.toNat) n).zipWith (f (8 * n)) (lanes (c.readV b.toNat) n)) s

/-- The same on the integers that the lanes stand for; the result is taken modulo the lane. -/
def vintI (d a b : BitVec 5) (t m : BitVec 3) (z : BitVec 1) (f : Int → Int → Int) (s : State) :
    Host.Outcome State Fault Refusal :=
  vint2 d a b t m z (fun w x y => ofSigned w (f (laneInt t x) (laneInt t y))) s

/-- Sat to the range of a type (R9, R266). -/
def satTo (t : BitVec 3) (x : Int) : Int :=
  let w := 8 * intBytes t
  if intSigned t then max (-(2 ^ (w - 1))) (min (2 ^ (w - 1) - 1) x) else max 0 (min (2 ^ w - 1) x)

/-! ### VINT (R266) -/

def execVadd (d a b : BitVec 5) (t m : BitVec 3) (z : BitVec 1) (s : State) := vintI d a b t m z (· + ·) s
def execVsub (d a b : BitVec 5) (t m : BitVec 3) (z : BitVec 1) (s : State) := vintI d a b t m z (· - ·) s
def execVadds (d a b : BitVec 5) (t m : BitVec 3) (z : BitVec 1) (s : State) :=
  vintI d a b t m z (fun x y => satTo t (x + y)) s
def execVsubs (d a b : BitVec 5) (t m : BitVec 3) (z : BitVec 1) (s : State) :=
  vintI d a b t m z (fun x y => satTo t (x - y)) s
def execVmul (d a b : BitVec 5) (t m : BitVec 3) (z : BitVec 1) (s : State) := vintI d a b t m z (· * ·) s
def execVmulh (d a b : BitVec 5) (t m : BitVec 3) (z : BitVec 1) (s : State) :=
  vintI d a b t m z (fun x y => x * y / 2 ^ (8 * intBytes t)) s
def execVmin (d a b : BitVec 5) (t m : BitVec 3) (z : BitVec 1) (s : State) := vintI d a b t m z min s
def execVmax (d a b : BitVec 5) (t m : BitVec 3) (z : BitVec 1) (s : State) := vintI d a b t m z max s
def execVand (d a b : BitVec 5) (t m : BitVec 3) (z : BitVec 1) (s : State) :=
  vint2 d a b t m z (fun _ x y => x &&& y) s
def execVor (d a b : BitVec 5) (t m : BitVec 3) (z : BitVec 1) (s : State) :=
  vint2 d a b t m z (fun _ x y => x ||| y) s
def execVxor (d a b : BitVec 5) (t m : BitVec 3) (z : BitVec 1) (s : State) :=
  vint2 d a b t m z (fun _ x y => x ^^^ y) s
def execVandn (d a b : BitVec 5) (t m : BitVec 3) (z : BitVec 1) (s : State) :=
  vint2 d a b t m z (fun w x y => x &&& (2 ^ w - 1 - y)) s
def execVshl (d a b : BitVec 5) (t m : BitVec 3) (z : BitVec 1) (s : State) :=
  vint2 d a b t m z (fun w x y => if w ≤ y % 256 then 0 else x * 2 ^ (y % 256)) s
def execVshr (d a b : BitVec 5) (t m : BitVec 3) (z : BitVec 1) (s : State) :=
  vint2 d a b t m z (fun w x y => ofSigned w (laneInt t x / 2 ^ min (y % 256) w)) s
def execVabs (d a : BitVec 5) (t m : BitVec 3) (z : BitVec 1) (s : State) : Host.Outcome State Fault Refusal :=
  let n := intBytes t
  vecOp d m (z == 1) n [vr a] (fun c => (lanes (c.readV a.toNat) n).map (fun x => (laneInt t x).natAbs)) s

/-- VSPLAT: va names a g register. -/
def execVsplat (d a : BitVec 5) (t m : BitVec 3) (z : BitVec 1) (s : State) : Host.Outcome State Fault Refusal :=
  let n := intBytes t
  vecOp d m (z == 1) n [gr a] (fun c => List.replicate (64 / n) ((c.readG a.toNat).toNat % 2 ^ (8 * n))) s

/-! ### VFLT (R267) -/

/-- The format and the lane bytes of a type code: f32, bf16, f16. -/
def fltFmt (t : Nat) : Fmt := if t = 0 then .fp32 else if t = 1 then .bf16 else .fp16
def fltBytes (t : Nat) : Nat := if t = 0 then 4 else 2

/-- The order of encodings that are no NaN, with −0 below +0 (R267). -/
def Fmt.key (f : Fmt) (x : Nat) : Int := if 2 ^ f.width ≤ x then -((x % 2 ^ f.width : Nat) : Int) - 1 else (x : Int)

/-- The smaller and the larger of two encodings; a NaN gives the canonical NaN. -/
def Fmt.minBits (f : Fmt) (x y : Nat) : Nat :=
  if (f.decode x).isNan || (f.decode y).isNan then f.nan.getD 0 else if f.key y < f.key x then y else x
def Fmt.maxBits (f : Fmt) (x y : Nat) : Nat :=
  if (f.decode x).isNan || (f.decode y).isNan then f.nan.getD 0 else if f.key x < f.key y then y else x

/-- The sign bit set to a value, exactly; a NaN becomes canonical. -/
def Fmt.withSign (f : Fmt) (neg : Bool) (x : Nat) : Nat :=
  if (f.decode x).isNan then f.nan.getD 0 else f.signed neg (x % 2 ^ f.width)

/-- A floating-point operation on two lanes. -/
def vflt2 (d a b : BitVec 5) (t m : BitVec 3) (z : BitVec 1) (f : Fmt → Rm → Nat → Nat → Nat) (s : State) :
    Host.Outcome State Fault Refusal :=
  let n := fltBytes t.toNat
  vecOp d m (z == 1) n [vr a, vr b] (fun c =>
    (lanes (c.readV a.toNat) n).zipWith (f (fltFmt t.toNat) c.hRm) (lanes (c.readV b.toNat) n)) s

/-- The same on one lane. -/
def vflt1 (d a : BitVec 5) (t m : BitVec 3) (z : BitVec 1) (f : Fmt → Rm → Nat → Nat) (s : State) :
    Host.Outcome State Fault Refusal :=
  let n := fltBytes t.toNat
  vecOp d m (z == 1) n [vr a] (fun c => (lanes (c.readV a.toNat) n).map (f (fltFmt t.toNat) c.hRm)) s

/-- x − y: the sum with the second sign turned. -/
def Fmt.subBits (f : Fmt) (rm : Rm) (x y : Nat) : Nat :=
  f.encode rm (Val.add rm (f.decode x) (f.decode y).negate)

def execVaddFp (d a b : BitVec 5) (t m : BitVec 3) (z : BitVec 1) (s : State) := vflt2 d a b t m z Fmt.addBits s
def execVsubFp (d a b : BitVec 5) (t m : BitVec 3) (z : BitVec 1) (s : State) := vflt2 d a b t m z Fmt.subBits s
def execVmulFp (d a b : BitVec 5) (t m : BitVec 3) (z : BitVec 1) (s : State) := vflt2 d a b t m z Fmt.mulBits s
def execVdiv (d a b : BitVec 5) (t m : BitVec 3) (z : BitVec 1) (s : State) := vflt2 d a b t m z Fmt.divBits s
def execVminFp (d a b : BitVec 5) (t m : BitVec 3) (z : BitVec 1) (s : State) :=
  vflt2 d a b t m z (fun f _ => f.minBits) s
def execVmaxFp (d a b : BitVec 5) (t m : BitVec 3) (z : BitVec 1) (s : State) :=
  vflt2 d a b t m z (fun f _ => f.maxBits) s
def execVsqrt (d a : BitVec 5) (t m : BitVec 3) (z : BitVec 1) (s : State) := vflt1 d a t m z Fmt.sqrtBits s
def execVabsFp (d a : BitVec 5) (t m : BitVec 3) (z : BitVec 1) (s : State) :=
  vflt1 d a t m z (fun f _ x => f.withSign false x) s
def execVneg (d a : BitVec 5) (t m : BitVec 3) (z : BitVec 1) (s : State) :=
  vflt1 d a t m z (fun f _ x => f.withSign (decide (x < 2 ^ f.width)) x) s

/-- VFMA (R267): it reads v[d] too. -/
def execVfma (d a b : BitVec 5) (t m : BitVec 3) (z : BitVec 1) (s : State) : Host.Outcome State Fault Refusal :=
  let n := fltBytes t.toNat
  let f := fltFmt t.toNat
  vecOp d m (z == 1) n [vr a, vr b, vr d] (fun c =>
    ((lanes (c.readV a.toNat) n).zip (lanes (c.readV b.toNat) n)).zipWith
      (fun xy w => f.fmaBits c.hRm xy.1 xy.2 w) (lanes (c.readV d.toNat) n)) s

/-! ### VCVT (R268, R269) -/

/-- What a conversion reads or writes: a floating-point format or an integer of w bits. -/
inductive CvtType where
  | flt (f : Fmt)
  | int (w : Nat) (signed : Bool)
deriving DecidableEq, Repr

/-- Source and destination of a kind of R268. -/
def cvtKind (k : Nat) : CvtType × CvtType :=
  match k with
  | 0 => (.flt .fp32, .flt .bf16)
  | 1 => (.flt .fp32, .flt .fp16)
  | 2 => (.flt .bf16, .flt .fp32)
  | 3 => (.flt .fp16, .flt .fp32)
  | 4 => (.flt .fp32, .flt .e4m3)
  | 5 => (.flt .fp32, .flt .e5m2)
  | 6 => (.flt .e4m3, .flt .fp32)
  | 7 => (.flt .e5m2, .flt .fp32)
  | 8 => (.flt .bf16, .flt .e4m3)
  | 9 => (.flt .bf16, .flt .e5m2)
  | 10 => (.flt .e4m3, .flt .bf16)
  | 11 => (.flt .e5m2, .flt .bf16)
  | 12 => (.flt .fp32, .int 32 true)
  | 13 => (.flt .fp32, .int 32 false)
  | 14 => (.int 32 true, .flt .fp32)
  | 15 => (.int 32 false, .flt .fp32)
  | 16 => (.int 32 true, .int 16 true)
  | 17 => (.int 16 true, .int 8 true)
  | 18 => (.int 16 true, .int 32 true)
  | 19 => (.int 8 true, .int 16 true)
  | 20 => (.int 8 false, .int 16 false)
  | 21 => (.int 16 false, .int 32 false)
  | _ => (.flt .fp32, .int 8 true)

/-- Bytes of a lane. -/
def CvtType.bytes : CvtType → Nat
  | .flt f => f.bits / 8
  | .int w _ => w / 8

/-- The range of an integer type. -/
def intLo (w : Nat) (sg : Bool) : Int := if sg then -(2 ^ (w - 1)) else 0
def intHi (w : Nat) (sg : Bool) : Int := if sg then 2 ^ (w - 1) - 1 else 2 ^ w - 1

/-- One lane converted. -/
def cvtLane (src dst : CvtType) (rm : Rm) (x : Nat) : Nat :=
  let v : Val := match src with
    | .flt f => f.decode x
    | .int w sg => Val.ofInt (if sg then toSigned w x else (x : Int))
  match dst with
  | .flt f => f.encode rm v
  | .int w sg => ofSigned w (v.toInt rm (intLo w sg) (intHi w sg))

/-- The lanes of d bytes outside part q of a narrowing conversion are neither active nor zeroed. -/
def partMask (d s q : Nat) : Dword :=
  BitVec.ofNat 64 ((List.range 64).foldl (fun a j => if j / d / (64 / s) = q then a + 2 ^ j else a) 0)

/-- VCVT. -/
def execVcvt (d a : BitVec 5) (k : BitVec 5) (q : BitVec 2) (m : BitVec 3) (z : BitVec 1) (s : State) :
    Host.Outcome State Fault Refusal :=
  let (src, dst) := cvtKind k.toNat
  let sb := src.bytes
  let db := dst.bytes
  let mask := (getCtx s s.me).readP m.toNat
  let narrow := db < sb
  let within := if narrow then partMask db sb q.toNat else BitVec.allOnes 64
  let push := pushLanes mask db (z == 1) &&& within
  issue s { reads := [vr a, pr m], writes := [vr d], lanes := push, vec := true
            merges := if narrow ∨ (z = 0 ∧ m ≠ 0) then [vr d] else [] } (pureBody (fun c =>
    let xs := lanes (c.readV a.toNat) sb
    let old := c.readV d.toNat
    let res := if narrow then
        (List.range (64 / db)).map (fun i => cvtLane src dst c.hRm (xs.getD (i % (64 / sb)) 0))
      else (List.range (64 / db)).map (fun i => cvtLane src dst c.hRm (xs.getD (q.toNat * (64 / db) + i) 0))
    let new := mergeLanes (c.readP m.toNat) db (z == 1) old res
    c.writeV d.toNat (mergeLanes within db false old (lanes new db))))

/-! ### VPRM (R270, R271) -/

/-- Bytes of a lane-width code. -/
def widthBytes (w : BitVec 3) : Nat := 2 ^ w.toNat

def execVperm (d a b : BitVec 5) (w m : BitVec 3) (z : BitVec 1) (s : State) : Host.Outcome State Fault Refusal :=
  let n := widthBytes w
  vecOp d m (z == 1) n [vr a, vr b] (fun c =>
    (lanes (c.readV b.toNat) n).map (fun k => if k < 64 / n then lane (c.readV a.toNat) n k else 0)) s

/-- The active lanes of a source, in ascending order. -/
def activeLanes (c : Ctx) (a : BitVec 5) (m : BitVec 3) (n : Nat) : List Nat :=
  ((List.range (64 / n)).filter (laneOn (c.readP m.toNat) n)).map (lane (c.readV a.toNat) n)

/-- VCMPRS: the mask is a selector, and every lane is written. -/
def execVcmprs (d a : BitVec 5) (w m : BitVec 3) (s : State) : Host.Outcome State Fault Refusal :=
  let n := widthBytes w
  issue s { reads := [vr a, pr m], writes := [vr d], vec := true, merges := maskMerges (vr d) m }
    (pureBody (fun c => c.writeV d.toNat (ofLanes n (activeLanes c a m n))))

/-- VEXPND: active lane i takes the lane of v[a] whose number is the count of active lanes below i. -/
def execVexpnd (d a : BitVec 5) (w m : BitVec 3) (z : BitVec 1) (s : State) : Host.Outcome State Fault Refusal :=
  let n := widthBytes w
  vecOp d m (z == 1) n [vr a] (fun c => (List.range (64 / n)).map (fun i =>
    lane (c.readV a.toNat) n ((List.range i).filter (laneOn (c.readP m.toNat) n)).length)) s

/-- A permutation by an amount in g[b]. -/
def vprmG (d a b : BitVec 5) (w m : BitVec 3) (z : BitVec 1) (f : (Nat → Nat) → Nat → Nat → Nat → Nat) (s : State) :
    Host.Outcome State Fault Refusal :=
  let n := widthBytes w
  vecOp d m (z == 1) n [vr a, gr b] (fun c => (List.range (64 / n)).map (fun i =>
    f (lane (c.readV a.toNat) n) (64 / n) (c.readG b.toNat).toNat i)) s

def execVslup (d a b : BitVec 5) (w m : BitVec 3) (z : BitVec 1) (s : State) :=
  vprmG d a b w m z (fun a _ k i => if k ≤ i then a (i - k) else 0) s
def execVsldn (d a b : BitVec 5) (w m : BitVec 3) (z : BitVec 1) (s : State) :=
  vprmG d a b w m z (fun a L k i => if i + k < L then a (i + k) else 0) s
def execVbcst (d a b : BitVec 5) (w m : BitVec 3) (z : BitVec 1) (s : State) :=
  vprmG d a b w m z (fun a L k _ => if k < L then a k else 0) s

/-- VEXT writes a g register. -/
def execVext (d a b : BitVec 5) (w : BitVec 3) (s : State) : Host.Outcome State Fault Refusal :=
  let n := widthBytes w
  issue s { reads := [vr a, gr b], writes := [gr d], vec := true } (pureBody (fun c =>
    let k := (c.readG b.toNat).toNat
    c.writeG d.toNat (if k < 64 / n then BitVec.ofNat 64 (lane (c.readV a.toNat) n k) else 0)))

/-- VINS: it reads v[d] too, and the other lanes are kept. -/
def execVins (d a b : BitVec 5) (w : BitVec 3) (s : State) : Host.Outcome State Fault Refusal :=
  let n := widthBytes w
  issue s { reads := [gr a, gr b, vr d], writes := [vr d], vec := true } (pureBody (fun c =>
    let k := (c.readG b.toNat).toNat
    c.writeV d.toNat (ofLanes n ((List.range (64 / n)).map (fun i =>
      if i = k then (c.readG a.toNat).toNat else lane (c.readV d.toNat) n i)))))

def execViota (d : BitVec 5) (w m : BitVec 3) (z : BitVec 1) (s : State) : Host.Outcome State Fault Refusal :=
  vecOp d m (z == 1) (widthBytes w) [] (fun _ => List.range (64 / widthBytes w)) s

/-! ### VRED (R235, R276) -/

/-- A reduction: the result stands in lane 0 and the rest of v[d] is zero. f takes the lanes, an inactive one as
none. -/
def vred (d a : BitVec 5) (m : BitVec 3) (n : Nat) (f : List (Option Nat) → Nat) (s : State) :
    Host.Outcome State Fault Refusal :=
  issue s { reads := [vr a, pr m], writes := [vr d], vec := true, merges := maskMerges (vr d) m } (pureBody (fun c =>
    c.writeV d.toNat (BitVec.ofNat 512 (f ((List.range (64 / n)).map (fun i =>
      if laneOn (c.readP m.toNat) n i then some (lane (c.readV a.toNat) n i) else none))))))

/-- An integer reduction over the values of the lanes; inactive lanes take the identity. -/
def vredInt (d a : BitVec 5) (t m : BitVec 3) (f : Int → Int → Int) (ident : Int) (s : State) :
    Host.Outcome State Fault Refusal :=
  vred d a m (intBytes t) (fun xs => ofSigned 64 (xs.foldl (fun r x => f r (match x with
    | some v => laneInt t v
    | none => ident)) ident)) s

def execVraddInt (d a : BitVec 5) (t m : BitVec 3) (s : State) := vredInt d a t m (· + ·) 0 s
def execVrminInt (d a : BitVec 5) (t m : BitVec 3) (s : State) :=
  vredInt d a t m min (intHi (8 * intBytes t) (intSigned t)) s
def execVrmaxInt (d a : BitVec 5) (t m : BitVec 3) (s : State) :=
  vredInt d a t m max (intLo (8 * intBytes t) (intSigned t)) s

/-- Adjacent pairs added, one stage of the tree (R235). -/
def treeStage : List Nat → List Nat
  | x :: y :: rest => Fmt.fp32.addBits .nearestEven x y :: treeStage rest
  | l => l

/-- The tree of R235 in a given number of stages. -/
def treeSum : Nat → List Nat → Nat
  | 0, l => l.headD 0
  | k + 1, l => treeSum k (treeStage l)

/-- A lane widened exactly to FP32. -/
def toFp32 (t : BitVec 3) (x : Nat) : Nat := Fmt.fp32.encode .nearestEven ((fltFmt t.toNat).decode x)

/-- A floating-point reduction by the tree, on the FP32 value that each lane gives; inactive lanes are −0. -/
def vredTree (d a : BitVec 5) (t m : BitVec 3) (f : Nat → Nat) (s : State) : Host.Outcome State Fault Refusal :=
  vred d a m (fltBytes t.toNat) (fun xs =>
    treeSum (if t = 0 then 4 else 5) (xs.map (fun x => match x with
      | some v => f (toFp32 t v)
      | none => 0x80000000))) s

def execVraddFp (d a : BitVec 5) (t m : BitVec 3) (s : State) := vredTree d a t m (fun x => x) s
def execVrssq (d a : BitVec 5) (t m : BitVec 3) (s : State) :=
  vredTree d a t m (fun x => Fmt.fp32.mulBits .nearestEven x x) s

/-- The extreme lane as FP32; inactive lanes take the identity. -/
def vredExt (d a : BitVec 5) (t m : BitVec 3) (f : Nat → Nat → Nat) (ident : Nat) (s : State) :
    Host.Outcome State Fault Refusal :=
  vred d a m (fltBytes t.toNat) (fun xs => xs.foldl (fun r x => f r (match x with
    | some v => toFp32 t v
    | none => ident)) ident) s

def execVrminFp (d a : BitVec 5) (t m : BitVec 3) (s : State) := vredExt d a t m Fmt.fp32.minBits 0x7F800000 s
def execVrmaxFp (d a : BitVec 5) (t m : BitVec 3) (s : State) := vredExt d a t m Fmt.fp32.maxBits 0xFF800000 s

/-! ### VPRED (R272 to R275) -/

/-- The mask bits of lane i of n bytes. -/
def laneMask (n i : Nat) : Dword := BitVec.ofNat 64 ((2 ^ n - 1) * 2 ^ (n * i))

/-- A predicate with each active lane's bits set or cleared; the others are cleared or kept (R273). -/
def putPred (n : Nat) (m old : Dword) (z : Bool) (test : Nat → Bool) : Dword :=
  (List.range (64 / n)).foldl (fun p i =>
    if laneOn m n i then (if test i then p ||| laneMask n i else p &&& ~~~laneMask n i)
    else if z then p &&& ~~~laneMask n i else p) old

/-- The lane bytes of a type of R272. -/
def cmpBytes (t : BitVec 4) : Nat := if t.toNat < 8 then 2 ^ (t.toNat % 4) else fltBytes (t.toNat - 8)

/-- A condition on two lanes of a type (R272, R273). -/
def cmpLanes (code : Nat) (t : BitVec 4) (x y : Nat) : Bool :=
  if t.toNat < 8 then cmpInt code (laneInt (t.setWidth 3) x) (laneInt (t.setWidth 3) y)
  else
    let f := fltFmt (t.toNat - 8)
    cmpVal code (f.decode x) (f.decode y)

/-- A compare. -/
def vcmp (code : Nat) (d a b : BitVec 5) (t : BitVec 4) (m : BitVec 3) (z : BitVec 1) (s : State) :
    Host.Outcome State Fault Refusal :=
  let n := cmpBytes t
  issue s { reads := [vr a, vr b, pr m], writes := [pr d], vec := true
            merges := if z = 0 ∧ m ≠ 0 then [pr d] else [] } (pureBody (fun c =>
    c.writeP d.toNat (putPred n (c.readP m.toNat) (c.readP d.toNat) (z == 1) (fun i =>
      cmpLanes code t (lane (c.readV a.toNat) n i) (lane (c.readV b.toNat) n i)))))

def execVcmpeq (d a b : BitVec 5) (t : BitVec 4) (m : BitVec 3) (z : BitVec 1) (s : State) := vcmp 0 d a b t m z s
def execVcmpne (d a b : BitVec 5) (t : BitVec 4) (m : BitVec 3) (z : BitVec 1) (s : State) := vcmp 1 d a b t m z s
def execVcmplt (d a b : BitVec 5) (t : BitVec 4) (m : BitVec 3) (z : BitVec 1) (s : State) := vcmp 2 d a b t m z s
def execVcmple (d a b : BitVec 5) (t : BitVec 4) (m : BitVec 3) (z : BitVec 1) (s : State) := vcmp 3 d a b t m z s
def execVcmpgt (d a b : BitVec 5) (t : BitVec 4) (m : BitVec 3) (z : BitVec 1) (s : State) := vcmp 4 d a b t m z s
def execVcmpge (d a b : BitVec 5) (t : BitVec 4) (m : BitVec 3) (z : BitVec 1) (s : State) := vcmp 5 d a b t m z s

/-- A predicate operation on p registers (R274). -/
def predOp (d : BitVec 5) (reads : List Nat) (f : Ctx → Dword) (s : State) : Host.Outcome State Fault Refusal :=
  issue s { reads := reads, writes := [pr d], vec := true } (pureBody (fun c => c.writeP d.toNat (f c)))

def execPand (d a b : BitVec 5) (s : State) :=
  predOp d [pr a, pr b] (fun c => c.readP a.toNat &&& c.readP b.toNat) s
def execPor (d a b : BitVec 5) (s : State) :=
  predOp d [pr a, pr b] (fun c => c.readP a.toNat ||| c.readP b.toNat) s
def execPxor (d a b : BitVec 5) (s : State) :=
  predOp d [pr a, pr b] (fun c => c.readP a.toNat ^^^ c.readP b.toNat) s
def execPandn (d a b : BitVec 5) (s : State) :=
  predOp d [pr a, pr b] (fun c => c.readP a.toNat &&& ~~~c.readP b.toNat) s
def execPnot (d a : BitVec 5) (s : State) := predOp d [pr a] (fun c => ~~~c.readP a.toNat) s
def execPmovgp (d a : BitVec 5) (s : State) := predOp d [gr a] (fun c => c.readG a.toNat) s

/-- PMOVPG and the counts write a g register. -/
def predToG (d a : BitVec 5) (f : Dword → Dword) (s : State) : Host.Outcome State Fault Refusal :=
  issue s { reads := [pr a], writes := [gr d], vec := true }
    (pureBody (fun c => c.writeG d.toNat (f (c.readP a.toNat))))

/-- Lanes of n bytes whose first bit is set. -/
def countLanes (n : Nat) (p : Dword) : Dword := BitVec.ofNat 64 ((List.range (64 / n)).filter (laneOn p n)).length

def execPmovpg (d a : BitVec 5) (s : State) := predToG d a (fun p => p) s
def execVpcnt8 (d a : BitVec 5) (s : State) := predToG d a (countLanes 1) s
def execVpcnt16 (d a : BitVec 5) (s : State) := predToG d a (countLanes 2) s
def execVpcnt32 (d a : BitVec 5) (s : State) := predToG d a (countLanes 4) s
def execVpcnt64 (d a : BitVec 5) (s : State) := predToG d a (countLanes 8) s

/-- Index intersection (R275): inactive lanes are cleared. -/
def vxsect (n : Nat) (d a b : BitVec 5) (m : BitVec 3) (s : State) : Host.Outcome State Fault Refusal :=
  issue s { reads := [vr a, vr b, pr m], writes := [pr d], vec := true, merges := maskMerges (pr d) m } (pureBody (fun c =>
    let ys := activeLanes c b m n
    c.writeP d.toNat (putPred n (c.readP m.toNat) 0 true (fun i => ys.contains (lane (c.readV a.toNat) n i)))))

def execVxsectN32 (d a b : BitVec 5) (m : BitVec 3) (s : State) := vxsect 4 d a b m s
def execVxsectN64 (d a b : BitVec 5) (m : BitVec 3) (s : State) := vxsect 8 d a b m s

end Sys2Proof.Machine
end

