-- ==== Sys2Proof/Machine/Special.lean ====
section
/-!
DEFINITION. The special functions and pair merges (R277 to R279).

The functions are computed in fixed point with 256 fraction bits, to an error far below the distance at which a
binary32 result could round either way (log 14), and rounded once.
-/

namespace Sys2Proof.Machine

/-- Fraction bits of the fixed point. -/
def fixP : Nat := 256

/-- ⌊ln 2 × 2^256⌋. -/
def ln2Fix : Nat := 0xb17217f7d1cf79abc9e3b39803f2f6af40f343267298b62d8a0d175b8baafa2b

/-- The Taylor terms of e^y from term k on, for fixed-point y below 1: term is y^(k−1)/(k−1)!. -/
def expTerms (y : Nat) : Nat → Nat → Nat → Nat
  | 0, _, _ => 0
  | n + 1, k, term =>
    let t := term * y / (k * 2 ^ fixP)
    t + expTerms y n (k + 1) t

/-- 2^f in fixed point, for fixed-point f below 1. -/
def exp2Frac (f : Nat) : Nat := 2 ^ fixP + expTerms (f * ln2Fix / 2 ^ fixP) 64 1 (2 ^ fixP)

/-- x × 2^256 rounded down, for x = (−1)^neg × m × 2^e. -/
def toFix (neg : Bool) (m : Nat) (e : Int) : Int :=
  let a : Int := if 0 ≤ e + fixP then (m * 2 ^ (e + fixP).toNat : Nat) else ((m / 2 ^ (-(e + fixP)).toNat : Nat) : Int)
  if neg then -a else a

/-- 2^t for fixed-point t: the fixed-point mantissa in [1, 2) and the exponent. -/
def exp2Fix (t : Int) : Nat × Int := (exp2Frac (t % 2 ^ fixP).toNat, t / 2 ^ fixP)

/-- e^x for fixed-point x, in the same form. -/
def expFix (x : Int) : Nat × Int := exp2Fix (x * 2 ^ fixP / ln2Fix)

/-- The series of atanh from the term u^j on: its sum over odd j. -/
def atanhTerms (u2 : Nat) : Nat → Nat → Nat → Nat
  | 0, _, _ => 0
  | n + 1, j, p => p / j + atanhTerms u2 n (j + 2) (p * u2 / 2 ^ fixP)

/-- ln z in fixed point, for z = m ÷ 2^k in [1, 2). -/
def lnFrac (m k : Nat) : Nat :=
  let u := (m - 2 ^ k) * 2 ^ fixP / (m + 2 ^ k)
  2 * atanhTerms (u * u / 2 ^ fixP) 90 1 u

/-- ln (m × 2^e) in fixed point. -/
def lnFix (m : Nat) (e : Int) : Int :=
  let k := Nat.log2 m
  (e + k) * ln2Fix + lnFrac m k

/-- A fixed-point value that lies a little below the exact one in magnitude, rounded to a format. -/
def roundFix (f : Fmt) (x : Int) : Nat :=
  f.roundFin .nearestEven (decide (x < 0)) (x.natAbs - 1024) (-(fixP : Int)) true

/-- The same for a mantissa and an exponent. -/
def roundScaled (f : Fmt) (r : Nat × Int) : Nat :=
  f.roundFin .nearestEven false (r.1 - 1024) (r.2 - (fixP : Int)) true

/-- The sign and size of an argument at or beyond which a function has its limit: x ≥ b. -/
def atLeast (m : Nat) (e : Int) (b : Nat) : Bool := !((Val.fin false m e).lt (.fin false b 0))

/-- 1 ÷ √(m × 2^e). -/
def rsqrtFin (f : Fmt) (m : Nat) (e : Int) : Nat :=
  let m' := if e % 2 = 0 then m else 2 * m
  let e' := if e % 2 = 0 then e else e - 1
  let n := 2 ^ 160
  let q := isqrt (n / m') 81 0
  f.roundFin .nearestEven false q (-(e' / 2) - 80) (q * q * m' != n)

/-- 2^x for finite x: exact when x is an integer (R278). -/
def exp2Fin (f : Fmt) (neg : Bool) (m : Nat) (e : Int) : Nat :=
  if atLeast m e 200 then (if neg then 0 else f.inf.getD 0)
  else
    let t := toFix neg m e
    if t % 2 ^ fixP = 0 ∧ -(fixP : Int) ≤ e then f.roundFin .nearestEven false 1 (t / 2 ^ fixP) false
    else roundScaled f (exp2Fix t)

/-- e^x for finite x. -/
def expFin (f : Fmt) (neg : Bool) (m : Nat) (e : Int) : Nat :=
  if m = 0 then f.roundFin .nearestEven false 1 0 false
  else if atLeast m e 200 then (if neg then 0 else f.inf.getD 0)
  else roundScaled f (expFix (toFix neg m e))

/-- log2 x for x = m × 2^e above 0: exact for a power of two. -/
def log2Fin (f : Fmt) (m : Nat) (e : Int) : Nat :=
  let k := Nat.log2 m
  if m = 2 ^ k then f.encode .nearestEven (Val.ofInt (e + k))
  else roundFix f ((e + k) * 2 ^ fixP + (lnFrac m k * 2 ^ fixP / ln2Fix : Nat))

/-- ln x for x = m × 2^e above 0. -/
def lnFin (f : Fmt) (m : Nat) (e : Int) : Nat :=
  if m = 2 ^ Nat.log2 m ∧ e + Nat.log2 m = 0 then 0 else roundFix f (lnFix m e)

/-- e^x in fixed point, absolute, for x of at most about 160 in size. -/
def expAbs (x : Int) : Nat :=
  let (a, n) := expFix x
  if 0 ≤ n then a * 2 ^ n.toNat else a / 2 ^ (-n).toNat

/-- tanh x for finite x: ±0 as given, ±1 in the limit. -/
def tanhFin (f : Fmt) (neg : Bool) (m : Nat) (e : Int) : Nat :=
  if m = 0 then f.signed neg 0
  else if atLeast m e 40 then f.encode .nearestEven (.fin neg 1 0)
  else
    let E := expAbs (toFix false m (e + 1))
    let t : Nat := (E - 2 ^ fixP) * 2 ^ fixP / (E + 2 ^ fixP)
    f.roundFin .nearestEven neg (t - 1024) (-(fixP : Int)) true

/-- 1 ÷ (1 + e^−x) for finite x. -/
def sigmFin (f : Fmt) (neg : Bool) (m : Nat) (e : Int) : Nat :=
  if m = 0 then f.encode .nearestEven (.fin false 1 (-1))
  else if atLeast m e 120 then (if neg then 0 else f.encode .nearestEven (.fin false 1 0))
  else
    let E := expAbs (toFix neg m e)
    f.roundFin .nearestEven false (E * 2 ^ fixP / (E + 2 ^ fixP) - 1024) (-(fixP : Int)) true

/-- The functions of R277 by number, with the special inputs of R278. -/
def specialFn (op : Nat) (f : Fmt) (x : Nat) : Nat :=
  let nan := f.nan.getD 0
  let inf := f.inf.getD 0
  let one := f.encode .nearestEven (.fin false 1 0)
  match op, f.decode x with
  | _, .nan => nan
  | 0, _ => f.divBits .nearestEven one x
  | 1, .inf n => if n then nan else 0
  | 1, .fin n m e => if m = 0 then (if n then f.signed true inf else inf) else if n then nan else rsqrtFin f m e
  | 2, .inf n => if n then 0 else inf
  | 2, .fin n m e => exp2Fin f n m e
  | 3, .inf n => if n then nan else inf
  | 3, .fin n m e => if m = 0 then f.signed true inf else if n then nan else log2Fin f m e
  | 4, .inf n => if n then 0 else inf
  | 4, .fin n m e => expFin f n m e
  | 5, .inf n => if n then nan else inf
  | 5, .fin n m e => if m = 0 then f.signed true inf else if n then nan else lnFin f m e
  | 6, .inf n => f.signed n one
  | 6, .fin n m e => tanhFin f n m e
  | _, .inf n => if n then 0 else one
  | _, .fin n m e => sigmFin f n m e

/-- Operations 0 to 7 of VSFN on each active lane. -/
def vsfn (op : Nat) (d a : BitVec 5) (t : BitVec 1) (m : BitVec 3) (z : BitVec 1) (s : State) :
    Host.Outcome State Fault Refusal :=
  let n := fltBytes t.toNat
  vecOp d m (z == 1) n [vr a] (fun c => (lanes (c.readV a.toNat) n).map (specialFn op (fltFmt t.toNat))) s

def execVrcp (d a : BitVec 5) (t : BitVec 1) (m : BitVec 3) (z : BitVec 1) (s : State) := vsfn 0 d a t m z s
def execVrsqrt (d a : BitVec 5) (t : BitVec 1) (m : BitVec 3) (z : BitVec 1) (s : State) := vsfn 1 d a t m z s
def execVexp2 (d a : BitVec 5) (t : BitVec 1) (m : BitVec 3) (z : BitVec 1) (s : State) := vsfn 2 d a t m z s
def execVlog2 (d a : BitVec 5) (t : BitVec 1) (m : BitVec 3) (z : BitVec 1) (s : State) := vsfn 3 d a t m z s
def execVexp (d a : BitVec 5) (t : BitVec 1) (m : BitVec 3) (z : BitVec 1) (s : State) := vsfn 4 d a t m z s
def execVlog (d a : BitVec 5) (t : BitVec 1) (m : BitVec 3) (z : BitVec 1) (s : State) := vsfn 5 d a t m z s
def execVtanh (d a : BitVec 5) (t : BitVec 1) (m : BitVec 3) (z : BitVec 1) (s : State) := vsfn 6 d a t m z s
def execVsigm (d a : BitVec 5) (t : BitVec 1) (m : BitVec 3) (z : BitVec 1) (s : State) := vsfn 7 d a t m z s

/-! ### Pair merges (R279) -/

/-- s of a merge with rescaling for m1 ≠ m2. -/
def rescaled (m1 s1 m2 s2 : Nat) : Nat :=
  let f := Fmt.fp32
  let (mb, sb, ml, sl) := if (f.decode m2).lt (f.decode m1) then (m1, s1, m2, s2) else (m2, s2, m1, s1)
  let d := f.addBits .nearestEven ml (f.withSign (decide (mb < 2 ^ f.width)) mb)
  f.fmaBits .nearestEven sl (specialFn 2 f d) sb

/-- One pair merged. -/
def mergePair (rescale : Bool) (m1 s1 m2 s2 : Nat) : Nat × Nat :=
  let f := Fmt.fp32
  if ([m1, s1, m2, s2] : List Nat).any (fun x => (f.decode x).isNan) then (f.nan.getD 0, f.nan.getD 0)
  else
    let s := if !rescale || (f.decode m1).eqv (f.decode m2) then f.addBits .nearestEven s1 s2 else rescaled m1 s1 m2 s2
    (f.maxBits m1 m2, s)

/-- VPMRG and VPMRGE: pairs of lanes under mask bit 8i. -/
def vpmerge (rescale : Bool) (d a b : BitVec 5) (m : BitVec 3) (z : BitVec 1) (s : State) :
    Host.Outcome State Fault Refusal :=
  vecOp d m (z == 1) 8 [vr a, vr b] (fun c => (List.range 8).map (fun i =>
    let r := mergePair rescale (lane (c.readV a.toNat) 4 (2 * i)) (lane (c.readV a.toNat) 4 (2 * i + 1))
      (lane (c.readV b.toNat) 4 (2 * i)) (lane (c.readV b.toNat) 4 (2 * i + 1))
    r.1 + 2 ^ 32 * r.2)) s

def execVpmrg (d a b : BitVec 5) (m : BitVec 3) (z : BitVec 1) (s : State) := vpmerge false d a b m z s
def execVpmrge (d a b : BitVec 5) (m : BitVec 3) (z : BitVec 1) (s : State) := vpmerge true d a b m z s

end Sys2Proof.Machine
end

