-- ==== Sys2Proof/Machine/Stream.lean ====
section
/-!
DEFINITION. Stream registers (R194 to R208): SCFG, SCLOSE, SSTAT, and the Ladle's refills and drains.
-/

namespace Sys2Proof.Machine

/-- The v register that a stream field names, and its number in R40. -/
def streamReg (b : BitVec 3) : Nat := 24 + b.toNat
def streamNum (b : BitVec 3) : Nat := 32 + streamReg b

/-- A malformed stream descriptor (R196). -/
def streamBad (d : BitVec 512) : Bool :=
  let count := fun (i : Nat) => fldN d (160 + 16 * i) 16
  let stride := fun (i : Nat) => fldN d (64 + 32 * i) 32
  let base := fldN d 0 64
  let x := streamXform d
  let n := streamSlots d
  count 0 == 0 || count 1 == 0 || count 2 == 0 || decide (n < 2) || decide (16 < n) || x == 2 || decide (3 < x)
    || decide (0x3C000 < fldN d 208 6 * 4096 + n * 4096)
    || base % 64 != 0 || stride 0 % 64 != 0 || stride 1 % 64 != 0 || stride 2 % 64 != 0
    || (streamWrite d && x != 0)
    || (x == 1 && (count 0 % 64 != 0 || stride 0 != 64 || base % 4096 != 0 || stride 1 % 4096 != 0 || stride 2 % 4096 != 0))

/-- A free stream slot of a core: its key. R206 does not say which; the lowest is the model's choice (log 97). -/
def freeStream (s : State) (cn : Nat) : Option Nat :=
  ((List.range 16).find? (fun i => (tfind s.streams (cn * 16 + i)).isNone)).map (fun i => cn * 16 + i)

/-- A stream bound to a slot: its register enters stream mode (R206). -/
def bindStream (s : State) (k key reg : Nat) (d : BitVec 512) : State :=
  let c := getCtx s k
  let t : Stream := { ctx := k, reg := reg, gen := stGen c.st, launch := c.launch, rind := stRind c.st,
                      sys := stSys c.st, desc := d, pos := 0, far := 0, masks := [], fail := none }
  streamBit { s with streams := tput s.streams key t } key

/-- SCFG. -/
def execScfg (d a : BitVec 5) (b : BitVec 3) (s : State) : Host.Outcome State Fault Refusal :=
  issue s { reads := [gr a], writes := [gr d], tests := [streamNum b] } (fun s c =>
    let k := s.me
    if (streamSlot s k (streamReg b)).isSome then (answer s k d 3, .next)
    else withBlock s (c.readG a.toNat) (fun s desc =>
      if streamBad desc then (answer s k d 2, .next)
      else match freeStream s (ctxCore k) with
        | none => (answer s k d 1, .next)
        | some key =>
          if !(pendingOf s k).isEmpty then (s, .hold)
          else (answer (bindStream s k key (streamReg b) desc) k d 0, .next)))

/-- The status word of SCLOSE (R207). -/
def closeWord (t : Stream) : Dword :=
  let index := if streamWrite t.desc then min t.far (streamCount t.desc) else t.pos
  match t.fail with
  | none => at64 index 16
  | some (_, cause, _, _) => at64 index 16 ||| at64 (cause % 256) 8 ||| 2

/-- Nothing is left for the Ladle to write, and no push is on its way. -/
def streamDrained (t : Stream) : Bool := !streamWrite t.desc || (t.owed.isNone && (t.fail.isSome || t.pos == t.far))

/-- A stream closed (R207): the slot is free, and the register leaves stream mode if its context has not ended. -/
def endStream (s : State) (key : Nat) (t : Stream) : State :=
  let s := { s with streams := tdel s.streams key }
  if t.bound then wakeReg (unbindReg s t.ctx t.reg) t.ctx (32 + t.reg) else s

/-- SCLOSE. One that meets a drain of an earlier one waits for it too: the register has not left stream mode. -/
def execSclose (d : BitVec 5) (b : BitVec 3) (s : State) : Host.Outcome State Fault Refusal :=
  issue s { writes := [gr d], names := [streamNum b] } (fun s c =>
    let k := s.me
    match streamSlot s k (streamReg b) with
    | none => (answer s k d 1, .next)
    | some key => match tfind s.streams key with
      | none => (answer s k d 1, .next)
      | some t =>
        if streamDrained t && t.closing.isEmpty then (answer (endStream s key t) k d (closeWord t), .next)
        else
          let s := streamBit { s with streams := tput s.streams key { t with closing := t.closing ++ [(d.toNat, stTrap c.st)] } } key
          (modCtx s k (fun c => c.setEmpty d.toNat true), .next))

/-- The state word of a stream register (R208). -/
def streamWord (t : Stream) : Dword :=
  let lo := if streamWrite t.desc then t.far else t.pos
  let hi := if streamWrite t.desc then t.pos else t.far
  let occ := if lo < hi then (hi - 1) / 64 - lo / 64 + 1 else 0
  let mode := if t.fail.isSome then 3 else if streamWrite t.desc then 2 else 1
  at64 (streamCount t.desc - t.pos) 16 ||| at64 occ 8 ||| at64 mode 0

/-- SSTAT of the stream kind. -/
def execSstat (d : BitVec 5) (b : BitVec 3) (s : State) : Host.Outcome State Fault Refusal :=
  issue s { writes := [gr d], names := [streamNum b] } (fun s c =>
    let w : Dword := match (streamSlot s s.me (streamReg b)).bind (tfind s.streams) with
      | some t => streamWord t
      | none => 0
    (setCtx s s.me (c.writeG d.toNat w), .next))

/-! ### The Ladle's side (R198, R200, R202) -/

/-- The requester of a stream's accesses: its context's launch and mode at SCFG, through the cluster's L2 TLB. -/
def streamReq (s : State) (t : Stream) : Req :=
  let rec_ := getRec s (ctxCore t.ctx) (t.launch.getD 0)
  { rind := t.rind, asid := fldN rec_.asid 0 16, root := fldN rec_.root 14 43 * 16384, user := !t.sys,
    core := ctxCore t.ctx, launch := t.launch, engine := true }

/-- The cause that R202 records for a failed access; that of a stream fault where no core access traps (log 51). -/
def streamCause (e : EngRes) : Nat :=
  match e with
  | .fault 0 => 0x0A
  | .fault code => code
  | .refused => 0x31
  | _ => 0x0E

/-- Elements of a list of bytes placed in the ring from element n on. -/
def putRing (s : State) (t : Stream) (n : Nat) : List Byte → State := fun bs =>
  scratchPut s (ringAddr (ctxCore t.ctx) t.desc n) bs

/-- Up to m elements read from n on, one 64-byte access each (R198); the first that fails puts the stream in the failed
state. One whose walk is under way ends the step. -/
def readElements (s : State) (r : Req) (t : Stream) : Nat → Nat → State × Stream
  | 0, _ => (s, t)
  | m + 1, n =>
    let va := streamAddr t.desc n
    let fails := fun (s : State) (e : EngRes) => (s, { t with far := n, fail := some (n, streamCause e, 1, va) })
    match engAccess s r { op := .load, n := 64, va := va, col := streamXform t.desc == 3 } with
    | (s, .ok v) => readElements (putRing s t n (bytesOf v 64)) r { t with far := n + 1 } m (n + 1)
    | (s, .hold) => (s, t)
    | (s, e) => fails s e

/-- The 64 elements of an expanding stream's block (R212). A malformed block is recorded as the compressed-access that a
core access would have taken. Of a block that is being written meanwhile R214 allows any value: that the elements are the block's
decoding as memory stands at this step is the model's choice (log 76). -/
def readBlock (s : State) (r : Req) (t : Stream) (n : Nat) : State × Stream :=
  let va := streamAddr t.desc n
  match expandAt s r va with
  | (s, .ok bs) => (putRing s t n bs, { t with far := n + 64 })
  | (s, .hold) => (s, t)
  | (s, .malformed) => (s, { t with fail := some (n, 0x18, 1, va) })
  | (s, .failed _ e) => (s, { t with fail := some (n, streamCause e, 1, va) })

/-- n elements moved by the Ladle of a stream, for the energy count (R374). -/
def countElements (s : State) (t : Stream) (r : Req) (n : Nat) : State :=
  countEnergy s (unitKey 2 (2 * coreCluster (ctxCore t.ctx) + streamLadle t.desc)) 4 n r.rind r.launch

/-- A ring slot of a read stream is filled once its elements have been popped (R198). That of an expanding stream needs a
permit of its Ladle (R211). -/
def execStreamRefill (core slot : Nat) (s : State) : Host.Outcome State Fault Refusal :=
  let key := core * 16 + slot
  match tfind s.streams key with
  | none => .next s
  | some t =>
    let e := streamCount t.desc
    if 16 ≤ slot ∨ streamWrite t.desc ∨ t.fail.isSome ∨ e ≤ t.far ∨ t.pos / 64 + streamSlots t.desc ≤ t.far / 64
        ∨ (streamXform t.desc = 1 ∧ !permitFree s (coreCluster core) (streamLadle t.desc)) then .next s
    else
      let r := streamReq s t
      let (s, u) := if streamXform t.desc = 1 then readBlock s r t t.far else readElements s r t (min ((t.far / 64 + 1) * 64) e - t.far) t.far
      let s := countElements s u r (u.far - t.far)
      .next (streamBit { s with streams := tput s.streams key u } key)

/-- Up to m elements written from n on, in ascending order, with their byte enables (R200). One whose walk is under way ends
the step. -/
def writeElements (s : State) (r : Req) (t : Stream) : Nat → State × Stream
  | 0 => (s, t)
  | m + 1 =>
    let n := t.far
    let va := streamAddr t.desc n
    let v := readVec s (ringAddr (ctxCore t.ctx) t.desc n) 64
    let wrote := fun (s : State) => writeElements s r { t with far := n + 1, masks := t.masks.drop 1 } m
    if streamCount t.desc ≤ n then wrote s
    -- An element that cannot be read back from the ring does not travel on (R25; log 88).
    else if !scratchGood s (viewAddrs (ringAddr (ctxCore t.ctx) t.desc n) 64 false) then
      (s, { t with fail := some (n, 0x0E, 2, va) })
    else match engAccess s r { op := .store, n := 64, va := va, data := v, be := t.masks.headD 0 } with
    | (s, .ok _) => wrote s
    | (s, .hold) => (s, t)
    | (s, e) => (s, { t with fail := some (n, streamCause e, 2, va) })

/-- The fills of the SCLOSEs that waited for a drain, and the stream closed (R204, R207). -/
def drainDone (s : State) (key : Nat) (t : Stream) : State :=
  t.closing.foldl (fun s e => sendFillD s { ctx := t.ctx, gen := t.gen, reg := e.1, inTrap := e.2 } (closeWord t)) (endStream s key t)

/-- A full slot of a write stream, or what is left of a closing one, is written to memory (R200, R207). -/
def execStreamDrain (core slot : Nat) (s : State) : Host.Outcome State Fault Refusal :=
  let key := core * 16 + slot
  match tfind s.streams key with
  | none => .next s
  | some t =>
    let whole := (t.far / 64 + 1) * 64
    if 16 ≤ slot ∨ !streamWrite t.desc then .next s
    else if t.closed && streamDrained t then .next (drainDone s key t)
    else if t.fail.isSome ∨ t.pos ≤ t.far ∨ (!t.closed ∧ t.pos < whole) then .next s
    else
      let r := streamReq s t
      let (s, u) := writeElements s r t (min whole t.pos - t.far)
      let s := countElements s u r (u.far - t.far)
      let s := { s with streams := tput s.streams key u }
      .next (if u.closed && streamDrained u then drainDone s key u else streamBit s key)

end Sys2Proof.Machine
end

