-- ==== Sys2Proof/Machine/XlatOps.lean ====
section
/-!
DEFINITION. The XLAT instructions (R103 to R110).
-/

namespace Sys2Proof.Machine

/-! ### TLBI (R106) -/

/-- Whether TLBI removes an entry: kind 0 page, 1 ASID, 2 the whole Rind. -/
def tlbiHits (kind : Nat) (rind asid : Nat) (va : Dword) (t : Tlb) : Bool :=
  t.rind == rind && (match kind with
    | 0 => t.asid == asid && canonical va && t.vpage == va.toNat / 2 ^ t.shift
    | 1 => t.asid == asid
    | _ => true)

/-- Whether a TLB, by its key, lies in a core group of the mask that belongs to the Rind. -/
def tlbiReaches (s : State) (rind mask u : Nat) : Bool :=
  let cl := if u < 2048 then coreCluster u else u - 2048
  (getCluster s cl).rind == some rind && mask.testBit (cl / 8)

/-- TLBI removes the translation of the page that a requester fetches from. Code pages are 64 KiB pages (R57). -/
def tlbiStops (kind : Nat) (rind asid : Nat) (va : Dword) (r : Req) (pc : Dword) : Bool :=
  r.rind == rind && (match kind with
    | 0 => r.asid == asid && canonical va && pageOf pc == pageOf va
    | 1 => r.asid == asid
    | _ => true)

/-- The walks of a Rind in a cluster begin again: what they and ended walks have read counts no more (R106). -/
def annulWalks (rind : Nat) (c : Cluster) : Cluster :=
  let redo := fun (e : WalkJob × Nat) =>
    if e.1.req.rind == rind then { e.1 with id := c.walkSeq + e.2, phase := .reading 3 e.1.req.root false none } else e.1
  { c with walks := c.walks.zipIdx.map redo, walkSeq := c.walkSeq + c.walks.length
           walked := c.walked.filter (fun e => e.1 != rind) }

/-- What TLBI does at once: the entries go from the TLBs reached, walks begin again, the instruction caches reached drop their
lines (log 78), and a core that executes from a removed page has at most the rest of its fetch block left (R106, R111, R137). -/
def shootDown (s : State) (rind kind mask asid : Nat) (va : Dword) : State :=
  let hits := tlbiHits kind rind asid va
  let near := fun (cn : Nat) => tlbiReaches s rind mask (coreTlb cn)
  let stops := fun (x : Core) => match x.running with
    | some k => tlbiStops kind rind asid va (ctxReq s k) (getCtx s k).pc
    | none => false
  { s with
    tlbs := s.tlbs.map (fun e => (e.1, if tlbiReaches s rind mask e.1 then e.2.filter (fun t => !hits t) else e.2))
    l1i := tkeep s.l1i (fun key _ => !near (key % 2048))
    clusters := s.clusters.map (fun e => (e.1, if tlbiReaches s rind mask (clusterTlb e.1) then annulWalks rind e.2 else e.2))
    cores := s.cores.map (fun e => (e.1, if near e.1 && stops e.2 then { e.2 with left := some 8 } else e.2))
    ctxs := s.ctxs.map (fun e => (e.1, if near (ctxCore e.1) && stRind e.2.st == rind then { e.2 with walked := [] } else e.2)) }

/-- TLBI (R106). The context runs on; the fill waits for the accesses of its Rind issued before. -/
def execTlbi (d a b : BitVec 5) (kind : BitVec 2) (s : State) : Host.Outcome State Fault Refusal :=
  issue s { reads := [gr b] ++ (if kind = 0 then [gr a] else []), writes := [gr d] } (fun s c =>
    let k := s.me
    let sel := c.readG b.toNat
    let rind := stRind c.st
    if !stSys c.st then (s, .trap (simpleTrap 0x05 0))
    else
      let s := shootDown s rind kind.toNat (fldN sel 32 32) (fldN sel 0 16) (c.readG a.toNat)
      if d = 0 then (s, .next)
      else
        let r := replyOf s k d.toNat
        (sendPacket (modCtx s k (fun c => c.setEmpty d.toNat true)) (.shoot r rind s.tick), .next))

/-! ### VFLIP, VFLIPC and VPIN (R107 to R109) -/

/-- The live table of a Rind changed by a mask; the replicas and code copies in its caches are dropped (R18, R155). -/
def flipTable (s : State) (rind : Nat) (m : BitVec 256) : State :=
  let s := modRind s rind (fun r => { r with live := r.live ^^^ m })
  let own := fun (cl : Nat) => (getCluster s cl).rind == some rind
  { s with
    l1 := tkeep s.l1 (fun key l => !(l.replica.isSome && own (coreCluster (key % 2048))))
    l2 := tkeep s.l2 (fun key l => !(l.replica.isSome && own (key % 256)))
    l1i := tkeep s.l1i (fun key _ => !own (coreCluster (key % 2048))) }

/-- The frame of the three: every earlier access is performed, and the mask is read. -/
def withMask (s : State) (c : Ctx) (a : BitVec 5) (f : State → BitVec 256 → State × Done) : State × Done :=
  let va := c.readG a.toNat
  if va.toNat % 32 ≠ 0 then (s, .trap (simpleTrap 0x02 va))
  else if !(pendingOf s s.me).isEmpty then (s, .hold)
  else withBlock32 s va f

def execVflip (d a : BitVec 5) (s : State) : Host.Outcome State Fault Refusal :=
  issue s { reads := [gr a], writes := [gr d] } (fun s c =>
    withMask s c a (fun s m => (answer (flipTable s (stRind c.st) m) s.me d 0, .next)))

/-- VFLIPC's decision on a block whose flag is not consulted yet: a status, or the flag decides. -/
def flipTest (s : State) (rind : Nat) (blk : BitVec 256) : Option Nat :=
  let ctr : Dword := fld blk 0 64
  if ctrMalformed ctr || ctrNode ctr != s.node || coreRind s (ctrCore ctr) != some rind then some 3
  else if !reached (getCounter s (ctrCore ctr) (ctrIndex ctr)) (fld blk 64 32) then some 1
  else none

/-- VFLIPC (R108). The spec gives no order between the alignment trap of the block's address and the reading of the mask: that
g[b] is tested once the mask has been translated, fenced and read is the model's choice (log 93). -/
def execVflipc (d a b : BitVec 5) (s : State) : Host.Outcome State Fault Refusal :=
  issue s { reads := [gr a, gr b], writes := [gr d] } (fun s c =>
    let k := s.me
    let rind := stRind c.st
    withMask s c a (fun s m => withBlock32 s (c.readG b.toNat) (fun s blk =>
      let flag : Dword := fld blk 128 64
      if flag.toNat % 8 ≠ 0 then (s, .trap (simpleTrap 0x02 flag))
      else match flipTest s rind blk with
        | some v => (answer s k d (BitVec.ofNat 64 v), .next)
        | none =>
          withList s flag (if flag = 0 then 0 else 1) (fun s ds =>
            if ds.all (fun x => x == 0) then (answer (flipTable s rind m) k d 0, .next)
            else (answer s k d 2, .next)))))

def execVpin (d a : BitVec 5) (s : State) : Host.Outcome State Fault Refusal :=
  issue s { reads := [gr a], writes := [gr d] } (fun s c =>
    withMask s c a (fun s m =>
      let live := (getRind s (stRind c.st)).live
      let s := modLaunch s (c.launch.getD 0) (fun l => { l with snap := (l.snap &&& ~~~m) ||| (live &&& m) })
      (answer s s.me d 0, .next)))

/-- VRD (R110): a context of no launch has no snapshot, which reads as zero. -/
def execVrd (d : BitVec 5) (src : BitVec 1) (w : BitVec 2) (s : State) : Host.Outcome State Fault Refusal :=
  issue s { writes := [gr d] } (fun s c =>
    let table : BitVec 256 := if src = 0 then (getRind s (stRind c.st)).live
      else match c.launch.bind (getLaunch s) with
        | some l => l.snap
        | none => 0
    (setCtx s s.me (c.writeG d.toNat (fld table (64 * w.toNat) 64)), .next))

end Sys2Proof.Machine
end

