-- ==== Sys2Proof/Machine/Dispatch.lean ====
section
/-!
DEFINITION. The dispatch: one arm per constructor of Instr, each one direct call of its meaning.
-/

namespace Sys2Proof.Machine

/-- What an instruction or an event does. -/
def exec (i : Instr) (s : State) : Host.Outcome State Fault Refusal :=
  match i with
  | .add d a b w => Sys2Proof.Machine.execAdd d a b w s
  | .sub d a b w => Sys2Proof.Machine.execSub d a b w s
  | .and d a b => Sys2Proof.Machine.execAnd d a b s
  | .or d a b => Sys2Proof.Machine.execOr d a b s
  | .xor d a b => Sys2Proof.Machine.execXor d a b s
  | .andn d a b => Sys2Proof.Machine.execAndn d a b s
  | .shl d a b w => Sys2Proof.Machine.execShl d a b w s
  | .shr d a b w => Sys2Proof.Machine.execShr d a b w s
  | .sar d a b w => Sys2Proof.Machine.execSar d a b w s
  | .slt d a b => Sys2Proof.Machine.execSlt d a b s
  | .sltn d a b => Sys2Proof.Machine.execSltn d a b s
  | .min d a b => Sys2Proof.Machine.execMin d a b s
  | .max d a b => Sys2Proof.Machine.execMax d a b s
  | .minn d a b => Sys2Proof.Machine.execMinn d a b s
  | .maxn d a b => Sys2Proof.Machine.execMaxn d a b s
  | .mul d a b w => Sys2Proof.Machine.execMul d a b w s
  | .mulh d a b => Sys2Proof.Machine.execMulh d a b s
  | .mulhn d a b => Sys2Proof.Machine.execMulhn d a b s
  | .div d a b w => Sys2Proof.Machine.execDiv d a b w s
  | .divn d a b w => Sys2Proof.Machine.execDivn d a b w s
  | .rem d a b w => Sys2Proof.Machine.execRem d a b w s
  | .remn d a b w => Sys2Proof.Machine.execRemn d a b w s
  | .clz d a => Sys2Proof.Machine.execClz d a s
  | .ctz d a => Sys2Proof.Machine.execCtz d a s
  | .popc d a => Sys2Proof.Machine.execPopc d a s
  | .addi d a im => Sys2Proof.Machine.execAddi d a im s
  | .andi d a im => Sys2Proof.Machine.execAndi d a im s
  | .ori d a im => Sys2Proof.Machine.execOri d a im s
  | .xori d a im => Sys2Proof.Machine.execXori d a im s
  | .slti d a im => Sys2Proof.Machine.execSlti d a im s
  | .sltin d a im => Sys2Proof.Machine.execSltin d a im s
  | .addpc d im => Sys2Proof.Machine.execAddpc d im s
  | .shli d a m => Sys2Proof.Machine.execShli d a m s
  | .shri d a m => Sys2Proof.Machine.execShri d a m s
  | .sari d a m => Sys2Proof.Machine.execSari d a m s
  | .shliW d a m => Sys2Proof.Machine.execShliW d a m s
  | .shriW d a m => Sys2Proof.Machine.execShriW d a m s
  | .sariW d a m => Sys2Proof.Machine.execSariW d a m s
  | .lhi d q im => Sys2Proof.Machine.execLhi d q im s
  | .ldb d a o sc k => Sys2Proof.Machine.execLdb d a o sc k s
  | .ldbn d a o sc k => Sys2Proof.Machine.execLdbn d a o sc k s
  | .ldh d a o sc k => Sys2Proof.Machine.execLdh d a o sc k s
  | .ldhn d a o sc k => Sys2Proof.Machine.execLdhn d a o sc k s
  | .ldw d a o sc k => Sys2Proof.Machine.execLdw d a o sc k s
  | .ldwn d a o sc k => Sys2Proof.Machine.execLdwn d a o sc k s
  | .ldd d a o sc k => Sys2Proof.Machine.execLdd d a o sc k s
  | .stb d a o sc k => Sys2Proof.Machine.execStb d a o sc k s
  | .sth d a o sc k => Sys2Proof.Machine.execSth d a o sc k s
  | .stw d a o sc k => Sys2Proof.Machine.execStw d a o sc k s
  | .std d a o sc k => Sys2Proof.Machine.execStd d a o sc k s
  | .vld d a o sc k => Sys2Proof.Machine.execVld d a o sc k s
  | .vst d a o sc k => Sys2Proof.Machine.execVst d a o sc k s
  | .ldx d a b o sc z => Sys2Proof.Machine.execLdx d a b o sc z s
  | .ldxn d a b o sc z => Sys2Proof.Machine.execLdxn d a b o sc z s
  | .stx d a b o sc z => Sys2Proof.Machine.execStx d a b o sc z s
  | .vldu d a b o sc => Sys2Proof.Machine.execVldu d a b o sc s
  | .vstu d a b o sc => Sys2Proof.Machine.execVstu d a b o sc s
  | .vgath d a b m z sc => Sys2Proof.Machine.execVgath d a b m z sc s
  | .vscat d a b m sc => Sys2Proof.Machine.execVscat d a b m sc s
  | .amoSwap d a b o sc z => Sys2Proof.Machine.execAmoSwap d a b o sc z s
  | .amoCas d a b o sc z => Sys2Proof.Machine.execAmoCas d a b o sc z s
  | .amoAdd d a b o sc z => Sys2Proof.Machine.execAmoAdd d a b o sc z s
  | .amoAnd d a b o sc z => Sys2Proof.Machine.execAmoAnd d a b o sc z s
  | .amoOr d a b o sc z => Sys2Proof.Machine.execAmoOr d a b o sc z s
  | .amoXor d a b o sc z => Sys2Proof.Machine.execAmoXor d a b o sc z s
  | .amoSmin d a b o sc z => Sys2Proof.Machine.execAmoSmin d a b o sc z s
  | .amoSmax d a b o sc z => Sys2Proof.Machine.execAmoSmax d a b o sc z s
  | .amoUmin d a b o sc z => Sys2Proof.Machine.execAmoUmin d a b o sc z s
  | .amoUmax d a b o sc z => Sys2Proof.Machine.execAmoUmax d a b o sc z s
  | .amoFadd d a b o sc => Sys2Proof.Machine.execAmoFadd d a b o sc s
  | .fence sc => Sys2Proof.Machine.execFence sc s
  | .fenceAcq sc => Sys2Proof.Machine.execFenceAcq sc s
  | .fenceRel sc => Sys2Proof.Machine.execFenceRel sc s
  | .beqz a o => Sys2Proof.Machine.execBeqz a o s
  | .bnez a o => Sys2Proof.Machine.execBnez a o s
  | .bltz a o => Sys2Proof.Machine.execBltz a o s
  | .bgez a o => Sys2Proof.Machine.execBgez a o s
  | .bgtz a o => Sys2Proof.Machine.execBgtz a o s
  | .blez a o => Sys2Proof.Machine.execBlez a o s
  | .br o => Sys2Proof.Machine.execBr o s
  | .bodd a o => Sys2Proof.Machine.execBodd a o s
  | .bevn a o => Sys2Proof.Machine.execBevn a o s
  | .bemp a o => Sys2Proof.Machine.execBemp a o s
  | .bful a o => Sys2Proof.Machine.execBful a o s
  | .jmp o => Sys2Proof.Machine.execJmp o s
  | .call o => Sys2Proof.Machine.execCall o s
  | .jr a => Sys2Proof.Machine.execJr a s
  | .callr a => Sys2Proof.Machine.execCallr a s
  | .ret => Sys2Proof.Machine.execRet s
  | .rep a len => Sys2Proof.Machine.execRep a len s
  | .reps a len => Sys2Proof.Machine.execReps a len s
  | .vadd d a b t m z => Sys2Proof.Machine.execVadd d a b t m z s
  | .vsub d a b t m z => Sys2Proof.Machine.execVsub d a b t m z s
  | .vadds d a b t m z => Sys2Proof.Machine.execVadds d a b t m z s
  | .vsubs d a b t m z => Sys2Proof.Machine.execVsubs d a b t m z s
  | .vmul d a b t m z => Sys2Proof.Machine.execVmul d a b t m z s
  | .vmulh d a b t m z => Sys2Proof.Machine.execVmulh d a b t m z s
  | .vmin d a b t m z => Sys2Proof.Machine.execVmin d a b t m z s
  | .vmax d a b t m z => Sys2Proof.Machine.execVmax d a b t m z s
  | .vand d a b t m z => Sys2Proof.Machine.execVand d a b t m z s
  | .vor d a b t m z => Sys2Proof.Machine.execVor d a b t m z s
  | .vxor d a b t m z => Sys2Proof.Machine.execVxor d a b t m z s
  | .vandn d a b t m z => Sys2Proof.Machine.execVandn d a b t m z s
  | .vshl d a b t m z => Sys2Proof.Machine.execVshl d a b t m z s
  | .vshr d a b t m z => Sys2Proof.Machine.execVshr d a b t m z s
  | .vabs d a t m z => Sys2Proof.Machine.execVabs d a t m z s
  | .vsplat d a t m z => Sys2Proof.Machine.execVsplat d a t m z s
  | .vaddFp d a b t m z => Sys2Proof.Machine.execVaddFp d a b t m z s
  | .vsubFp d a b t m z => Sys2Proof.Machine.execVsubFp d a b t m z s
  | .vmulFp d a b t m z => Sys2Proof.Machine.execVmulFp d a b t m z s
  | .vfma d a b t m z => Sys2Proof.Machine.execVfma d a b t m z s
  | .vdiv d a b t m z => Sys2Proof.Machine.execVdiv d a b t m z s
  | .vsqrt d a t m z => Sys2Proof.Machine.execVsqrt d a t m z s
  | .vminFp d a b t m z => Sys2Proof.Machine.execVminFp d a b t m z s
  | .vmaxFp d a b t m z => Sys2Proof.Machine.execVmaxFp d a b t m z s
  | .vabsFp d a t m z => Sys2Proof.Machine.execVabsFp d a t m z s
  | .vneg d a t m z => Sys2Proof.Machine.execVneg d a t m z s
  | .vcvt d a k q m z => Sys2Proof.Machine.execVcvt d a k q m z s
  | .vperm d a b w m z => Sys2Proof.Machine.execVperm d a b w m z s
  | .vcmprs d a w m => Sys2Proof.Machine.execVcmprs d a w m s
  | .vexpnd d a w m z => Sys2Proof.Machine.execVexpnd d a w m z s
  | .vslup d a b w m z => Sys2Proof.Machine.execVslup d a b w m z s
  | .vsldn d a b w m z => Sys2Proof.Machine.execVsldn d a b w m z s
  | .vbcst d a b w m z => Sys2Proof.Machine.execVbcst d a b w m z s
  | .vext d a b w => Sys2Proof.Machine.execVext d a b w s
  | .vins d a b w => Sys2Proof.Machine.execVins d a b w s
  | .viota d w m z => Sys2Proof.Machine.execViota d w m z s
  | .vraddInt d a t m => Sys2Proof.Machine.execVraddInt d a t m s
  | .vrminInt d a t m => Sys2Proof.Machine.execVrminInt d a t m s
  | .vrmaxInt d a t m => Sys2Proof.Machine.execVrmaxInt d a t m s
  | .vraddFp d a t m => Sys2Proof.Machine.execVraddFp d a t m s
  | .vrminFp d a t m => Sys2Proof.Machine.execVrminFp d a t m s
  | .vrmaxFp d a t m => Sys2Proof.Machine.execVrmaxFp d a t m s
  | .vrssq d a t m => Sys2Proof.Machine.execVrssq d a t m s
  | .vrcp d a t m z => Sys2Proof.Machine.execVrcp d a t m z s
  | .vrsqrt d a t m z => Sys2Proof.Machine.execVrsqrt d a t m z s
  | .vexp2 d a t m z => Sys2Proof.Machine.execVexp2 d a t m z s
  | .vlog2 d a t m z => Sys2Proof.Machine.execVlog2 d a t m z s
  | .vexp d a t m z => Sys2Proof.Machine.execVexp d a t m z s
  | .vlog d a t m z => Sys2Proof.Machine.execVlog d a t m z s
  | .vtanh d a t m z => Sys2Proof.Machine.execVtanh d a t m z s
  | .vsigm d a t m z => Sys2Proof.Machine.execVsigm d a t m z s
  | .vpmrg d a b m z => Sys2Proof.Machine.execVpmrg d a b m z s
  | .vpmrge d a b m z => Sys2Proof.Machine.execVpmrge d a b m z s
  | .vcmpeq d a b t m z => Sys2Proof.Machine.execVcmpeq d a b t m z s
  | .vcmpne d a b t m z => Sys2Proof.Machine.execVcmpne d a b t m z s
  | .vcmplt d a b t m z => Sys2Proof.Machine.execVcmplt d a b t m z s
  | .vcmple d a b t m z => Sys2Proof.Machine.execVcmple d a b t m z s
  | .vcmpgt d a b t m z => Sys2Proof.Machine.execVcmpgt d a b t m z s
  | .vcmpge d a b t m z => Sys2Proof.Machine.execVcmpge d a b t m z s
  | .pand d a b => Sys2Proof.Machine.execPand d a b s
  | .por d a b => Sys2Proof.Machine.execPor d a b s
  | .pxor d a b => Sys2Proof.Machine.execPxor d a b s
  | .pandn d a b => Sys2Proof.Machine.execPandn d a b s
  | .pnot d a => Sys2Proof.Machine.execPnot d a s
  | .pmovgp d a => Sys2Proof.Machine.execPmovgp d a s
  | .pmovpg d a => Sys2Proof.Machine.execPmovpg d a s
  | .vpcnt8 d a => Sys2Proof.Machine.execVpcnt8 d a s
  | .vpcnt16 d a => Sys2Proof.Machine.execVpcnt16 d a s
  | .vpcnt32 d a => Sys2Proof.Machine.execVpcnt32 d a s
  | .vpcnt64 d a => Sys2Proof.Machine.execVpcnt64 d a s
  | .vxsectN32 d a b m => Sys2Proof.Machine.execVxsectN32 d a b m s
  | .vxsectN64 d a b m => Sys2Proof.Machine.execVxsectN64 d a b m s
  | .send a b f sc o => Sys2Proof.Machine.execSend a b f sc o s
  | .sendv a b f sc o => Sys2Proof.Machine.execSendv a b f sc o s
  | .reply a b f sc o => Sys2Proof.Machine.execReply a b f sc o s
  | .pmsg a sc o => Sys2Proof.Machine.execPmsg a sc o s
  | .pcfg d a => Sys2Proof.Machine.execPcfg d a s
  | .pbind d a b => Sys2Proof.Machine.execPbind d a b s
  | .punbind d a => Sys2Proof.Machine.execPunbind d a s
  | .ppeek d a => Sys2Proof.Machine.execPpeek d a s
  | .park => Sys2Proof.Machine.execPark s
  | .exit => Sys2Proof.Machine.execExit s
  | .yield => Sys2Proof.Machine.execYield s
  | .spawn d a b => Sys2Proof.Machine.execSpawn d a b s
  | .spawnr d a b h => Sys2Proof.Machine.execSpawnr d a b h s
  | .migr a => Sys2Proof.Machine.execMigr a s
  | .hoopin d a => Sys2Proof.Machine.execHoopin d a s
  | .hoopout d => Sys2Proof.Machine.execHoopout d s
  | .kill d a => Sys2Proof.Machine.execKill d a s
  | .cinc a sc o => Sys2Proof.Machine.execCinc a sc o s
  | .cadd a b sc o => Sys2Proof.Machine.execCadd a b sc o s
  | .crdc d a sc o => Sys2Proof.Machine.execCrdc d a sc o s
  | .cwatch d a b => Sys2Proof.Machine.execCwatch d a b s
  | .tarm d a b => Sys2Proof.Machine.execTarm d a b s
  | .tdone d a sc o => Sys2Proof.Machine.execTdone d a sc o s
  | .take d w => Sys2Proof.Machine.execTake d w s
  | .steal d => Sys2Proof.Machine.execSteal d s
  | .tdisarm d a => Sys2Proof.Machine.execTdisarm d a s
  | .cpy d a l sc o => Sys2Proof.Machine.execCpy d a l sc o s
  | .cpym d a b l sc o => Sys2Proof.Machine.execCpym d a b l sc o s
  | .cpyc d a b l sc o => Sys2Proof.Machine.execCpyc d a b l sc o s
  | .cpbiBlk d a => Sys2Proof.Machine.execCpbiBlk d a s
  | .cpbiAll d => Sys2Proof.Machine.execCpbiAll d s
  | .cstat d a l => Sys2Proof.Machine.execCstat d a l s
  | .cstatStop d a l => Sys2Proof.Machine.execCstatStop d a l s
  | .scfg d a b => Sys2Proof.Machine.execScfg d a b s
  | .sclose d b => Sys2Proof.Machine.execSclose d b s
  | .sstat d b => Sys2Proof.Machine.execSstat d b s
  | .sstatBt d a b sc => Sys2Proof.Machine.execSstatBt d a b sc s
  | .sstatBw d a b => Sys2Proof.Machine.execSstatBw d a b s
  | .pwld d a b p sc o => Sys2Proof.Machine.execPwld d a b p sc o s
  | .pmma d a b p sc o => Sys2Proof.Machine.execPmma d a b p sc o s
  | .pstop d a p => Sys2Proof.Machine.execPstop d a p s
  | .pres d a b p sc o => Sys2Proof.Machine.execPres d a b p sc o s
  | .pstat d a p => Sys2Proof.Machine.execPstat d a p s
  | .pstatHl d p => Sys2Proof.Machine.execPstatHl d p s
  | .cdesc d a b => Sys2Proof.Machine.execCdesc d a b s
  | .cld d a sc o => Sys2Proof.Machine.execCld d a sc o s
  | .cldG d a sc o => Sys2Proof.Machine.execCldG d a sc o s
  | .cstg d a b sc o => Sys2Proof.Machine.execCstg d a b sc o s
  | .cstgG d a b sc o => Sys2Proof.Machine.execCstgG d a b sc o s
  | .cfnc d sc => Sys2Proof.Machine.execCfnc d sc s
  | .clean d a l u => Sys2Proof.Machine.execClean d a l u s
  | .inval d a c l u => Sys2Proof.Machine.execInval d a c l u s
  | .pref a t u => Sys2Proof.Machine.execPref a t u s
  | .orient d a o => Sys2Proof.Machine.execOrient d a o s
  | .dedupqSec d a => Sys2Proof.Machine.execDedupqSec d a s
  | .dedupqCnt d a => Sys2Proof.Machine.execDedupqCnt d a s
  | .tlbi d a b k => Sys2Proof.Machine.execTlbi d a b k s
  | .vflip d a => Sys2Proof.Machine.execVflip d a s
  | .vflipc d a b => Sys2Proof.Machine.execVflipc d a b s
  | .vpin d a => Sys2Proof.Machine.execVpin d a s
  | .vrd d sc w => Sys2Proof.Machine.execVrd d sc w s
  | .nop => Sys2Proof.Machine.execNop s
  | .trap c => Sys2Proof.Machine.execTrap c s
  | .eret => Sys2Proof.Machine.execEret s
  | .crd d im => Sys2Proof.Machine.execCrd d im s
  | .cwr a im => Sys2Proof.Machine.execCwr a im s
  | .snap d => Sys2Proof.Machine.execSnap d s
  | .erd d a => Sys2Proof.Machine.execErd d a s
  | .gate => Sys2Proof.Machine.execGate s
  | .hImm p => Sys2Proof.Machine.execHImm p s
  | .hSched l o => Sys2Proof.Machine.execHSched l o s
  | .hMod r n => Sys2Proof.Machine.execHMod r n s
  | .cspDataRead d => Sys2Proof.Machine.execCspDataRead d s
  | .cspDataWrite a => Sys2Proof.Machine.execCspDataWrite a s
  | .ebudWrite a => Sys2Proof.Machine.execEbudWrite a s
  | .aclr stack => Sys2Proof.Machine.execAclr stack s
  | .eclr stack => Sys2Proof.Machine.execEclr stack s
  | .go stack => Sys2Proof.Machine.execGo stack s
  | .quiescence stack q => Sys2Proof.Machine.execQuiescence stack q s
  | .quiesced stack => Sys2Proof.Machine.execQuiesced stack s
  | .hashChange stack => Sys2Proof.Machine.execHashChange stack s
  | .pcmaskWrite stack j value starter => Sys2Proof.Machine.execPcmaskWrite stack j value starter s
  | .caveRcfgWrite die rind value => Sys2Proof.Machine.execCaveRcfgWrite die rind value s
  | .snapshotRelease rind => Sys2Proof.Machine.execSnapshotRelease rind s
  | .launchWrite rind block => Sys2Proof.Machine.execLaunchWrite rind block s
  | .headWrite rind value => Sys2Proof.Machine.execHeadWrite rind value s
  | .registerWrite reg value => Sys2Proof.Machine.execRegisterWrite reg value s
  | .coldReset ok digests => Sys2Proof.Machine.execColdReset ok digests s
  | .powerGood image => Sys2Proof.Machine.execPowerGood image s
  | .snapshotPin => Sys2Proof.Machine.execSnapshotPin s
  | .snapshotLatch rind => Sys2Proof.Machine.execSnapshotLatch rind s
  | .thermalThrottle die tenths => Sys2Proof.Machine.execThermalThrottle die tenths s
  | .cxlMemAccess rind write addr data => Sys2Proof.Machine.execCxlMemAccess rind write addr data s
  | .launchRetry rind => Sys2Proof.Machine.execLaunchRetry rind s
  | .launchAdmission rind => Sys2Proof.Machine.execLaunchAdmission rind s
  | .startMessageResend n => Sys2Proof.Machine.execStartMessageResend n s
  | .launchEnd launch => Sys2Proof.Machine.execLaunchEnd launch s
  | .completionResend n => Sys2Proof.Machine.execCompletionResend n s
  | .messageArrival src => Sys2Proof.Machine.execMessageArrival src s
  | .patternFiring core => Sys2Proof.Machine.execPatternFiring core s
  | .fill src => Sys2Proof.Machine.execFill src s
  | .acknowledgement src => Sys2Proof.Machine.execAcknowledgement src s
  | .deferredTrap core => Sys2Proof.Machine.execDeferredTrap core s
  | .remoteWordAccess src => Sys2Proof.Machine.execRemoteWordAccess src s
  | .pageWalk core ctx va acc => Sys2Proof.Machine.execPageWalk core ctx va acc s
  | .codePageScan core va => Sys2Proof.Machine.execCodePageScan core va s
  | .arrivalPacket src => Sys2Proof.Machine.execArrivalPacket src s
  | .migration core ctx => Sys2Proof.Machine.execMigration core ctx s
  | .roamingSeat core slot => Sys2Proof.Machine.execRoamingSeat core slot s
  | .schedulerSelection core => Sys2Proof.Machine.execSchedulerSelection core s
  | .preemption core => Sys2Proof.Machine.execPreemption core s
  | .energyReport launch => Sys2Proof.Machine.execEnergyReport launch s
  | .demotion launch => Sys2Proof.Machine.execDemotion launch s
  | .gatedEntry core => Sys2Proof.Machine.execGatedEntry core s
  | .counterPost src => Sys2Proof.Machine.execCounterPost src s
  | .watchRequest src => Sys2Proof.Machine.execWatchRequest src s
  | .bitmapWatchRequest src => Sys2Proof.Machine.execBitmapWatchRequest src s
  | .watchResend core slot => Sys2Proof.Machine.execWatchResend core slot s
  | .hardwareResend n => Sys2Proof.Machine.execHardwareResend n s
  | .donePost src => Sys2Proof.Machine.execDonePost src s
  | .rackPlacement cluster => Sys2Proof.Machine.execRackPlacement cluster s
  | .ladleAccept cluster ladle cached => Sys2Proof.Machine.execLadleAccept cluster ladle cached s
  | .chunkComplete cluster ladle place chunk => Sys2Proof.Machine.execChunkComplete cluster ladle place chunk s
  | .ladleCompletion cluster ladle place => Sys2Proof.Machine.execLadleCompletion cluster ladle place s
  | .followOnResend cluster ladle place => Sys2Proof.Machine.execFollowOnResend cluster ladle place s
  | .streamRefill core slot => Sys2Proof.Machine.execStreamRefill core slot s
  | .streamDrain core slot => Sys2Proof.Machine.execStreamDrain core slot s
  | .pressAccept cluster press => Sys2Proof.Machine.execPressAccept cluster press s
  | .bankLoad cluster press => Sys2Proof.Machine.execBankLoad cluster press s
  | .kBlock cluster press defect => Sys2Proof.Machine.execKBlock cluster press defect s
  | .pressCompletion cluster press => Sys2Proof.Machine.execPressCompletion cluster press s
  | .harpAccept cluster => Sys2Proof.Machine.execHarpAccept cluster s
  | .sliceRequest cluster cmd factor => Sys2Proof.Machine.execSliceRequest cluster cmd factor s
  | .harpCompletion cluster cmd => Sys2Proof.Machine.execHarpCompletion cluster cmd s
  | .caveHash die => Sys2Proof.Machine.execCaveHash die s
  | .patrolScrub pa found => Sys2Proof.Machine.execPatrolScrub pa found s
  | .channelCopyComplete stack => Sys2Proof.Machine.execChannelCopyComplete stack s
  | .cavePatrol die bank index found => Sys2Proof.Machine.execCavePatrol die bank index found s
  | .laneDrop port => Sys2Proof.Machine.execLaneDrop port s
  | .coreRetirement core checker => Sys2Proof.Machine.execCoreRetirement core checker s
  | .spareRun core => Sys2Proof.Machine.execSpareRun core s
  | .snapshotRequest mask => Sys2Proof.Machine.execSnapshotRequest mask s
  | .timestamp ts => Sys2Proof.Machine.execTimestamp ts s
  | .routeUpdate port node ports => Sys2Proof.Machine.execRouteUpdate port node ports s
  | .eventRead mask n => Sys2Proof.Machine.execEventRead mask n s
  | .mgmtSnapshot mask => Sys2Proof.Machine.execMgmtSnapshot mask s
  | .mgmtRelease mask => Sys2Proof.Machine.execMgmtRelease mask s
  | .powerQuery => Sys2Proof.Machine.execPowerQuery s
  | .rindReset mask => Sys2Proof.Machine.execRindReset mask s
  | .attestation index => Sys2Proof.Machine.execAttestation index s
  | .flitReplay port seq => Sys2Proof.Machine.execFlitReplay port seq s
  | .cxlCacheSnoop line inval data => Sys2Proof.Machine.execCxlCacheSnoop line inval data s
  | .hostLinkRecovery => Sys2Proof.Machine.execHostLinkRecovery s
  | .pldmFirmwareUpdate ok digests => Sys2Proof.Machine.execPldmFirmwareUpdate ok digests s
  | .pldmMonitoring => Sys2Proof.Machine.execPldmMonitoring s

end Sys2Proof.Machine
end

