-- ==== Sys2Proof/Machine/Fetch.lean ====
section
/-!
DEFINITION. What the step does around an instruction: fetching (R27, R57 to R61, R111), deferred traps at the
instruction boundary (R382), the passing of time, and the physical faults that strike.
-/

namespace Sys2Proof.Machine

/-- A row of the opcode table that is a step of its own: it has no encoding, and it is not a case of CRD or CWR. -/
def isEvent (i : Instr) : Bool :=
  (encodeNat i).isNone && (match i with
    | .cspDataRead _ => false
    | .cspDataWrite _ => false
    | .ebudWrite _ => false
    | _ => true)

/-- A line entered in a core's instruction cache; a victim chosen freely leaves a full set of four ways (R137; log 7). -/
def l1iInsert (s : State) (cn line : Nat) (d : BitVec 1024) : State :=
  let same := s.l1i.filter (fun e => e.1 % 2048 == cn && e.1 / 2048 % 64 == line % 64)
  let t := if same.length < 4 then s.l1i
    else match same[Config.choice 10 s.tick % same.length]? with
      | some e => tdel s.l1i e.1
      | none => s.l1i
  { s with l1i := tput t (l1Key cn line) (newLine (some d) {}) }

/-- A code line as its home gives it, in the view of its sector's bit (R151), or another node (R64, R137). -/
def homeCode (s : State) (r : Req) (x : Xl) : State × Code :=
  if isLocal s x.pa then
    let base := paLocal x.pa / 128 * 128
    let via : Via := { nalloc := true, launch := r.launch, plain := x.pkind == 0 }
    if padRefuses s r.core base 64 false || padRefuses s r.core (base + 64) 64 false then (countNack s base, .fault 0x31)
    else match homeBytes s x.home base 128 (caveHolds base && colBit s (clusterDie (coreCluster x.home)) base) via with
      | (s, none) => (s, .fault 0x0E)
      | (s, some bs) => (s, .bytes bs)
  else
    let h := x.pa / 128 * 2
    match codeHalves s r [h, h + 1] with
    | (s, .bytes bs) => (dropCode s r h 2, .bytes bs)
    | y => y

/-- A code line through the instruction cache and the L2, which keep copies of it (R137); an L2 keeps none of a column
sector (R152). -/
def codeLine (s : State) (r : Req) (x : Xl) : State × Except NoFetch (BitVec 1024) :=
  let cl := coreCluster r.core
  let line := replLine s x.pa
  match (tfind s.l1i (l1Key r.core line)).bind Line.copy with
  | some d => (s, .ok d)
  | none => match l2Copy s cl line with
    | some d => (l1iInsert s r.core line d, .ok d)
    | none => match homeCode s r x with
      | (s, .fault c) => (s, .error (.fault c x.va))
      | (s, .asked) => (s, .error .waiting)
      | (s, .bytes bs) =>
        let d : BitVec 1024 := ofBytes 1024 bs
        let own := isLocal s x.pa && coreCluster x.home == cl
        let col := isLocal s x.pa && colBit s (clusterDie (coreCluster x.home)) (paLocal x.pa)
        let s := if col then s
          else l2Insert s cl line (if own then none else some d) {} { launch := r.launch, plain := x.pkind == 0 }
        (l1iInsert s r.core line d, .ok d)

/-- A fetch block fetched through the translation (R27, R57 to R60): its eight words. -/
def fetchBlock (s : State) (k : Nat) : State × Except NoFetch (List Word) :=
  let r := ctxReq s k
  match translateFetch s r (getCtx s k).pc with
  | (s, .error n) => (s, .error n)
  | (s, .ok x) => match codeLine s r x with
    | (s, .error n) => (s, .error n)
    | (s, .ok d) => (s, .ok ((List.range 8).map (fun j => fld d (8 * (x.pa % 128 / 32 * 32 + 4 * j)) 32)))

/-- The instruction word that a core executes next: from the fetch block in execution, while it may (R111), or from a new
block (R27). -/
def fetchWord (s : State) (k : Nat) : State × Except NoFetch Word :=
  let cn := ctxCore k
  let c := getCtx s k
  let base := c.pc &&& ~~~31#64
  let i := fldN c.pc 2 3
  let fresh : State × Except NoFetch Word :=
    match fetchBlock s k with
    | (s, .error n) => (s, .error n)
    | (s, .ok ws) => (modCore s cn (fun x => { x with block := some (base, ws), left := none }), .ok (ws.getD i 0))
  match (getCore s cn).block with
  | some (b, ws) =>
    if b = base ∧ (getCore s cn).left ≠ some 0 then
      (modCore s cn (fun x => { x with left := x.left.map (fun n => n - 1) }), .ok (ws.getD i 0))
    else fresh
  | none => fresh

/-- A word that is no instruction, on a page marked scanned whose contents software has changed (R61): what it does is a free
choice among what the context's own instructions could do, and nothing but the advance of the pc among those. -/
def strayWord (s : State) : Host.Outcome State Fault Refusal :=
  let nop := issue s {} (fun s _ => (s, .next))
  match decodeWord (fld (Config.freeVec 46 s.tick) 0 32) with
  | .error _ => nop
  | .ok i => if (loopLength i).isSome then nop else match i with
    | .hImm .. => nop
    | .hSched .. => nop
    | .hMod .. => nop
    | _ => exec i s

/-- One turn of a core: a waiting refusal is taken as its trap (R382), the running context is pre-empted where that is due (R386),
or its next instruction is fetched, decoded and executed. -/
def coreTurn (s : State) (cn : Nat) : Host.Outcome State Fault Refusal :=
  if (getCore s cn).off then .next s
  else match (getCore s cn).running with
    | none => .next s
    | some k =>
      let c := getCtx s k
      if c.act ≠ .running then .next s
      else if c.hint.isNone && deferredReady s k then .next (takeDeferred s k)
      else if preemptDue s cn k then .next (yieldCtx s k)
      else match fetchWord { s with me := k } k with
        | (s, .error (.fault code ea)) =>
          .next (takeTrap s k { code := code, acc := if causeHasAcc code then accCode .fetch else 0, eaddr := ea } (resumeAddr c))
        | (s, .error .waiting) => .next (yieldSlot s k)
        | (s, .ok w) =>
          match decodeWord w with
          | .error _ => strayWord s
          | .ok i => exec i s

/-- A line with one more 8-byte group that no longer corrects. -/
def Line.strike (l : Line) (group : Nat) : Line := { l with bad := (l.bad ++ [group % 16]).eraseDups }

/-- A physical fault strikes (R86, R141, R389). -/
def applyStrike (s : State) (d : Strike) : State :=
  match d with
  | .memory half => { strikeHalf s half with badMem := (s.badMem ++ [half]).eraseDups }
  | .soft half => { strikeHalf s half with softMem := (s.softMem ++ [half]).eraseDups }
  | .pad group => { s with badMem := (s.badMem ++ [2 ^ 60 + group]).eraseDups }
  | .l1 cn line group => modL1 s cn line (fun l => l.strike group)
  | .l2 cl line group => modL2 s cl line (fun l => l.strike group)
  | .code cn line group => match tfind s.l1i (l1Key cn line) with
    | some l => { s with l1i := tput s.l1i (l1Key cn line) (l.strike group) }
    | none => s
  | .cave die e row => modCave s die (fun c => match tfind c.entries e with
    | some x => { c with entries := tput c.entries e { x with bad := (x.bad ++ [row % 32]).eraseDups } }
    | none => c)
  | .register k r => if s.badReg.contains (k, r) then s else { s with badReg := s.badReg ++ [(k, r)] }
  | .corrected k => modCore s (ctxCore k) (fun c => { c with ce := (c.ce + 1) % 2 ^ 32 })

/-- n core cycles counted at the cores of every Rind (R374): a running context's cycles are its launch's, an
idle core's the Rind's, and a gated core counts nothing. -/
def chargeCycles (s : State) (n : Nat) : State :=
  (s.clusters.filter (fun e => e.2.rind.isSome)).foldl (fun s e =>
    let rind := e.2.rind.getD 0
    (List.range 8).foldl (fun s i =>
      let cn := 8 * e.1 + i
      let c := getCore s cn
      if c.off then s
      else match c.running with
        | some k => countEnergy s (unitKey 0 cn) 0 n rind (getCtx s k).launch
        | none => if c.gateState = 2 then s else countEnergy s (unitKey 0 cn) 1 n rind none) s) s

/-- The dies' skews after n nanoseconds: free, within the 2 ns of R395, and no die's time runs back. -/
def newSkew (s : State) (n : Nat) : Tab Nat :=
  (List.range 4).map (fun d => (d, max (tget 0 s.skew d - n) (Config.choice (104 + d) s.tick % 3)))

/-- Time passes after a step, and the next agent is chosen: the core whose hint waits for its target, else as
the schedule has it (R53, R395, R423; log 1, log 6). -/
def advance (s : State) : State :=
  let n := 1 + Config.elapsed s.tick
  let s := chargeCycles (latchDue s n) n
  let pair : Option Nat := match s.turn with
    | .issue cn => ((getCore s cn).running.bind (fun k => if (getCtx s k).hint.isSome then some cn else none))
    | _ => none
  { s with
    turn := match pair with
      | some cn => .issue cn
      | none => (Config.schedule s.tick).getD .first
    tick := s.tick + 1
    cycle := s.cycle + n
    ts := s.ts + BitVec.ofNat 64 (Config.nanoseconds s.tick)
    skew := newSkew s (Config.nanoseconds s.tick) }

/-- What the agent whose turn it is does. -/
def agentTurn (s : State) : Host.Outcome State Fault Refusal :=
  match s.turn with
  | .issue cn => coreTurn s cn
  | .event i => if isEvent i then exec i s else .next s
  | .strike d => .next (applyStrike s d)
  | .outside a => execOutside a s

/-- The state with an instruction where the acting core's context fetches next: the fetch block in execution of
core 0, with context 0 running and neither a refusal nor a pre-emption due, and the bytes under its pc. -/
def placeWord (s : State) (w : Word) : State :=
  let k := 0
  let c := getCtx s k
  let i := fldN c.pc 2 3
  let base := c.pc &&& ~~~31#64
  let ws := (List.range 8).map (fun j => if j = i then w else (0 : Word))
  let s := setCtx s k { c with act := .running, hint := none, deferred := [], selected := s.cycle, st := stBit c.st 4 false }
  let s := modCore s 0 (fun x => { x with running := some k, off := false, block := some (base, ws), left := none })
  { s with turn := .issue 0 }

end Sys2Proof.Machine
end

