-- ==== Sys2Proof/Machine/Step.lean ====
section
/-!
DEFINITION. One step of the package: one agent acts, and time passes.
-/

namespace Sys2Proof.Machine

/-- One step. One that needs the storage of a quiescent stack is held: nothing but time passes, and it is tried again (R71). -/
def step (s : State) : Host.Outcome State Fault Refusal :=
  match agentTurn s with
  | .next t => .next (advance (if t.stalled then s else t))
  | .fault r => .fault r
  | .refused r => .refused r

/-- The state whose next step fetches and executes the given instruction word (log 5). -/
def State.withFetchWord (s : State) (nbits w : Nat) : State :=
  placeWord s (BitVec.ofNat 32 (w % 2 ^ nbits))

end Sys2Proof.Machine
end

