-- ==== Sys2Proof/Safety.lean ====
section
/-!
DEFINITION. What a safe run is, and the terms that claims use: when nothing stops an instruction from issuing, what a
completed instruction leaves as it was, and the invariant that every step keeps.
-/

namespace Sys2Proof.Machine

/-- The step neither faults nor lacks a meaning. -/
def completes (o : Host.Outcome State Fault Refusal) : Prop := ∃ t, o = .next t

/-- Every one of the first n steps from a state completes. -/
def safeRun : Nat → State → Prop
  | 0, _ => True
  | n + 1, s => ∃ t, step s = .next t ∧ safeRun n t

/-- The context whose instruction executes. -/
abbrev actor (s : State) : Ctx := getCtx s s.me

/-- Nothing keeps the acting context from issuing an instruction that names the registers rs (numbered as R40 does, p(i)
as 64 + i): a roaming context may name them (R35), they are full (R42), none is in stream mode (R199, R200), and they
and the loop registers are correct (R389). -/
structure Ready (s : State) (rs : List Nat) : Prop where
  roams : stRoam (actor s).st = true → ∀ r ∈ rs, r ≤ 6
  full : ∀ r ∈ rs, r < 64 → (actor s).isEmpty r = false
  plain : ∀ r ∈ rs, 32 ≤ r → r < 64 → streamSlot s s.me (r - 32) = none
  sound : ∀ r ∈ rs, s.badReg.contains (s.me, r) = false
  loops : ∀ r, loopReg r = true → s.badReg.contains (s.me, r) = false

/-- Every byte reads as before. -/
def SameBytes (s t : State) : Prop := ∀ a, readByte t a = readByte s a

/-- The two states differ in nothing but the acting context, the codes of registers written whole (R389), and the
energy counts of the Rinds and launches (R374). -/
structure OnlyActor (s t : State) (ws : List Nat) : Prop where
  ctxs : ∀ k, k ≠ s.me → getCtx t k = getCtx s k
  codes : ∀ e, e ∈ t.badReg ↔ e ∈ s.badReg ∧ ¬ (e.1 = s.me ∧ e.2 ∈ ws)
  rinds : ∀ r, { getRind t r with energy := (getRind s r).energy } = getRind s r
  launches : ∀ l, (getLaunch t l).map (fun x => { x with energy := 0 })
    = (getLaunch s l).map (fun x => { x with energy := 0 })
  bytes : SameBytes s t
  world : { t with ctxs := s.ctxs, badReg := s.badReg, rinds := s.rinds, launches := s.launches } = s

/-- A completed instruction that wrote the registers ws of the acting context and nothing else: every other register,
every full/empty bit, st and every control register but loop.cnt are as before, and so is the rest of the machine. The
pc and loop.cnt are those of R247, which other clauses give. -/
structure OnlyRegs (s t : State) (ws : List Nat) : Prop where
  g : ∀ r, r < 32 → r ∉ ws → (actor t).readG r = (actor s).readG r
  v : ∀ r, 32 + r ∉ ws → (actor t).readV r = (actor s).readV r
  p : ∀ r, 64 + r ∉ ws → (actor t).readP r = (actor s).readP r
  rest : { actor t with
      g := (actor s).g, v := (actor s).v, p := (actor s).p, pc := (actor s).pc, loopCnt := (actor s).loopCnt,
      hint := (actor s).hint, trail := (actor s).trail, got := (actor s).got, walked := (actor s).walked,
      asks := (actor s).asks } = actor s
  world : OnlyActor s t ws

/-- The word of a context ends the body of a loop that runs: it stands at loop.end, iterations are left, and st.trap is
loop.tr (R247). -/
abbrev EndsBody (c : Ctx) : Prop := c.pc = c.loopEnd ∧ c.loopCnt ≠ 0 ∧ stTrap c.st = c.loopLen.getLsbD 10

/-- The pc and loop.cnt that the word of a context leaves when it takes no transfer (R247): at the end of a loop body the
count goes down and the body starts again at loop.end − 4 × loop.len + 4, or the last iteration falls through; elsewhere the
next word follows. -/
structure LoopStep (c : Ctx) (pc cnt : Dword) : Prop where
  again : EndsBody c → 1 < c.loopCnt.toNat →
    cnt = c.loopCnt - 1 ∧ pc = c.loopEnd - BitVec.ofNat 64 (4 * (c.loopLen.toNat % 2 ^ 10)) + 4
  last : EndsBody c → c.loopCnt.toNat ≤ 1 → cnt = 0 ∧ pc = c.loopEnd + 4
  plain : ¬ EndsBody c → cnt = c.loopCnt ∧ pc = c.pc + 4

/-- The pc and loop.cnt after an instruction that takes no transfer (R247); no hint stands before the next word. -/
def FallsThrough (s t : State) : Prop := LoopStep (actor s) (actor t).pc (actor t).loopCnt ∧ (actor t).hint = none

/-- The invariant that every step keeps: the stored bytes are in the canonical form, and the bytes above them rise by
address. -/
structure MemInv (s : State) : Prop where
  stored : Memory.wf s.mem = true
  cave : tsorted s.cav = true
  top : tsorted s.top = true

end Sys2Proof.Machine
end

