-- ==== Sys2Proof/Certificates/Slice0/Obligations.lean ====
section
/-!
DEFINITION. The statements about the model, each a Prop. Rules.* are the tables of the spec that several statements
share, written with exact arithmetic on integers and naturals where the spec writes it so.
-/

open Sys2Proof Sys2Proof.Machine

namespace Sys2Proof.Rules

/-- An exact result taken modulo 2^64, or modulo 2^32 and sign-extended when w = 1 (R237, R238). -/
def narrow (w : BitVec 1) (z : Int) : Dword := if w = 1 then (BitVec.ofInt 32 z).signExtend 64 else BitVec.ofInt 64 z

/-- x or y as a signed integer at the operation's width (R238). -/
def sOf (w : BitVec 1) (x : Dword) : Int := if w = 1 then (x.setWidth 32).toInt else x.toInt

/-- x or y as an unsigned integer at the operation's width (R238). -/
def uOf (w : BitVec 1) (x : Dword) : Nat := if w = 1 then x.toNat % 2 ^ 32 else x.toNat

/-- The operation's width (R238). -/
def wd (w : BitVec 1) : Nat := if w = 1 then 32 else 64

/-- The three shifts of R238 by an amount. -/
def shl (w : BitVec 1) (x : Dword) (amt : Nat) : Dword := narrow w ((uOf w x * 2 ^ amt : Nat) : Int)
def shr (w : BitVec 1) (x : Dword) (amt : Nat) : Dword := narrow w ((uOf w x / 2 ^ amt : Nat) : Int)
def sar (w : BitVec 1) (x : Dword) (amt : Nat) : Dword := narrow w (sOf w x / 2 ^ amt)

/-- Bits 7:0 of g[b] (R238). -/
def amt (y : Dword) : Nat := y.toNat % 256

/-- The instructions of INTR on two registers: d, a, b and the value that g[d] takes (R237 to R239). -/
def intr : Instr → Option (BitVec 5 × BitVec 5 × BitVec 5 × (Dword → Dword → Dword))
  | .add d a b w => some (d, a, b, fun x y => narrow w (x.toInt + y.toInt))
  | .sub d a b w => some (d, a, b, fun x y => narrow w (x.toInt - y.toInt))
  | .and d a b => some (d, a, b, fun x y => x &&& y)
  | .or d a b => some (d, a, b, fun x y => x ||| y)
  | .xor d a b => some (d, a, b, fun x y => x ^^^ y)
  | .andn d a b => some (d, a, b, fun x y => x &&& ~~~y)
  | .shl d a b w => some (d, a, b, fun x y => shl w x (amt y))
  | .shr d a b w => some (d, a, b, fun x y => shr w x (amt y))
  | .sar d a b w => some (d, a, b, fun x y => sar w x (amt y))
  | .slt d a b => some (d, a, b, fun x y => if x.toInt < y.toInt then 1 else 0)
  | .sltn d a b => some (d, a, b, fun x y => if x.toNat < y.toNat then 1 else 0)
  | .min d a b => some (d, a, b, fun x y => if x.toInt ≤ y.toInt then x else y)
  | .max d a b => some (d, a, b, fun x y => if x.toInt ≤ y.toInt then y else x)
  | .minn d a b => some (d, a, b, fun x y => if x.toNat ≤ y.toNat then x else y)
  | .maxn d a b => some (d, a, b, fun x y => if x.toNat ≤ y.toNat then y else x)
  | .mul d a b w => some (d, a, b, fun x y => narrow w (x.toInt * y.toInt))
  | .mulh d a b => some (d, a, b, fun x y => narrow 0 (x.toInt * y.toInt / 2 ^ 64))
  | .mulhn d a b => some (d, a, b, fun x y => narrow 0 ((x.toNat * y.toNat / 2 ^ 64 : Nat) : Int))
  | .div d a b w => some (d, a, b, fun x y => if sOf w y = 0 then narrow w (-1) else narrow w ((sOf w x).tdiv (sOf w y)))
  | .divn d a b w => some (d, a, b, fun x y => if uOf w y = 0 then narrow w (-1) else narrow w ((uOf w x / uOf w y : Nat) : Int))
  | .rem d a b w => some (d, a, b, fun x y => if sOf w y = 0 then narrow w (sOf w x) else narrow w ((sOf w x).tmod (sOf w y)))
  | .remn d a b w => some (d, a, b, fun x y => narrow w ((uOf w x % uOf w y : Nat) : Int))
  | _ => none

/-- Zero bits above the highest one bit, below the lowest, and one bits (R237). -/
def leading (x : Dword) : Nat := 64 - x.toNat.size
def trailing (x : Dword) : Nat := ((List.range 64).find? (fun i => x.getLsbD i)).getD 64
def ones (x : Dword) : Nat := (List.range 64).countP (fun i => x.getLsbD i)

/-- The instructions on one register: the members of INTR with b = 0, and SHI (R237, R238, R241). -/
def one : Instr → Option (BitVec 5 × BitVec 5 × (Dword → Dword))
  | .clz d a => some (d, a, fun x => BitVec.ofNat 64 (leading x))
  | .ctz d a => some (d, a, fun x => BitVec.ofNat 64 (trailing x))
  | .popc d a => some (d, a, fun x => BitVec.ofNat 64 (ones x))
  | .shli d a m => some (d, a, fun x => shl 0 x m.toNat)
  | .shri d a m => some (d, a, fun x => shr 0 x m.toNat)
  | .sari d a m => some (d, a, fun x => sar 0 x m.toNat)
  | .shliW d a m => some (d, a, fun x => shl 1 x m.toNat)
  | .shriW d a m => some (d, a, fun x => shr 1 x m.toNat)
  | .sariW d a m => some (d, a, fun x => sar 1 x m.toNat)
  | _ => none

/-- The payload of an H.IMM that stands before the word, none without one (R49). -/
def joined (c : Ctx) : Option (BitVec 23) :=
  match c.hint with
  | some (_, .hImm p) => some p
  | _ => none

/-- An immediate of n bits below the payload, as a signed and as an unsigned number (R49). -/
def immI (c : Ctx) {n : Nat} (i : BitVec n) : Int :=
  match joined c with
  | some p => (p ++ i).toInt
  | none => i.toInt
def immN (c : Ctx) {n : Nat} (i : BitVec n) : Nat :=
  match joined c with
  | some p => p.toNat * 2 ^ n + i.toNat
  | none => i.toNat

/-- The I-format instructions of R240 and LHI of R242: d, the registers read, and the value of g[d]. -/
def imm (c : Ctx) : Instr → Option (BitVec 5 × List Nat × Dword)
  | .addi d a i => some (d, [a.toNat], BitVec.ofInt 64 ((c.readG a.toNat).toInt + immI c i))
  | .andi d a i => some (d, [a.toNat], c.readG a.toNat &&& BitVec.ofNat 64 (immN c i))
  | .ori d a i => some (d, [a.toNat], c.readG a.toNat ||| BitVec.ofNat 64 (immN c i))
  | .xori d a i => some (d, [a.toNat], c.readG a.toNat ^^^ BitVec.ofNat 64 (immN c i))
  | .slti d a i => some (d, [a.toNat], if (c.readG a.toNat).toInt < immI c i then 1 else 0)
  | .sltin d a i => some (d, [a.toNat], if (c.readG a.toNat).toNat < immN c i then 1 else 0)
  | .addpc d i => some (d, [], BitVec.ofInt 64 (c.pc.toNat + immI c i))
  | .lhi d q i => some (d, [d.toNat], BitVec.ofNat 64 ((c.readG d.toNat).toNat - (c.readG d.toNat).toNat / 2 ^ (16 * q.toNat) % 2 ^ 16 * 2 ^ (16 * q.toNat)
      + i.toNat * 2 ^ (16 * q.toNat)))
  | _ => none

end Sys2Proof.Rules

/-- R237 to R239: g[d] of every INTR instruction on two registers, with everything else unchanged; with d = 0 nothing is
written. -/
def Sys2Proof.Rules.IntrWritesResult : Prop :=
  ∀ (i : Instr) (d a b : BitVec 5) (f : Dword → Dword → Dword) (s : State),
    Rules.intr i = some (d, a, b, f) → Ready s [a.toNat, b.toNat, d.toNat] →
    ∃ t, exec i s = .next t
      ∧ (actor t).readG d.toNat = (if d = 0 then 0 else f ((actor s).readG a.toNat) ((actor s).readG b.toNat))
      ∧ FallsThrough s t ∧ OnlyRegs s t [d.toNat]

/-- R237, R238, R241: g[d] of CLZ, CTZ, POPC and the SHI shifts, with everything else unchanged. -/
def Sys2Proof.Rules.OneSourceWritesResult : Prop :=
  ∀ (i : Instr) (d a : BitVec 5) (f : Dword → Dword) (s : State),
    Rules.one i = some (d, a, f) → Ready s [a.toNat, d.toNat] →
    ∃ t, exec i s = .next t
      ∧ (actor t).readG d.toNat = (if d = 0 then 0 else f ((actor s).readG a.toNat))
      ∧ FallsThrough s t ∧ OnlyRegs s t [d.toNat]

/-- R240, R242, R49: g[d] of the I-format instructions and of LHI, with or without an H.IMM before the word. -/
def Sys2Proof.Rules.ImmediateWritesResult : Prop :=
  ∀ (i : Instr) (d : BitVec 5) (rs : List Nat) (x : Dword) (s : State),
    Rules.imm (actor s) i = some (d, rs, x) → Ready s (d.toNat :: rs) →
    ∃ t, exec i s = .next t
      ∧ (actor t).readG d.toNat = (if d = 0 then 0 else x)
      ∧ FallsThrough s t ∧ OnlyRegs s t [d.toNat]

/-- R237 to R242, R49: g[d] of every instruction of INTR, SHI and the I format and of LHI, with everything else unchanged. -/
def Obligations.ScalarResults : Prop := Sys2Proof.Rules.IntrWritesResult ∧ Sys2Proof.Rules.OneSourceWritesResult ∧ Sys2Proof.Rules.ImmediateWritesResult

namespace Sys2Proof.Rules

/-- Where an instruction that did not complete issues again: at its hint when one stands before it (R42, R53, R379). -/
def again (c : Ctx) : Dword :=
  match c.hint with
  | some (a, _) => a
  | none => c.pc

/-- A target counted in words from the word's own address (R32, R243, R244). -/
def target (c : Ctx) (off : Int) : Dword := BitVec.ofInt 64 (c.pc.toNat + off * 4)

/-- The conditional branches that read a register: it, the offset, and whether the branch is taken (R243). -/
def branch : Instr → Option (BitVec 5 × BitVec 16 × (Dword → Bool))
  | .beqz a o => some (a, o, fun x => x.toInt = 0)
  | .bnez a o => some (a, o, fun x => x.toInt ≠ 0)
  | .bltz a o => some (a, o, fun x => x.toInt < 0)
  | .bgez a o => some (a, o, fun x => 0 ≤ x.toInt)
  | .bgtz a o => some (a, o, fun x => 0 < x.toInt)
  | .blez a o => some (a, o, fun x => x.toInt ≤ 0)
  | .br o => some (0, o, fun _ => true)
  | .bodd a o => some (a, o, fun x => x.toNat % 2 = 1)
  | .bevn a o => some (a, o, fun x => x.toNat % 2 = 0)
  | _ => none

/-- The branches on a full/empty bit (R243): the register, the offset, and whether the branch is taken when it is empty. -/
def branchBit : Instr → Option (BitVec 5 × BitVec 16 × Bool)
  | .bemp a o => some (a, o, true)
  | .bful a o => some (a, o, false)
  | _ => none

/-- The jumps: the registers read, whether g31 takes the address of the next word, and the target (R244). -/
def jump (c : Ctx) : Instr → Option (List Nat × Bool × Dword)
  | .jmp o => some ([], false, target c o.toInt)
  | .call o => some ([], true, target c o.toInt)
  | .jr a => some ([a.toNat], false, c.readG a.toNat)
  | .callr a => some ([a.toNat], true, c.readG a.toNat)
  | .ret => some ([31], false, c.readG 31)
  | _ => none

/-- Whether an address lies in the body of the loop that the loop registers name (R247). -/
def inBody (c : Ctx) (a : Dword) : Prop :=
  (c.loopEnd - BitVec.ofNat 64 (4 * (c.loopLen.toNat % 1024)) + 4).toNat ≤ a.toNat ∧ a.toNat ≤ c.loopEnd.toNat

/-- loop.cnt after a transfer to a target: 0 when it leaves the body of the active loop, else unchanged (R247). -/
def loopAfter (c : Ctx) (dest : Dword) (cnt : Dword) : Prop :=
  ((stTrap c.st = c.loopLen.getLsbD 10 ∧ inBody c c.pc ∧ ¬ inBody c dest) → cnt = 0)
    ∧ (¬ (stTrap c.st = c.loopLen.getLsbD 10 ∧ inBody c c.pc ∧ ¬ inBody c dest) → cnt = c.loopCnt)

/-- The LOOP words: the trip count and the body length, for an open stream of the register where REPS names one
(R203, R208, R247). -/
def loop (s : State) : Instr → Option (List Nat × Dword × Nat)
  | .rep a l => some ([a.toNat], (actor s).readG a.toNat, l.toNat)
  | .reps a l => ((streamSlot s s.me a.toNat).bind (tfind s.streams)).map (fun t =>
      ([], BitVec.ofNat 64 (streamCount t.desc - t.pos), l.toNat))
  | _ => none

end Sys2Proof.Rules

/-- R243, R247: a branch goes to its target when its test holds and to the next word otherwise; nothing but pc and loop.cnt
changes. BEMP and BFUL test the full/empty bit of g[a], which they do not test under R42. -/
def Obligations.BranchGoesWhereTheTestSays : Prop :=
  (∀ (i : Instr) (a : BitVec 5) (o : BitVec 16) (test : Dword → Bool) (s : State),
    Rules.branch i = some (a, o, test) → Ready s [a.toNat] →
    ∃ t, exec i s = .next t ∧ OnlyRegs s t []
      ∧ (test ((actor s).readG a.toNat) = true →
          (actor t).pc = Rules.target (actor s) (Rules.immI (actor s) o)
            ∧ Rules.loopAfter (actor s) (Rules.target (actor s) (Rules.immI (actor s) o)) (actor t).loopCnt)
      ∧ (test ((actor s).readG a.toNat) = false → FallsThrough s t))
  ∧ (∀ (i : Instr) (a : BitVec 5) (o : BitVec 16) (want : Bool) (s : State),
    Rules.branchBit i = some (a, o, want) → Ready s [] → (stRoam (actor s).st = true → a.toNat ≤ 6) →
    ∃ t, exec i s = .next t ∧ OnlyRegs s t []
      ∧ ((actor s).isEmpty a.toNat = want →
          (actor t).pc = Rules.target (actor s) (Rules.immI (actor s) o)
            ∧ Rules.loopAfter (actor s) (Rules.target (actor s) (Rules.immI (actor s) o)) (actor t).loopCnt)
      ∧ ((actor s).isEmpty a.toNat ≠ want → FallsThrough s t))

/-- R26, R244, R247: the jumps and calls. CALLR reads its register before g31 is written. A register's value with bits 1:0
nonzero is no target: JR, CALLR and RET then take the misaligned-fetch trap, with the address in eaddr, and do nothing else. -/
def Obligations.JumpsAndCallsTransfer : Prop :=
  (∀ (i : Instr) (rs : List Nat) (link : Bool) (dest : Dword) (s : State),
    Rules.jump (actor s) i = some (rs, link, dest) → dest.toNat % 4 = 0 ∨ rs = [] → Ready s (if link then 31 :: rs else rs) →
    ∃ t, exec i s = .next t ∧ (actor t).pc = dest
      ∧ (link = true → (actor t).readG 31 = (actor s).pc + 4)
      ∧ Rules.loopAfter (actor s) dest (actor t).loopCnt
      ∧ OnlyRegs s t (if link then [31] else []))
  ∧ ∀ (i : Instr) (rs : List Nat) (link : Bool) (dest : Dword) (s : State),
    Rules.jump (actor s) i = some (rs, link, dest) → rs ≠ [] → dest.toNat % 4 ≠ 0 → Ready s (if link then 31 :: rs else rs) →
    exec i s = .next (takeTrap s s.me { code := 0x01, eaddr := dest } (Rules.again (actor s)))

/-- R247: REP and REPS outside a loop start one of n iterations, or skip the body when n = 0; in an active loop they take the
illegal-loop trap with the word's address in eaddr. A NOP that is the last word of a body starts the next iteration, or falls
through after the last one; every other statement says the same of its instructions through FallsThrough. -/
def Obligations.LoopStarts : Prop :=
  (∀ (i : Instr) (rs : List Nat) (n : Dword) (l : Nat) (s : State),
    Rules.loop s i = some (rs, n, l) → WellFormed i → Ready s rs → stRoam (actor s).st = false → (actor s).loopCnt = 0 →
    ∃ t, exec i s = .next t
      ∧ (∀ r, (actor t).readG r = (actor s).readG r) ∧ (∀ r, (actor t).readV r = (actor s).readV r)
      ∧ (n = 0 → (actor t).pc = (actor s).pc + BitVec.ofNat 64 (4 + 4 * l) ∧ (actor t).loopCnt = 0
          ∧ (actor t).loopEnd = (actor s).loopEnd ∧ (actor t).loopLen = (actor s).loopLen)
      ∧ (n ≠ 0 → (actor t).pc = (actor s).pc + 4 ∧ (actor t).loopCnt = n
          ∧ (actor t).loopEnd = (actor s).pc / 4 * 4 + BitVec.ofNat 64 (4 * l)
          ∧ (actor t).loopLen = BitVec.ofNat 64 ((if stTrap (actor s).st then 1024 else 0) + l))
      ∧ OnlyActor s t [])
  ∧ (∀ (i : Instr) (l : BitVec 10) (rs : List Nat) (s : State),
    (∃ a, (i = .rep a l ∧ rs = [a.toNat]) ∨ (i = .reps a l ∧ rs = [])) → WellFormed i → Ready s rs →
    stRoam (actor s).st = false → (actor s).loopCnt ≠ 0 →
    exec i s = .next (takeTrap s s.me { code := 0x07, eaddr := (actor s).pc } (Rules.again (actor s))))
  ∧ ∀ (s : State), Ready s [] → (actor s).pc = (actor s).loopEnd → stTrap (actor s).st = (actor s).loopLen.getLsbD 10 →
    ∃ t, exec .nop s = .next t ∧ (actor t).loopEnd = (actor s).loopEnd ∧ (actor t).loopLen = (actor s).loopLen
      ∧ (2 ≤ (actor s).loopCnt.toNat → (actor t).loopCnt = (actor s).loopCnt - 1
          ∧ (actor t).pc = (actor s).loopEnd - BitVec.ofNat 64 (4 * ((actor s).loopLen.toNat % 1024)) + 4)
      ∧ ((actor s).loopCnt.toNat ≤ 1 → (actor t).loopCnt = 0 ∧ (actor t).pc = (actor s).loopEnd + 4)

namespace Sys2Proof.Rules

/-- An effective address of the M format: g[a] plus an offset counted in access sizes (R31, R49). -/
def addrM (c : Ctx) (a : BitVec 5) (k : BitVec 12) (n : Nat) : Dword :=
  BitVec.ofInt 64 ((c.readG a.toNat).toNat + immI c k * n)

/-- An indexed effective address: g[a] plus g[b] counted in access sizes (R122). -/
def addrX (c : Ctx) (a b : BitVec 5) (n : Nat) : Dword :=
  BitVec.ofNat 64 ((c.readG a.toNat).toNat + (c.readG b.toNat).toNat * n)

/-- A load, a store and an atomic with their order and scope (R31, R112, R114, R126). size: 0 byte, 1 half, 2 word,
3 dword, 4 vector. -/
def loadOf (ea : Dword) (size : Nat) (dest : Dest) (o sc : BitVec 2) : Want :=
  { op := .load, n := if size = 4 then 64 else 2 ^ size, ea := ea, dest := dest, size := size, acq := o.getLsbD 0,
    rel := o.getLsbD 1, scope := sc.toNat }
def storeOf (ea : Dword) (size : Nat) (data : Vec) (o sc : BitVec 2) : Want :=
  { op := .store, n := if size = 4 then 64 else 2 ^ size, ea := ea, data := data, size := size, acq := o.getLsbD 0,
    rel := o.getLsbD 1, scope := sc.toNat }
def atomicOf (c : Ctx) (op : Nat) (d a b : BitVec 5) (o sc : BitVec 2) (z : BitVec 1) : Want :=
  { op := .atomic op, n := if z = 1 then 8 else 4, ea := c.readG a.toNat, data := (c.readG b.toNat).setWidth 512,
    expect := c.readG d.toNat, dest := .g d.toNat false, size := if z = 1 then 3 else 2, acq := o.getLsbD 0,
    rel := o.getLsbD 1, scope := sc.toNat }

/-- The access of every instruction that makes one (R112 to R114, R121, R122, R126, R127, R218), with the registers it names. -/
def access (c : Ctx) : Instr → Option (Want × List Nat)
  | .ldb d a o sc k => some (loadOf (addrM c a k 1) 0 (.g d.toNat true) o sc, [a.toNat, d.toNat])
  | .ldbn d a o sc k => some (loadOf (addrM c a k 1) 0 (.g d.toNat false) o sc, [a.toNat, d.toNat])
  | .ldh d a o sc k => some (loadOf (addrM c a k 2) 1 (.g d.toNat true) o sc, [a.toNat, d.toNat])
  | .ldhn d a o sc k => some (loadOf (addrM c a k 2) 1 (.g d.toNat false) o sc, [a.toNat, d.toNat])
  | .ldw d a o sc k => some (loadOf (addrM c a k 4) 2 (.g d.toNat true) o sc, [a.toNat, d.toNat])
  | .ldwn d a o sc k => some (loadOf (addrM c a k 4) 2 (.g d.toNat false) o sc, [a.toNat, d.toNat])
  | .ldd d a o sc k => some (loadOf (addrM c a k 8) 3 (.g d.toNat false) o sc, [a.toNat, d.toNat])
  | .vld d a o sc k => some (loadOf (addrM c a k 64) 4 (.v d.toNat) o sc, [a.toNat, 32 + d.toNat])
  | .ldx d a b o sc z => some (loadOf (addrX c a b (2 ^ z.toNat)) z.toNat (.g d.toNat true) o sc, [a.toNat, b.toNat, d.toNat])
  | .ldxn d a b o sc z => some (loadOf (addrX c a b (2 ^ z.toNat)) z.toNat (.g d.toNat false) o sc, [a.toNat, b.toNat, d.toNat])
  | .stb d a o sc k => some (storeOf (addrM c a k 1) 0 ((c.readG d.toNat).setWidth 512) o sc, [a.toNat, d.toNat])
  | .sth d a o sc k => some (storeOf (addrM c a k 2) 1 ((c.readG d.toNat).setWidth 512) o sc, [a.toNat, d.toNat])
  | .stw d a o sc k => some (storeOf (addrM c a k 4) 2 ((c.readG d.toNat).setWidth 512) o sc, [a.toNat, d.toNat])
  | .std d a o sc k => some (storeOf (addrM c a k 8) 3 ((c.readG d.toNat).setWidth 512) o sc, [a.toNat, d.toNat])
  | .vst d a o sc k => some (storeOf (addrM c a k 64) 4 (c.readV d.toNat) o sc, [a.toNat, 32 + d.toNat])
  | .stx d a b o sc z =>
    some (storeOf (addrX c a b (2 ^ z.toNat)) z.toNat ((c.readG d.toNat).setWidth 512) o sc, [a.toNat, b.toNat, d.toNat])
  | .amoSwap d a b o sc z => some (atomicOf c 0 d a b o sc z, [a.toNat, b.toNat, d.toNat])
  | .amoCas d a b o sc z => some (atomicOf c 1 d a b o sc z, [a.toNat, b.toNat, d.toNat])
  | .amoAdd d a b o sc z => some (atomicOf c 2 d a b o sc z, [a.toNat, b.toNat, d.toNat])
  | .amoAnd d a b o sc z => some (atomicOf c 3 d a b o sc z, [a.toNat, b.toNat, d.toNat])
  | .amoOr d a b o sc z => some (atomicOf c 4 d a b o sc z, [a.toNat, b.toNat, d.toNat])
  | .amoXor d a b o sc z => some (atomicOf c 5 d a b o sc z, [a.toNat, b.toNat, d.toNat])
  | .amoSmin d a b o sc z => some (atomicOf c 6 d a b o sc z, [a.toNat, b.toNat, d.toNat])
  | .amoSmax d a b o sc z => some (atomicOf c 7 d a b o sc z, [a.toNat, b.toNat, d.toNat])
  | .amoUmin d a b o sc z => some (atomicOf c 8 d a b o sc z, [a.toNat, b.toNat, d.toNat])
  | .amoUmax d a b o sc z => some (atomicOf c 9 d a b o sc z, [a.toNat, b.toNat, d.toNat])
  | .sstatBt d a b sc =>
    some ({ op := .load, n := 8, ea := c.readG a.toNat, dest := .bits d.toNat (c.readG b.toNat), size := 3, acq := true,
            scope := sc.toNat }, [a.toNat, b.toNat, d.toNat])
  | .amoFadd d a b o sc => some (atomicOf c 10 d a b o sc 0, [a.toNat, b.toNat, d.toNat])
  | _ => none

/-- The value that a load of n bytes leaves in a g register (R112). -/
def extend (n : Nat) (signed : Bool) (v : Vec) : Dword :=
  let x : Nat := v.toNat % 2 ^ (8 * n)
  if signed = true ∧ 2 ^ (8 * n - 1) ≤ x then BitVec.ofInt 64 ((x : Int) - 2 ^ (8 * n)) else BitVec.ofNat 64 x

/-- What the destination of an access holds after a value v has come back, and the registers written (R112, R127, R218). -/
def lands (t : State) (w : Want) (v : Vec) : Prop :=
  match w.dest with
  | .g r signed => (actor t).readG r = if r = 0 then 0 else extend w.n signed v
  | .v r => (actor t).readV r = v
  | .bits r mask => (actor t).readG r = if r = 0 then 0 else if v.extractLsb' 0 64 &&& mask = mask then 1 else 0
  | _ => True
def written (w : Want) : List Nat :=
  match w.dest with
  | .g r _ => [r]
  | .v r => [32 + r]
  | .bits r _ => [r]
  | _ => []

/-- The new value of an atomic on n bytes (R126, R127): old is the value in memory and arg is g[b]. -/
def atomicValue (op n : Nat) (old arg : Nat) : Nat :=
  let m := 2 ^ (8 * n)
  let sgn : Nat → Int := fun x => if m ≤ 2 * x then (x : Int) - m else x
  match op with
  | 2 => (old + arg) % m
  | 3 => old &&& arg
  | 4 => old ||| arg
  | 5 => old ^^^ arg
  | 6 => if sgn old ≤ sgn arg then old else arg
  | 7 => if sgn old ≤ sgn arg then arg else old
  | 8 => min old arg
  | 9 => max old arg
  | 10 => Fmt.fp32.addBits .nearestEven old arg
  | _ => arg

/-- What the acting context puts in flight (R17, R44): its name and generation, its order with the time of its issue, and the
launch that it counts for. -/
def flight (s : State) (o : Ord) (p : Packet) : Flight :=
  { owner := some (s.me, stGen (actor s).st), ord := { o with born := s.tick }, body := p, launch := (actor s).launch }

/-- Every register of the acting context but those listed is as before, and so is all the rest of it but pc, loop.cnt and
what the core keeps for the migration predictor (R118). -/
structure KeepsRegs (s t : State) (ws : List Nat) : Prop where
  g : ∀ r, r < 32 → r ∉ ws → (actor t).readG r = (actor s).readG r
  v : ∀ r, 32 + r ∉ ws → (actor t).readV r = (actor s).readV r
  rest : { actor t with
      g := (actor s).g, v := (actor s).v, pc := (actor s).pc, loopCnt := (actor s).loopCnt, hint := (actor s).hint,
      trail := (actor s).trail, got := (actor s).got, walked := (actor s).walked, asks := (actor s).asks } = actor s
  others : ∀ k, k ≠ s.me → getCtx t k = getCtx s k

/-- What the walker writes into the leaf of an access that faults nowhere (R96, R100): s1 is the state after its checks. -/
def marked (s1 : State) (x : Xl) (acc : AccKind) : State := touchLeaf s1 (ctxReq s1 s1.me) x acc

/-- Of n bytes from an address none lies in a coded group that does not correct: a half of a granule of memory (R86), an
8-byte group of a scratchpad (R164). -/
def correct (s : State) (a n : Nat) : Prop := ∀ i, i < n → halfBad s (a + i) = false

/-- An access to bytes that stand in the L2 of its home, seen in rows, where no cached data is uncorrectable (R137, R139, R141,
R150). -/
structure InL2 (s : State) (a : Access) : Prop where
  rows : a.col ≠ some true ∧ colBit s (clusterDie (coreCluster a.home)) (paLocal a.pa) = false
  window : a.pkind ≠ 3 ∧ windowOf (paLocal a.pa) ≠ .scratch ∧ windowOf (paLocal a.pa) ≠ .host
  hit : l2Has s (coreCluster a.home) (paLocal a.pa / 128) {} = true
  sound : (∀ e ∈ s.l1, e.2.bad = []) ∧ (∀ e ∈ s.l2, e.2.bad = []) ∧ caveBad s (clusterDie (coreCluster a.home)) (paLocal a.pa / 128) = []
  line : a.n ≤ 64 ∧ paLocal a.pa % 128 + a.n ≤ 128

end Sys2Proof.Rules

/-- R112, R114, R122, R127: a load, store or atomic that passes its checks and is performed at the issuing core completes
in its step. Its destination takes the value that came back, no other register changes, and the rest of the machine is what
the performed access leaves. (The page is not one that a replica serves: R18.)
R9, R112, R130: the value of a performed load is the bytes at its address, the byte at the lowest address in the low bits; no
byte of the machine changes, if no host line has to leave the caches for it. (It is of a scratchpad, of host memory, or of a
line in the L2 of its home.)
(The model's choices in it: log 4, 15.) -/
def Obligations.AccessPerformedAtIssue : Prop :=
  (∀ (i : Instr) (w : Want) (rs : List Nat) (s s1 s2 : State) (a : Access) (x : Xl) (v : Vec),
    Rules.access (actor s) i = some (w, rs) → WellFormed i → Ready s rs → w.ea.toNat % w.n = 0 →
    checkAccess s s.me w = (s1, .ok (a, x, true)) →
    mustWait s1 s.me (accessOrd s1 w a x) = false → usesReplica s1 (ctxCore s.me) x (opLoads w.op) (opStores w.op) = false →
    performAt (settlePredictor (Rules.marked s1 x (opAcc w.op)) s.me (homeKey a.pa a.home) true) a = (s2, .ok v) →
    ∃ t, exec i s = .next t ∧ Rules.lands t w v ∧ FallsThrough s t ∧ Rules.KeepsRegs s t (Rules.written w)
      ∧ { t with ctxs := s2.ctxs, badReg := s2.badReg } = s2)
  ∧ ∀ (s s' : State) (a : Access) (v : Vec), a.op = .load → a.n ≤ 64 →
    windowOf (paLocal a.pa) = .scratch ∨ windowOf (paLocal a.pa) = .host ∨ Rules.InL2 s a → performAt s a = (s', .ok v) →
    (∀ j, j < a.n → v.extractLsb' (8 * j) 8 = readByte s (paLocal a.pa + j)) ∧ v.toNat < 2 ^ (8 * a.n)
      ∧ (windowOf (paLocal a.pa) ≠ .host ∨ s.hostLines.length < 8192 → SameBytes s s')

/-- R114, R41, R116: a load, store or atomic whose home is another core, of this node or of another, is sent there in its
step and completes: its destination register becomes empty, and the access is in flight.
(The model's choices in it: log 4.) -/
def Obligations.AccessSentToItsHome : Prop :=
  ∀ (i : Instr) (w : Want) (rs : List Nat) (s s1 : State) (a : Access) (x : Xl),
    Rules.access (actor s) i = some (w, rs) → WellFormed i → Ready s rs → w.ea.toNat % w.n = 0 →
    checkAccess s s.me w = (s1, .ok (a, x, false)) → migrates s1 s.me a = false →
    let s2 := Rules.marked s1 x (opAcc w.op)
    ∃ t, exec i s = .next t
      ∧ t.net = s2.net ++ [Rules.flight s (accessOrd s1 w a x) (.access a)]
      ∧ (∀ r, (actor t).isEmpty r = (if r ≠ 0 ∧ r = destReg w.dest then true else (actor s).isEmpty r))
      ∧ (∀ r, (actor t).readG r = (actor s).readG r) ∧ (∀ r, (actor t).readV r = (actor s).readV r)
      ∧ FallsThrough s t ∧ t.mem = s2.mem ∧ t.cav = s2.cav ∧ t.top = s2.top

/-- R113, R122, R127, R218: an address that is no multiple of the access size takes the misaligned-access trap, with the address in eaddr, and
the instruction has no other effect. -/
def Obligations.MisalignedAccessTraps : Prop :=
  ∀ (i : Instr) (w : Want) (rs : List Nat) (s : State),
    Rules.access (actor s) i = some (w, rs) → WellFormed i → Ready s rs → w.ea.toNat % w.n ≠ 0 →
    exec i s = .next (takeTrap s s.me { code := 0x02, eaddr := w.ea } (resumeAddr (actor s)))

/-- R130, R137, R139: a store whose line stands in the L2 of its home, seen in rows, changes exactly the n bytes from its
address: byte j takes bits 8j + 7 : 8j of the data, and every other byte of the machine reads as before. The store merges into no uncorrectable data (R120). -/
def Obligations.StoreChangesItsBytesOnly : Prop :=
  ∀ (s s' : State) (a : Access) (v : Vec),
    a.op = .store → Rules.InL2 s a → storeBad s (homePath a.home) (viewAddrs (paLocal a.pa) a.n false) = [] →
    performAt s a = (s', .ok v) →
    (∀ j, j < a.n → readByte s' (paLocal a.pa + j) = a.data.extractLsb' (8 * j) 8)
      ∧ ∀ b, (b < paLocal a.pa ∨ paLocal a.pa + a.n ≤ b) → readByte s' b = readByte s b

/-- R163, R164: the same of a store to a scratchpad that no cache stands above. -/
def Obligations.ScratchpadStoreChangesItsBytesOnly : Prop :=
  ∀ (s s' : State) (a : Access) (v : Vec),
    a.op = .store → a.n ≤ 64 → (∀ j, j < a.n → windowOf (paLocal a.pa + j) = .scratch) →
    Rules.correct s (paLocal a.pa) a.n → performAt s a = (s', .ok v) →
    (∀ j, j < a.n → memGet s'.mem (paLocal a.pa + j) = a.data.extractLsb' (8 * j) 8)
      ∧ ∀ b, (b < paLocal a.pa ∨ paLocal a.pa + a.n ≤ b) → memGet s'.mem b = memGet s.mem b

/-- R126, R127: an atomic returns the old value and stores the new one in the same step; CAS stores only when the old value
equals g[d]. It is of a scratchpad, or of a line in the L2 of its home; there every other byte of the machine reads as before. -/
def Obligations.AtomicIsIndivisible : Prop :=
  (∀ (s s' : State) (a : Access) (op : Nat) (v : Vec),
    a.op = .atomic op → op ≤ 10 → (a.n = 4 ∨ a.n = 8) → (op = 10 → a.n = 4) →
    (∀ j, j < a.n → windowOf (paLocal a.pa + j) = .scratch) → Rules.correct s (paLocal a.pa) a.n → performAt s a = (s', .ok v) →
    v = readVec s (paLocal a.pa) a.n
      ∧ (op = 1 ∧ v.toNat ≠ a.expect.toNat % 2 ^ (8 * a.n) → s' = s)
      ∧ (¬ (op = 1 ∧ v.toNat ≠ a.expect.toNat % 2 ^ (8 * a.n)) → ∀ j, j < a.n →
          memGet s'.mem (paLocal a.pa + j)
            = BitVec.ofNat 8 (Rules.atomicValue op a.n v.toNat (a.data.toNat % 2 ^ (8 * a.n)) / 256 ^ j)))
  ∧ ∀ (s s' : State) (a : Access) (op : Nat) (v : Vec),
    a.op = .atomic op → op ≤ 10 → (a.n = 4 ∨ a.n = 8) → (op = 10 → a.n = 4) → Rules.InL2 s a → performAt s a = (s', .ok v) →
    (∀ j, j < a.n → v.extractLsb' (8 * j) 8 = readByte s (paLocal a.pa + j)) ∧ v.toNat < 2 ^ (8 * a.n)
      ∧ (∀ b, (b < paLocal a.pa ∨ paLocal a.pa + a.n ≤ b) → readByte s' b = readByte s b)
      ∧ ∀ j, j < a.n → readByte s' (paLocal a.pa + j) =
          if op = 1 ∧ v.toNat ≠ a.expect.toNat % 2 ^ (8 * a.n) then readByte s (paLocal a.pa + j)
          else BitVec.ofNat 8 (Rules.atomicValue op a.n v.toNat (a.data.toNat % 2 ^ (8 * a.n)) / 256 ^ j)

namespace Sys2Proof.Rules

/-- Lane i of n bytes of a vector (R262). -/
def lane (x : Vec) (n i : Nat) : Nat := x.toNat / 2 ^ (8 * n * i) % 2 ^ (8 * n)

/-- Lane i of n bytes is active under p[m] (R263). -/
def active (c : Ctx) (m : BitVec 3) (n i : Nat) : Bool := (c.readP m.toNat).getLsbD (n * i)

/-- A lane of type code t read signed or unsigned (R266). -/
def val (t : BitVec 3) (x : Nat) : Int :=
  let w := 8 * 2 ^ (t.toNat % 4)
  if t.toNat < 4 ∧ 2 ^ (w - 1) ≤ x then (x : Int) - 2 ^ w else x

/-- The smallest and the largest value of a type code (R266). -/
def lo (t : BitVec 3) : Int := if t.toNat < 4 then -2 ^ (8 * 2 ^ (t.toNat % 4) - 1) else 0
def hi (t : BitVec 3) : Int := if t.toNat < 4 then 2 ^ (8 * 2 ^ (t.toNat % 4) - 1) - 1 else 2 ^ (8 * 2 ^ (t.toNat % 4)) - 1

/-- A write of lanes under a mask: the destination, the mask, the zero bit, the bytes of a lane, the sources, and the
result of lane i, taken modulo the lane. -/
structure Lanes where
  d : BitVec 5
  m : BitVec 3
  z : BitVec 1
  n : Nat
  reads : List Nat
  res : Ctx → Nat → Int

/-- An operation on the values of two lanes of a type. -/
def vint (d a b : BitVec 5) (t m : BitVec 3) (z : BitVec 1) (f : Int → Int → Int) : Lanes :=
  { d := d, m := m, z := z, n := 2 ^ (t.toNat % 4), reads := [32 + a.toNat, 32 + b.toNat]
    res := fun c i => f (val t (lane (c.readV a.toNat) (2 ^ (t.toNat % 4)) i)) (val t (lane (c.readV b.toNat) (2 ^ (t.toNat % 4)) i)) }

/-- An operation on the bits of two lanes. -/
def vbits (d a b : BitVec 5) (t m : BitVec 3) (z : BitVec 1) (f : Nat → Nat → Nat) : Lanes :=
  { d := d, m := m, z := z, n := 2 ^ (t.toNat % 4), reads := [32 + a.toNat, 32 + b.toNat]
    res := fun c i => (f (lane (c.readV a.toNat) (2 ^ (t.toNat % 4)) i) (lane (c.readV b.toNat) (2 ^ (t.toNat % 4)) i) : Nat) }

/-- VINT (R266). -/
def vintRow : Instr → Option Lanes
  | .vadd d a b t m z => some (vint d a b t m z (fun x y => x + y))
  | .vsub d a b t m z => some (vint d a b t m z (fun x y => x - y))
  | .vadds d a b t m z => some (vint d a b t m z (fun x y => max (lo t) (min (hi t) (x + y))))
  | .vsubs d a b t m z => some (vint d a b t m z (fun x y => max (lo t) (min (hi t) (x - y))))
  | .vmul d a b t m z => some (vint d a b t m z (fun x y => x * y))
  | .vmulh d a b t m z => some (vint d a b t m z (fun x y => x * y / 2 ^ (8 * 2 ^ (t.toNat % 4))))
  | .vmin d a b t m z => some (vint d a b t m z (fun x y => if x ≤ y then x else y))
  | .vmax d a b t m z => some (vint d a b t m z (fun x y => if x ≤ y then y else x))
  | .vand d a b t m z => some (vbits d a b t m z (fun x y => x &&& y))
  | .vor d a b t m z => some (vbits d a b t m z (fun x y => x ||| y))
  | .vxor d a b t m z => some (vbits d a b t m z (fun x y => x ^^^ y))
  | .vandn d a b t m z => some (vbits d a b t m z (fun x y => x - (x &&& y)))
  | .vshl d a b t m z => some (vbits d a b t m z (fun x y => x * 2 ^ (y % 256)))
  | .vshr d a b t m z => some (vint d a b t m z (fun x y => x / 2 ^ (y % 256).toNat))
  | .vabs d a t m z => some (vint d a a t m z (fun x _ => |x|))
  | .vsplat d a t m z =>
    some { d := d, m := m, z := z, n := 2 ^ (t.toNat % 4), reads := [a.toNat], res := fun c _ => ((c.readG a.toNat).toNat : Int) }
  | _ => none

/-- The format and the bytes of a floating-point type code (R267). -/
def fmt (t : Nat) : Fmt := if t = 0 then .fp32 else if t = 1 then .bf16 else .fp16
def fbytes (t : Nat) : Nat := if t = 0 then 4 else 2

/-- The rounding mode of a VFLT word: nearest even, unless an H.MOD names another (R51, R223). -/
def mode (c : Ctx) : Rm :=
  match c.hint with
  | some (_, .hMod r _) => [.nearestEven, .towardZero, .down, .up, .nearestAway].getD r.toNat .nearestEven
  | _ => .nearestEven

/-- A lane operation on floating-point encodings. -/
def vflt (d a b : BitVec 5) (t : Nat) (m : BitVec 3) (z : BitVec 1) (f : Fmt → Rm → Nat → Nat → Nat) : Lanes :=
  { d := d, m := m, z := z, n := fbytes t, reads := [32 + a.toNat, 32 + b.toNat]
    res := fun c i => (f (fmt t) (mode c) (lane (c.readV a.toNat) (fbytes t) i) (lane (c.readV b.toNat) (fbytes t) i) : Nat) }

/-- An encoding with its sign bit cleared or inverted; a NaN gives the canonical one (R267). -/
def absBits (f : Fmt) (x : Nat) : Nat := if (f.decode x).isNan then f.nan.getD 0 else x % 2 ^ f.width
def negBits (f : Fmt) (x : Nat) : Nat := if (f.decode x).isNan then f.nan.getD 0 else (x + 2 ^ f.width) % 2 ^ f.bits

/-- VFLT and the functions of VSFN (R267, R277). The arithmetic is that of R223 to R225. -/
def vfltRow : Instr → Option Lanes
  | .vaddFp d a b t m z => some (vflt d a b t.toNat m z (fun f rm x y => f.encode rm (Val.add rm (f.decode x) (f.decode y))))
  | .vsubFp d a b t m z => some (vflt d a b t.toNat m z (fun f rm x y => f.encode rm (Val.add rm (f.decode x) (f.decode y).negate)))
  | .vmulFp d a b t m z => some (vflt d a b t.toNat m z (fun f rm x y => f.mulBits rm x y))
  | .vdiv d a b t m z => some (vflt d a b t.toNat m z (fun f rm x y => f.divBits rm x y))
  | .vminFp d a b t m z => some (vflt d a b t.toNat m z (fun f _ x y => f.minBits x y))
  | .vmaxFp d a b t m z => some (vflt d a b t.toNat m z (fun f _ x y => f.maxBits x y))
  | .vsqrt d a t m z => some (vflt d a a t.toNat m z (fun f rm x _ => f.sqrtBits rm x))
  | .vabsFp d a t m z => some (vflt d a a t.toNat m z (fun f _ x _ => absBits f x))
  | .vneg d a t m z => some (vflt d a a t.toNat m z (fun f _ x _ => negBits f x))
  | .vfma d a b t m z =>
    some { vflt d a b t.toNat m z (fun _ _ _ _ => 0) with
      reads := [32 + a.toNat, 32 + b.toNat, 32 + d.toNat]
      res := fun c i => ((fmt t.toNat).fmaBits (mode c) (lane (c.readV a.toNat) (fbytes t.toNat) i)
        (lane (c.readV b.toNat) (fbytes t.toNat) i) (lane (c.readV d.toNat) (fbytes t.toNat) i) : Nat) }
  | .vrcp d a t m z => some (vflt d a a t.toNat m z (fun f _ x _ => specialFn 0 f x))
  | .vrsqrt d a t m z => some (vflt d a a t.toNat m z (fun f _ x _ => specialFn 1 f x))
  | .vexp2 d a t m z => some (vflt d a a t.toNat m z (fun f _ x _ => specialFn 2 f x))
  | .vlog2 d a t m z => some (vflt d a a t.toNat m z (fun f _ x _ => specialFn 3 f x))
  | .vexp d a t m z => some (vflt d a a t.toNat m z (fun f _ x _ => specialFn 4 f x))
  | .vlog d a t m z => some (vflt d a a t.toNat m z (fun f _ x _ => specialFn 5 f x))
  | .vtanh d a t m z => some (vflt d a a t.toNat m z (fun f _ x _ => specialFn 6 f x))
  | .vsigm d a t m z => some (vflt d a a t.toNat m z (fun f _ x _ => specialFn 7 f x))
  | _ => none

/-- The members of VPRM that write lanes under a mask, and the pair merges of VSFN (R271, R279). -/
def vprmRow : Instr → Option Lanes
  | .vperm d a b w m z =>
    some { d := d, m := m, z := z, n := 2 ^ w.toNat, reads := [32 + a.toNat, 32 + b.toNat]
           res := fun c i =>
             let k := lane (c.readV b.toNat) (2 ^ w.toNat) i
             if k < 64 / 2 ^ w.toNat then lane (c.readV a.toNat) (2 ^ w.toNat) k else 0 }
  | .vexpnd d a w m z =>
    some { d := d, m := m, z := z, n := 2 ^ w.toNat, reads := [32 + a.toNat]
           res := fun c i => lane (c.readV a.toNat) (2 ^ w.toNat) ((List.range i).countP (active c m (2 ^ w.toNat))) }
  | .vslup d a b w m z =>
    some { d := d, m := m, z := z, n := 2 ^ w.toNat, reads := [32 + a.toNat, b.toNat]
           res := fun c i =>
             let k := (c.readG b.toNat).toNat
             if k ≤ i then lane (c.readV a.toNat) (2 ^ w.toNat) (i - k) else 0 }
  | .vsldn d a b w m z =>
    some { d := d, m := m, z := z, n := 2 ^ w.toNat, reads := [32 + a.toNat, b.toNat]
           res := fun c i =>
             let k := (c.readG b.toNat).toNat
             if i + k < 64 / 2 ^ w.toNat then lane (c.readV a.toNat) (2 ^ w.toNat) (i + k) else 0 }
  | .vbcst d a b w m z =>
    some { d := d, m := m, z := z, n := 2 ^ w.toNat, reads := [32 + a.toNat, b.toNat]
           res := fun c _ =>
             let k := (c.readG b.toNat).toNat
             if k < 64 / 2 ^ w.toNat then lane (c.readV a.toNat) (2 ^ w.toNat) k else 0 }
  | .viota d w m z => some { d := d, m := m, z := z, n := 2 ^ w.toNat, reads := [], res := fun _ i => i }
  | .vpmrg d a b m z =>
    some { d := d, m := m, z := z, n := 8, reads := [32 + a.toNat, 32 + b.toNat]
           res := fun c i =>
             let r := mergePair false (lane (c.readV a.toNat) 4 (2 * i)) (lane (c.readV a.toNat) 4 (2 * i + 1))
               (lane (c.readV b.toNat) 4 (2 * i)) (lane (c.readV b.toNat) 4 (2 * i + 1))
             (r.1 + 2 ^ 32 * r.2 : Nat) }
  | .vpmrge d a b m z =>
    some { d := d, m := m, z := z, n := 8, reads := [32 + a.toNat, 32 + b.toNat]
           res := fun c i =>
             let r := mergePair true (lane (c.readV a.toNat) 4 (2 * i)) (lane (c.readV a.toNat) 4 (2 * i + 1))
               (lane (c.readV b.toNat) 4 (2 * i)) (lane (c.readV b.toNat) 4 (2 * i + 1))
             (r.1 + 2 ^ 32 * r.2 : Nat) }
  | _ => none

/-- Every lane after a masked write: the result where active, else zero or the old lane (R263). c holds the sources. -/
def merged (r : Lanes) (c : Ctx) (x : Vec) : Prop :=
  ∀ i, i < 64 / r.n → (lane x r.n i : Int) =
    if active c r.m r.n i then r.res c i % 2 ^ (8 * r.n) else if r.z = 1 then 0 else lane (c.readV r.d.toNat) r.n i

/-- The registers that a masked write names. -/
def names (r : Lanes) : List Nat := r.reads ++ [64 + r.m.toNat, 32 + r.d.toNat]

/-- Source and destination of a conversion kind, the lanes of their widths, and one lane converted (R268, R269). -/
def cvt (k : BitVec 5) (rm : Rm) (x : Nat) : Nat := cvtLane (cvtKind k.toNat).1 (cvtKind k.toNat).2 rm x

/-- The sum of 2^k FP32 values by the tree of R235: each stage adds neighbours. -/
def tree : Nat → (Nat → Nat) → Nat
  | 0, f => f 0
  | k + 1, f => Fmt.fp32.addBits .nearestEven (tree k f) (tree k (fun i => f (i + 2 ^ k)))

/-- The reductions: d, a, m, the type's bytes, and the value of v[d] as a number (R276). -/
def red (c : Ctx) : Instr → Option (BitVec 5 × BitVec 5 × BitVec 3 × Int)
  | .vraddInt d a t m =>
    let n := 2 ^ (t.toNat % 4)
    some (d, a, m, ((List.range (64 / n)).foldl (fun r i =>
      r + if active c m n i then val t (lane (c.readV a.toNat) n i) else 0) 0) % 2 ^ 64)
  | .vrminInt d a t m =>
    let n := 2 ^ (t.toNat % 4)
    some (d, a, m, ((List.range (64 / n)).foldl (fun r i =>
      min r (if active c m n i then val t (lane (c.readV a.toNat) n i) else hi t)) (hi t)) % 2 ^ 64)
  | .vrmaxInt d a t m =>
    let n := 2 ^ (t.toNat % 4)
    some (d, a, m, ((List.range (64 / n)).foldl (fun r i =>
      max r (if active c m n i then val t (lane (c.readV a.toNat) n i) else lo t)) (lo t)) % 2 ^ 64)
  | .vraddFp d a t m =>
    let n := fbytes t.toNat
    some (d, a, m, (tree (if t = 0 then 4 else 5) (fun i => if active c m n i
      then Fmt.fp32.encode .nearestEven ((fmt t.toNat).decode (lane (c.readV a.toNat) n i)) else 0x80000000) : Nat))
  | .vrssq d a t m =>
    let n := fbytes t.toNat
    some (d, a, m, (tree (if t = 0 then 4 else 5) (fun i => if active c m n i
      then (let x := Fmt.fp32.encode .nearestEven ((fmt t.toNat).decode (lane (c.readV a.toNat) n i))
            Fmt.fp32.mulBits .nearestEven x x) else 0x80000000) : Nat))
  | .vrminFp d a t m =>
    let n := fbytes t.toNat
    some (d, a, m, ((List.range (64 / n)).foldl (fun r i => Fmt.fp32.minBits r (if active c m n i
      then Fmt.fp32.encode .nearestEven ((fmt t.toNat).decode (lane (c.readV a.toNat) n i)) else 0x7F800000)) 0x7F800000 : Nat))
  | .vrmaxFp d a t m =>
    let n := fbytes t.toNat
    some (d, a, m, ((List.range (64 / n)).foldl (fun r i => Fmt.fp32.maxBits r (if active c m n i
      then Fmt.fp32.encode .nearestEven ((fmt t.toNat).decode (lane (c.readV a.toNat) n i)) else 0xFF800000)) 0xFF800000 : Nat))
  | _ => none

/-- The lane bytes of a type code of VPRED (R272). -/
def cbytes (t : BitVec 4) : Nat := if t.toNat < 8 then 2 ^ (t.toNat % 4) else fbytes (t.toNat - 8)

/-- A condition on two lanes (R272, R273): −1 unordered, else the order of the two values. -/
def holds (cond : Nat) (t : BitVec 4) (x y : Nat) : Bool :=
  if t.toNat < 8 then
    let u := val (t.setWidth 3) x
    let v := val (t.setWidth 3) y
    [decide (u = v), decide (u ≠ v), decide (u < v), decide (u ≤ v), decide (v < u), decide (v ≤ u)].getD cond false
  else
    let u := (fmt (t.toNat - 8)).decode x
    let v := (fmt (t.toNat - 8)).decode y
    if u.isNan || v.isNan then cond == 1
    else [u.eqv v, !u.eqv v, u.lt v, !v.lt u, v.lt u, !u.lt v].getD cond false

/-- The instructions that write a p register lane by lane: d, m, whether inactive lanes are cleared, the lane bytes, the
sources, and the test of a lane (R272, R273, R275). -/
def pred (c : Ctx) : Instr → Option (BitVec 5 × BitVec 3 × Bool × Nat × List Nat × (Nat → Bool))
  | .vcmpeq d a b t m z => some (d, m, z == 1, cbytes t, [32 + a.toNat, 32 + b.toNat], cmp 0 a b t)
  | .vcmpne d a b t m z => some (d, m, z == 1, cbytes t, [32 + a.toNat, 32 + b.toNat], cmp 1 a b t)
  | .vcmplt d a b t m z => some (d, m, z == 1, cbytes t, [32 + a.toNat, 32 + b.toNat], cmp 2 a b t)
  | .vcmple d a b t m z => some (d, m, z == 1, cbytes t, [32 + a.toNat, 32 + b.toNat], cmp 3 a b t)
  | .vcmpgt d a b t m z => some (d, m, z == 1, cbytes t, [32 + a.toNat, 32 + b.toNat], cmp 4 a b t)
  | .vcmpge d a b t m z => some (d, m, z == 1, cbytes t, [32 + a.toNat, 32 + b.toNat], cmp 5 a b t)
  | .vxsectN32 d a b m => some (d, m, true, 4, [32 + a.toNat, 32 + b.toNat], meets 4 a b m)
  | .vxsectN64 d a b m => some (d, m, true, 8, [32 + a.toNat, 32 + b.toNat], meets 8 a b m)
  | _ => none
where
  cmp (cond : Nat) (a b : BitVec 5) (t : BitVec 4) (i : Nat) : Bool :=
    holds cond t (lane (c.readV a.toNat) (cbytes t) i) (lane (c.readV b.toNat) (cbytes t) i)
  meets (n : Nat) (a b : BitVec 5) (m : BitVec 3) (i : Nat) : Bool :=
    (List.range (64 / n)).any (fun j => active c m n j && lane (c.readV b.toNat) n j == lane (c.readV a.toNat) n i)

/-- The other members of VPRED: the register written (p as 64 + i), the registers read and the value (R274). -/
def predBits (c : Ctx) : Instr → Option (Nat × List Nat × Dword)
  | .pand d a b => some (64 + d.toNat, [64 + a.toNat, 64 + b.toNat], c.readP a.toNat &&& c.readP b.toNat)
  | .por d a b => some (64 + d.toNat, [64 + a.toNat, 64 + b.toNat], c.readP a.toNat ||| c.readP b.toNat)
  | .pxor d a b => some (64 + d.toNat, [64 + a.toNat, 64 + b.toNat], c.readP a.toNat ^^^ c.readP b.toNat)
  | .pandn d a b => some (64 + d.toNat, [64 + a.toNat, 64 + b.toNat], c.readP a.toNat &&& ~~~c.readP b.toNat)
  | .pnot d a => some (64 + d.toNat, [64 + a.toNat], ~~~c.readP a.toNat)
  | .pmovgp d a => some (64 + d.toNat, [a.toNat], c.readG a.toNat)
  | .pmovpg d a => some (d.toNat, [64 + a.toNat], c.readP a.toNat)
  | .vpcnt8 d a => some (d.toNat, [64 + a.toNat], count 1 a)
  | .vpcnt16 d a => some (d.toNat, [64 + a.toNat], count 2 a)
  | .vpcnt32 d a => some (d.toNat, [64 + a.toNat], count 4 a)
  | .vpcnt64 d a => some (d.toNat, [64 + a.toNat], count 8 a)
  | _ => none
where
  count (n : Nat) (a : BitVec 5) : Dword :=
    BitVec.ofNat 64 ((List.range (64 / n)).countP (fun i => (c.readP a.toNat).getLsbD (n * i)))

/-- g(r) or p(r − 64) of a context. -/
def readGP (c : Ctx) (r : Nat) : Dword := if r < 64 then c.readG r else c.readP (r - 64)

end Sys2Proof.Rules

/-- R263, R266: every lane of v[d] after a VINT instruction on registers that are not streams, and nothing else changed. -/
def Obligations.VintWritesLanes : Prop :=
  ∀ (i : Instr) (r : Rules.Lanes) (s : State),
    Rules.vintRow i = some r → WellFormed i → Ready s (Rules.names r) →
    ∃ t, exec i s = .next t ∧ Rules.merged r (actor s) ((actor t).readV r.d.toNat) ∧ FallsThrough s t
      ∧ OnlyRegs s t [32 + r.d.toNat]

/-- R263, R267, R277: the same of VFLT and of the functions of VSFN.
(The model's choices in it: log 14, 57.) -/
def Obligations.VfltAndVsfnWriteLanes : Prop :=
  ∀ (i : Instr) (r : Rules.Lanes) (s : State),
    Rules.vfltRow i = some r → WellFormed i → Ready s (Rules.names r) →
    ∃ t, exec i s = .next t ∧ Rules.merged r (actor s) ((actor t).readV r.d.toNat) ∧ FallsThrough s t
      ∧ OnlyRegs s t [32 + r.d.toNat]

/-- R263, R271, R279: the same of the permutations that write under a mask, and of the pair merges. -/
def Obligations.PermutationsWriteLanes : Prop :=
  ∀ (i : Instr) (r : Rules.Lanes) (s : State),
    Rules.vprmRow i = some r → WellFormed i → Ready s (Rules.names r) →
    ∃ t, exec i s = .next t ∧ Rules.merged r (actor s) ((actor t).readV r.d.toNat) ∧ FallsThrough s t
      ∧ OnlyRegs s t [32 + r.d.toNat]

/-- R271: VCMPRS packs the active lanes in ascending order from lane 0 and clears the rest; VEXT reads one lane into g[d];
VINS replaces one lane of v[d]. -/
def Obligations.CompressExtractInsert : Prop :=
  (∀ (d a : BitVec 5) (w m : BitVec 3) (s : State), w.toNat ≤ 3 → Ready s [32 + a.toNat, 64 + m.toNat, 32 + d.toNat] →
    ∃ t, exec (.vcmprs d a w m) s = .next t ∧ FallsThrough s t ∧ OnlyRegs s t [32 + d.toNat]
      ∧ ∀ j, j < 64 / 2 ^ w.toNat → Rules.lane ((actor t).readV d.toNat) (2 ^ w.toNat) j
          = ((((List.range (64 / 2 ^ w.toNat)).filter (Rules.active (actor s) m (2 ^ w.toNat))).map
              (Rules.lane ((actor s).readV a.toNat) (2 ^ w.toNat)))[j]?).getD 0)
  ∧ (∀ (d a b : BitVec 5) (w : BitVec 3) (s : State), w.toNat ≤ 3 → Ready s [32 + a.toNat, b.toNat, d.toNat] →
    ∃ t, exec (.vext d a b w) s = .next t ∧ FallsThrough s t ∧ OnlyRegs s t [d.toNat]
      ∧ (d ≠ 0 → ((actor t).readG d.toNat).toNat
          = if ((actor s).readG b.toNat).toNat < 64 / 2 ^ w.toNat
            then Rules.lane ((actor s).readV a.toNat) (2 ^ w.toNat) ((actor s).readG b.toNat).toNat else 0))
  ∧ (∀ (d a b : BitVec 5) (w : BitVec 3) (s : State), w.toNat ≤ 3 → Ready s [a.toNat, b.toNat, 32 + d.toNat] →
    ∃ t, exec (.vins d a b w) s = .next t ∧ FallsThrough s t ∧ OnlyRegs s t [32 + d.toNat]
      ∧ ∀ j, j < 64 / 2 ^ w.toNat → Rules.lane ((actor t).readV d.toNat) (2 ^ w.toNat) j
          = if j = ((actor s).readG b.toNat).toNat then ((actor s).readG a.toNat).toNat % 2 ^ (8 * 2 ^ w.toNat)
            else Rules.lane ((actor s).readV d.toNat) (2 ^ w.toNat) j)

/-- R263, R268: VCVT. A narrowing conversion writes the lanes of part q only; a widening one reads them. -/
def Obligations.ConversionWritesLanes : Prop :=
  ∀ (d a k : BitVec 5) (q : BitVec 2) (m : BitVec 3) (z : BitVec 1) (s : State) (sb db : Nat),
    WellFormed (.vcvt d a k q m z) → (cvtKind k.toNat).1.bytes = sb → (cvtKind k.toNat).2.bytes = db →
    Ready s [32 + a.toNat, 64 + m.toNat, 32 + d.toNat] →
    ∃ t, exec (.vcvt d a k q m z) s = .next t ∧ FallsThrough s t ∧ OnlyRegs s t [32 + d.toNat]
      ∧ ∀ i, i < 64 / db → Rules.lane ((actor t).readV d.toNat) db i =
          if db < sb ∧ i / (64 / sb) ≠ q.toNat then Rules.lane ((actor s).readV d.toNat) db i
          else if Rules.active (actor s) m db i then
            Rules.cvt k (Rules.mode (actor s)) (Rules.lane ((actor s).readV a.toNat) sb
              (if db < sb then i % (64 / sb) else q.toNat * (64 / db) + i)) % 2 ^ (8 * db)
          else if z = 1 then 0 else Rules.lane ((actor s).readV d.toNat) db i

/-- R235, R276: a reduction leaves its result in the low bits of v[d] and zero in the rest. -/
def Obligations.ReductionsWriteResult : Prop :=
  ∀ (i : Instr) (d a : BitVec 5) (m : BitVec 3) (x : Int) (s : State),
    Rules.red (actor s) i = some (d, a, m, x) → WellFormed i → Ready s [32 + a.toNat, 64 + m.toNat, 32 + d.toNat] →
    ∃ t, exec i s = .next t ∧ FallsThrough s t ∧ OnlyRegs s t [32 + d.toNat]
      ∧ (((actor t).readV d.toNat).toNat : Int) = x % 2 ^ 512

/-- R272 to R275: every bit of p[d] after a compare or an index intersection; a write of p0 is discarded. -/
def Obligations.PredicatesPerLane : Prop :=
  ∀ (i : Instr) (d : BitVec 5) (m : BitVec 3) (clear : Bool) (n : Nat) (rs : List Nat) (test : Nat → Bool) (s : State),
    Rules.pred (actor s) i = some (d, m, clear, n, rs, test) → WellFormed i → Ready s (rs ++ [64 + m.toNat, 64 + d.toNat]) →
    ∃ t, exec i s = .next t ∧ FallsThrough s t ∧ OnlyRegs s t [64 + d.toNat]
      ∧ ∀ b, b < 64 → ((actor t).readP d.toNat).getLsbD b =
          if d = 0 then true
          else if Rules.active (actor s) m n (b / n) then test (b / n)
          else if clear then false else ((actor s).readP d.toNat).getLsbD b

/-- R274: the predicate operations, the moves between p and g registers, and the counts. -/
def Obligations.PredicateOperations : Prop :=
  ∀ (i : Instr) (d : Nat) (rs : List Nat) (x : Dword) (s : State),
    Rules.predBits (actor s) i = some (d, rs, x) → WellFormed i → Ready s (d :: rs) →
    ∃ t, exec i s = .next t ∧ FallsThrough s t ∧ OnlyRegs s t [d]
      ∧ Rules.readGP (actor t) d = (if d = 0 then 0 else if d = 64 then BitVec.allOnes 64 else x)

/-- R199, R200: one source of a vector instruction in stream mode gives the head of its ring and is popped once, however often
it is named. A destination in stream mode takes the result as its next element: the 64 bytes stand in the ring, with the byte
enables of the active lanes, or of all lanes when the zero bit is set. The other registers are not streams.
(The model's choices in it: log 27, 61.) -/
def Obligations.StreamsArePoppedAndPushed : Prop :=
  (∀ (i : Instr) (r : Rules.Lanes) (s : State) (v q : Nat) (st : Stream),
    (Rules.vintRow i = some r ∨ Rules.vfltRow i = some r) → WellFormed i → v < 32 → 32 + v ∈ r.reads → r.d.toNat ≠ v →
    streamSlot s s.me v = some q → tfind s.streams q = some st → streamWrite st.desc = false → st.fail = none →
    Ready s ((Rules.names r).filter (fun x => x != 32 + v)) → stRoam (actor s).st = false →
    (actor s).isEmpty (32 + v) = false → s.badReg.contains (s.me, 32 + v) = false →
    ∃ t, exec i s = .next t
      ∧ Rules.merged r ((actor s).writeV v (readVec s (ringAddr (ctxCore s.me) st.desc st.pos) 64)) ((actor t).readV r.d.toNat)
      ∧ (tfind t.streams q).map (fun x => x.pos) = some (st.pos + 1)
      ∧ ∀ j, j ≠ q → tfind t.streams j = tfind s.streams j)
  ∧ (∀ (i : Instr) (r : Rules.Lanes) (s : State) (q : Nat) (st : Stream),
    (Rules.vintRow i = some r ∨ Rules.vprmRow i = some r) → WellFormed i → 32 + r.d.toNat ∉ r.reads →
    streamSlot s s.me r.d.toNat = some q → tfind s.streams q = some st → streamWrite st.desc = true → st.fail = none →
    st.owed = none → st.pos < streamCount st.desc → ctxCore s.me = ctxCore st.ctx →
    Ready s (r.reads ++ [64 + r.m.toNat]) → stRoam (actor s).st = false →
    (actor s).isEmpty (32 + r.d.toNat) = false → s.badReg.contains (s.me, 32 + r.d.toNat) = false →
    ∃ t x, exec i s = .next t ∧ Rules.merged r (actor s) x
      ∧ (∀ j, j < 64 → memGet t.mem (ringAddr (ctxCore s.me) st.desc st.pos + j) = x.extractLsb' (8 * j) 8)
      ∧ (∃ lanes : BitVec 64, (tfind t.streams q).map (fun y => (y.pos, y.masks)) = some (st.pos + 1, st.masks ++ [lanes])
          ∧ ∀ j, j < 64 → lanes.getLsbD j = (r.z == 1 || Rules.active (actor s) r.m r.n (j / r.n))))

namespace Sys2Proof.Rules

/-- The fill of g[d] in flight (R41, R330); none for g0. -/
def fillOf (s : State) (d : BitVec 5) (x : Dword) : List Flight :=
  if d = 0 then [] else
    [{ owner := none, launch := none, ord := sendOrd false false
       body := .fill { ctx := s.me, gen := stGen (actor s).st, reg := d.toNat, inTrap := stTrap (actor s).st } (x.setWidth 512) }]

/-- An instruction whose result is filled (R41) has completed: g[d] is empty and the fill is in flight. w is the state that
its own effect leaves. -/
structure Answers (s w t : State) (d : BitVec 5) (x : Dword) : Prop where
  net : t.net = w.net ++ fillOf s d x
  empty : ∀ r, (actor t).isEmpty r = if r ≠ 0 ∧ r = d.toNat then true else (actor w).isEmpty r
  rest : { actor t with
      empty := (actor w).empty, pc := (actor w).pc, loopCnt := (actor w).loopCnt, hint := (actor w).hint,
      trail := (actor w).trail, got := (actor w).got, walked := (actor w).walked, asks := (actor w).asks } = actor w
  pc : FallsThrough s t
  others : ∀ k, k ≠ s.me → getCtx t k = getCtx w k
  codes : ∀ e, e ∈ t.badReg ↔ e ∈ w.badReg ∧ ¬ (e.1 = s.me ∧ e.2 = d.toNat)
  world : { t with ctxs := w.ctxs, badReg := w.badReg, net := w.net } = w

/-- Where the fill of g[d] goes (R330). -/
def mine (s : State) (d : Nat) : Reply :=
  { ctx := s.me, gen := stGen (actor s).st, reg := d, inTrap := stTrap (actor s).st }

/-- g[d] becomes empty and a packet that will fill it goes out (R41). -/
structure Awaits (s w t : State) (d : Nat) (f : List Flight) : Prop where
  net : t.net = w.net ++ f
  empty : ∀ r, (actor t).isEmpty r = if r ≠ 0 ∧ r = d then true else (actor w).isEmpty r
  rest : { actor t with
      empty := (actor w).empty, pc := (actor w).pc, loopCnt := (actor w).loopCnt, hint := (actor w).hint,
      trail := (actor w).trail, got := (actor w).got, walked := (actor w).walked, asks := (actor w).asks } = actor w
  pc : FallsThrough s t
  others : ∀ k, k ≠ s.me → getCtx t k = getCtx w k
  world : { t with ctxs := w.ctxs, badReg := w.badReg, net := w.net } = w

/-- The seated context k has entered its trap handler (R379): c is the cause record, r the resume address, before and
after its two states. -/
structure Entered (before after : Ctx) (tvec ts : Dword) (c : TrapRec) (r : Dword) : Prop where
  est : after.est = before.st
  epc : after.epc.toNat = r.toNat / 4 * 4
  ecause : after.ecause.toNat = c.code % 256 + c.acc % 256 * 256 + if c.deferred then 2 ^ 63 else 0
  eaddr : after.eaddr = c.eaddr
  eseq : after.eseq = ts
  frame : ∀ i, i < 8 → tget 0 after.tfd i = c.frame.getD i 0
  info : after.tfInfo = c.info ||| (if before.isEmpty 1 then 0 else 0x10) ||| (if before.isEmpty 2 then 0 else 0x20)
  tsv : after.tsv1 = before.readG 1 ∧ after.tsv2 = before.readG 2
  g1 : (after.readG 1).toNat = before.tarea.toNat / 64 * 64 ∧ after.isEmpty 1 = false
  g2 : after.readG 2 = after.ecause ∧ after.isEmpty 2 = false
  st : ∀ b, b < 64 → after.st.getLsbD b = if b = 0 ∨ b = 1 then true else if b = 2 then false else before.st.getLsbD b
  pc : after.pc.toNat = tvec.toNat / 4 * 4 ∧ after.hint = none
  regs : ∀ x, x ≠ 1 → x ≠ 2 → after.readG x = before.readG x ∧ after.isEmpty x = before.isEmpty x
  rest : after.v = before.v ∧ after.p = before.p ∧ after.fepol = before.fepol ∧ after.tarea = before.tarea
    ∧ after.loopCnt = before.loopCnt ∧ after.loopEnd = before.loopEnd ∧ after.loopLen = before.loopLen
    ∧ after.cspAddr = before.cspAddr ∧ after.hoop = before.hoop ∧ after.act = before.act ∧ after.deferred = before.deferred

/-- The system-only forms: the registers that they name (R37, R156, R248). -/
def systemOnly : Instr → Option (List Nat)
  | .eret => some [1, 2]
  | .snap d => some [d.toNat]
  | .gate => some []
  | .cwr a i => if i ≠ 1 ∧ ctlAssigned i.toNat = true then some [a.toNat] else none
  | .cspDataWrite a => some [a.toNat]
  | .ebudWrite a => some [a.toNat]
  | .tlbi d a b kind => some (d.toNat :: b.toNat :: if kind = 0 then [a.toNat] else [])
  | .inval d a disc _ _ => if disc = 1 then some [a.toNat, d.toNat] else none
  | _ => none

/-- The control registers that hold a value of their own, by index (R36, R92, R163, R246, R259, R331, R370, R378, R400). -/
def controls (s : State) : List (Nat × Dword) :=
  let c := actor s
  let cn := s.me / 256
  let l := getRec s cn (c.launch.getD 0)
  let core := getCore s cn
  [ (0x000, c.st), (0x001, c.fepol), (0x00E, c.tsv1), (0x00F, c.tsv2), (0x010, c.epc), (0x011, c.ecause),
    (0x012, c.eaddr), (0x013, c.eseq), (0x014, l.tvec), (0x015, c.est), (0x016, c.tfInfo), (0x017, c.tarea),
    (0x018, tget 0 c.tfd 0), (0x019, tget 0 c.tfd 1), (0x01A, tget 0 c.tfd 2), (0x01B, tget 0 c.tfd 3),
    (0x01C, tget 0 c.tfd 4), (0x01D, tget 0 c.tfd 5), (0x01E, tget 0 c.tfd 6), (0x01F, tget 0 c.tfd 7) ]
  ++ [ (0x100, tget 0 core.win 0), (0x101, tget 0 core.win 1), (0x102, tget 0 core.win 2), (0x103, tget 0 core.win 3),
    (0x200, l.root), (0x201, l.asid), (0x210, core.nack.setWidth 64), (0x220, c.loopCnt), (0x221, c.loopEnd),
    (0x222, c.loopLen), (0x230, c.cspAddr), (0x240, l.sbase), (0x241, core.refc.setWidth 64), (0x242, c.hoop),
    (0x250, l.spill), (0x253, core.quant.setWidth 64), (0x260, dieTs s (coreDie cn)), (0x801, core.fmask),
    (0x802, core.snapSeq.setWidth 64), (0x803, core.snapTs), (0x804, core.snapSrc), (0x805, core.miss.setWidth 64) ]
  ++ [ (0x002, c.fmap), (0x020, ((getLaunch s (c.launch.getD 0)).map (fun x => x.ebud)).getD 0),
    (0x021, ((getLaunch s (c.launch.getD 0)).map (fun x => BitVec.ofNat 64 (x.reported / 1024))).getD 0),
    (0x104, BitVec.ofNat 64 (core.wakes % 2 ^ 32 * 2 ^ 32 + core.gateState % 4)),
    (0x105, BitVec.ofNat 64 (core.ce % 2 ^ 32 * 2 ^ 32 + min core.ue 65535 * 2 ^ 16 + (if core.off then 2 else 0)
      + (if core.sp then 1 else 0))),
    (0x202, (getRind s (stRind c.st)).twin), (0x243, ctxName s s.me), (0x251, BitVec.ofNat 64 (core.bypass % 16)),
    (0x252, (getCluster s (coreCluster cn)).drop.setWidth 64), (0x800, if core.held then 1 else 0) ]
  ++ (List.range 64).map (fun i => (0x810 + i, tget 0 core.snapRegs (0x810 + i)))

/-- The fields that CWR writes in system mode, as a mask (R36, R37, R378 and the tables of the other chapters). -/
def writable : List (Nat × Dword) :=
  [ (0x000, 0xE0), (0x001, ~~~1), (0x00E, ~~~0), (0x00F, ~~~0), (0x010, ~~~3), (0x014, ~~~3), (0x017, ~~~63),
    (0x100, 0xE007FFFF0003FFC0), (0x101, 0xE007FFFF0003FFC0), (0x102, 0xE007FFFF0003FFC0), (0x103, 0xE007FFFF0003FFC0),
    (0x200, 0x01FFFFFFFFFFC000), (0x201, 0xFFFF), (0x221, ~~~3), (0x222, 0x7FF), (0x230, 0x1FFFFFFFFFF8),
    (0x240, ~~~0x3FFFF), (0x250, 0x01FFFFFFFFC00000), (0x251, 0xF), (0x253, 0xFFFFFFFF), (0x801, ~~~0) ]

/-- The control registers of the machine other than index i, but loop.cnt, which the loop test may step. -/
def SameControls (s t : State) (i : Nat) : Prop :=
  ∀ j x, j ≠ i → j ≠ 0x220 → (j, x) ∈ controls s → (j, x) ∈ controls t

end Sys2Proof.Rules

/-- R35, R42, R53: with an empty register among those it reads or writes, an instruction of INTR has no effect. An error record
decides first, then a trap bit of fepol, and else the context parks at its word, or at the hint before it. A register outside
g0 to g6 in a roaming context takes the context-class trap before all that.
(The model's choices in it: log 25, 26.) -/
def Obligations.EmptyRegisterStopsTheIssue : Prop :=
  (∀ (i : Instr) (d a b : BitVec 5) (f : Dword → Dword → Dword) (s : State),
    Rules.intr i = some (d, a, b, f) → (stRoam (actor s).st = true → d.toNat ≤ 6 ∧ a.toNat ≤ 6 ∧ b.toNat ≤ 6) →
    let rs := [a.toNat, b.toNat, d.toNat]
    let least := fun (r : Nat) (bad : Nat → Prop) => r ∈ rs ∧ bad r ∧ ∀ x ∈ rs, bad x → r ≤ x
    (∀ r e, least r (fun x => (actor s).isEmpty x = true ∧ (tfind (actor s).errs x).isSome = true) →
        tfind (actor s).errs r = some e →
        exec i s = .next (takeTrap s s.me e (Rules.again (actor s))))
    ∧ (∀ r, (∀ x ∈ rs, (actor s).isEmpty x = true → tfind (actor s).errs x = none) →
        least r (fun x => (actor s).isEmpty x = true ∧ (actor s).fepol.getLsbD x = true) →
        exec i s = .next (takeTrap s s.me { code := 0x06, eaddr := BitVec.ofNat 64 r } (Rules.again (actor s))))
    ∧ (∀ r, (∀ x ∈ rs, (actor s).isEmpty x = true → tfind (actor s).errs x = none ∧ (actor s).fepol.getLsbD x = false) →
        least r (fun x => (actor s).isEmpty x = true) →
        ∃ t, exec i s = .next t
          ∧ actor t = { actor s with pc := Rules.again (actor s), hint := none, act := .waiting (.register r) }
          ∧ (∀ k, k ≠ s.me → getCtx t k = getCtx s k)
          ∧ (getCore t (ctxCore s.me)).running ≠ some s.me
          ∧ { t with ctxs := s.ctxs, cores := s.cores } = s))
  ∧ (∀ (i : Instr) (d a b : BitVec 5) (f : Dword → Dword → Dword) (s : State),
    Rules.intr i = some (d, a, b, f) → stRoam (actor s).st = true → ¬ (d.toNat ≤ 6 ∧ a.toNat ≤ 6 ∧ b.toNat ≤ 6) →
    ∃ r, r ∈ [a.toNat, b.toNat, d.toNat] ∧ 6 < r
      ∧ exec i s = .next (takeTrap s s.me { code := 0x03, eaddr := BitVec.ofNat 64 r } (Rules.again (actor s))))

/-- R379: what a trap does in a seated context that is no Hoop member and whose cause raises no snapshot trigger. Nothing
outside the context changes but the fetch block of its core.
(The model's choices in it: log 50.) -/
def Obligations.TrapEntry : Prop :=
  ∀ (s : State) (k : Nat) (c : TrapRec) (r : Dword),
    stTrap (getCtx s k).st = false → stRoam (getCtx s k).st = false → (getCtx s k).hoop = 0 →
    (getCore s (ctxCore k)).fmask.getLsbD (c.code % 256) = false →
    Rules.Entered (getCtx s k) (getCtx (takeTrap s k c r) k)
        (getRec s (ctxCore k) ((getCtx s k).launch.getD 0)).tvec (dieTs s (coreDie (ctxCore k))) c r
      ∧ (∀ j, j ≠ k → getCtx (takeTrap s k c r) j = getCtx s j)
      ∧ (∀ j, { getCore (takeTrap s k c r) j with block := none, left := none } = { getCore s j with block := none, left := none })
      ∧ { takeTrap s k c r with ctxs := s.ctxs, cores := s.cores, badReg := s.badReg } = s

/-- R383: a trap cause in a handler kills the context, with no trap register changed, and logs event 0x0B. (A seated context
that is no Hoop member and has no open stream, on a core of a Rind whose log has room.) -/
def Obligations.DoubleTrapKills : Prop :=
  ∀ (s : State) (k rind : Nat) (c : TrapRec) (r : Dword),
    stTrap (getCtx s k).st = true → (getCtx s k).hoop = 0 → ctxIdx k < 128 →
    (∀ e ∈ s.streams, e.2.ctx ≠ k) → coreRind s (ctxCore k) = some rind →
    ((getRind s rind).log.head - (getRind s rind).log.tail).toNat ≠ 1024 →
    let t := takeTrap s k c r
    let x := getCtx s k
    let y := getCtx t k
    y.act = .dormant ∧ stGen y.st = stGen x.st + 1 ∧ (∀ q, y.isEmpty q = false) ∧ y.deferred = [] ∧ y.errs = []
      ∧ y.epc = x.epc ∧ y.ecause = x.ecause ∧ y.eaddr = x.eaddr ∧ y.eseq = x.eseq ∧ y.est = x.est ∧ y.tsv1 = x.tsv1
      ∧ y.tsv2 = x.tsv2 ∧ y.tfInfo = x.tfInfo ∧ y.tfd = x.tfd ∧ y.g = x.g ∧ y.v = x.v ∧ y.p = x.p
      ∧ (getCore t (ctxCore k)).running ≠ some k
      ∧ (∀ j, j ≠ k → getCtx t j = getCtx s j)
      ∧ (getRind t rind).log.head = (getRind s rind).log.head + 1
      ∧ (tget 0 (getRind t rind).log.ents ((getRind s rind).log.head.toNat % 1024)).extractLsb' 128 8 = 0x0B
      ∧ ((tget 0 (getRind t rind).log.ents ((getRind s rind).log.head.toNat % 1024)).extractLsb' 0 8).toNat = c.code % 256

/-- R249, R384: TRAP takes its trap with the code as eaddr, and resumes after its word. ERET in a handler of a seated context
restores g1, g2 with their bits and records, st but for gen, dem and ctx, and the pc; it clears tf.info.
(The model's choices in it: log 50.) -/
def Obligations.TrapAndReturn : Prop :=
  (∀ (code : BitVec 12) (s : State), Ready s [] →
    exec (.trap code) s = .next (takeTrap s s.me { code := 0x08, eaddr := code.setWidth 64 } ((actor s).pc + 4)))
  ∧ (∀ (s : State), Ready s [1, 2] → stSys (actor s).st = true → stTrap (actor s).st = true → stRoam (actor s).est = false →
    ∃ t, exec .eret s = .next t
      ∧ (actor t).readG 1 = (actor s).tsv1 ∧ (actor t).readG 2 = (actor s).tsv2
      ∧ (actor t).isEmpty 1 = !(actor s).tfInfo.getLsbD 4 ∧ (actor t).isEmpty 2 = !(actor s).tfInfo.getLsbD 5
      ∧ tfind (actor t).errs 1 = (actor s).errTsv1 ∧ tfind (actor t).errs 2 = (actor s).errTsv2
      ∧ (∀ b, b < 64 → (actor t).st.getLsbD b =
          if b = 4 ∨ (8 ≤ b ∧ b < 16) ∨ (32 ≤ b ∧ b < 40) then (actor s).st.getLsbD b else (actor s).est.getLsbD b)
      ∧ (actor t).tfInfo = 0 ∧ (actor t).pc = (actor s).epc ∧ (actor t).hint = none
      ∧ (∀ x, x ≠ 1 → x ≠ 2 → (actor t).readG x = (actor s).readG x ∧ (actor t).isEmpty x = (actor s).isEmpty x)
      ∧ (actor t).v = (actor s).v ∧ (actor t).p = (actor s).p ∧ (actor t).loopCnt = (actor s).loopCnt
      ∧ (∀ k, k ≠ s.me → getCtx t k = getCtx s k)
      ∧ { t with ctxs := s.ctxs, cores := s.cores, badReg := s.badReg } = s)

/-- R37, R105, R156, R248: a system-only form in user mode, a TLBI among them, takes the privilege trap with eaddr 0 and has no other effect. -/
def Obligations.PrivilegedFormsTrap : Prop :=
  ∀ (i : Instr) (rs : List Nat) (s : State),
    Rules.systemOnly i = some rs → Ready s rs → stRoam (actor s).st = false → stSys (actor s).st = false →
    exec i s = .next (takeTrap s s.me { code := 0x05, eaddr := 0 } (Rules.again (actor s)))

/-- R36, R250: CRD of the control registers that hold a value of their own; an unassigned index, which is any other but that of
csp.data, takes the illegal-control trap. -/
def Obligations.ControlRegisterRead : Prop :=
  (∀ (d : BitVec 5) (i : BitVec 12) (x : Dword) (s : State),
    (i.toNat, x) ∈ Rules.controls s → Ready s [d.toNat] → stRoam (actor s).st = false →
    ∃ t, exec (.crd d i) s = .next t ∧ (actor t).readG d.toNat = (if d = 0 then 0 else x) ∧ FallsThrough s t
      ∧ OnlyRegs s t [d.toNat])
  ∧ ∀ (d : BitVec 5) (i : BitVec 12) (s : State),
    (∀ e ∈ Rules.controls s, e.1 ≠ i.toNat) → i ≠ 0x231 → Ready s [d.toNat] → stRoam (actor s).st = false →
    exec (.crd d i) s = .next (takeTrap s s.me { code := 0x04, eaddr := i.setWidth 64 } (Rules.again (actor s)))

/-- R3, R36, R37, R250: CWR in system mode writes the RW fields of the register that it names, and no other control
register; in user mode it writes fepol. A write of a read-only register is ignored. A write of loop.cnt at the end of a body is
followed by the loop test on what was written (R247).
(The model's choices in it: log 24, 75.) -/
def Obligations.ControlRegisterWritten : Prop :=
  (∀ (a : BitVec 5) (i : BitVec 12) (m : Dword) (s : State),
    (i.toNat, m) ∈ Rules.writable → Ready s [a.toNat] → stRoam (actor s).st = false →
    (stSys (actor s).st = true ∨ i = 1) →
    ∃ t, exec (.cwr a i) s = .next t
      ∧ (∀ old, (i.toNat, old) ∈ Rules.controls s →
          (i.toNat, (if i = 0 then old &&& ~~~m else 0) ||| ((actor s).readG a.toNat &&& m)) ∈ Rules.controls t)
      ∧ Rules.SameControls s t i.toNat ∧ (i ≠ 0x221 → i ≠ 0x222 → FallsThrough s t)
      ∧ (∀ r, (actor t).readG r = (actor s).readG r) ∧ (actor t).v = (actor s).v ∧ (actor t).p = (actor s).p
      ∧ (∀ r, (actor t).isEmpty r = (actor s).isEmpty r) ∧ SameBytes s t)
  ∧ (∀ (a : BitVec 5) (s : State), Ready s [a.toNat] → stRoam (actor s).st = false → stSys (actor s).st = true →
      ∃ t, exec (.cwr a 0x220) s = .next t
        ∧ LoopStep { actor s with loopCnt := (actor s).readG a.toNat } (actor t).pc (actor t).loopCnt)
  ∧ (∀ (a : BitVec 5) (i : BitVec 12) (x : Dword) (s : State),
      (i.toNat, x) ∈ Rules.controls s → (∀ m, (i.toNat, m) ∉ Rules.writable) → i ≠ 0x020 → i ≠ 0x220 → i ≠ 0x800 →
      Ready s [a.toNat] → stRoam (actor s).st = false → stSys (actor s).st = true →
      ∃ t, exec (.cwr a i) s = .next t ∧ FallsThrough s t ∧ OnlyRegs s t [])

namespace Sys2Proof.Rules

/-- An instruction waits (R19, R21, R132): its context has left the issue slot with a new selection record, runnable, to
issue it again. w is what the attempt leaves. -/
structure Waits (s w t : State) : Prop where
  ctx : actor t = { actor w with
    pc := again (actor w), hint := none, act := .runnable
    sel := { arrival := w.cycle, port := 64, hit := true, bypass := 0 } }
  slot : (getCore t (ctxCore s.me)).running ≠ some s.me
  others : ∀ k, k ≠ s.me → getCtx t k = getCtx w k
  world : { t with ctxs := w.ctxs, cores := w.cores } = w

/-- The instructions that wait for the earlier accesses of their context, and which of them (R129, R132). -/
def fence : Instr → Option (Flight → Bool)
  | .fence _ => some (fun _ => true)
  | .fenceAcq _ => some (fun f => f.ord.ld && decide (f.ord.okind ≤ 2))
  | .fenceRel _ => some (fun f => decide (f.ord.okind ≤ 2))
  | .nop => some (fun _ => false)
  | _ => none

/-- The hints (R49 to R51). -/
def hint : Instr → Bool
  | .hImm _ => true
  | .hSched _ _ => true
  | .hMod _ _ => true
  | _ => false

end Sys2Proof.Rules

/-- R49, R53, R55, R129, R132: NOP, and a fence whose earlier accesses are performed, only move on. A fence whose earlier
accesses are not performed does not issue: the context gives its slot away and asks again. A hint has no effect of its own: it stands before the next word, and the pair
resumes at the hint.
(The model's choices in it: log 4, 47.) -/
def Obligations.FencesNopAndHints : Prop :=
  (∀ (i : Instr) (f : Flight → Bool) (s : State),
    Rules.fence i = some f → Ready s [] →
    ((pendingOf s s.me).any f = false → ∃ t, exec i s = .next t ∧ FallsThrough s t ∧ OnlyRegs s t [])
    ∧ ((pendingOf s s.me).any f = true → ∃ t, exec i s = .next t ∧ Rules.Waits s s t))
  ∧ (∀ (i : Instr) (s : State), Rules.hint i = true → Ready s [] →
    ∃ t, exec i s = .next t ∧ actor t = { actor s with hint := some ((actor s).pc, i), pc := (actor s).pc + 4 }
      ∧ Rules.again (actor t) = (actor s).pc
      ∧ (∀ k, k ≠ s.me → getCtx t k = getCtx s k) ∧ { t with ctxs := s.ctxs } = s)

/-- R253, R254, R350, R370, R377: PARK, GATE and YIELD leave the issue slot at the next word with every register kept: a
parked context waits for a fill, and one that yields is runnable with a new selection record. -/
def Sys2Proof.Rules.ParkGateYield : Prop :=
  ∀ (i : Instr) (a : Activity) (s : State), Ready s [] → (getCore s (ctxCore s.me)).running = some s.me →
    (i = .park ∧ a = .waiting .park) ∨ (i = .gate ∧ a = .waiting .gate ∧ stSys (actor s).st = true) ∨ (i = .yield ∧ a = .runnable) →
    ∃ t, exec i s = .next t ∧ (actor t).act = a
      ∧ FallsThrough s t
      ∧ (i = .yield → (actor t).sel = { arrival := s.cycle, port := 64, hit := true, bypass := 0 })
      ∧ { actor t with
          act := (actor s).act, sel := (actor s).sel, pc := (actor s).pc, loopCnt := (actor s).loopCnt,
          hint := (actor s).hint, trail := (actor s).trail, got := (actor s).got, walked := (actor s).walked,
          asks := (actor s).asks } = actor s
      ∧ (getCore t (ctxCore s.me)).running = none
      ∧ (i = .gate → tsorted s.ctxs = true → (∀ k, k ≠ s.me → ctxCore k = ctxCore s.me → (getCtx s k).act ≠ .runnable ∧ (getCtx s k).act ≠ .running) →
          (getCore t (ctxCore s.me)).gateState = 1 ∧ (getCore t (ctxCore s.me)).gateAt = some (s.cycle + 2))
      ∧ (∀ k, k ≠ s.me → getCtx t k = getCtx s k)
      ∧ { t with ctxs := s.ctxs, cores := s.cores } = s

/-- R44, R254, R349: EXIT of a seated context without open streams that is no Hoop member: it becomes dormant, its generation
advances, its loop registers, error records and refusals are cleared, every register is full, and its frame's slots are
free. -/
def Sys2Proof.Rules.ExitEndsTheContext : Prop :=
  ∀ (s : State), Ready s [] → ctxIdx s.me < 128 → (actor s).hoop = 0 → (∀ e ∈ s.streams, e.2.ctx ≠ s.me) →
    ∃ t, exec .exit s = .next t ∧ (actor t).act = .dormant ∧ stGen (actor t).st = stGen (actor s).st + 1
      ∧ (∀ r, (actor t).isEmpty r = false) ∧ (actor t).loopCnt = 0 ∧ (actor t).loopEnd = 0 ∧ (actor t).loopLen = 0
      ∧ (actor t).errs = [] ∧ (actor t).deferred = [] ∧ (actor t).frames = []
      ∧ (actor t).g = (actor s).g ∧ (actor t).v = (actor s).v ∧ (actor t).p = (actor s).p
      ∧ (∀ i ∈ (actor s).frames, tget false t.slots (ctxCore s.me * 256 + i) = false)
      ∧ (getCore t (ctxCore s.me)).running ≠ some s.me
      ∧ (∀ k, k ≠ s.me → getCtx t k = getCtx s k) ∧ t.net = s.net ∧ SameBytes s t

/-- PARK, YIELD, GATE and EXIT: the context leaves the issue, or ends. -/
def Obligations.YieldsAndExit : Prop := Sys2Proof.Rules.ParkGateYield ∧ Sys2Proof.Rules.ExitEndsTheContext

namespace Sys2Proof.Rules

/-- An instruction has completed whose own effect leaves w; it writes no register of the acting context beyond what w holds. -/
structure Moves (s w t : State) : Prop where
  pc : FallsThrough s t
  rest : { actor t with
      pc := (actor w).pc, loopCnt := (actor w).loopCnt, hint := (actor w).hint, trail := (actor w).trail,
      got := (actor w).got, walked := (actor w).walked, asks := (actor w).asks } = actor w
  others : ∀ k, k ≠ s.me → getCtx t k = getCtx w k
  world : { t with ctxs := w.ctxs } = w

/-- The queries: the registers read, the destination, and the value that fills it (R162, R191, R252, R260, R299). -/
def query (s : State) : Instr → Option (List Nat × BitVec 5 × Dword)
  | .erd d a => (energyUnit s (stRind (actor s).st) ((actor s).readG a.toNat)).map (fun u =>
      ([a.toNat], d, BitVec.ofNat 64 (tget 0 (getRind s (stRind (actor s).st)).energy u / 1024)))
  | .cspDataRead d =>
    if stSys (actor s).st && !stRoam (actor s).st then (ctlAt (actor s).cspAddr.toNat).bind (fun r =>
      if ctlAdmits s (stRind (actor s).st) r && (pendingOf s s.me).isEmpty then some ([], d, ctlRead s r) else none)
    else none
  | .dedupqCnt d a => some ([a.toNat], d, BitVec.ofNat 64 (caveCounter (getCave s (((actor s).readG a.toNat).toNat / 256 % 4))
      (stRind (actor s).st) (((actor s).readG a.toNat).toNat % 16)))
  | .cstat d a l =>
    if commandUnderway s s.me (8 * (s.me / 2048) + l.toNat) then none
    else some ([a.toNat], d, copyState s (s.me / 2048) l.toNat (actor s) (((actor s).readG a.toNat).toNat % 2 ^ 16))
  | .pstat d a p =>
    if commandUnderway s s.me (8 * (s.me / 2048) + 2 + p.toNat) then none
    else some ([a.toNat], d, pressState s (s.me / 2048) p.toNat (ctxAsid s s.me) (((actor s).readG a.toNat).toNat % 2 ^ 16))
  | .pstatHl d p =>
    let x := getPress s (s.me / 2048) p.toNat
    some ([], d, BitVec.ofNat 64 (x.mism.toNat * 2 ^ 32 + x.host.getD p.toNat % 4 * 2 ^ 8 + (if x.ret then 16 else 0)
      + x.spares % 8))
  | _ => none

/-- The four dwords of a 32-byte block. -/
def block32 (ds : List Dword) (m : BitVec 256) : Prop := ∀ i, i < 4 → m.extractLsb' (64 * i) 64 = ds.getD i 0

/-- The live table of a Rind with the bits of m inverted, and the replicas and code lines in the Rind's caches dropped (R18,
R107, R155): all of them, which is the model's choice (log 78). -/
def flipped (s : State) (rind : Nat) (m : BitVec 256) : State :=
  let mine := fun (cl : Nat) => (getCluster s cl).rind == some rind
  { modRind s rind (fun r => { r with live := r.live ^^^ m }) with
    l1 := s.l1.filter (fun e => !(e.2.replica.isSome && mine (e.1 % 2048 / 8)))
    l2 := s.l2.filter (fun e => !(e.2.replica.isSome && mine (e.1 % 256)))
    l1i := s.l1i.filter (fun e => !mine (e.1 % 2048 / 8)) }

/-- The send of one message that an instruction asks for (R340, R341). -/
structure Sending where
  dst : Nat
  rpt : Nat
  rv : Bool
  fmt : Nat
  dk : Nat
  kind : Nat
  payload : BitVec 384
  o : BitVec 2
  sc : BitVec 2

/-- Six registers from b on, the first in the lowest bits (R340). -/
def six (c : Ctx) (b : BitVec 5) : BitVec 384 :=
  c.readG (b.toNat + 5) ++ c.readG (b.toNat + 4) ++ c.readG (b.toNat + 3) ++ c.readG (b.toNat + 2) ++ c.readG (b.toNat + 1)
    ++ c.readG b.toNat

/-- The registers that a sending instruction names, the register that gives the address of its block, and what it sends.
m is the block. The converting formats are for system mode (R341). -/
def sending (c : Ctx) (m : Vec) : Instr → Option (List Nat × Option (BitVec 5) × Sending)
  | .send a b f sc o =>
    let h := (c.readG a.toNat).toNat
    if (f = 0 ∨ stSys c.st = true) ∧ h / 2 ^ 61 % 4 = 0 then
      some (a.toNat :: (List.range 6).map (fun i => b.toNat + i), none,
        { dst := h % 2 ^ 32, rpt := h / 2 ^ 32 % 2 ^ 29, rv := h.testBit 63, fmt := f.toNat, dk := 0, kind := 0,
          payload := six c b, o := o, sc := sc })
    else none
  | .sendv a b f sc o =>
    let h := (c.readG a.toNat).toNat
    if (f = 0 ∨ stSys c.st = true) ∧ h / 2 ^ 61 % 4 = 0 then
      some ([a.toNat, 32 + b.toNat], none,
        { dst := h % 2 ^ 32, rpt := h / 2 ^ 32 % 2 ^ 29, rv := h.testBit 63, fmt := f.toNat, dk := 0, kind := 0,
          payload := (c.readV b.toNat).extractLsb' 0 384, o := o, sc := sc })
    else none
  | .reply a b f sc o =>
    if (f = 0 ∨ stSys c.st = true) ∧ m.getLsbD 55 = true then
      some (a.toNat :: (List.range 6).map (fun i => b.toNat + i), some a,
        { dst := (m.extractLsb' 64 32).toNat, rpt := (m.extractLsb' 64 32).toNat, rv := false, fmt := f.toNat, dk := 0,
          kind := 0, payload := six c b, o := o, sc := sc })
    else none
  | .pmsg a sc o =>
    let dk := (m.extractLsb' 60 4).toNat
    if (dk = 0 ∨ (dk = 5 ∧ stSys c.st = true)) ∧ m.getLsbD 40 = false
        ∧ (stSys c.st = true ∨ (m.extractLsb' 52 3).toNat = 0) then
      some ([a.toNat], some a,
        { dst := (m.extractLsb' 96 32).toNat, rpt := (m.extractLsb' 64 32).toNat, rv := m.getLsbD 55,
          fmt := (m.extractLsb' 52 3).toNat, dk := dk, kind := if stSys c.st then (m.extractLsb' 32 8).toNat else 0,
          payload := m.extractLsb' 128 384, o := o, sc := sc })
    else none
  | _ => none

/-- The pattern that a pattern block binds (R334). -/
def patternOf (m : BitVec 256) (owner : Option Nat) : Pattern :=
  { refs := (((List.range 4).map (fun i => m.extractLsb' (32 * i) 32)).filter (fun r => r.getLsbD 31)).map (fun r =>
      ((r.extractLsb' 16 6).toNat, (r.extractLsb' 0 16).toNat))
    handler := m.extractLsb' 192 64
    cmask := (m.extractLsb' 176 16).toNat
    prio := (m.extractLsb' 168 3).toNat
    owner := owner }

/-- A pattern bound under its key, 32 × core + index. -/
def bound (s : State) (key : Nat) (p : Pattern) : State := { s with patterns := tput s.patterns key p }

/-- The order of a store to a pattern of a core (R356): an RC store to a place of the pattern's own, so that the stores of one
context to one pattern keep their program order (R132). -/
def patternOrder (cn : Nat) (index : Dword) : Ord :=
  { okind := 2, ld := false, st := true, acq := false, rel := false
    lo := 2 ^ 64 + 2 ^ 40 + 32 * cn + index.toNat % 32, hi := 2 ^ 64 + 2 ^ 40 + 32 * cn + index.toNat % 32 + 1 }

/-- The order of a cache instruction on a unit (R157): a store to every byte of it that carries no order flags. -/
def unitOrder (x : Xl) (u : BitVec 2) : Ord :=
  { okind := x.okind, ld := false, st := true, acq := false, rel := false
    lo := x.pa - paLocal x.pa + (unitRange x u).1, hi := x.pa - paLocal x.pa + (unitRange x u).1 + (unitRange x u).2 }

/-- How the fills and write-backs of a cache instruction on a page go. -/
def via (s : State) (x : Xl) : Via := { launch := (actor s).launch, plain := x.pkind == 0 }

/-- A line of HBM or of the Whey tier that its Cave slice holds a tag of its own for, where nothing cached or stored is
uncorrectable and no image stands over a byte (R84, R141, R148): writing it back displaces nothing else. -/
structure Settled (s : State) (x : Xl) : Prop where
  window : windowOf (paLocal x.pa) = .hbm ∨ windowOf (paLocal x.pa) = .whey
  sound : (∀ e ∈ s.l1, e.2.bad = []) ∧ (∀ e ∈ s.l2, e.2.bad = [])
    ∧ caveBad s (clusterDie (coreCluster x.home)) (paLocal x.pa / 128) = []
    ∧ halfBad s (paLocal x.pa / 128 * 128) = false ∧ halfBad s (paLocal x.pa / 128 * 128 + 64) = false
  images : ∀ b, b / 128 = paLocal x.pa / 128 → tfind s.topHeld b = none ∧ tfind s.cavHeld b = none
  tag : ∃ t e, tfind (getCave s (clusterDie (coreCluster x.home))).sectors (paLocal x.pa / 1024) = some t
    ∧ tfind (getCave s (clusterDie (coreCluster x.home))).entries t.entry = some e ∧ e.rc < 2

/-- A unit of n bytes from lo written back to a level and then invalidated above it (R158). -/
def invalidated (s : State) (x : Xl) (lo n : Nat) (level u : BitVec 2) : State :=
  let w := cleanRange s x.home lo n level (via s x)
  let pa := x.pa - paLocal x.pa + lo
  let w := dropCopies w x.comp (replLine w pa) (n / 128) (pa / 64)
  if level = 0 then dropCave w x.home lo n u else w

/-- What an instruction that counts as a send waits for under R132 (R136, R351, R356) is performed. -/
def sendsAtOnce (s : State) : Prop := mustWait s s.me (sendOrd false false) = false

/-- The message of a send (R328, R344) from the acting context. -/
def messageOf (s : State) (x : Sending) : BitVec 512 :=
  mkMessage (mkHeader x.dst x.rpt x.dk (stRind (actor s).st) x.rv x.fmt (coreField (s.me / 256)) x.kind 0 (stCtx (actor s).st))
    (convSend x.fmt x.payload)

/-- The parts and lanes of the MEMX vector accesses (R123, R124): the accesses, whether each must be aligned, whether it loads,
the destination, the value under the parts, and the registers named. -/
structure Parts where
  wants : List Want
  aligned : Bool
  load : Bool
  d : Nat
  base : Vec
  regs : List Nat

/-- The offsets and lengths of 64 bytes at an address, split where a line ends. -/
def halves (ea : Dword) : List (Nat × Nat) :=
  if ea.toNat % 128 ≤ 64 then [(0, 64)] else [(0, 128 - ea.toNat % 128), (128 - ea.toNat % 128, ea.toNat % 128 - 64)]

/-- The address of lane i of a gather or scatter: g[a] plus the lane of v[b], signed, counted in lanes. -/
def laneAddr (c : Ctx) (a b : BitVec 5) (n i : Nat) : Dword :=
  let x := lane (c.readV b.toNat) n i
  BitVec.ofInt 64 ((c.readG a.toNat).toNat + (if 2 ^ (8 * n - 1) ≤ x then (x : Int) - 2 ^ (8 * n) else x) * n)

/-- The parts of the four instructions. -/
def parts (c : Ctx) : Instr → Option Parts
  | .vldu d a b o sc =>
    let ea := c.readG a.toNat + c.readG b.toNat
    some { wants := (halves ea).map (fun p => { loadOf (ea + BitVec.ofNat 64 p.1) 4 (.part d.toNat p.1) o sc with n := p.2 })
           aligned := false, load := true, d := d.toNat, base := 0, regs := [a.toNat, b.toNat, 32 + d.toNat] }
  | .vstu d a b o sc =>
    let ea := c.readG a.toNat + c.readG b.toNat
    some { wants := (halves ea).map (fun p =>
             { storeOf (ea + BitVec.ofNat 64 p.1) 4 (c.readV d.toNat >>> (8 * p.1)) o sc with n := p.2 })
           aligned := false, load := false, d := d.toNat, base := 0, regs := [a.toNat, b.toNat, 32 + d.toNat] }
  | .vgath d a b m z sz =>
    let n := 2 ^ sz.toNat
    some { wants := ((List.range (64 / n)).filter (active c m n)).map (fun i =>
             { loadOf (laneAddr c a b n i) sz.toNat (.part d.toNat (n * i)) 0 0 with n := n })
           aligned := true, load := true, d := d.toNat, regs := [a.toNat, 32 + b.toNat, 64 + m.toNat, 32 + d.toNat]
           base := mergeLanes (c.readP m.toNat) n (z == 1) (c.readV d.toNat) (lanes (c.readV d.toNat) n) }
  | .vscat d a b m sz =>
    let n := 2 ^ sz.toNat
    some { wants := ((List.range (64 / n)).filter (active c m n)).map (fun i =>
             { storeOf (laneAddr c a b n i) sz.toNat (BitVec.ofNat 512 (lane (c.readV d.toNat) n i)) 0 0 with n := n })
           aligned := true, load := false, d := d.toNat, base := 0
           regs := [a.toNat, 32 + b.toNat, 64 + m.toNat, 32 + d.toNat] }
  | _ => none

end Sys2Proof.Rules

/-- R162, R191, R252, R260, R299: the energy of a unit, a control-space register, a counter of a Cave slice, and the state of
a copy, of a Press command and of a Press are read at the issue and fill g[d].
(The model's choices in it: log 4, 31, 48.) -/
def Obligations.QueriesAreFilled : Prop :=
  ∀ (i : Instr) (rs : List Nat) (d : BitVec 5) (x : Dword) (s : State),
    Rules.query s i = some (rs, d, x) → Ready s (d.toNat :: rs) →
    ∃ t, exec i s = .next t ∧ Rules.Answers s s t d x

/-- R251, R399, R400: SNAP with every earlier access performed raises the trigger of its Rind, or joins the one that is
latching; its number fills g[d] when it latches. Within 64 cycles of the first source it joins the snapshot that has latched,
whose number fills. After that, while a snapshot is held, it counts as missed, and the held number fills.
(The model's choices in it: log 36, 87.) -/
def Obligations.SnapRaisesTheTrigger : Prop :=
  ∀ (d : BitVec 5) (s : State), Ready s [d.toNat] → stSys (actor s).st = true → (pendingOf s s.me).isEmpty = true →
    let r := stRind (actor s).st
    let me : Reply := { ctx := s.me, gen := stGen (actor s).st, reg := d.toNat, inTrap := stTrap (actor s).st }
    ∃ t, exec (.snap d) s = .next t ∧ FallsThrough s t
      ∧ (∀ x, (actor t).isEmpty x = if x ≠ 0 ∧ x = d.toNat then true else (actor s).isEmpty x)
      ∧ ((getRind s r).trigger = none → (getRind s r).joinTo ≤ s.cycle → (getRind s r).held = false →
          (getRind t r).trigger = some { cycle := s.cycle, src := BitVec.ofNat 64 (coreField (s.me / 256) * 2 ^ 29),
                                         ts := s.ts, waiters := [me] } ∧ t.net = s.net)
      ∧ (∀ g, (getRind s r).trigger = some g →
          (getRind t r).trigger = some { g with waiters := g.waiters ++ [me] } ∧ t.net = s.net)
      ∧ ((getRind s r).trigger = none → (getRind s r).joinTo ≤ s.cycle → (getRind s r).held = true →
          t.net = s.net ++ Rules.fillOf s d ((getRind s r).latches.setWidth 64)
            ∧ ∀ cn ∈ rindCores s r, (getCore t cn).miss = (getCore s cn).miss + 1)
      ∧ ((getRind s r).trigger = none → s.cycle < (getRind s r).joinTo →
          t.net = s.net ++ Rules.fillOf s d ((getRind s r).latches.setWidth 64) ∧ t.rinds = s.rinds
            ∧ ∀ cn ∈ rindCores s r, (getCore t cn).miss = (getCore s cn).miss)

/-- R259, R260, R375, R376: CWR of csp.data writes the register that csp.addr names, and CWR of ebud the launch's budget,
which replenishes a demoted launch when it exceeds what is used. -/
def Obligations.SpecialRegisterWrites : Prop :=
  (∀ (a : BitVec 5) (r : CtlReg) (s : State), Ready s [a.toNat] → stSys (actor s).st = true → stRoam (actor s).st = false →
    (pendingOf s s.me).isEmpty = true → ctlAt (actor s).cspAddr.toNat = some r → ctlAdmits s (stRind (actor s).st) r = true →
    ∃ t, exec (.cspDataWrite a) s = .next t ∧ Rules.Moves s (ctlWrite s false r ((actor s).readG a.toNat)) t)
  ∧ (∀ (a : BitVec 5) (l : Nat) (x : Launch) (s : State), Ready s [a.toNat] → stSys (actor s).st = true →
    stRoam (actor s).st = false → (actor s).launch = some l → getLaunch s l = some x →
    ∃ t, exec (.ebudWrite a) s = .next t
      ∧ (getLaunch t l).map (fun y => y.ebud) = some ((actor s).readG a.toNat)
      ∧ (x.demoted = false → Rules.Moves s (modLaunch s l (fun y => { y with ebud := (actor s).readG a.toNat })) t)
      ∧ (x.demoted = true → x.reported / 1024 < ((actor s).readG a.toNat).toNat →
          (getLaunch t l).map (fun y => y.demoted) = some false ∧ stDem (actor t).st = false))

/-- R103, R106 to R110: TLBI removes the entries that its kind names in the core groups of its mask; its fill comes once every
access of its Rind issued before it is performed; VFLIP and VFLIPC invert
live versions, VPIN copies them to the launch's snapshot, and VRD reads a dword of a table.
(The model's choices in it: log 15; that a flip drops every replica and code line of the Rind, log 78; that VFLIPC tests g[b] once it
has read the mask, log 93.) -/
def Obligations.TranslationInstructions : Prop :=
  (∀ (d a b : BitVec 5) (kind : BitVec 2) (s : State), WellFormed (.tlbi d a b kind) → Ready s [b.toNat, a.toNat, d.toNat] →
    stSys (actor s).st = true →
    let sel := ((actor s).readG b.toNat).toNat
    let va := (actor s).readG a.toNat
    let goes := fun (u : Nat) (e : Tlb) =>
      (getCluster s (if u < 2048 then u / 8 else u - 2048)).rind = some (stRind (actor s).st)
        ∧ (sel / 2 ^ 32 % 2 ^ 32).testBit ((if u < 2048 then u / 8 else u - 2048) / 8) = true
        ∧ e.rind = stRind (actor s).st ∧ (kind ≠ 2 → e.asid = sel % 2 ^ 16)
        ∧ (kind = 0 → canonical va = true ∧ e.vpage = va.toNat / 2 ^ e.shift)
    let me : Reply := { ctx := s.me, gen := stGen (actor s).st, reg := d.toNat, inTrap := stTrap (actor s).st }
    ∃ t, exec (.tlbi d a b kind) s = .next t ∧ FallsThrough s t
      ∧ (∀ r, (actor t).isEmpty r = if r ≠ 0 ∧ r = d.toNat then true else (actor s).isEmpty r)
      ∧ t.net = s.net ++ (if d = 0 then [] else
          [{ owner := none, launch := none, ord := sendOrd false false, body := .shoot me (stRind (actor s).st) s.tick }])
      ∧ SameBytes s t
      ∧ ∀ u e, e ∈ tget [] t.tlbs u ↔ e ∈ tget [] s.tlbs u ∧ ¬ goes u e)
  ∧ (∀ (n rind before : Nat) (f : Flight) (r : Reply) (s : State), s.net[n]? = some f → f.body = .shoot r rind before →
    exec (.fill (.net n)) s = .next (if accessBefore s rind before then s
      else applyFill { s with net := dropNth s.net n } r 0))
  ∧ (∀ (d a : BitVec 5) (ds : List Dword) (m : BitVec 256) (s s1 : State), Ready s [a.toNat, d.toNat] →
    ((actor s).readG a.toNat).toNat % 32 = 0 → (pendingOf s s.me).isEmpty = true →
    readList s s.me ((actor s).readG a.toNat) 4 [] = (s1, .ok ds) → Rules.block32 ds m →
    (∃ t, exec (.vflip d a) s = .next t ∧ Rules.Answers s (Rules.flipped s1 (stRind (actor s).st) m) t d 0)
    ∧ (∃ t, exec (.vpin d a) s = .next t ∧ Rules.Answers s (modLaunch s1 ((actor s).launch.getD 0) (fun l =>
        { l with snap := (l.snap &&& ~~~m) ||| ((getRind s1 (stRind (actor s).st)).live &&& m) })) t d 0))
  ∧ (∀ (d a b : BitVec 5) (ds es : List Dword) (m : BitVec 256) (s s1 s2 : State), Ready s [a.toNat, b.toNat, d.toNat] →
    ((actor s).readG a.toNat).toNat % 32 = 0 → ((actor s).readG b.toNat).toNat % 32 = 0 → (pendingOf s s.me).isEmpty = true →
    readList s s.me ((actor s).readG a.toNat) 4 [] = (s1, .ok ds) → Rules.block32 ds m →
    readList s1 s.me ((actor s).readG b.toNat) 4 [] = (s2, .ok es) → es.getD 2 0 = 0 →
    ctrMalformed (es.getD 0 0) = false → ctrNode (es.getD 0 0) = s.node →
    coreRind s2 (ctrCore (es.getD 0 0)) = some (stRind (actor s).st) →
    let now := getCounter s2 (ctrCore (es.getD 0 0)) (ctrIndex (es.getD 0 0))
    let target : Word := (es.getD 1 0).setWidth 32
    ∃ t, exec (.vflipc d a b) s = .next t
      ∧ (0 ≤ (now - target).toInt → Rules.Answers s (Rules.flipped s2 (stRind (actor s).st) m) t d 0)
      ∧ ((now - target).toInt < 0 → Rules.Answers s s2 t d 1))
  ∧ (∀ (d : BitVec 5) (src : BitVec 1) (w : BitVec 2) (s : State), Ready s [d.toNat] →
    let table : BitVec 256 := if src = 0 then (getRind s (stRind (actor s).st)).live
      else (((actor s).launch.bind (getLaunch s)).map (fun l => l.snap)).getD 0
    ∃ t, exec (.vrd d src w) s = .next t ∧ FallsThrough s t ∧ OnlyRegs s t [d.toNat]
      ∧ (actor t).readG d.toNat = if d = 0 then 0 else table.extractLsb' (64 * w.toNat) 64)

/-- R328, R340, R341, R344: SEND, SENDV, REPLY and PMSG put one message in flight and count it as unacknowledged. m is the
block that REPLY and PMSG read. -/
def Obligations.SendsGoOut : Prop :=
  ∀ (i : Instr) (rs : List Nat) (blk : Option (BitVec 5)) (m : Vec) (x : Rules.Sending) (s s1 : State),
    Rules.sending (actor s) m i = some (rs, blk, x) → WellFormed i → Ready s rs →
    (blk = none → s1 = s) →
    (∀ a, blk = some a → ((actor s).readG a.toNat).toNat % 64 = 0
      ∧ blockRead s s.me ((actor s).readG a.toNat) 64 = (s1, .ok m)) →
    x.dst < 2 ^ 29 → (x.dst / 2 ^ 17 = s.node → coreRind s1 (coreOfField (x.dst / 64 % 2048)) = some (stRind (actor s).st)) →
    (x.dk = 0 → x.dst / 2 ^ 17 = s.node) → (actor s).unacked < 4 →
    ∃ t, exec i s = .next t
      ∧ Rules.Moves s { modCtx s1 s.me (fun c => { c with unacked := c.unacked + 1 }) with
          net := s1.net ++ [Rules.flight s
            { okind := 2, ld := false, st := true, acq := x.o.getLsbD 0, rel := x.o.getLsbD 1, lo := 0, hi := 0,
              scope := x.sc.toNat } (.message (Rules.messageOf s x))] } t

/-- R345 to R348, R356: PCFG configures a port that no other launch owns, PBIND reads its block and binds the pattern as its
status is filled, PUNBIND removes one, and PPEEK reads a port.
(The model's choices in it: log 18, 43.) -/
def Obligations.PortInstructions : Prop :=
  (∀ (d a : BitVec 5) (s : State), Ready s [a.toNat, d.toNat] →
    let w := ((actor s).readG a.toNat).toNat
    let p := w % 64
    let q := getPort s (s.me / 256) p
    let en := w.testBit 63
    let cnt := w.testBit 62
    let cap := w / 2 ^ 40 % 256
    let fresh := q.en = false ∧ q.queue = [] ∧ q.count = 0
    let free := fresh ∨ q.owner = none ∨ q.owner = (actor s).launch
    Rules.sendsAtOnce s →
    ∃ t, exec (.pcfg d a) s = .next t ∧ FallsThrough s t
      ∧ ((w / 2 ^ 48 % 2 ^ 14 ≠ 0 ∨ w / 2 ^ 6 % 2 ^ 34 ≠ 0 ∨ (en = true ∧ cnt = false ∧ cap = 0)) →
          OnlyRegs s t [d.toNat] ∧ (actor t).readG d.toNat = if d = 0 then 0 else 3)
      ∧ (¬ (w / 2 ^ 48 % 2 ^ 14 ≠ 0 ∨ w / 2 ^ 6 % 2 ^ 34 ≠ 0 ∨ (en = true ∧ cnt = false ∧ cap = 0)) →
          ((stSys (actor s).st = false ∧ (p = 63 ∨ ¬ free)) →
            OnlyRegs s t [d.toNat] ∧ (actor t).readG d.toNat = if d = 0 then 0 else 1)
          ∧ (¬ (stSys (actor s).st = false ∧ (p = 63 ∨ ¬ free)) →
            ((cnt ≠ q.count? ∧ (q.queue ≠ [] ∨ q.count ≠ 0 ∨ portReferenced s (s.me / 256) p = true)) →
              OnlyRegs s t [d.toNat] ∧ (actor t).readG d.toNat = if d = 0 then 0 else 2)
            ∧ (¬ (cnt ≠ q.count? ∧ (q.queue ≠ [] ∨ q.count ≠ 0 ∨ portReferenced s (s.me / 256) p = true)) →
              (actor t).readG d.toNat = 0 ∧ { t with ctxs := s.ctxs, badReg := s.badReg, ports := s.ports } = s
              ∧ (getPort t (s.me / 256) p).en = en ∧ (getPort t (s.me / 256) p).count? = cnt
              ∧ (cnt = false → (getPort t (s.me / 256) p).cap = cap)
              ∧ (getPort t (s.me / 256) p).queue = q.queue ∧ (getPort t (s.me / 256) p).count = q.count
              ∧ (fresh → (getPort t (s.me / 256) p).owner = (actor s).launch)))))
  ∧ (∀ (d a b : BitVec 5) (ds : List Dword) (m : BitVec 256) (s s1 : State), Ready s [a.toNat, b.toNat, d.toNat] →
    ((actor s).readG a.toNat).toNat % 32 = 0 → readList s s.me ((actor s).readG a.toNat) 4 [] = (s1, .ok ds) →
    Rules.block32 ds m →
    let me : Reply := { ctx := s.me, gen := stGen (actor s).st, reg := d.toNat, inTrap := stTrap (actor s).st }
    ∃ t, exec (.pbind d a b) s = .next t ∧ FallsThrough s t
      ∧ (∀ r, (actor t).isEmpty r = if r ≠ 0 ∧ r = d.toNat then true else (actor s).isEmpty r)
      ∧ t.net = s1.net ++ [Rules.flight s (Rules.patternOrder (s.me / 256) ((actor s).readG b.toNat))
          (.bind (s.me / 256) (actor s).launch (stSys (actor s).st) ((actor s).readG b.toNat) m me)]
      ∧ t.patterns = s1.patterns)
  ∧ (∀ (n cn i : Nat) (launch : Option Nat) (sys : Bool) (m : BitVec 256) (f : Flight) (r : Reply) (s : State),
    s.net[n]? = some f → f.body = .bind cn launch sys (BitVec.ofNat 64 i) m r → mayPerform s n f = true → i < 32 →
    (i = 31 → sys = true) → blockBad s cn launch m = false →
    (∀ p, tfind s.patterns (cn * 32 + i) = some p → p.owner = none ∨ p.owner = launch) →
    let w := Rules.bound { s with net := dropNth s.net n } (cn * 32 + i) (Rules.patternOf m launch)
    exec (.fill (.net n)) s = .next (if r.reg = 0 then w else applyFill w r 0))
  ∧ (∀ (d a : BitVec 5) (s : State), Ready s [a.toNat, d.toNat] →
    mustWait s s.me (Rules.patternOrder (s.me / 256) ((actor s).readG a.toNat)) = false → ((actor s).readG a.toNat).toNat < 32 →
    (((actor s).readG a.toNat).toNat = 31 → stSys (actor s).st = true) →
    (∀ p, tfind s.patterns (s.me / 256 * 32 + ((actor s).readG a.toNat).toNat) = some p →
      p.owner = none ∨ p.owner = (actor s).launch) →
    ∃ t, exec (.punbind d a) s = .next t ∧ FallsThrough s t ∧ (actor t).readG d.toNat = 0
      ∧ tfind t.patterns (s.me / 256 * 32 + ((actor s).readG a.toNat).toNat) = none
      ∧ (∀ k, k ≠ s.me / 256 * 32 + ((actor s).readG a.toNat).toNat → tfind t.patterns k = tfind s.patterns k)
      ∧ { t with ctxs := s.ctxs, badReg := s.badReg, patterns := s.patterns } = s)
  ∧ (∀ (d a : BitVec 5) (s : State), Ready s [a.toNat, d.toNat] →
    ∃ t, exec (.ppeek d a) s = .next t ∧ FallsThrough s t ∧ OnlyRegs s t [d.toNat]
      ∧ (d ≠ 0 → (actor t).readG d.toNat = portWord (getPort s (s.me / 256) (((actor s).readG a.toNat).toNat % 64))))

/-- R156 to R161: the CACHE instructions on a page that a cache may hold, with nothing to wait for. CLEAN and INVAL write the
dirty copies back, INVAL then removes the copies, a discard drops them, ORIENT to row clears the sector's bit, DEDUPQ reads
the sector's tag; all fill g[d]. After a CLEAN or INVAL of a line the level named holds every byte as it was read before, no
level above holds a dirty byte of it, and a level that INVAL invalidates holds the line no more. PREF fills nothing and never
traps.
(The model's choices in it: log 7, 53, 82.) -/
def Obligations.CacheInstructions : Prop :=
  (∀ (d a : BitVec 5) (l u : BitVec 2) (s s1 : State) (x : Xl), WellFormed (.clean d a l u) → Ready s [a.toNat, d.toNat] →
    translate s (ctxReq s s.me) ((actor s).readG a.toNat) .load = (s1, .ok x) → cachedKind s1 x = true →
    (pendingOf s1 s.me).isEmpty = true →
    let s2 := Rules.marked s1 x .load
    let clean := cleanRange s2 x.home (unitRange x u).1 (unitRange x u).2 l (Rules.via s x)
    let gone := Rules.invalidated s2 x (unitRange x u).1 (unitRange x u).2 l u
    let fill := [Rules.flight s (Rules.unitOrder x u) (.descFill (Rules.mine s d.toNat) 0)]
    (∃ t, exec (.clean d a l u) s = .next t ∧ Rules.Awaits s clean t d.toNat fill)
    ∧ (∃ t, exec (.inval d a 0 l u) s = .next t ∧ Rules.Awaits s gone t d.toNat fill)
    ∧ (u = 0 → Rules.Settled s2 x → MemInv s2 → ∀ w, w = clean ∨ w = gone → ∀ b, b / 128 = paLocal x.pa / 128 →
        readByte w b = readByte s2 b ∧ tfind w.top b = none
        ∧ (if l = 0 then memAt w b = readByte s2 b ∧ tfind w.cav b = none else caveByte w b = readByte s2 b))
    ∧ (u = 0 → Rules.Settled s2 x → (∀ e ∈ gone.l1, e.1 / 2048 = paLocal x.pa / 128 → e.2.replica.isSome = true)
        ∧ (∀ e ∈ gone.l2, e.1 / 256 = paLocal x.pa / 128 → e.2.replica.isSome = true)
        ∧ (l = 0 → caveHas gone (clusterDie (coreCluster x.home)) (paLocal x.pa / 128) {} = false)))
  ∧ (∀ (d a : BitVec 5) (l u : BitVec 2) (s s1 : State) (x : Xl), WellFormed (.inval d a 1 l u) → Ready s [a.toNat, d.toNat] →
    stSys (actor s).st = true → translate s (ctxReq s s.me) ((actor s).readG a.toNat) .store = (s1, .ok x) →
    cachedKind s1 x = true → (pendingOf s1 s.me).isEmpty = true →
    ∃ t w, exec (.inval d a 1 l u) s = .next t
      ∧ Rules.Awaits s w t d.toNat [Rules.flight s (Rules.unitOrder x u) (.descFill (Rules.mine s d.toNat) 0)]
      ∧ (∀ b, (unitRange x u).1 ≤ b → b < (unitRange x u).1 + (unitRange x u).2 →
          tfind w.top b = none ∧ (l = 0 → tfind w.cav b = none))
      ∧ w.mem = (Rules.marked s1 x .store).mem)
  ∧ (∀ (d a : BitVec 5) (s s1 : State) (x : Xl) (t0 : Sector), Ready s [a.toNat, d.toNat] →
    translate s (ctxReq s s.me) ((actor s).readG a.toNat) .store = (s1, .ok x) → isLocal s1 x.pa = true →
    columnBad s1 x.pkind (paLocal x.pa) x.home = false → (pendingOf s1 s.me).isEmpty = true →
    colBit (Rules.marked s1 x .store) (clusterDie (coreCluster x.home)) (paLocal x.pa) = true →
    let s2 := Rules.marked s1 x .store
    tfind (getCave s2 (clusterDie (coreCluster x.home))).sectors (paLocal x.pa / 1024) = some t0 →
    ∃ t w, exec (.orient d a 0) s = .next t
      ∧ Rules.Awaits s w t d.toNat [Rules.flight s (Rules.unitOrder x 1) (.descFill (Rules.mine s d.toNat) 0)]
      ∧ (tfind (getCave w (clusterDie (coreCluster x.home))).sectors (paLocal x.pa / 1024)) = some { t0 with col := false }
      ∧ { w with caves := s2.caves } = s2)
  ∧ (∀ (d a : BitVec 5) (s s1 : State) (x : Xl), Ready s [a.toNat, d.toNat] →
    translate s (ctxReq s s.me) ((actor s).readG a.toNat) .load = (s1, .ok x) → cachedKind s1 x = true →
    ∃ t, exec (.dedupqSec d a) s = .next t
      ∧ Rules.Answers s (Rules.marked s1 x .load) t d (sectorWord (Rules.marked s1 x .load) (clusterDie (coreCluster x.home)) (paLocal x.pa / 1024)))
  ∧ (∀ (a : BitVec 5) (t u : BitVec 2) (s : State), WellFormed (.pref a t u) → Ready s [a.toNat] →
    (translate s (ctxReq s s.me) ((actor s).readG a.toNat) .load).2 ≠ .error .walking →
    ∃ t', exec (.pref a t u) s = .next t' ∧ FallsThrough s t' ∧ (actor t').g = (actor s).g ∧ (actor t').v = (actor s).v
      ∧ (actor t').p = (actor s).p ∧ (actor t').st = (actor s).st ∧ (actor t').empty = (actor s).empty
      ∧ ∀ k, k ≠ s.me → getCtx t' k = getCtx s k)

/-- R123 to R125, R132: a split, gathered or scattered access whose parts all pass their checks and wait for nothing. Its
parts are performed or sent in order; the destination takes what came back, or becomes empty until the rest has.
(The model's choices in it: log 4, 28, 71.) -/
def Obligations.SplitAndLaneAccesses : Prop :=
  ∀ (i : Instr) (p : Rules.Parts) (s s1 s2 s3 : State) (qs : List (Want × Access × Xl × Bool)) (r : Machine.Parts),
    Rules.parts (actor s) i = some p → WellFormed i → Ready s p.regs →
    checkAll s s.me p.aligned p.wants = (s1, .ok qs) →
    (∀ q ∈ qs.flatMap (packetParts s1), q.2.2.2 = true → mustWait s1 s.me (accessOrd s1 q.1 q.2.1 q.2.2.1) = false) →
    partsReady s1 s.me (qs.flatMap (packetParts s1)) = (s2, none) →
    runParts ((qs.flatMap (packetParts s1)).foldl (fun s q => Rules.marked s q.2.2.1 (opAcc q.1.op)) s2) s.me
      (qs.flatMap (packetParts s1)) { val := p.base } = (s3, r) → r.trap = none →
    ∃ t, exec i s = .next t ∧ FallsThrough s t
      ∧ { t with ctxs := s3.ctxs, badReg := s3.badReg } = { s3 with net := s3.net ++ r.sent.map (fun e =>
          { owner := some (e.1.ctx, e.1.gen), ord := { e.2 with born := s.tick }, body := .access e.1, launch := e.1.launch }) }
      ∧ (p.load = false → Rules.KeepsRegs s t [])
      ∧ (p.load = true → r.sent = [] → (actor t).readV p.d = r.val ∧ Rules.KeepsRegs s t [32 + p.d])
      ∧ (p.load = true → r.sent ≠ [] → (actor t).isEmpty (32 + p.d) = true
          ∧ tfind (actor t).collect (32 + p.d)
            = some { val := r.val, left := r.sent.length, err := none, refused := false })

namespace Sys2Proof.Rules

/-- The context that a name names on this node (R331). -/
def named (n : Nat) : Nat := coreOfField (n / 2 ^ 29 % 2 ^ 11) * 256 + n % 256

/-- A packet of the acting context with no order of its own (R330). -/
def plainFlight (s : State) (p : Packet) : Flight := flight s (sendOrd false false) p

/-- The access of HOOPIN (R353). -/
def hoopWant (op : AccOp) (ea : Dword) (d : BitVec 5) : Want :=
  { op := op, n := 8, ea := ea, dest := .g d.toNat false, size := 3 }

/-- n bytes of storage as a number (R1). -/
def stored (s : State) (a : Nat) : Nat → Nat
  | 0 => 0
  | n + 1 => stored s a n + (memGet s.mem (a + n)).toNat * 256 ^ n

/-- The order that a counter access is given: an RC access to a place of the counter's own (R136, R174). -/
def counterOrd (name : Dword) (load : Bool) (o sc : BitVec 2) : Ord :=
  { okind := 2, ld := load, st := !load, acq := o.getLsbD 0, rel := o.getLsbD 1, scope := sc.toNat
    lo := 2 ^ 60 + name.toNat % 2 ^ 60, hi := 2 ^ 60 + name.toNat % 2 ^ 60 + 1 }

/-- A well-formed name of a task (R364): its valid bit, and no reserved bit. -/
def taskName (n : Dword) : Prop := n.getLsbD 63 = true ∧ n.toNat / 2 ^ 60 % 8 = 0 ∧ n.toNat / 2 ^ 10 % 2 ^ 30 = 0

/-- The cluster and the entry that a task name names (R364). -/
def taskAt (n : Dword) : Nat × Nat :=
  (64 * (n.toNat / 2 ^ 46 % 4) + 8 * (n.toNat / 2 ^ 40 % 8) + n.toNat / 2 ^ 43 % 8, n.toNat % 1024)

/-- The entry that a task name names. -/
def armOf (s : State) (n : Dword) : Arm := tget {} (getCluster s (taskAt n).1).arms (taskAt n).2

/-- A task name of this node in the acting context's Rind. -/
def ownTask (s : State) (n : Dword) : Prop :=
  taskName n ∧ n.toNat / 2 ^ 48 % 2 ^ 12 = s.node ∧ (getCluster s (taskAt n).1).rind = some (stRind (actor s).st)

/-- A task control block without a reserved bit, and aligned where it has a list (R363). -/
def goodTask (t : Vec) : Prop :=
  t.toNat / 2 ^ 355 % 2 ^ 29 = 0 ∧ t.toNat / 2 ^ 328 % 2 ^ 8 = 0 ∧ (t.toNat / 2 ^ 320 % 256 = 0 ∨ t.toNat / 2 ^ 384 % 8 = 0)

/-- The commands to engines: the registers named, a register that may be no stream, the register to be filled, the engine of
the cluster (Ladle 0 and 1, Press 2 to 5, Harp 6), the message, the gradient body, and the order (R178, R287, R307, R310 to
R315). -/
structure Command where
  regs : List Nat
  reg : Nat
  engine : Nat
  msg : BitVec 512
  body : Vec := 0
  o : BitVec 2
  sc : BitVec 2

def command (s : State) : Instr → Option Command
  | .cpy d a l sc o =>
    if (g a).toNat % 64 = 0 then
      some { regs := [a.toNat, d.toNat], reg := d.toNat, engine := l.toNat, o := o, sc := sc
             msg := ladleMessage s s.me 0 o sc d.toNat l.toNat (g a) 0 }
    else none
  | .cpym d a b l sc o =>
    if (g a).toNat % 64 = 0 then
      some { regs := [a.toNat, b.toNat, d.toNat], reg := d.toNat, engine := l.toNat, o := o, sc := sc
             msg := ladleMessage s s.me 1 o sc d.toNat l.toNat (g a) (g b) }
    else none
  | .cpyc d a b l sc o =>
    if (g a).toNat % 64 = 0 ∧ (g b).toNat % 64 = 0 then
      some { regs := [a.toNat, b.toNat, d.toNat], reg := d.toNat, engine := l.toNat, o := o, sc := sc
             msg := ladleMessage s s.me 2 o sc d.toNat l.toNat (g a) (g b) }
    else none
  | .pwld d a b p sc o =>
    if (g a).toNat % 64 = 0 ∧ (g b).toNat / 2 ^ 29 % 8 = 0 then
      some { regs := [a.toNat, b.toNat, d.toNat], reg := d.toNat, engine := 2 + p.toNat, o := o, sc := sc
             msg := pressMessage s s.me 0 o sc d.toNat p.toNat (g a) (if b = 0 then none else some (g b)) }
    else none
  | .pmma d a b p sc o =>
    if (g a).toNat % 64 = 0 ∧ (g b).toNat / 2 ^ 29 % 8 = 0 then
      some { regs := [a.toNat, b.toNat, d.toNat], reg := d.toNat, engine := 2 + p.toNat, o := o, sc := sc
             msg := pressMessage s s.me 1 o sc d.toNat p.toNat (g a) (if b = 0 then none else some (g b)) }
    else none
  | .pres d a b p sc o =>
    if (g b).toNat / 2 ^ 29 % 8 = 0 then
      some { regs := [a.toNat, b.toNat, d.toNat], reg := d.toNat, engine := 2 + p.toNat, o := o, sc := sc
             msg := pressMessage s s.me 3 o sc d.toNat p.toNat (BitVec.ofNat 64 ((g a).toNat % 2 ^ 16))
               (if b = 0 then none else some (g b)) }
    else none
  | .cdesc d a b =>
    if (g a).toNat % 64 = 0 then
      some { regs := [a.toNat, b.toNat, d.toNat], reg := d.toNat, engine := 6, o := 0, sc := 0
             msg := harpMessage s s.me 0 0 0 d.toNat 0 (g a) (g b) }
    else none
  | .cld d a sc o =>
    some { regs := [a.toNat, 32 + d.toNat], reg := 32 + d.toNat, engine := 6, o := o, sc := sc
           msg := harpMessage s s.me 1 o sc d.toNat (2 ^ 32) (g a) 0 }
  | .cldG d a sc o =>
    some { regs := [a.toNat, d.toNat], reg := d.toNat, engine := 6, o := o, sc := sc
           msg := harpMessage s s.me 1 o sc d.toNat (2 ^ 10) (g a) 0 }
  | .cstg d a b sc o =>
    some { regs := [a.toNat, 32 + b.toNat, d.toNat], reg := d.toNat, engine := 6, o := o, sc := sc
           body := (actor s).readV b.toNat, msg := harpMessage s s.me 2 o sc d.toNat 0 (g a) 0 }
  | .cstgG d a b sc o =>
    some { regs := [a.toNat, b.toNat, d.toNat], reg := d.toNat, engine := 6, o := o, sc := sc
           msg := harpMessage s s.me 2 o sc d.toNat (2 ^ 10) (g a) (BitVec.ofNat 64 ((g b).toNat % 2 ^ 32)) }
  | .cfnc d sc =>
    if (pendingOf s s.me).isEmpty ∧ harpUnderway s s.me = false then
      some { regs := [d.toNat], reg := d.toNat, engine := 6, o := 0, sc := sc, msg := harpMessage s s.me 3 0 sc d.toNat 0 0 0 }
    else none
  | _ => none
where
  g (a : BitVec 5) : Dword := (actor s).readG a.toNat

/-- A command on its way: with acq = 1 it waits for the earlier accesses of its context (R136, R187; log 4). -/
def commandFlight (s : State) (x : Command) : Flight :=
  flight s { sendOrd false (x.o.getLsbD 0) with scope := x.sc.toNat }
    (.command (8 * (s.me / 2048) + x.engine) x.msg x.body (actor s).launch (mine s x.reg))

/-- The stream that SCFG opens (R206). -/
def opened (s : State) (reg : Nat) (d : Vec) : Stream :=
  { ctx := s.me, reg := reg, gen := stGen (actor s).st, launch := (actor s).launch, rind := stRind (actor s).st
    sys := stSys (actor s).st, desc := d, pos := 0, far := 0, masks := [], fail := none }

end Sys2Proof.Rules

/-- R351, R47: SPAWN starts the lowest dormant seated context that the launch claims on the core at g[a], with g1 zero and g2
to g6 from g[b] on, in user mode with the issuer's Rind, class, live and demoted bits; g[d] fills with the context's place,
or with 1 when none is dormant.
(The model's choices in it: log 44.) -/
def Obligations.SpawnStartsAContext : Prop :=
  ∀ (d a b : BitVec 5) (s : State) (l : Nat), WellFormed (.spawn d a b) →
    Ready s (a.toNat :: d.toNat :: (List.range 5).map (fun i => b.toNat + i)) → ((actor s).readG a.toNat).toNat % 4 = 0 →
    (actor s).launch = some l → (actor s).act ≠ .dormant → Rules.sendsAtOnce s →
    let free := fun (i : Nat) => i < 16 ∧ (getCtx s (ctxCore s.me * 256 + i)).act = .dormant
      ∧ (getCtx s (ctxCore s.me * 256 + i)).launch = some l
    ((∀ i, ¬ free i) → ∃ t, exec (.spawn d a b) s = .next t ∧ Rules.Answers s s t d 1)
    ∧ ∀ i, free i → (∀ j, j < i → ¬ free j) →
      ∃ t, exec (.spawn d a b) s = .next t ∧ FallsThrough s t
        ∧ t.net = s.net ++ Rules.fillOf s d (BitVec.ofNat 64 (i * 2 ^ 8))
        ∧ (∀ r, (actor t).isEmpty r = if r ≠ 0 ∧ r = d.toNat then true else (actor s).isEmpty r)
        ∧ (∀ r, (actor t).readG r = (actor s).readG r) ∧ (actor t).v = (actor s).v ∧ (actor t).p = (actor s).p
        ∧ let y := getCtx t (ctxCore s.me * 256 + i)
          y.pc = (actor s).readG a.toNat ∧ y.act = .runnable ∧ y.readG 1 = 0
            ∧ (∀ j, j < 5 → y.readG (2 + j) = (actor s).readG (b.toNat + j)) ∧ (∀ r, y.isEmpty r = false)
            ∧ stSys y.st = false ∧ stTrap y.st = false ∧ stRoam y.st = false ∧ stRind y.st = stRind (actor s).st
            ∧ stPcls y.st = stPcls (actor s).st ∧ stLive y.st = stLive (actor s).st ∧ stDem y.st = stDem (actor s).st
            ∧ y.sel = { arrival := s.cycle, port := 64, hit := true, bypass := 0 }

/-- R351, R352: SPAWNR sends an arrival packet to the core that it chooses, of this node or another, and counts a roaming
context; with 65,536 alive it fills 1. MIGR of a seated context, to its own core, or to Whey, only translates; of a roaming
one it begins a migration.
(The model's choices in it: log 44.) -/
def Obligations.RoamingContextsMove : Prop :=
  (∀ (d a b : BitVec 5) (h : BitVec 1) (s s1 : State) (l cn : Nat) (x : Launch), WellFormed (.spawnr d a b h) →
    Ready s (a.toNat :: d.toNat :: (List.range 6).map (fun i => b.toNat + i)) → ((actor s).readG a.toNat).toNat % 4 = 0 →
    (actor s).launch = some l → getLaunch s l = some x →
    (65536 ≤ x.roaming → ∃ t, exec (.spawnr d a b h) s = .next t ∧ Rules.Answers s s t d 1)
    ∧ (x.roaming < 65536 → spawnTarget s s.me (h == 1) ((actor s).readG b.toNat) = (s1, .core cn) →
        (cn / 2048 = s1.node → ∃ t, exec (.spawnr d a b h) s = .next t
          ∧ Rules.Awaits s (modLaunch s1 l (fun x => { x with roaming := x.roaming + 1 })) t d.toNat
              [Rules.plainFlight s (.arrival (cn % 2048) (ctxCore s.me) l ((actor s).readG a.toNat :: spawnSt (actor s).st 0 true ::
                (List.range 6).map (fun i => (actor s).readG (b.toNat + i))) {} (some (Rules.mine s d.toNat)))])
        ∧ (cn / 2048 ≠ s1.node → Rules.sendsAtOnce s1 → ∃ t, exec (.spawnr d a b h) s = .next t ∧ FallsThrough s t
          ∧ (d ≠ 0 → (actor t).isEmpty d.toNat = true)
          ∧ (getLaunch t l).map (fun y => y.roaming) = (getLaunch s1 l).map (fun y => y.roaming + 1))))
  ∧ (∀ (a : BitVec 5) (s s1 : State) (x : Xl), Ready s [a.toNat] →
    translate s (ctxReq s s.me) ((actor s).readG a.toNat) .load = (s1, .ok x) →
    let s2 := Rules.marked s1 x .load
    ((stRoam (actor s).st = false ∨ homeKey x.pa x.home = s2.node * 2048 + ctxCore s.me ∨ x.pkind = 4) →
      ∃ t, exec (.migr a) s = .next t ∧ Rules.Moves s s2 t)
    ∧ (stRoam (actor s).st = true → homeKey x.pa x.home ≠ s2.node * 2048 + ctxCore s.me → x.pkind ≠ 4 →
        (∀ r, 1 ≤ r → r ≤ 6 → (actor s).isEmpty r = false) →
        ∃ t, exec (.migr a) s = .next t ∧ (actor t).act = .waiting .migrate
          ∧ (actor t).migrTo = some (homeKey x.pa x.home, true)
          ∧ (actor t).pc = (actor s).pc + 4 ∧ (actor t).hint = none ∧ (actor t).g = (actor s).g
          ∧ (getCore t (ctxCore s.me)).running ≠ some s.me))

/-- R353: HOOPIN and HOOPOUT that are performed at once. HOOPIN adds 1 to the member count and joins; HOOPOUT takes 1 off and
leaves; each fills g[d] with a count. The effect on the block is stated for one in a scratchpad.
(The model's choices in it: log 49.) -/
def Obligations.HoopsJoinAndLeave : Prop :=
  (∀ (op : AccOp) (d a : BitVec 5) (ea : Dword) (i : Instr) (s s1 s2 : State) (q : Access) (x : Xl) (v : Vec),
    ((i = .hoopin d a ∧ op = .hoopIn ∧ ea = (actor s).readG a.toNat)
      ∨ (i = .hoopout d ∧ a = 0 ∧ op = .hoopOut ∧ ea = (actor s).hoop ∧ ea ≠ 0)) →
    Ready s [a.toNat, d.toNat] → stRoam (actor s).st = false → ea.toNat % 64 = 0 →
    checkAccess s s.me (Rules.hoopWant op ea d) = (s1, .ok (q, x, true)) →
    mustWait s1 s.me (accessOrd s1 (Rules.hoopWant op ea d) q x) = false →
    performAt (settlePredictor (Rules.marked s1 x (opAcc op)) s.me (homeKey q.pa q.home) true) q = (s2, .ok v) →
    ∃ t, exec i s = .next t ∧ FallsThrough s t ∧ (actor t).hoop = (actor s2).hoop
      ∧ ((actor t).readG d.toNat = if d = 0 then 0 else v.extractLsb' 0 64)
      ∧ (∀ k, k ≠ s.me → getCtx t k = getCtx s2 k) ∧ { t with ctxs := s2.ctxs, badReg := s2.badReg } = s2)
  ∧ (∀ (d : BitVec 5) (s : State), Ready s [d.toNat] → stRoam (actor s).st = false → (actor s).hoop = 0 →
    ∃ t, exec (.hoopout d) s = .next t ∧ Rules.Answers s s t d (BitVec.allOnes 64))
  ∧ (∀ (s s' : State) (q : Access) (v : Vec), q.op = .hoopIn → (∀ j, j < 8 → windowOf (paLocal q.pa + j) = .scratch) →
    Rules.correct s (paLocal q.pa) 8 → performAt s q = (s', .ok v) →
    let m := (readVec s (paLocal q.pa) 8).toNat % 2 ^ 32
    (((getCtx s q.ctx).hoop ≠ 0 ∨ m = 2 ^ 32 - 1) → v.toNat = 2 ^ 64 - 1 ∧ s' = s)
    ∧ (¬ ((getCtx s q.ctx).hoop ≠ 0 ∨ m = 2 ^ 32 - 1) → v.toNat = m ∧ Rules.stored s' (paLocal q.pa) 4 = m + 1
        ∧ (stGen (getCtx s q.ctx).st = q.gen → (getCtx s' q.ctx).hoop = q.va)))
  ∧ (∀ (s s' : State) (q : Access) (v : Vec), q.op = .hoopOut → (∀ j, j < 8 → windowOf (paLocal q.pa + j) = .scratch) →
    Rules.correct s (paLocal q.pa) 8 → performAt s q = (s', .ok v) →
    let m := (readVec s (paLocal q.pa) 8).toNat % 2 ^ 32
    0 < m → v.toNat = m - 1 ∧ Rules.stored s' (paLocal q.pa) 4 = m - 1
      ∧ (stGen (getCtx s q.ctx).st = q.gen → (getCtx s' q.ctx).hoop = 0))

/-- R331, R355: KILL fills g[d] with 3 for a malformed name, 2 for a context that the issuer may not kill, 1 for one that has
ended, and else 0: a seated target ends, with its generation advanced. (The target is no Hoop member and has no open
stream.) -/
def Obligations.KillEndsItsTarget : Prop :=
  ∀ (d a : BitVec 5) (s : State), Ready s [a.toNat, d.toNat] →
    let n := ((actor s).readG a.toNat).toNat
    let k := Rules.named n
    let x := getCtx s k
    let bad := n / 2 ^ 48 ≠ 0 ∨ n / 2 ^ 8 % 2 ^ 21 ≠ 0
    let foreign := coreRind s (k / 256) ≠ some (stRind (actor s).st)
      ∨ (stSys (actor s).st = false ∧ x.launch ≠ none ∧ x.launch ≠ (actor s).launch)
    let ended := x.act = .dormant ∨ (stGen x.st).toNat ≠ n / 2 ^ 40 % 256 ∨ stCtx x.st ≠ n % 256
    ∃ t, exec (.kill d a) s = .next t
      ∧ (bad → Rules.Answers s s t d 3)
      ∧ (¬ bad → foreign → Rules.Answers s s t d 2)
      ∧ (¬ bad → ¬ foreign → ended → Rules.Answers s s t d 1)
      ∧ (¬ bad → ¬ foreign → ¬ ended → k ≠ s.me → k % 256 < 128 → x.hoop = 0 → (∀ e ∈ s.streams, e.2.ctx ≠ k) →
          t.net = s.net ++ Rules.fillOf s d 0 ∧ FallsThrough s t
            ∧ (getCtx t k).act = .dormant ∧ stGen (getCtx t k).st = stGen x.st + 1 ∧ (∀ r, (getCtx t k).isEmpty r = false)
            ∧ (getCtx t k).deferred = [] ∧ (getCtx t k).errs = [] ∧ (getCtx t k).g = x.g
            ∧ ∀ j, j ≠ k → j ≠ s.me → getCtx t j = getCtx s j)

/-- R172 to R175, R218, R219: CINC and CADD send a post, CRDC of this node reads the counter at once on its own core and else
sends for it, CWATCH and the bitmap watch of this node send their requests.
(The model's choices in it: log 45.) -/
def Obligations.CounterInstructions : Prop :=
  (∀ (i : Instr) (rs : List Nat) (a : BitVec 5) (addend : Word) (sc o : BitVec 2) (s : State),
    ((i = .cinc a sc o ∧ rs = [a.toNat] ∧ addend = 1)
      ∨ (∃ b : BitVec 5, i = .cadd a b sc o ∧ rs = [a.toNat, b.toNat] ∧ addend = ((actor s).readG b.toNat).setWidth 32)) →
    Ready s rs → ctrBad s (stRind (actor s).st) ((actor s).readG a.toNat) = false →
    ∃ t, exec i s = .next t
      ∧ Rules.Moves s { s with net := s.net ++ [Rules.flight s (Rules.counterOrd ((actor s).readG a.toNat) false o sc)
          (.post ((actor s).readG a.toNat) addend (stRind (actor s).st))] } t)
  ∧ (∀ (d a : BitVec 5) (sc o : BitVec 2) (s : State), Ready s [a.toNat, d.toNat] →
    let name := (actor s).readG a.toNat
    ctrBad s (stRind (actor s).st) name = false → name.toNat / 2 ^ 48 % 2 ^ 12 = s.node →
    (coreOfField (name.toNat / 2 ^ 37 % 2 ^ 11) = ctxCore s.me → (pendingOf s s.me).isEmpty = true →
      ∃ t, exec (.crdc d a sc o) s = .next t ∧ FallsThrough s t ∧ OnlyRegs s t [d.toNat]
        ∧ (actor t).readG d.toNat = if d = 0 then 0 else (getCounter s (ctxCore s.me) (name.toNat % 256)).setWidth 64)
    ∧ (coreOfField (name.toNat / 2 ^ 37 % 2 ^ 11) ≠ ctxCore s.me →
      ∃ t, exec (.crdc d a sc o) s = .next t
        ∧ Rules.Awaits s s t d.toNat [Rules.flight s (Rules.counterOrd name true o sc)
            (.counterRead name (stRind (actor s).st) (Rules.mine s d.toNat))]))
  ∧ (∀ (d a b : BitVec 5) (s : State), Ready s [a.toNat, b.toNat, d.toNat] →
    let name := (actor s).readG a.toNat
    let arg := (actor s).readG b.toNat
    ctrBad s (stRind (actor s).st) name = false → name.toNat / 2 ^ 48 % 2 ^ 12 = s.node → arg.toNat / 2 ^ 61 = 0 →
    ∃ t, exec (.cwatch d a b) s = .next t
      ∧ Rules.Awaits s s t d.toNat [Rules.plainFlight s (.watch name arg (stRind (actor s).st) (Rules.mine s d.toNat))])
  ∧ (∀ (d a b : BitVec 5) (s s1 : State) (x : Xl), Ready s [a.toNat, b.toNat, d.toNat] →
    let va := (actor s).readG a.toNat
    let port := ((actor s).readG d.toNat).setWidth 32
    va.toNat % 8 = 0 → translate s (ctxReq s s.me) va .load = (s1, .ok x) → port.toNat < 2 ^ 29 → isLocal s1 x.pa = true →
    ∃ t, exec (.sstatBw d a b) s = .next t
      ∧ Rules.Awaits s (Rules.marked s1 x .load) t d.toNat [Rules.plainFlight s (.bitmap (paLocal x.pa) va ((actor s).readG b.toNat) port x.home
          (stRind (actor s).st) (Rules.mine s d.toNat) s.tick)])

/-- R363 to R369, R403: TARM arms a free entry from its block, TDISARM frees an entry of its launch, TDONE sends the posts for the
names of its block's list, one request for each cluster with the names in list order, TAKE takes the first task of its launch from the cluster's Rack, or waits, and STEAL looks at the other
Racks of its die one step each: it takes a task from the first that has one, or finds none.
(The model's choices in it: log 15.) -/
def Obligations.TaskInstructions : Prop :=
  (∀ (d a b : BitVec 5) (s s1 : State) (blk : Vec), Ready s [a.toNat, b.toNat, d.toNat] →
    let va := (actor s).readG a.toNat
    let n := (actor s).readG b.toNat
    va.toNat % 64 = 0 → blockRead s s.me va 64 = (s1, .ok blk) → Rules.goodTask blk → Rules.ownTask s1 n →
    ((Rules.armOf s1 n).state ≠ .free → ∃ t, exec (.tarm d a b) s = .next t
      ∧ Rules.Answers s s1 t d (if (Rules.armOf s1 n).owner = (actor s).launch.getD 0 then 1 else 2))
    ∧ ((Rules.armOf s1 n).state = .free → blk.toNat / 2 ^ 336 % 2 ^ 16 ≠ 0 → ∃ t w, exec (.tarm d a b) s = .next t
      ∧ Rules.Answers s w t d 0 ∧ { w with clusters := s1.clusters } = s1
      ∧ Rules.armOf w n = { state := .armed, owner := (actor s).launch.getD 0, count := 0, block := va,
                            quota := blk.toNat / 2 ^ 336 % 2 ^ 16, pcls := blk.toNat / 2 ^ 352 % 8,
                            probe := blk.extractLsb' 448 64 }))
  ∧ (∀ (d a : BitVec 5) (s : State), Ready s [a.toNat, d.toNat] →
    let n := (actor s).readG a.toNat
    Rules.ownTask s n →
    ∃ t w, exec (.tdisarm d a) s = .next t
      ∧ ((Rules.armOf s n).state = .free → Rules.Answers s s t d 1)
      ∧ ((Rules.armOf s n).state ≠ .free → (Rules.armOf s n).owner ≠ (actor s).launch.getD 0 → Rules.Answers s s t d 2)
      ∧ ((Rules.armOf s n).state ≠ .free → (Rules.armOf s n).owner = (actor s).launch.getD 0 →
          Rules.Answers s w t d 0 ∧ { w with clusters := s.clusters } = s ∧ (Rules.armOf w n).state = .free))
  ∧ (∀ (d a : BitVec 5) (sc o : BitVec 2) (s s1 s2 : State) (blk : Vec) (ns : List Dword), Ready s [a.toNat, d.toNat] →
    ((actor s).readG a.toNat).toNat % 64 = 0 → blockRead s s.me ((actor s).readG a.toNat) 64 = (s1, .ok blk) →
    Rules.goodTask blk → readList s1 s.me (blk.extractLsb' 384 64) (blk.toNat / 2 ^ 320 % 256) [] = (s2, .ok ns) →
    (∀ n ∈ ns, Rules.ownTask s2 n) →
    ∃ t, exec (.tdone d a sc o) s = .next t
      ∧ (ns = [] → Rules.Answers s s2 t d 0)
      ∧ (ns ≠ [] → FallsThrough s t ∧ (d ≠ 0 → (actor t).isEmpty d.toNat = true)
          ∧ ∃ (batch : Nat) (cls : List Nat), tfind t.batches batch = some { left := ns.length, reply := Rules.mine s d.toNat }
            ∧ cls.Nodup ∧ (∀ cl, cl ∈ cls ↔ ∃ n ∈ ns, (Rules.taskAt n).1 = cl)
            ∧ t.net = s2.net ++ cls.map (fun cl =>
                Rules.flight s { sendOrd (o.getLsbD 0) (o.getLsbD 1) with scope := sc.toNat }
                  (.done (ns.filter (fun n => (Rules.taskAt n).1 == cl)) ((actor s).launch.getD 0) batch))))
  ∧ (∀ (d : BitVec 5) (w : BitVec 1) (s : State), Ready s [d.toNat] →
    let cl := s.me / 2048
    let own := fun (e : Nat × Arm) => e ∈ (getCluster s cl).arms ∧ e.2.onRack = true ∧ e.2.owner = (actor s).launch.getD 0
    ((∀ e, ¬ own e) → w = 0 → ∃ t, exec (.take d w) s = .next t ∧ Rules.Answers s s t d 0)
    ∧ ((∀ e, ¬ own e) → w = 1 → ∃ t, exec (.take d w) s = .next t ∧ (actor t).act = .waiting (.take d.toNat)
        ∧ (getCluster t cl).takers = (getCluster s cl).takers ++ [(Rules.mine s d.toNat, (actor s).launch.getD 0)]
        ∧ FallsThrough s t ∧ (d ≠ 0 → (actor t).isEmpty d.toNat = true))
    ∧ (∀ e, own e → ∃ t e', exec (.take d w) s = .next t ∧ own e' ∧ (e' = e ∨ rackBefore s e e' = false)
        ∧ tfind (getCluster t cl).arms e'.1 = none ∧ FallsThrough s t ∧ (d ≠ 0 → (actor t).isEmpty d.toNat = true)
        ∧ ∃ f, t.net = s.net ++ [f] ∧ f.body = .task (Rules.mine s d.toNat) e'.2.block e'.2.probe))
  ∧ (∀ (d : BitVec 5) (s : State), Ready s [d.toNat] →
    ∃ t order, exec (.steal d) s = .next t
      ∧ (∀ cl, cl / 64 = s.me / 2048 / 64 → cl ≠ s.me / 2048 → cl ∈ order)
      ∧ Rules.Awaits s s t d.toNat [Rules.flight s
          { okind := 2, ld := true, st := false, acq := true, rel := false, lo := 0, hi := 0, scope := 3 }
          (.steal (Rules.mine s d.toNat) ((actor s).launch.getD 0) order)])
  ∧ (∀ (n launch : Nat) (todo : List Nat) (f : Flight) (r : Reply) (s : State), s.net[n]? = some f →
    f.body = .steal r launch todo → mayPerform s n f = true → stGen (getCtx s r.ctx).st = r.gen →
    let mine := fun (cl : Nat) => (getCluster s cl).rind = some (stRind (getCtx s r.ctx).st)
    let own := fun (cl : Nat) (e : Nat × Arm) => e ∈ (getCluster s cl).arms ∧ e.2.onRack = true ∧ e.2.owner = launch
    ((∀ cl ∈ todo, ¬ mine cl) → ∃ t, exec (.fill (.net n)) s = .next t
      ∧ t.net = dropNth s.net n ++ (if r.reg = 0 then [] else
          [{ owner := none, launch := none, ord := sendOrd false false, body := .fill r 0 }]))
    ∧ (∀ cl rest, todo = cl :: rest → mine cl →
        ((∀ e, ¬ own cl e) → exec (.fill (.net n)) s = .next { s with net := s.net.set n { f with body := .steal r launch rest } })
        ∧ ∀ e, own cl e → ∃ t e', exec (.fill (.net n)) s = .next t ∧ own cl e' ∧ (e' = e ∨ rackBefore s e e' = false)
          ∧ tfind (getCluster t cl).arms e'.1 = none
          ∧ ∃ g, t.net = dropNth s.net n ++ [g] ∧ g.body = .task r e'.2.block e'.2.probe))

/-- R178, R287, R307, R310 to R315: an instruction that commands an engine of its cluster sends one message and empties its
reply register. -/
def Obligations.CommandsReachTheEngines : Prop :=
  ∀ (i : Instr) (x : Rules.Command) (s : State),
    Rules.command s i = some x → WellFormed i → Ready s x.regs →
    ∃ t, exec i s = .next t ∧ Rules.Awaits s s t x.reg [Rules.commandFlight s x]

/-- R186, R192, R297: CPBI drops entries of the Ladles' block caches of the issuer's Rind, all of them with a new generation;
CSTAT and PSTOP in the stop form mark the running commands of their launch that carry the tag, and count them (with none
waiting in the inbox).
(The model's choices in it: log 31.) -/
def Obligations.BlockCachesAndStops : Prop :=
  (∀ (d a : BitVec 5) (s s1 : State) (x : Xl), Ready s [a.toNat, d.toNat] →
    translate s (ctxReq s s.me) ((actor s).readG a.toNat) .load = (s1, .ok x) →
    ∃ t, exec (.cpbiBlk d a) s = .next t
      ∧ Rules.Answers s (dropBlocks (Rules.marked s1 x .load) (stRind (actor s).st) (fun pa => pa == x.pa / 64 * 64)) t d 0)
  ∧ (∀ (d : BitVec 5) (s : State), Ready s [d.toNat] →
    ∃ t w, exec (.cpbiAll d) s = .next t ∧ Rules.Answers s w t d 0
      ∧ (getRind w (stRind (actor s).st)).blkGen = (getRind s (stRind (actor s).st)).blkGen + 1
      ∧ (∀ cl l, (getCluster s cl).rind = some (stRind (actor s).st) → tget [] (getCluster w cl).bcache l = []))
  ∧ (∀ (d a : BitVec 5) (l : BitVec 1) (s : State), Ready s [a.toNat, d.toNat] →
    let cl := s.me / 2048
    let tag := ((actor s).readG a.toNat).toNat % 2 ^ 16
    commandUnderway s s.me (8 * cl + l.toNat) = false → inboxOf s cl l.toNat = [] → tsorted (getCluster s cl).copies = true →
    let go := fun (e : Nat × Copy) => e.1 / 4 = l.toNat ∧ e.2.cmd.launch = (actor s).launch ∧ e.2.known = true
      ∧ (e.2.block.extractLsb' 304 16).toNat = tag ∧ e.2.ending = none ∧ e.2.stopping = false
      ∧ (e.2.follow.isSome = true ∨ allMoved e.2 = false)
    ∃ t w, exec (.cstatStop d a l) s = .next t ∧ Rules.Answers s w t d
        (BitVec.ofNat 64 ((getCluster s cl).copies.countP (fun e => decide (go e))))
      ∧ (∀ k x, tfind (getCluster s cl).copies k = some x →
          tfind (getCluster w cl).copies k = some (if go (k, x) then { x with stopping := true } else x)))
  ∧ (∀ (d a : BitVec 5) (p : BitVec 2) (s : State), Ready s [a.toNat, d.toNat] →
    let cl := s.me / 2048
    let tag := ((actor s).readG a.toNat).toNat % 2 ^ 16
    commandUnderway s s.me (8 * cl + 2 + p.toNat) = false → inboxOf s cl (2 + p.toNat) = [] →
    let go := fun (x : PCmd) => imgAsid x.cmd.msg = ctxAsid s s.me ∧ pcmdTag x = tag ∧ pcmdEnded x = false
      ∧ pcmdThrough x = false ∧ x.stopping = false
    ∃ t w, exec (.pstop d a p) s = .next t ∧ Rules.Answers s w t d
        (BitVec.ofNat 64 ((getPress s cl p.toNat).cmds.countP (fun x => decide (go x))))
      ∧ (getPress w cl p.toNat).cmds = (getPress s cl p.toNat).cmds.map (fun x =>
          if go x then { x with stopping := true } else x))

/-- R206: SCFG. With the block read and no stream in the register, a block that breaks a rule fills 2, no free slot of the
core fills 1, and else, once its context's earlier accesses are performed, the stream takes the lowest free slot, the register
is empty for a read stream and full for a write stream, and 0 is filled. A register that has a stream fills 3.
(The model's choices in it: log 30.) -/
def Sys2Proof.Rules.StreamOpens : Prop :=
  (∀ (d a : BitVec 5) (b : BitVec 3) (s s1 : State) (blk : Vec), Ready s [a.toNat, d.toNat, 56 + b.toNat] →
    ((actor s).readG a.toNat).toNat % 64 = 0 → blockRead s s.me ((actor s).readG a.toNat) 64 = (s1, .ok blk) →
    (streamBad blk = true → ∃ t, exec (.scfg d a b) s = .next t ∧ Rules.Answers s s1 t d 2)
    ∧ (streamBad blk = false → (∀ j, j < 16 → (tfind s1.streams (ctxCore s.me * 16 + j)).isSome = true) →
        ∃ t, exec (.scfg d a b) s = .next t ∧ Rules.Answers s s1 t d 1)
    ∧ (∀ j, streamBad blk = false → j < 16 → tfind s1.streams (ctxCore s.me * 16 + j) = none →
        (∀ i, i < j → (tfind s1.streams (ctxCore s.me * 16 + i)).isSome = true) → (pendingOf s1 s.me).isEmpty = true →
        ∃ t w, exec (.scfg d a b) s = .next t ∧ Rules.Answers s w t d 0
          ∧ tfind w.streams (ctxCore s.me * 16 + j) = some (Rules.opened s (24 + b.toNat) blk)
          ∧ (∀ i, i ≠ ctxCore s.me * 16 + j → tfind w.streams i = tfind s1.streams i)
          ∧ (actor w).isEmpty (56 + b.toNat) = !streamWrite blk))
  ∧ ∀ (d a : BitVec 5) (b : BitVec 3) (s : State) (j : Nat), Ready s [a.toNat, d.toNat] → stRoam (actor s).st = false →
    (actor s).isEmpty (56 + b.toNat) = false → streamSlot s s.me (24 + b.toNat) = some j →
    ∃ t, exec (.scfg d a b) s = .next t ∧ Rules.Answers s s t d 3

/-- R207: SCLOSE. A register without a stream fills 1. A read stream, a failed one, and a write stream whose every element is
written leave stream mode at once: the slot is free, the register full and zero, and the word of R207 is filled. A write stream
with elements to write stays in stream mode: g[d] is empty, and the fill waits for the drain. -/
def Sys2Proof.Rules.StreamCloses : Prop :=
  ∀ (d : BitVec 5) (b : BitVec 3) (s : State), Ready s [d.toNat] → stRoam (actor s).st = false →
    (streamSlot s s.me (24 + b.toNat) = none → ∃ t, exec (.sclose d b) s = .next t ∧ Rules.Answers s s t d 1)
    ∧ (∀ j x, streamSlot s s.me (24 + b.toNat) = some j → tfind s.streams j = some x → x.closing = [] →
        (streamWrite x.desc = false ∨ (x.owed = none ∧ (x.fail.isSome = true ∨ x.pos = x.far))) →
        ∃ t w, exec (.sclose d b) s = .next t ∧ tfind w.streams j = none ∧ (actor w).isEmpty (56 + b.toNat) = false
          ∧ (actor w).readV (24 + b.toNat) = 0 ∧ Rules.Answers s w t d (closeWord x))
    ∧ (∀ j x, streamSlot s s.me (24 + b.toNat) = some j → tfind s.streams j = some x →
        (x.closing ≠ [] ∨ (streamWrite x.desc = true ∧ (x.owed.isSome = true ∨ (x.fail = none ∧ x.pos ≠ x.far)))) →
        ∃ t, exec (.sclose d b) s = .next t ∧ FallsThrough s t ∧ (d ≠ 0 → (actor t).isEmpty d.toNat = true)
          ∧ tfind t.streams j = some { x with closing := x.closing ++ [(d.toNat, stTrap (actor s).st)] } ∧ t.net = s.net)

/-- R208: SSTAT reads the state of a stream at its issue, or 0 for a register that has none; it tests and pops nothing. -/
def Sys2Proof.Rules.StreamRead : Prop :=
  ∀ (d : BitVec 5) (b : BitVec 3) (s : State), Ready s [d.toNat] → stRoam (actor s).st = false →
    ∃ t, exec (.sstat d b) s = .next t ∧ FallsThrough s t ∧ OnlyRegs s t [d.toNat]
      ∧ (actor t).readG d.toNat = if d = 0 then 0
          else (((streamSlot s s.me (24 + b.toNat)).bind (tfind s.streams)).map streamWord).getD 0

/-- R206 to R208: the three stream instructions complete, each with its status or word.
(The model's choices in it: that SCLOSE reports no more than the element count, log 61; the lowest free stream slot, log 97.) -/
def Obligations.StreamInstructions : Prop :=
  Sys2Proof.Rules.StreamOpens ∧ Sys2Proof.Rules.StreamCloses ∧ Sys2Proof.Rules.StreamRead

namespace Sys2Proof.Rules

/-- Nothing differs but one controller, one Cave slice, one core, one Rind, one context, one cluster. -/
def OnlyStack (s t : State) (i : Nat) : Prop := (∀ j, j ≠ i → getStack t j = getStack s j) ∧ { t with ctls := s.ctls } = s
def OnlyCave (s t : State) (i : Nat) : Prop := (∀ j, j ≠ i → getCave t j = getCave s j) ∧ { t with caves := s.caves } = s
def OnlyCore (s t : State) (i : Nat) : Prop := (∀ j, j ≠ i → getCore t j = getCore s j) ∧ { t with cores := s.cores } = s
def OnlyRind (s t : State) (i : Nat) : Prop := (∀ j, j ≠ i → getRind t j = getRind s j) ∧ { t with rinds := s.rinds } = s

/-- The mask that a write of v leaves in mc.pcmask(j) (R70). -/
def hashMask (j : Nat) (v : Dword) : Dword := (v &&& 0x3FFFE000) ||| BitVec.ofNat 64 (2 ^ (7 + j))

/-- The two masks of a stack, staged or in force (R70, R261). -/
def maskOf (m : Stack) (j : Nat) : Dword := tget (BitVec.ofNat 64 (0x00100080 * 2 ^ j)) m.pcmask j
def stagedOf (m : Stack) (j : Nat) : Dword := tget (BitVec.ofNat 64 (0x00100080 * 2 ^ j)) m.pcstage j

/-- Set bits of a field. -/
def setBits (v : Dword) (lo n : Nat) : Nat := (List.range n).countP (fun j => v.getLsbD (lo + j))

/-- A value that cave.rcfg(rind) of a slice may not take (R143). -/
def breaksPlan (c : Cave) (rind : Nat) (v : Dword) : Prop :=
  (∃ k, k < 12 ∧ k ≠ rind ∧ ∃ j, 28 ≤ j ∧ j < 64 ∧ v.getLsbD j = true ∧ (tget 0 c.rcfg k).getLsbD j = true)
  ∨ 32768 * (setBits v 52 12 - 1) < v.toNat % 2 ^ 17 ∨ 4096 * setBits v 28 24 < v.toNat % 2 ^ 17
  ∨ (∃ j, j < 12 ∧ v.getLsbD (52 + j) = true ∧ c.twdis.getLsbD j = true)
  ∨ ∃ j, j < 24 ∧ v.getLsbD (28 + j) = true ∧ c.dbdis.getLsbD j = true

end Sys2Proof.Rules

/-- R71, R72, R261: the events of a memory controller. aclr clears the 64 access counters and eclr the two error counts; go sets
busy, or werr while busy; q is set or cleared, qd follows it; a hash change takes the staged masks and sets done; a write of a
mask takes effect only by the Starter while qd = 1, and any other sets werr. Nothing else changes: a new hash moves no stored
byte. -/
def Sys2Proof.Rules.ControllerEvents : Prop :=
  ∀ (i : Nat) (s : State), i < 12 →
  let m := getStack s i
  (∃ t, exec (.aclr i) s = .next t ∧ (∀ j, tget 0 (getStack t i).acnt j = 0) ∧ { getStack t i with acnt := m.acnt } = m
    ∧ Rules.OnlyStack s t i)
  ∧ (∃ t, exec (.eclr i) s = .next t ∧ (getStack t i).ce = 0 ∧ (getStack t i).ue = 0
    ∧ { getStack t i with ce := m.ce, ue := m.ue } = m ∧ Rules.OnlyStack s t i)
  ∧ (∃ t, exec (.go i) s = .next t ∧ (getStack t i).hreqBusy = true ∧ (getStack t i).werr = (m.werr || m.hreqBusy)
    ∧ { getStack t i with hreqBusy := m.hreqBusy, werr := m.werr } = m ∧ Rules.OnlyStack s t i)
  ∧ (∀ q, ∃ t, exec (.quiescence i q) s = .next t ∧ (getStack t i).q = q ∧ (getStack t i).qd = (q && m.qd)
    ∧ { getStack t i with q := m.q, qd := m.qd } = m ∧ Rules.OnlyStack s t i)
  ∧ (m.q = true → ∃ t, exec (.quiesced i) s = .next t ∧ (getStack t i).qd = true ∧ { getStack t i with qd := m.qd } = m
    ∧ Rules.OnlyStack s t i)
  ∧ (m.hreqBusy = true → m.qd = true → ∃ t, exec (.hashChange i) s = .next t
    ∧ (∀ j, j < 6 → Rules.maskOf (getStack t i) j = Rules.stagedOf m j)
    ∧ (getStack t i).hreqBusy = false ∧ (getStack t i).hreqDone = true ∧ (getStack t i).q = false ∧ (getStack t i).qd = false
    ∧ Rules.OnlyStack s t i)
  ∧ (∀ j v starter, j < 6 → ∃ t, exec (.pcmaskWrite i j v starter) s = .next t
    ∧ (if starter = true ∧ m.qd = true then
        Rules.maskOf (getStack t i) j = Rules.hashMask j v ∧ (∀ l, l ≠ j → Rules.maskOf (getStack t i) l = Rules.maskOf m l)
          ∧ { getStack t i with pcmask := m.pcmask } = m
      else (getStack t i).werr = true ∧ { getStack t i with werr := m.werr } = m)
    ∧ Rules.OnlyStack s t i)

/-- R143, R146, R392, R86, R88: a write of cave.rcfg takes effect unless it breaks a condition, which sets cerr; the hash engine
hashes its oldest sector, and shares it with an equal entry; the Cave patrol disables a bank or way that no longer corrects; a
patrol read counts the error it finds; a copied channel leaves its spare serving. -/
def Sys2Proof.Rules.CaveAndPatrolEvents : Prop :=
  (∀ (d k : Nat) (v : Dword) (s : State), d < 4 → k < 12 →
    let c := getCave s d
    (Rules.breaksPlan c k v → ∃ t, exec (.caveRcfgWrite d k v) s = .next t ∧ (getCave t d).cerr = true
      ∧ { getCave t d with cerr := c.cerr } = c ∧ Rules.OnlyCave s t d)
    ∧ (¬ Rules.breaksPlan c k v → ∃ t, exec (.caveRcfgWrite d k v) s = .next t
      ∧ tget 0 (getCave t d).rcfg k = v &&& 0xFFFFFFFFF001FFFF ∧ (getCave t d).cerr = c.cerr
      ∧ ∀ j, j ≠ k → tget 0 (getCave t d).rcfg j = tget 0 c.rcfg j))
  ∧ (∀ (d q : Nat) (rest : List Nat) (x : Sector) (e : CEntry) (s : State),
    let c := getCave s d
    let h := contentHash (sectorDwords s q)
    c.queue = q :: rest → tfind c.sectors q = some x → tfind c.entries x.entry = some e → x.whole = true →
    e.rc = 1 → e.hashed = false → shareable c q = true → (∀ y ∈ c.entries, y.2.bad = []) →
    (bucketOf c x.rind h = [] → ∃ t f, exec (.caveHash d) s = .next t ∧ (getCave t d).queue = rest
      ∧ tfind (getCave t d).entries x.entry = some f ∧ f.hashed = true ∧ f.hash = h ∧ f.rc = 1
      ∧ tfind (getCave t d).sectors q = some x ∧ Rules.OnlyCave s t d)
    ∧ (∀ i f p ps more, bucketOf c x.rind h = (i, f) :: more → f.rind = x.rind → f.hash = h → f.rc < 63 → i ≠ x.entry →
      sharers c i = p :: ps → sectorDwords s p = sectorDwords s q → tfind c.entries i = some f →
      ∃ t, exec (.caveHash d) s = .next t ∧ (getCave t d).queue = rest
        ∧ tfind (getCave t d).sectors q = some { x with entry := i }
        ∧ tfind (getCave t d).entries i = some { f with rc := f.rc + 1 }
        ∧ tfind (getCave t d).entries x.entry = none ∧ Rules.OnlyCave s t d))
  ∧ (∀ (d i : Nat) (s : State), d < 4 →
    let c := getCave s d
    (c.dbdis.getLsbD (i % 24) = false →
      (∃ t, exec (.cavePatrol d true i .uncorrectable) s = .next t ∧ (getCave t d).dbdis = c.dbdis ||| (1#24 <<< (i % 24)))
      ∧ (tfind c.patrol (2 * i + 1) = none → ∃ t, exec (.cavePatrol d true i .corrected) s = .next t
        ∧ (tfind (getCave t d).patrol (2 * i + 1)).isSome = true ∧ { getCave t d with patrol := c.patrol } = c
        ∧ Rules.OnlyCave s t d))
    ∧ (c.twdis.getLsbD (i % 12) = false →
      ∃ t, exec (.cavePatrol d false i .uncorrectable) s = .next t ∧ (getCave t d).twdis = c.twdis ||| (1#12 <<< (i % 12)))
    ∧ ∀ bank, exec (.cavePatrol d bank i .clean) s = .next s)
  ∧ (∀ (pa : Nat) (s : State), pa < 0x9000000000 →
    (∀ h, h = pa / 128 * 128 ∨ h = pa / 128 * 128 + 64 → halfBad s h = false ∧ halfSoft s h = false) →
    let i := rmStack (rmapOf s (pa / 2 ^ 30))
    exec (.patrolScrub pa .clean) s = .next s
    ∧ (∃ t, exec (.patrolScrub pa .corrected) s = .next t ∧ (getStack t i).ce = min ((getStack s i).ce + 1) 0xFFFFFFFF
      ∧ t.mem = s.mem ∧ t.ctxs = s.ctxs)
    ∧ ∃ t, exec (.patrolScrub pa .uncorrectable) s = .next t ∧ (getStack t i).ue = min ((getStack s i).ue + 1) 0xFFFF
      ∧ (s.quarantine.length < 1024 → (s.node * 2 ^ 45 + pa / 128 * 128) / 65536 ∈ t.quarantine) ∧ t.mem = s.mem ∧ t.ctxs = s.ctxs)
  ∧ ∀ (i ch : Nat) (s : State), (getStack s i).copying = some ch →
    ∃ t, exec (.channelCopyComplete i) s = .next t ∧ (getStack t i).chans = (getStack s i).chans + 1
      ∧ tget 0 (getStack t i).rows (2 * ch) = 0 ∧ tget 0 (getStack t i).rows (2 * ch + 1) = 0
      ∧ (getStack t i).copying ≠ some ch ∧ t.mem = s.mem ∧ t.ctxs = s.ctxs

/-- The events of the memory controllers, of the Cave, of the patrols and of the hash.
(The model's choices in it: log 13, 17, 42, 53, 60.) -/
def Obligations.ControllerAndCaveEvents : Prop := Sys2Proof.Rules.ControllerEvents ∧ Sys2Proof.Rules.CaveAndPatrolEvents

namespace Sys2Proof.Rules

/-- The state without the n-th packet in flight. -/
def without (s : State) (n : Nat) : State := { s with net := s.net.take n ++ s.net.drop (n + 1) }

/-- A packet that the hardware has put in flight, counted for a launch or for none. -/
def hardware (launch : Option Nat) (p : Packet) : Flight :=
  { owner := none, ord := sendOrd false false, body := p, launch := launch }

/-- The fill of a register in flight (R330); nothing for register 0. -/
def fillSent (r : Reply) (v : Vec) : List Flight := if r.reg = 0 then [] else [hardware none (.fill r v)]

/-- A request of another node has been answered and nothing but counts of energy changed otherwise (R413, R414): the op and the
error of the answer, and its tag. -/
def answersWith (s t : State) (q : FabricPacket) (op err : Nat) : Prop :=
  ∃ a, t.fabOut = s.fabOut ++ [a] ∧ a.hdr.toNat / 2 ^ 90 % 2 ^ 6 = op ∧ a.hdr.toNat / 2 ^ 64 % 8 = err
    ∧ a.hdr.toNat / 2 ^ 67 % 2 ^ 16 = q.hdr.toNat / 2 ^ 67 % 2 ^ 16 ∧ a.hdr.toNat / 2 ^ 116 % 2 ^ 12 = q.hdr.toNat / 2 ^ 104 % 2 ^ 12
    ∧ t.mem = s.mem ∧ t.cav = s.cav ∧ t.top = s.top ∧ t.net = s.net

/-- No peer entry of a Rind names the sender of a packet (R416). -/
def noPeer (s : State) (rind : Nat) (q : FabricPacket) : Prop :=
  ∀ e, e < 16 →
    let w := (tget 0 (getRind s rind).peers e).toNat
    ¬ (w / 2 ^ 63 % 2 = 1 ∧ w / 2 ^ 4 % 2 ^ 12 = q.hdr.toNat / 2 ^ 104 % 2 ^ 12 ∧ w % 16 = q.hdr.toNat / 2 ^ 100 % 16)

/-- A message for a port of this node: its core and its port (R328, R171), and the format in which it travels unchanged. -/
structure Plain (s : State) (m : BitVec 512) (cn p : Nat) : Prop where
  dk : msgDk m = 0
  node : msgDst m / 2 ^ 17 % 2 ^ 12 = s.node
  core : coreOfField (msgDst m / 64 % 2 ^ 11) = cn
  port : msgDst m % 64 = p
  rind : (getCluster s (cn / 8)).rind = some (msgRind m)
  low : p < 62
  fmt : msgFmt m = 0

/-- The places of the shared store of a core that are free, and the lowest of them (R332). -/
def storeFree (s : State) (cn i : Nat) : Prop := i < 256 ∧ tget false s.slots (cn * 256 + i) = false
def lowestFree (s : State) (cn i : Nat) : Prop := storeFree s cn i ∧ ∀ j, j < i → ¬ storeFree s cn j

/-- The local address of a slot of the store (R163, R332). -/
def slotAt (cn i : Nat) : Nat :=
  0x80000000000 + (cn / 512 * 512 + cn / 64 % 8 * 64 + cn / 8 % 8 * 8 + cn % 8) * 2 ^ 18 + 0x3C000 + 64 * i

/-- What a message does at its port (R332, R333): a count port counts it, a queue port with room takes it into the lowest free
slot, and any other refuses it, which the core counts. The new port, and the slot taken. -/
def received (s t : State) (m : BitVec 512) (cn p : Nat) (took : Bool) : Prop :=
  let q := tget {} s.ports (cn * 64 + p)
  let r := tget {} t.ports (cn * 64 + p)
  (q.en = true → q.count? = true → q.count < 65535 → took = true ∧ r = { q with count := q.count + 1 } ∧ t.mem = s.mem)
  ∧ (∀ i, q.en = true → q.count? = false → q.queue.length < q.cap → lowestFree s cn i →
      took = true ∧ r = { q with queue := q.queue ++ [i] } ∧ tget false t.slots (cn * 256 + i) = true
        ∧ (∀ j, j < 64 → memGet t.mem (slotAt cn i + j) = m.extractLsb' (8 * j) 8)
        ∧ ∀ a, (a < slotAt cn i ∨ slotAt cn i + 64 ≤ a) → memGet t.mem a = memGet s.mem a)
  ∧ (q.en = false ∨ (q.count? = true ∧ q.count = 65535) ∨ (q.count? = false ∧ q.cap ≤ q.queue.length)
      ∨ (q.count? = false ∧ ∀ i, ¬ storeFree s cn i) →
      took = false ∧ r = q ∧ t.mem = s.mem ∧ (getCore t cn).refc = (getCore s cn).refc + 1)

end Sys2Proof.Rules

namespace Sys2Proof.Rules

/-- No acknowledgement that tells the refusal of another part stands before a packet in flight (R167). -/
def firstRefusal (s : State) (n : Nat) (r : Reply) : Prop := ∀ g ∈ s.net.take n, ∀ x, g.body ≠ .ack r.ctx r.gen false (some x)

end Sys2Proof.Rules

/-- R41, R44, R120, R167, R379: a fill that finds its context's generation writes its register and sets it full; one for the
saved g1 or g2 of a handler goes to tsv1 or tsv2; an error packet leaves its record; a refused load leaves the old value,
sets full and queues its refusal in one step; a stale packet is discarded and counted. A context that waits for the register wakes. -/
def Sys2Proof.Rules.FillsReachTheirRegisters : Prop :=
  ∀ (n : Nat) (f : Flight) (r : Reply) (s : State), s.net[n]? = some f →
  let c := getCtx s r.ctx
  let saved := (r.reg = 1 ∨ r.reg = 2) ∧ stTrap c.st = true ∧ r.inTrap = false
  (∀ v, f.body = .fill r v → stGen c.st = r.gen → ¬ saved → 1 ≤ r.reg → r.reg < 64 →
    (32 ≤ r.reg → streamSlot s r.ctx (r.reg - 32) = none) → inSeries s n f = true →
    ∃ t, exec (.fill (.net n)) s = .next t ∧ t.net = (Rules.without s n).net ∧ (getCtx t r.ctx).isEmpty r.reg = false
      ∧ (r.reg < 32 → (getCtx t r.ctx).readG r.reg = v.setWidth 64 ∧ (getCtx t r.ctx).v = c.v)
      ∧ (32 ≤ r.reg → (getCtx t r.ctx).readV (r.reg - 32) = v ∧ (getCtx t r.ctx).g = c.g)
      ∧ (∀ x, x ≠ r.reg → (getCtx t r.ctx).readG x = c.readG x ∧ (getCtx t r.ctx).isEmpty x = c.isEmpty x)
      ∧ (getCtx t r.ctx).pc = c.pc ∧ (getCtx t r.ctx).st = c.st
      ∧ (c.act = .waiting (.register r.reg) → (getCtx t r.ctx).act = .runnable) ∧ (c.act = .running → (getCtx t r.ctx).act = .running)
      ∧ (∀ k, k ≠ r.ctx → getCtx t k = getCtx s k)
      ∧ { t with ctxs := s.ctxs, cores := s.cores, net := s.net, badReg := s.badReg } = s)
  ∧ (∀ v, f.body = .fill r v → stGen c.st = r.gen → saved → inSeries s n f = true →
    ∃ t, exec (.fill (.net n)) s = .next t
      ∧ (r.reg = 1 → (getCtx t r.ctx).tsv1 = v.setWidth 64 ∧ (getCtx t r.ctx).tfInfo.getLsbD 4 = true)
      ∧ (r.reg = 2 → (getCtx t r.ctx).tsv2 = v.setWidth 64 ∧ (getCtx t r.ctx).tfInfo.getLsbD 5 = true)
      ∧ (∀ x, (getCtx t r.ctx).readG x = c.readG x) ∧ t.net = (Rules.without s n).net)
  ∧ (∀ w, f.body = .descFill r w → stGen c.st = r.gen → ¬ saved → 1 ≤ r.reg → r.reg < 32 → mayPerform s n f = true →
    ∃ t, exec (.fill (.net n)) s = .next t ∧ t.net = (Rules.without s n).net ∧ (getCtx t r.ctx).readG r.reg = w
      ∧ (getCtx t r.ctx).isEmpty r.reg = false ∧ (∀ k, k ≠ r.ctx → getCtx t k = getCtx s k))
  ∧ (∀ e, f.body = .error r e → stGen c.st = r.gen → ¬ saved →
    ∃ t, exec (.fill (.net n)) s = .next t ∧ tfind (getCtx t r.ctx).errs r.reg = some e ∧ t.net = (Rules.without s n).net
      ∧ (∀ x, (getCtx t r.ctx).readG x = c.readG x ∧ (getCtx t r.ctx).isEmpty x = c.isEmpty x))
  ∧ (∀ e, f.body = .refill r e → stGen c.st = r.gen → ¬ saved → r.reg < 32 → Rules.firstRefusal s n r →
    ∃ t, exec (.fill (.net n)) s = .next t ∧ (getCtx t r.ctx).isEmpty r.reg = false ∧ t.net = (Rules.without s n).net
      ∧ (getCtx t r.ctx).deferred = c.deferred ++ e.toList.map (fun x => (s.cycle, x))
      ∧ (∀ x, (getCtx t r.ctx).readG x = c.readG x))
  ∧ ((∃ v, f.body = .fill r v) ∨ (∃ e, f.body = .error r e) ∨ (∃ e, f.body = .refill r e) → stGen c.st ≠ r.gen →
    inSeries s n f = true → Rules.firstRefusal s n r →
    ∃ t, exec (.fill (.net n)) s = .next t ∧ t.ctxs = s.ctxs ∧ t.net = (Rules.without s n).net
      ∧ (getCore t (r.ctx / 256)).discarded = (getCore s (r.ctx / 256)).discarded + 1)

/-- R341, R343, R382: an acknowledgement counts down the unacknowledged sends of its context and wakes one that waits for it; a
refusal that it carries is queued. A message that arrives is received as its port allows, and the sender is answered; one that
the hardware sends again is received in the same way, or waits for 256 cycles more. -/
def Sys2Proof.Rules.MessagesAndAcknowledgements : Prop :=
  (∀ (n : Nat) (f : Flight) (k : Nat) (gen : BitVec 8) (dec : Bool) (e : Option TrapRec) (s : State),
    s.net[n]? = some f → f.body = .ack k gen dec e → stGen (getCtx s k).st = gen →
    ∃ t, exec (.acknowledgement (.net n)) s = .next t ∧ t.net = (Rules.without s n).net
      ∧ (getCtx t k).unacked = (if dec then (getCtx s k).unacked - 1 else (getCtx s k).unacked)
      ∧ (getCtx t k).deferred = (getCtx s k).deferred ++ (e.toList.map (fun x => (s.cycle, x)))
      ∧ ((getCtx s k).act = .waiting .acks → dec = true → (getCtx t k).act = .runnable)
      ∧ ((getCtx s k).act = .running → (getCtx t k).act = .running)
      ∧ { getCtx t k with
          act := (getCtx s k).act, sel := (getCtx s k).sel, unacked := (getCtx s k).unacked,
          deferred := (getCtx s k).deferred } = getCtx s k
      ∧ (∀ j, j ≠ k → getCtx t j = getCtx s j) ∧ { t with ctxs := s.ctxs, cores := s.cores, net := s.net } = s)
  ∧ (∀ (n : Nat) (f : Flight) (m : BitVec 512) (cn p k : Nat) (gen : BitVec 8) (s : State),
    s.net[n]? = some f → f.body = .message m → f.owner = some (k, gen) → mayPerform s n f = true → Rules.Plain s m cn p →
    ∃ t took, exec (.messageArrival (.net n)) s = .next t ∧ Rules.received s t m cn p took
      ∧ t.net = (Rules.without s n).net
          ++ [Rules.hardware f.launch (.ack k gen true (if took then none else some (portRefused m)))]
      ∧ (∀ j, getCtx t j = getCtx s j) ∧ t.cav = s.cav ∧ t.top = s.top)
  ∧ (∀ (n kind : Nat) (f : Flight) (m : BitVec 512) (cn p after : Nat) (i : Instr) (s : State),
    (i = .startMessageResend n ∧ kind = 5) ∨ (i = .completionResend n ∧ kind = 4)
      ∨ (i = .hardwareResend n ∧ (kind = 1 ∨ kind = 2 ∨ kind = 3 ∨ kind = 4)) →
    s.net[n]? = some f → f.body = .resend m after → msgKind m = kind → after ≤ s.cycle → mayPerform s n f = true →
    inSeries s n f = true → Rules.Plain s m cn p →
    ∃ t took, exec i s = .next t ∧ Rules.received s t m cn p took
      ∧ t.net = (Rules.without s n).net ++ (if took then [] else [{ f with body := .resend m (s.cycle + 256) }])
      ∧ (∀ j, getCtx t j = getCtx s j) ∧ t.cav = s.cav ∧ t.top = s.top)
  ∧ (∀ (n : Nat) (f : Flight) (m : BitVec 512) (cn after k l i : Nat) (x : Launch) (s : State),
    s.net[n]? = some f → f.body = .resend m after → f.owner = none → after ≤ s.cycle → inSeries s n f = true → msgKind m = 5 → msgDk m = 0 →
    msgDst m / 2 ^ 17 % 2 ^ 12 = s.node → coreOfField (msgDst m / 64 % 2 ^ 11) = cn → msgDst m % 64 = 63 →
    m.toNat % 256 = 255 → msgFmt m = 0 → (getCluster s (cn / 8)).rind = some (msgRind m) →
    k = cn * 256 + m.toNat / 2 ^ 16 % 256 → (getCtx s k).launch = some l → getLaunch s l = some x → Rules.lowestFree s cn i →
    ∃ t, exec (.startMessageResend n) s = .next t ∧ t.net = (Rules.without s n).net
      ∧ let y := getCtx t k
        y.act = .runnable ∧ y.pc = x.block.extractLsb' 192 64
        ∧ y.readG 1 = (getRec s cn l).sbase + BitVec.ofNat 64 (0x3C000 + 64 * i)
        ∧ (∀ j, j < 5 → y.readG (2 + j) = m.extractLsb' (128 + 64 * j) 64)
        ∧ (∀ r, 7 ≤ r → y.readG r = 0) ∧ (∀ r, y.isEmpty r = false) ∧ y.frames = [i]
        ∧ stSys y.st = false ∧ stTrap y.st = false ∧ stRoam y.st = false
        ∧ ((getLaunch t l).map (fun x => x.starts) = some (x.starts - 1)))
  ∧ ∀ (core slot : Nat) (w : Watch) (m : BitVec 512) (s : State),
    tfind s.watches (core * 64 + slot) = some w → w.fired = some m → w.sent = false → w.after ≤ s.cycle →
    ∃ t, exec (.watchResend core slot) s = .next t ∧ t.net = s.net ++ [Rules.hardware none (.message m)]
      ∧ tfind t.watches (core * 64 + slot) = some { w with sent := true } ∧ { t with net := s.net, watches := s.watches } = s

/-- What a fill, a message and an acknowledgement do where they arrive.
(The model's choices in it: log 29, 35, 58.) -/
def Obligations.PacketsReachTheirContexts : Prop := Sys2Proof.Rules.FillsReachTheirRegisters ∧ Sys2Proof.Rules.MessagesAndAcknowledgements

namespace Sys2Proof.Rules

/-- The deferred trap of a bitmap watch that a scratchpad refuses (R167, R378): the load of a dword into a g register. -/
def watchRefusal (va : Dword) (r : Reply) : TrapRec :=
  { code := 0x31, eaddr := va, info := BitVec.ofNat 64 (8 * 2 ^ 24 + r.reg * 2 ^ 16 + 3 * 2 ^ 8 + 2), frame := [] }

end Sys2Proof.Rules

/-- R17, R173 to R175, R219, R365, R371, R403: what a packet does at its unit. A remote access is performed there and its value sent
back; a counter takes its addend, and a counter read is answered; a watch fires, is armed, or finds no slot; a done post counts
into its entry; a roaming context enters a free slot of the arrival queue, or the spill list. -/
def Sys2Proof.Rules.PacketsAtUnits : Prop :=
  (∀ (n : Nat) (f : Flight) (a : Access) (reg : Nat) (v : Vec) (s s1 : State),
    s.net[n]? = some f → f.body = .access a → mayPerform s n f = true → isLocal s a.pa = true →
    performAt (Rules.without s n) a = (s1, .ok v) →
    (a.dest = .none → ∃ t, exec (.remoteWordAccess (.net n)) s = .next t ∧ t = s1)
    ∧ (a.dest = .v reg → ∃ t, exec (.remoteWordAccess (.net n)) s = .next t
      ∧ t.net = s1.net ++ [Rules.hardware none (.fill { ctx := a.ctx, gen := a.gen, reg := 32 + reg, inTrap := a.inTrap } v)]
      ∧ { t with net := s1.net } = s1)
    ∧ (∀ sg, a.dest = .g reg sg → (a.n = 1 ∨ a.n = 2 ∨ a.n = 4 ∨ a.n = 8) → ∃ t, exec (.remoteWordAccess (.net n)) s = .next t
      ∧ t.net = s1.net ++ Rules.fillSent { ctx := a.ctx, gen := a.gen, reg := reg, inTrap := a.inTrap }
          ((Rules.extend a.n sg v).setWidth 512)
      ∧ { t with net := s1.net } = s1))
  ∧ (∀ (n : Nat) (f : Flight) (name : Dword) (s : State), s.net[n]? = some f → mayPerform s n f = true →
    let key := coreOfField (name.toNat / 2 ^ 37 % 2 ^ 11) * 256 + name.toNat % 256
    (∀ addend rind, f.body = .post name addend rind → inSeries s n f = true → name.toNat / 2 ^ 48 % 2 ^ 12 = s.node →
      (∀ e ∈ s.watches, e.1 / 64 = key / 256 → e.2.bitmap = none → e.2.counter = key % 256 → e.2.fired = none →
        2 ^ 31 ≤ (tget 0 s.counters key + addend - e.2.target).toNat) →
      ∃ t, exec (.counterPost (.net n)) s = .next t ∧ tget 0 t.counters key = tget 0 s.counters key + addend
        ∧ (∀ j, j ≠ key → tget 0 t.counters j = tget 0 s.counters j) ∧ { t with counters := s.counters } = Rules.without s n)
    ∧ (∀ rind r, f.body = .counterRead name rind r → ∃ t, exec (.counterPost (.net n)) s = .next t
      ∧ t.net = (Rules.without s n).net ++ Rules.fillSent r ((tget 0 s.counters key).setWidth 512)
      ∧ { t with net := s.net } = s)
    ∧ ∀ arg rind r, f.body = .watch name arg rind r →
      let goal : Word := arg.extractLsb' 0 32
      let now := tget 0 s.counters key
      let slot := fun (i : Nat) => i < 64 ∧ tfind s.watches (key / 256 * 64 + i) = none
      ((now - goal).toNat < 2 ^ 31 → ∃ t, exec (.watchRequest (.net n)) s = .next t
        ∧ t.net = (Rules.without s n).net ++ Rules.hardware none (.resend (watchMessage rind (key / 256)
            (arg.extractLsb' 32 32) name goal now) 0) :: Rules.fillSent r 1 ∧ { t with net := s.net } = s)
      ∧ (2 ^ 31 ≤ (now - goal).toNat → (∀ i, ¬ slot i) → ∃ t, exec (.watchRequest (.net n)) s = .next t
        ∧ t.net = (Rules.without s n).net ++ Rules.fillSent r 2 ∧ { t with net := s.net } = s)
      ∧ ∀ i, 2 ^ 31 ≤ (now - goal).toNat → slot i → (∀ j, j < i → ¬ slot j) → ∃ t, exec (.watchRequest (.net n)) s = .next t
        ∧ t.net = (Rules.without s n).net ++ Rules.fillSent r 0
        ∧ tfind t.watches (key / 256 * 64 + i) = some {
            bitmap := none, counter := key % 256, target := goal, name := name,
            port := arg.extractLsb' 32 32, rind := rind, fired := none, sent := false }
        ∧ { t with net := s.net, watches := s.watches } = s)
  ∧ (∀ (n : Nat) (f : Flight) (pa : Nat) (va mask : Dword) (port : Word) (home rind : Nat) (r : Reply) (s : State),
    s.net[n]? = some f → (∃ born, f.body = .bitmap pa va mask port home rind r born) →
    let refuses := windowOf pa = .scratch ∧ scratchCore pa ≠ r.ctx / 256 ∧ windowAdmits s (scratchCore pa) (pa % 2 ^ 18) 8 false = false
    (refuses → ∃ t g, exec (.bitmapWatchRequest (.net n)) s = .next t ∧ t.watches = s.watches
      ∧ (getCore t (scratchCore pa)).nack = (getCore s (scratchCore pa)).nack + 1
      ∧ g ∈ t.net ∧ t.net.length = s.net.length ∧ g.body = if r.reg = 0 then .ack r.ctx r.gen false (some (Rules.watchRefusal va r))
          else .refill r (some (Rules.watchRefusal va r)))
    ∧ ∀ (s1 : State) (x : Vec), ¬ refuses → watchRead (Rules.without s n) home pa f.launch = (s1, some x) →
      let d := dwordAt s1 home pa
      let slot := fun (i : Nat) => i < 64 ∧ tfind s1.watches (home * 64 + i) = none
      (d &&& mask = mask → ∃ t, exec (.bitmapWatchRequest (.net n)) s = .next t
        ∧ t.net = s1.net ++ Rules.hardware none (.resend (bitmapMessage rind home port va mask d) 0) :: Rules.fillSent r 1
        ∧ { t with net := s1.net } = s1)
      ∧ (d &&& mask ≠ mask → (windowOf pa = .host ∨ ∀ i, ¬ slot i) → ∃ t, exec (.bitmapWatchRequest (.net n)) s = .next t
        ∧ t.net = s1.net ++ Rules.fillSent r 2 ∧ { t with net := s1.net } = s1)
      ∧ ∀ i, d &&& mask ≠ mask → windowOf pa ≠ .host → slot i → (∀ j, j < i → ¬ slot j) →
        ∃ t, exec (.bitmapWatchRequest (.net n)) s = .next t ∧ t.net = s1.net ++ Rules.fillSent r 0
          ∧ (tfind t.watches (home * 64 + i)).map (fun w => (w.bitmap, w.port, w.rind, w.fired))
              = some (some (pa, va, mask), port, rind, none)
          ∧ { t with net := s1.net, watches := s1.watches } = s1)
  ∧ (∀ (n : Nat) (f : Flight) (name : Dword) (l b : Nat) (s : State), s.net[n]? = some f → f.body = .done [name] l b →
    mayPerform s n f = true → tfind s.batches b = none →
    let e := Rules.armOf s name
    (e.state = .free ∨ e.owner ≠ l → ∃ t, exec (.donePost (.net n)) s = .next t
      ∧ (getCluster t (Rules.taskAt name).1).drop = (getCluster s (Rules.taskAt name).1).drop + 1
      ∧ { t with clusters := s.clusters } = Rules.without s n)
    ∧ (e.state = .armed → e.owner = l → e.count + 1 < e.quota → e.count < 65535 → ∃ t, exec (.donePost (.net n)) s = .next t
      ∧ Rules.armOf t name = { e with count := e.count + 1 } ∧ { t with clusters := s.clusters } = Rules.without s n)
    ∧ (e.state = .armed → e.owner = l → e.quota ≤ e.count + 1 → e.count < 65535 →
      (getCluster s (Rules.taskAt name).1).takers = [] → ∃ t on, exec (.donePost (.net n)) s = .next t
        ∧ Rules.armOf t name = { e with count := e.count + 1, state := .ready, readyAt := s.cycle, onRack := on }
        ∧ { t with clusters := s.clusters } = Rules.without s n))
  ∧ (∀ (n : Nat) (f : Flight) (low high : Dword) (l b : Nat) (r : Reply) (s : State), s.net[n]? = some f →
    f.body = .done [low, high] l b ∨ f.body = .done [high, low] l b → mayPerform s n f = true → tfind s.batches b = none →
    (Rules.taskAt low).1 = (Rules.taskAt high).1 → (Rules.taskAt low).2 < (Rules.taskAt high).2 →
    (∀ x, x = low ∨ x = high → (Rules.armOf s x).state = .armed ∧ (Rules.armOf s x).owner = l
      ∧ (Rules.armOf s x).quota = (Rules.armOf s x).count + 1 ∧ (Rules.armOf s x).count < 65535) →
    (∀ e ∈ (getCluster s (Rules.taskAt low).1).arms, e.2.state ≠ .ready) → tsorted (getCluster s (Rules.taskAt low).1).arms = true →
    (getCluster s (Rules.taskAt low).1).takers = [(r, l)] → stGen (getCtx s r.ctx).st = r.gen →
    ∃ t, exec (.donePost (.net n)) s = .next t ∧ (Rules.armOf t low).state = .free
      ∧ (Rules.armOf t high).state = .ready ∧ (Rules.armOf t high).onRack = true ∧ (Rules.armOf t high).readyAt = s.cycle
      ∧ t.net = (Rules.without s n).net ++ [Rules.hardware (some l) (.task r (Rules.armOf s low).block (Rules.armOf s low).probe)])
  ∧ ∀ (n : Nat) (f : Flight) (cn src l : Nat) (words : List Dword) (trail : Trail) (reply : Option Reply) (s : State),
    s.net[n]? = some f → f.body = .arrival cn src l words trail reply → mayPerform s n f = true →
    let s0 := wakeCore (keepRecord (Rules.without s n) cn l) cn
    let slot := fun (i : Nat) => i < 32 ∧ (getCtx s (cn * 256 + 128 + i)).act = .dormant
    let free := fun (e : Nat) => ∀ c ∈ s.cores, ∀ x ∈ c.2.spilled, ¬ (x.1 = l ∧ x.2.1 = e)
    let status := (reply.toList.map (fun r => Rules.fillSent r 0)).flatten
    (∀ e, (getCore s cn).spilled ≠ [] ∨ (∀ i, ¬ slot i) → free e → (∀ e', e' < e → ¬ free e') →
      let pa := (getRec s0 cn l).spill.toNat + 64 * e
      let a := pa % 2 ^ 45
      isLocal s0 pa = true → spillShut s0 cn l pa true = false →
      let s1 := physWrite s0
        ((List.range 64).map (fun i => (a + i, (words.getD (i / 8) 0).extractLsb' (8 * (i % 8)) 8))) { launch := some l }
      words.length = 8 → ∃ t, exec (.arrivalPacket (.net n)) s = .next t
        ∧ (getCore t cn).spilled = (getCore s cn).spilled ++ [(l, e, trail)] ∧ t.ctxs = s.ctxs
        ∧ t.net = s1.net ++ status ∧ { t with cores := s.cores, net := s.net } = { s1 with cores := s.cores, net := s.net })
    ∧ ∀ i, (getCore s cn).spilled = [] → slot i → (∀ j, j < i → ¬ slot j) → ∃ t, exec (.arrivalPacket (.net n)) s = .next t
      ∧ t.net = (Rules.without s n).net ++ status
      ∧ (∀ k, k ≠ cn * 256 + 128 + i → getCtx t k = getCtx s k)
      ∧ let y := getCtx t (cn * 256 + 128 + i)
        y.act = .runnable ∧ y.launch = some l ∧ y.trail = trail ∧ y.pc = words.getD 0 0
        ∧ (∀ j, j < 6 → y.readG (j + 1) = words.getD (j + 2) 0) ∧ (∀ r, y.isEmpty r = false)
        ∧ stCtx y.st = 128 + i ∧ stGen y.st = tget 0 (getCore s cn).slotGen i
        ∧ (∀ x, getLaunch s l = some x → stDem y.st = x.demoted)
        ∧ (∀ b, b < 64 → b ≠ 4 → ¬ (8 ≤ b ∧ b < 16) → ¬ (32 ≤ b ∧ b < 40) → y.st.getLsbD b = (words.getD 1 0).getLsbD b)

/-- R413, R414, R416: a request of another node whose node and Rind no peer entry of the owning Rind names is answered with
error 2, and one of an admitted node is performed and answered; what no request awaits is let go. -/
def Sys2Proof.Rules.RequestsOfOtherNodes : Prop :=
  ∀ (q : FabricPacket) (s : State) (rind : Nat), s.node < 4096 →
  let op := q.hdr.toNat / 2 ^ 90 % 2 ^ 6
  let name : Dword := q.body.extractLsb' 0 64
  let cn := coreOfField (name.toNat / 2 ^ 37 % 2 ^ 11)
  let target := coreOfField (q.body.toNat / 2 ^ 102 % 2 ^ 11)
  ((op = 6 ∨ op = 11) → (getCluster s (cn / 8)).rind = some rind → Rules.noPeer s rind q →
    ∃ t, exec (.counterPost (.fabric q)) s = .next t ∧ Rules.answersWith s t q 5 2 ∧ t.counters = s.counters)
  ∧ (op = 11 → (getCluster s (cn / 8)).rind = some rind → ¬ Rules.noPeer s rind q → q.hdr.toNat / 2 ^ 96 % 16 = 1 →
    q.body.toNat / 2 ^ 96 % 2 ^ 32 = 0 → name.getLsbD 63 = true → name.toNat / 2 ^ 60 % 8 = 0 → name.toNat / 2 ^ 8 % 2 ^ 29 = 0 → name.toNat / 2 ^ 48 % 2 ^ 12 = s.node →
    s.watches = [] → ∃ t, exec (.counterPost (.fabric q)) s = .next t ∧ Rules.answersWith s t q 4 0
      ∧ getCounter t cn (name.toNat % 256) = getCounter s cn (name.toNat % 256) + q.body.extractLsb' 64 32)
  ∧ (op = 12 → (getCluster s (Rules.taskAt name).1).rind = some rind → Rules.noPeer s rind q →
    ∃ t, exec (.donePost (.fabric q)) s = .next t ∧ Rules.answersWith s t q 5 2 ∧ t.clusters = s.clusters)
  ∧ (op = 13 → q.body.toNat / 2 ^ 128 % 256 = 0 → (getCluster s (cn / 8)).rind = some rind → Rules.noPeer s rind q →
    ∃ t, exec (.watchRequest (.fabric q)) s = .next t ∧ Rules.answersWith s t q 5 2 ∧ t.watches = s.watches)
  ∧ (op = 8 → (getCluster s (target / 8)).rind = some rind → Rules.noPeer s rind q →
    ∃ t, exec (.messageArrival (.fabric q)) s = .next t ∧ Rules.answersWith s t q 5 2 ∧ t.ports = s.ports)
  ∧ (op = 9 → (getCluster s (target / 8)).rind = some rind → Rules.noPeer s rind q →
    ∃ t, exec (.fill (.fabric q)) s = .next t ∧ Rules.answersWith s t q 5 2 ∧ t.ctxs = s.ctxs)
  ∧ (op = 10 → (getCluster s (target / 8)).rind = some rind → Rules.noPeer s rind q →
    ∃ t, exec (.arrivalPacket (.fabric q)) s = .next t ∧ Rules.answersWith s t q 5 2 ∧ t.ctxs = s.ctxs)
  ∧ (op ≤ 2 → addrRind s (q.hdr.toNat % 2 ^ 45) = some rind → Rules.noPeer s rind q →
    ∃ t, exec (.remoteWordAccess (.fabric q)) s = .next t ∧ Rules.answersWith s t q 5 2 ∧ t.ctxs = s.ctxs)
  ∧ (op = 13 → q.body.toNat / 2 ^ 128 % 256 = 1 → addrRind s (q.body.toNat % 2 ^ 45) = some rind → Rules.noPeer s rind q →
    ∃ t, exec (.bitmapWatchRequest (.fabric q)) s = .next t ∧ Rules.answersWith s t q 5 2 ∧ t.watches = s.watches)
  ∧ (tfind s.awaiting (q.hdr.toNat / 2 ^ 67 % 2 ^ 16) = none → exec (.acknowledgement (.fabric q)) s = .next s)

/-- What a packet does at the unit it was sent to, and the requests of other nodes.
(The model's choices in it: log 12, 23, 35, 45, 56, 90.) -/
def Obligations.PacketsAtTheirUnits : Prop := Sys2Proof.Rules.PacketsAtUnits ∧ Sys2Proof.Rules.RequestsOfOtherNodes

namespace Sys2Proof.Rules

/-- The class by which a record ranks (R370). -/
def rank (c : Ctx) : Nat := if c.st.getLsbD 4 then 7 else c.st.toNat / 2 ^ 5 % 8

/-- A runnable record of a core. -/
def waits (s : State) (cn : Nat) (e : Nat × Ctx) : Prop := e ∈ s.ctxs ∧ e.1 / 256 = cn ∧ e.2.act = .runnable

/-- What a port holds for a reference: messages, or a count (R332). -/
def holding (q : Port) : Nat := if q.count? then q.count else q.queue.length

/-- A pattern is complete: every port that it names holds the quota (R336). -/
def complete (s : State) (cn : Nat) (p : Pattern) : Prop := ∀ r ∈ p.refs, r.2 ≤ holding (tget {} s.ports (cn * 64 + r.1))

/-- Slots of the shared store are free for a message for each count reference of a pattern (R336). -/
def roomForCounts (s : State) (cn : Nat) (p : Pattern) : Prop :=
  p.refs.countP (fun r => (tget {} s.ports (cn * 64 + r.1)).count?) ≤ (List.range 256).countP (fun i => !tget false s.slots (cn * 256 + i))

/-- A seated context that a pattern may start: it is dormant and in cmask (R336). -/
def startable (s : State) (cn : Nat) (p : Pattern) (c : Nat) : Prop :=
  c < 16 ∧ p.cmask.testBit c = true ∧ (getCtx s (cn * 256 + c)).act = .dormant

/-- The set E of R336: the patterns of a core that may fire. -/
def mayFire (s : State) (cn i : Nat) (p : Pattern) : Prop :=
  i < 32 ∧ tfind s.patterns (cn * 32 + i) = some p ∧ complete s cn p ∧ roomForCounts s cn p ∧ ∃ c, startable s cn p c

/-- The contexts in the cmask of each pattern of a core are claimed by the launch that bound it, as PBIND has tested (R335). -/
def claimed (s : State) (cn : Nat) : Prop :=
  ∀ i p c, tfind s.patterns (cn * 32 + i) = some p → c < 16 → p.cmask.testBit c = true → (getCtx s (cn * 256 + c)).launch = p.owner

end Sys2Proof.Rules

/-- R336, R47: of the complete patterns that have a dormant context in cmask and free slots for their counts, the one with the
highest prio fires, among equals that with the lowest index: the lowest-numbered dormant context in its cmask becomes runnable
at its handler with every register full, in system mode only for pattern 31; each queue port gives up its oldest messages and
each count port its quota. For one message, g2 to g6 hold its first five payload dwords; for one count, g2 holds the count and g3
the port. Without such a pattern nothing happens. (The patterns are as R335 lets them be, and the scratchpads are correct.) -/
def Sys2Proof.Rules.PatternsFire : Prop :=
  (∀ (cn i ci : Nat) (p : Pattern) (s : State), (getCore s cn).off = false → (getCore s cn).takeover = false →
    Rules.claimed s cn → (∀ a, windowOf a = .scratch → halfBad s a = false) →
    Rules.mayFire s cn i p → (∀ j q, Rules.mayFire s cn j q → q.prio < p.prio ∨ (q.prio = p.prio ∧ i ≤ j)) →
    Rules.startable s cn p ci → (∀ c, Rules.startable s cn p c → ci ≤ c) → p.refs ≠ [] → (∀ r ∈ p.refs, 1 ≤ r.2) →
    (p.refs.map Prod.fst).Nodup → (∃ t, exec (.patternFiring cn) s = .next t
      ∧ (let y := getCtx t (cn * 256 + ci)
        y.act = .runnable ∧ y.pc = p.handler ∧ (∀ r, y.isEmpty r = false) ∧ y.frames ≠ [] ∧ stSys y.st = (i == 31)
          ∧ stTrap y.st = false ∧ stRoam y.st = false ∧ y.sel.arrival = s.cycle ∧ y.sel.hit = true ∧ y.sel.bypass = 0
          ∧ ∀ r, (r = 0 ∨ 7 ≤ r) → y.readG r = (getCtx s (cn * 256 + ci)).readG r)
      ∧ (∀ k, k ≠ cn * 256 + ci → getCtx t k = getCtx s k) ∧ t.net = s.net
      ∧ (∀ port quota, (port, quota) ∈ p.refs → getPort t cn port = if (getPort s cn port).count? then
            { getPort s cn port with count := (getPort s cn port).count - quota }
          else { getPort s cn port with queue := (getPort s cn port).queue.drop quota })
      ∧ (∀ port, (∀ quota, (port, quota) ∉ p.refs) → getPort t cn port = getPort s cn port)
      ∧ (∀ port quota, p.refs = [(port, quota)] → port < 64 → (getPort s cn port).count? = true →
          let y := getCtx t (cn * 256 + ci)
          y.readG 2 = BitVec.ofNat 64 (getPort s cn port).count ∧ y.readG 3 = BitVec.ofNat 64 port
            ∧ y.readG 4 = 0 ∧ y.readG 5 = 0 ∧ y.readG 6 = 0)
      ∧ ∀ port sl rest, p.refs = [(port, 1)] → (getPort s cn port).count? = false → (getPort s cn port).queue = sl :: rest →
          let y := getCtx t (cn * 256 + ci)
          y.frames = [sl] ∧ y.sel.port = min 64 port
            ∧ ∀ j, j < 5 → y.readG (2 + j) = BitVec.ofNat 64 (Rules.stored s (Rules.slotAt cn sl + 16 + 8 * j) 8)))
  ∧ ∀ (cn : Nat) (s : State), Rules.claimed s cn → (∀ i p, ¬ Rules.mayFire s cn i p) → exec (.patternFiring cn) s = .next s

/-- R382, R117, R385, R370, R386, R377: a queued refusal is taken as a deferred trap at an instruction boundary; a roaming context
departs once its accesses are performed; one that met a trap is seated and takes it there, or is killed where its launch claims
no context; the scheduler selects from the lowest class; a runnable record of a lower class pre-empts a user context whose
quantum is over; a quiet core enters the gated state. -/
def Sys2Proof.Rules.ContextEvents : Prop :=
  (∀ (cn k cy : Nat) (x : TrapRec) (rest : List (Nat × TrapRec)) (s : State), (getCore s cn).running = some k → k / 256 = cn →
    let c := getCtx s k
    c.act = .running → c.hint = none → stTrap c.st = false → stRoam c.st = false → c.hoop = 0 → c.pending = none →
    c.deferred = (cy, x) :: rest → cy < s.cycle →
    ∃ t, exec (.deferredTrap cn) s = .next t
      ∧ Rules.Entered { c with deferred := rest } (getCtx t k) (getRec s cn (c.launch.getD 0)).tvec (dieTs s (coreDie cn))
          { x with deferred := x.code == 0x30 || x.code == 0x31 } c.pc
      ∧ ∀ j, j ≠ k → getCtx t j = getCtx s j)
  ∧ (∀ (cn i home : Nat) (adv : Bool) (s : State), i < 256 →
    let k := cn * 256 + i
    let c := getCtx s k
    c.act = .waiting .migrate → c.migrTo = some (home, adv) → home / 2048 = s.node →
    (∀ f ∈ s.net, ∀ e, f.owner = some e → e.1 ≠ k) → awayOf s k = [] → harpUnderway s k = false → c.unacked = 0 →
    c.deferred = [] → (getCore s cn).spilled = [] → (getCore s (home % 2048)).off = false →
    ∃ t, exec (.migration cn i) s = .next t ∧ (getCtx t k).act = .dormant
      ∧ t.net = s.net ++ [{ Rules.hardware (some (c.launch.getD 0)) (.arrival (home % 2048) cn (c.launch.getD 0)
          [c.pc, c.st, c.readG 1, c.readG 2, c.readG 3, c.readG 4, c.readG 5, c.readG 6]
          (if adv then c.trail else { c.trail with moves := c.trail.moves + 1 }) none) with
            ord := { sendOrd false false with born := s.tick } }]
      ∧ ∀ j, j ≠ k → getCtx t j = getCtx s j)
  ∧ (∀ (cn i j l : Nat) (x : TrapRec) (s : State), i < 32 →
    let k := cn * 256 + (128 + i)
    let c := getCtx s k
    let seat := fun (j : Nat) => j < 16 ∧ (getCtx s (cn * 256 + j)).launch = some l
    c.pending = some x → c.act = .waiting .seat → c.launch = some l → c.unacked = 0 →
    (∀ r, 1 ≤ r → r ≤ 6 → c.isEmpty r = false) → (getCore s cn).spilled = [] →
    seat j → (getCtx s (cn * 256 + j)).act = .dormant → (∀ m, m < j → ¬ (seat m ∧ (getCtx s (cn * 256 + m)).act = .dormant)) →
    (getCtx s (cn * 256 + j)).hoop = 0 →
    ∃ t, exec (.roamingSeat cn i) s = .next t
      ∧ (let y := getCtx t (cn * 256 + j)
        y.act = .runnable ∧ stTrap y.st = true ∧ stSys y.st = true ∧ stRoam y.st = false ∧ stCtx y.st = j
          ∧ stGen y.st = stGen (getCtx s (cn * 256 + j)).st ∧ stRoam y.est = stRoam c.st ∧ stCtx y.est = j
          ∧ y.epc.toNat = x.resume.toNat / 4 * 4 ∧ y.eaddr = x.eaddr ∧ y.tsv1 = c.readG 1 ∧ y.tsv2 = c.readG 2
          ∧ (∀ r, 3 ≤ r → r ≤ 6 → y.readG r = c.readG r) ∧ y.pc.toNat = (getRec s cn l).tvec.toNat / 4 * 4)
      ∧ (getCtx t k).act = .dormant
      ∧ (getLaunch t l).map (fun x => x.roaming) = (getLaunch s l).map (fun x => x.roaming - 1))
  ∧ (∀ (cn : Nat) (s : State), (getCore s cn).off = false → (getCore s cn).takeover = false → (getCore s cn).running = none →
    (∃ e, Rules.waits s cn e) →
    ∃ t k r, exec (.schedulerSelection cn) s = .next t ∧ Rules.waits s cn (k, r) ∧ (getCore t cn).running = some k
      ∧ (getCtx t k).act = .running ∧ (getCtx t k).selected = s.cycle ∧ (∀ e, Rules.waits s cn e → Rules.rank r ≤ Rules.rank e.2)
      ∧ ((∀ e, Rules.waits s cn e → Rules.rank e.2 = Rules.rank r → e.2.sel.bypass < (getCore s cn).bypass) →
          (∃ e, Rules.waits s cn e ∧ Rules.rank e.2 = Rules.rank r ∧ e.2.sel.hit = true) →
          r.sel.hit = true ∧ ∀ e, Rules.waits s cn e → Rules.rank e.2 = Rules.rank r → e.2.sel.hit = true →
            r.sel.arrival ≤ e.2.sel.arrival)
      ∧ ((∃ e, Rules.waits s cn e ∧ Rules.rank e.2 = Rules.rank r ∧ (getCore s cn).bypass ≤ e.2.sel.bypass) →
          (getCore s cn).bypass ≤ r.sel.bypass))
  ∧ (∀ (cn k : Nat) (s : State), (getCore s cn).running = some k → k / 256 = cn →
    let c := getCtx s k
    c.act = .running → stSys c.st = false → c.hint = none → (∃ e, Rules.waits s cn e ∧ Rules.rank e.2 < Rules.rank c) →
    (((getCore s cn).quant ≠ 0 ∧ (getCore s cn).quant.toNat ≤ s.cycle - c.selected) ∨ stDem c.st = true) →
    ∃ t, exec (.preemption cn) s = .next t ∧ (getCore t cn).running = none
      ∧ getCtx t k = { c with act := .runnable, sel := { arrival := s.cycle, port := 64, hit := true, bypass := 0 } }
      ∧ (∀ j, j ≠ k → getCtx t j = getCtx s j) ∧ { t with ctxs := s.ctxs, cores := s.cores } = s)
  ∧ (∀ (cn at_ : Nat) (s : State), (getCore s cn).gateState = 1 → (getCore s cn).gateAt = some at_ → at_ < s.cycle →
    ∃ t, exec (.gatedEntry cn) s = .next t ∧ (getCore t cn).gateState = 2
      ∧ { getCore t cn with gateState := 1, gateAt := some at_ } = getCore s cn ∧ Rules.OnlyCore s t cn)

/-- Join patterns fire, and the events of contexts.
(The model's choices in it: log 35, 52, 55.) -/
def Obligations.PatternAndContextEvents : Prop := Sys2Proof.Rules.PatternsFire ∧ Sys2Proof.Rules.ContextEvents

/-- R102, R57 to R61, R366, R369: a walk that reaches a leaf which its access may use installs it in the TLBs of the core and of
its cluster, an engine's in the cluster's alone; one that faults, or whose access fails a check, installs nothing, and the
contexts that wait for it are told its result. The scanner leaves a page that it accepts translated for fetching, without
another scan. A waiting entry takes a place on the Rack, or goes to the TAKE that waits for it.
(The model's choices in it: log 8, 15.) -/
def Obligations.WalksScansAndTheRack : Prop :=
  (∀ (cn i lv tab : Nat) (va : Dword) (acc : AccKind) (asked : Bool) (ans : Option (Nat × Vec)) (j : WalkJob) (s : State),
    let cl := cn / 8
    ((getCluster s cl).walks.take 16).find? (fun j => j.va.toNat / 65536 == va.toNat / 65536 && j.acc == acc
      && (j.req.who == none || j.req.who == some (cn * 256 + i))) = some j →
    j.phase = .reading lv tab asked ans →
    (∀ (e : Dword) (c : BitVec 128) (sh slot : Nat) (s1 s2 : State) (x : Xl),
      walkFrom s j.req (j.req.who.toList ++ j.waiters) j.va lv tab ans = (s1, .leaf e c sh slot) → useLeaf s1 j.req j.va j.acc e c sh slot = (s2, .ok x) →
      (isLocal s2 slot = true ∨ homed c = true) → (∀ i, i < 8 → (getCore s2 (8 * cl + i)).misses = []) → j.req.core < 2048 →
      let made : Tlb := ⟨j.req.rind, j.req.asid, sh, j.va.toNat / 2 ^ sh, e, c, false, slot⟩
      ∃ t, exec (.pageWalk cn i va acc) s = .next t
        ∧ (∀ u, (u = 2048 + j.req.core / 8 ∨ (u = j.req.core ∧ j.req.engine = false)) →
            ∃ y ∈ tget [] t.tlbs u, tlbHit j.req j.va y = true
              ∧ ((∀ z ∈ tget [] s2.tlbs u, tlbHit j.req j.va z = false) → y = made))
        ∧ (∀ u, u ≠ 2048 + j.req.core / 8 → u ≠ j.req.core → tget [] t.tlbs u = tget [] s2.tlbs u)
        ∧ (getCluster t cl).walks = (getCluster s2 cl).walks.filter (fun w => w.id != j.id)
        ∧ { t with tlbs := s2.tlbs, clusters := s2.clusters } = s2)
    ∧ ∀ (w : Walk) (s1 : State), ((∃ code, w = .fault code
          ∧ walkFrom s j.req (j.req.who.toList ++ j.waiters) j.va lv tab ans = (s1, w))
        ∨ ∃ e c sh slot s2 n, w = .leaf e c sh slot
            ∧ walkFrom s j.req (j.req.who.toList ++ j.waiters) j.va lv tab ans = (s2, w) ∧ useLeaf s2 j.req j.va j.acc e c sh slot = (s1, .error n)) →
      ∃ t, exec (.pageWalk cn i va acc) s = .next t ∧ t.tlbs = s1.tlbs
        ∧ ∀ k ∈ j.waiters, j.va.toNat / 65536 ∈ (getCtx s1 k).asks → (j.va.toNat / 65536, w) ∈ (getCtx t k).walked)
  ∧ (∀ (cn k : Nat) (va : Dword) (s s1 : State) (x : Xl), cn < 2048 → (getCore s cn).running = some k → k / 256 = cn →
    (getCtx s k).pc.toNat / 65536 = va.toNat / 65536 → translateFetch s (ctxReq s k) (getCtx s k).pc = (s1, .ok x) →
    exec (.codePageScan cn va) s = .next s1
      ∧ ∃ y ∈ tget [] s1.tlbs cn, y.rind = (ctxReq s k).rind ∧ y.asid = (ctxReq s k).asid
          ∧ y.vpage = (getCtx s k).pc.toNat / 2 ^ y.shift ∧ y.fetched = true)
  ∧ ∀ (cl e : Nat) (a : Arm) (s : State), (rackOf s cl).length < 512 → rackFirst s (rackWaiting s cl) = some (e, a) →
    let x := getArm s cl e
    ((getCluster s cl).takers = [] → ∃ t, exec (.rackPlacement cl) s = .next t ∧ getArm t cl e = { x with onRack := true }
      ∧ (∀ j, j ≠ e → getArm t cl j = getArm s cl j) ∧ t.net = s.net ∧ { t with clusters := s.clusters } = s)
    ∧ ∀ r more, (getCluster s cl).takers = (r, x.owner) :: more → stGen (getCtx s r.ctx).st = r.gen →
      ∃ t, exec (.rackPlacement cl) s = .next t ∧ (getArm t cl e).state = .free
        ∧ t.net = s.net ++ [Rules.hardware (some x.owner) (.task r x.block x.probe)]

/-- R409, R410, R411, R399, R3, R92, R374: what the host and the Starter write. A launch write is held while fewer than 16 are, else
counted; a held message is presented to port 63 of the front core, and waits for 256 cycles when it is refused; the head of the
host queue moves unless it would pass the ring; the page's registers read as its table says; a register takes its fields under its
access code; CXL.mem accesses and CXL.cache
snoops reach memory; a link recovery changes nothing. -/
def Sys2Proof.Rules.HostEvents : Prop :=
  (∀ (k : Nat) (m : BitVec 512) (s : State), k < 12 → (getRind s k).started = true →
    let g := (getRind s k).page
    ∃ t, exec (.launchWrite k m) s = .next t ∧ Rules.OnlyRind s t k ∧ { getRind t k with page := g } = getRind s k
      ∧ (16 ≤ g.held.length → (getRind t k).page = { g with ldrop := g.ldrop + 1 })
      ∧ (g.held.length < 16 → ∃ x, (getRind t k).page = { g with held := g.held ++ [x] } ∧ msgDk x = 5 ∧ msgKind x = 6
          ∧ msgRind x = k ∧ msgPayload x = msgPayload m))
  ∧ (∀ (k cn sl : Nat) (m : BitVec 512) (rest : List (BitVec 512)) (s : State),
    let g := (getRind s k).page
    let q := getPort s cn 63
    g.held = m :: rest → g.after ≤ s.cycle → frontCore s k = some cn → msgDk m = 5 → msgRind m = k → msgFmt m = 0 →
    q.en = true → q.count? = false →
    (q.queue.length < q.cap → Rules.lowestFree s cn sl → ∃ t, exec (.launchRetry k) s = .next t
      ∧ getPort t cn 63 = { q with queue := q.queue ++ [sl] } ∧ tget false t.slots (cn * 256 + sl) = true
      ∧ (getRind t k).page = { g with held := rest, after := 0 }
      ∧ ∀ j, j < 64 → memGet t.mem (Rules.slotAt cn sl + j) = m.extractLsb' (8 * j) 8)
    ∧ (q.cap ≤ q.queue.length → ∃ t, exec (.launchRetry k) s = .next t ∧ getPort t cn 63 = q
      ∧ (getRind t k).page = { g with after := s.cycle + 256 } ∧ t.mem = s.mem))
  ∧ (∀ (k : Nat) (s : State), (getRind s k).started = true → k < 12 →
    let g := (getRind s k).page
    ∀ e ∈ [(0x40, BitVec.ofNat 64 (16 - g.held.length)), (0x48, g.ldrop.setWidth 64), (0x80, g.ring), (0x88, g.ctl),
        (0x90, g.tail.setWidth 64), (0x98, g.head.setWidth 64), (0, 0)],
      execOutside (.pageRead k e.1) s = .next { s with hostOut := s.hostOut ++ [e.2] })
  ∧ (∀ (k : Nat) (v : BitVec 32) (s : State), k < 12 → (getRind s k).started = true →
    let g := (getRind s k).page
    ∃ t, exec (.headWrite k v) s = .next t ∧ Rules.OnlyRind s t k
      ∧ (getRind t k).page = { g with head := if (g.tail - v).toNat ≤ 2 ^ min (g.ctl.toNat % 16) 12 then v else g.head })
  ∧ (∀ (k e : Nat) (v : BitVec 64) (s : State), k < 12 →
    (∃ t, exec (.registerWrite (.twin k) v) s = .next t ∧ (getRind t k).twin = v &&& 0x01FFFFFFC0000000 ∧ Rules.OnlyRind s t k)
    ∧ (e < 8 → ∃ t, exec (.registerWrite (.energyWeight e) v) s = .next t ∧ tfind t.weights e = some v.toNat
      ∧ { t with weights := s.weights } = s)
    ∧ ((getRind s k).started = true → ∃ t, exec (.registerWrite (.page k 0x80) v) s = .next t
      ∧ (getRind t k).page = { (getRind s k).page with ring := BitVec.ofNat 64 (v.toNat / 64 * 64) } ∧ Rules.OnlyRind s t k)
    ∧ ((getRind s k).started = true → ∃ t, exec (.registerWrite (.page k 0x40) v) s = .next t
      ∧ (getRind t k).page = (getRind s k).page)
    ∧ (∃ t, exec (.registerWrite (.control (0xF0000800000 + 8 * k)) v) s = .next t
      ∧ (getRind t k).hwin = v &&& 0x83FFFFFFC0000000 ∧ Rules.OnlyRind s t k))
  ∧ (∀ (k addr la : Nat) (d : BitVec 64) (w : Bool) (x : Vec) (s s1 : State), k < 12 → (getRind s k).started = true →
    addr % 8 = 0 → hdmAddr s k addr = some la →
    leafless s { ctx := engineKey, gen := 0, inTrap := false, op := if w then .store else .load, dest := .none, n := 8
                 pa := s.node * 2 ^ 45 + la, va := 0, data := d.setWidth 512, expect := 0, pkind := 0, home := leaflessHome s la
                 col := none, nalloc := true, rind := k, launch := none, size := 3 } = (s1, .ok x) →
    exec (.cxlMemAccess k w addr d) s = .next (if w then s1 else { s1 with hostOut := s1.hostOut ++ [x.extractLsb' 0 64] }))
  ∧ (∀ (line : Nat) (inval : Bool) (s : State), line < 2 ^ 37 → MemInv s →
    let a := 0x100000000000 + 128 * line
    ∃ t, exec (.cxlCacheSnoop line inval none) s = .next t
      ∧ (∀ b, a ≤ b → b < a + 128 → memGet t.mem b = (tfind s.top b).getD (memGet s.mem b) ∧ tfind t.top b = none)
      ∧ (∀ b, (b < a ∨ a + 128 ≤ b) → memGet t.mem b = memGet s.mem b ∧ tfind t.top b = tfind s.top b)
      ∧ (inval = true → a / 128 ∉ t.hostLines) ∧ (inval = false → t.hostLines = s.hostLines)
      ∧ { t with mem := s.mem, top := s.top, hostLines := s.hostLines } = s)
  ∧ ∀ s, exec .hostLinkRecovery s = .next s

/-- R255, R359 to R361, R375, R376, R401: the launcher takes the oldest launch message. A block that it refuses sends a completion
with the status and holds nothing; one that it admits becomes a launch, its records are written on the chosen cores, and a start
message goes to each claimed context. A launch whose start messages are taken and which is active no more ends: it holds nothing
further, and its completion goes out. The units report its energy, and a launch that has used its budget is demoted. -/
def Sys2Proof.Rules.LaunchEvents : Prop :=
  (∀ (k cn sl : Nat) (rest : List Nat) (s : State), frontCore s k = some cn → (getPort s cn 63).queue = sl :: rest →
    let b : BitVec 384 := msgPayload (slotMessage s cn sl)
    let s0 := { setPort s cn 63 { getPort s cn 63 with queue := rest } with slots := tput s.slots (cn * 256 + sl) false }
    (∀ code, admitTest s0 k b = .error code → ∃ t, exec (.launchAdmission k) s = .next t
      ∧ t.net = s.net ++ [Rules.hardware none (.resend (doneMessage k cn b code 0 0) 0)] ∧ { t with net := s.net } = s0)
    ∧ (∀ area, admitTest s0 k b = .ok area → ∃ t x, exec (.launchAdmission k) s = .next t
      ∧ getLaunch t s.nextLaunch = some x ∧ x.rind = k ∧ x.asid = b.toNat / 2 ^ 133 % 2 ^ 16 ∧ x.front = cn ∧ x.block = b
      ∧ x.ebud = b.extractLsb' 256 64 ∧ x.energy = 0 ∧ x.snapped = false ∧ x.area = some area
      ∧ t.nextLaunch = s.nextLaunch + 1 ∧ area ∈ (getRind t k).areas ∧ (getPort t cn 63).queue = rest
      ∧ (∀ l, l ≠ s.nextLaunch → getLaunch t l = getLaunch s l)
      ∧ t.net.length = s.net.length + x.starts ∧ (∀ f ∈ t.net, f ∈ s.net ∨ ∃ m, f.body = .resend m 0 ∧ msgKind m = 5)
      ∧ ∀ c, chosenCores b = [c] → x.starts = lbNctx b
          ∧ tfind t.recs (s.nextLaunch * 2048 + c) = some (newRecord s k area b c)
          ∧ ∀ i, i ∈ (freeSeats s c).take (lbNctx b) → (getCtx t (c * 256 + i)).launch = some s.nextLaunch))
  ∧ (∀ (l : Nat) (x : Launch) (s : State), getLaunch s l = some x → x.starts = 0 → launchActive s l x = false →
    ∃ t dropped, exec (.launchEnd l) s = .next t ∧ getLaunch t l = none
      ∧ t.net = s.net ++ [Rules.hardware none (.resend (doneMessage x.rind x.front x.block 0 (x.reported / 1024) dropped) 0)]
      ∧ (∀ a, x.area = some a → a ∉ (getRind t x.rind).areas)
      ∧ (∀ k, k % 256 < 128 → (getCtx t k).launch ≠ some l)
      ∧ (∀ key q, (key, q) ∈ s.ports → portOwner q = some l → tfind t.ports key = none)
      ∧ (∀ e ∈ t.patterns, e.2.owner ≠ some l))
  ∧ ∀ (l : Nat) (x : Launch) (s : State), getLaunch s l = some x →
    (∃ t, exec (.energyReport l) s = .next t ∧ getLaunch t l = some { x with reported := x.energy }
      ∧ (∀ j, j ≠ l → getLaunch t j = getLaunch s j) ∧ { t with launches := s.launches } = s)
    ∧ (x.demoted = false → x.ebud.toNat ≤ x.reported / 1024 → ∃ t, exec (.demotion l) s = .next t
      ∧ getLaunch t l = some { x with demoted := true }
      ∧ (∀ k c, (k, c) ∈ s.ctxs → c.launch = some l → stDem (getCtx t k).st = true)
      ∧ (∀ k r, (getCtx t k).readG r = (getCtx s k).readG r) ∧ t.mem = s.mem)

/-- The host link, and launches.
(The model's choices in it: log 33, 34, 54.) -/
def Obligations.HostAndLaunchEvents : Prop := Sys2Proof.Rules.HostEvents ∧ Sys2Proof.Rules.LaunchEvents

namespace Sys2Proof.Rules

/-- A status word (R182, R293): the progress, the tag, the status. -/
def statusOf (prog : Word) (tag status : Nat) : Vec := BitVec.ofNat 512 (prog.toNat * 2 ^ 32 + tag % 2 ^ 16 * 2 ^ 16 + status % 256)

/-- The packets that a finished command posts (R183, R187, R294): the fill, the message when a port is given, and the counter's
increment when the block names one and the status is 0. They are performed one after the other, and what leaves the node carries
the release and the scope of the command. -/
def objects (s : State) (q : Queued) (e : Ending) (tag : Nat) (port : Option Nat) (pbva ctr : Dword) : List Flight :=
  let o : Ord := { sendOrd false (ordRel (imgOrd q.msg)) with scope := imgScope q.msg }
  (fillSent q.reply (statusOf e.prog tag e.status)
    ++ (port.toList.map (fun p => { (hardware none (.resend
      (completionMessage s p (imgRind q.msg) ((statusOf e.prog tag e.status).setWidth 64) pbva e) 0)) with
        ord := { o with born := s.tick } }))
    ++ (if e.status = 0 ∧ ctr.getLsbD 63 = true then [{ (hardware q.launch (.post ctr 1 (imgRind q.msg))) with ord := o }] else [])).map
      (fun (f : Flight) => { f with series := s.tick + 1 })

/-- The commands that wait at an engine of a cluster. -/
def waiting (s : State) (cl e : Nat) : List Queued :=
  if e = 6 then (getCluster s cl).harp.inbox else tget [] (getCluster s cl).inbox e

end Sys2Proof.Rules

/-- R176, R181 to R185, R187, R190, R192, R211, R216, R217: a Ladle with a free place accepts the oldest command of its inbox with
the block that it reads, and ends one whose block is malformed with status 5; of a CPYC it reads the follow-on block too, which
ends the copy where it cannot be read, or names no Press of this node (log 31); a chunk that has been moved is entered, one of an expanding copy only
under a permit; a finished or stopped copy posts its objects and frees its place; a refused follow-on is offered again after 64
cycles. -/
def Sys2Proof.Rules.LadleEvents : Prop :=
  (∀ (cl l i : Nat) (q : Queued) (rest : List Queued) (b : BitVec 512) (cached : Bool) (s s1 : State), l < 2 → i < 4 →
    Rules.waiting s cl l = q :: rest → tfind (getCluster s cl).copies (4 * l + i) = none →
    (∀ j, j < i → (tfind (getCluster s cl).copies (4 * l + j)).isSome = true) → imgKind q.msg ≠ 2 →
    readParams s cl l (ladleReq s cl q) q cached = (s1, .block b) →
    ∃ t n, exec (.ladleAccept cl l cached) s = .next t ∧ Rules.waiting t cl l = rest
      ∧ tfind (getCluster t cl).copies (4 * l + i) = some {
          cmd := q, block := b, follow := none, done := [], stopping := false, seq := n
          ending := if pbBad s1 (imgRind q.msg) b then some { status := 5, prog := BitVec.allOnes 32 } else none }
      ∧ { t with clusters := s1.clusters } = s1)
  ∧ (∀ (cl l i : Nat) (q : Queued) (rest : List Queued) (b : BitVec 512) (cached : Bool) (s s1 s2 : State), l < 2 → i < 4 →
    Rules.waiting s cl l = q :: rest → tfind (getCluster s cl).copies (4 * l + i) = none →
    (∀ j, j < i → (tfind (getCluster s cl).copies (4 * l + j)).isSome = true) → imgKind q.msg = 2 →
    readParams s cl l (ladleReq s cl q) q cached = (s1, .block b) →
    let press := fun (m : BitVec 512) => msgDk m = 2 ∧ msgDst m / 2 ^ 17 % 2 ^ 12 = s2.node ∧ msgDst m % 64 < 4
    let entered := fun (t : State) (f : Option (BitVec 512)) (e : Option Ending) =>
      ∃ n, tfind (getCluster t cl).copies (4 * l + i) = some {
        cmd := q, block := b, follow := f, done := [], stopping := false, seq := n, ending := e }
    (∀ m, acceptRead s1 (ladleReq s cl q) (imgArg q.msg) 5 4 = (s2, .block m) →
      ∃ t, exec (.ladleAccept cl l cached) s = .next t ∧ Rules.waiting t cl l = rest ∧ { t with clusters := s2.clusters } = s2
        ∧ (pbBad s1 (imgRind q.msg) b = false → press m → entered t (some m) none)
        ∧ (pbBad s1 (imgRind q.msg) b = true ∨ ¬ press m → entered t none (some { status := 5, prog := BitVec.allOnes 32 })))
    ∧ ∀ st, acceptRead s1 (ladleReq s cl q) (imgArg q.msg) 5 4 = (s2, .unusable st) →
      ∃ t, exec (.ladleAccept cl l cached) s = .next t ∧ Rules.waiting t cl l = rest ∧ { t with clusters := s2.clusters } = s2
        ∧ entered t none (some { status := st, fva := if st = 4 then imgArg q.msg else 0, prog := BitVec.allOnes 32 }))
  ∧ (∀ (cl l p n : Nat) (x y : Copy) (s s1 : State), l < 2 → p < 4 → tfind (getCluster s cl).copies (4 * l + p) = some x →
    x.ending = none → x.stopping = false → n ∉ x.done → firstPiece x.block ≤ n → n < endPiece x.block →
    (pbXform x.block = 1 → blockPermitted s cl l x (n / 8) = true) →
    (movePiece (ladleReq s cl x.cmd) x n s = (s1, .done, y) → pbBmap x.block = 0 →
      ∃ t, exec (.chunkComplete cl l p n) s = .next t ∧ tfind (getCluster t cl).copies (4 * l + p) = some y
        ∧ y = { x with done := n :: x.done, late := y.late, places := y.places } ∧ (pbXform x.block ≠ 1 → y.places = x.places)
        ∧ (y.late = x.late ∨ (y.late = n :: x.late ∧ ordRel (imgOrd x.cmd.msg) = false ∧ x.follow = none ∧ pbXform x.block ≠ 2))
        ∧ t.mem = s1.mem ∧ t.cav = s1.cav ∧ t.top = s1.top ∧ t.net = s1.net ∧ t.ctxs = s1.ctxs)
    ∧ ∀ e, movePiece (ladleReq s cl x.cmd) x n s = (s1, .failed e, y) → n = firstPiece x.block → e.status < 8 → x.done = [] →
      ∃ t w, exec (.chunkComplete cl l p n) s = .next t
        ∧ tfind (getCluster t cl).copies (4 * l + p) = some { x with ending := some { e with prog := w } }
        ∧ (ordRel (imgOrd x.cmd.msg) = true → w = e.prog)
        ∧ t.mem = s1.mem ∧ t.cav = s1.cav ∧ t.top = s1.top)
  ∧ (∀ (cl l p n : Nat) (x : Copy) (s : State), tfind (getCluster s cl).copies (4 * l + p) = some x → pbXform x.block = 1 →
    blockPermitted s cl l x (n / 8) = false → exec (.chunkComplete cl l p n) s = .next s)
  ∧ (∀ (cl l p : Nat) (x : Copy) (e : Ending) (s : State), tfind (getCluster s cl).copies (4 * l + p) = some x →
    (x.ending = some e ∨ (x.ending = none ∧ x.stopping = false ∧ allMoved x = true
      ∧ e = { status := 0, prog := BitVec.ofNat 32 (pbLen x.block) })) →
    e.prog ≠ BitVec.allOnes 32 → (x.follow = none ∨ e.status ≠ 0) →
    ∃ t, exec (.ladleCompletion cl l p) s = .next t ∧ tfind (getCluster t cl).copies (4 * l + p) = none
      ∧ t.net = s.net ++ Rules.objects s x.cmd e (pbTag x.block)
          (if imgKind x.cmd.msg = 1 then some ((imgArg x.cmd.msg).toNat % 2 ^ 32) else none) (imgPbva x.cmd.msg) (pbCtr x.block)
      ∧ { t with net := s.net, clusters := s.clusters } = s)
  ∧ (∀ (cl l p off : Nat) (x : Copy) (s s1 : State), tfind (getCluster s cl).copies (4 * l + p) = some x →
    x.ending = none → x.stopping = true → stopWords (ladleReq s cl x.cmd) x s = (s1, off) → off < 2 ^ 32 - 1 →
    ∃ t, exec (.ladleCompletion cl l p) s = .next t ∧ tfind (getCluster t cl).copies (4 * l + p) = none
      ∧ t.net = s1.net ++ Rules.objects s1 x.cmd { status := 1, prog := BitVec.ofNat 32 off } (pbTag x.block)
          (if imgKind x.cmd.msg = 1 then some ((imgArg x.cmd.msg).toNat % 2 ^ 32) else none) (imgPbva x.cmd.msg) (pbCtr x.block)
      ∧ { t with net := s1.net, clusters := s1.clusters } = s1)
  ∧ ∀ (cl l p : Nat) (x : Copy) (m : BitVec 512) (s : State), tfind (getCluster s cl).copies (4 * l + p) = some x →
    x.ending = none → x.stopping = false → allMoved x = true → x.follow = some m → x.retry ≠ 0 → x.retry ≤ s.cycle →
    msgDst m % 64 < 4 →
    let c := coreOfField (msgDst m / 64 % 2 ^ 11) / 8
    (16 ≤ (Rules.waiting s c (2 + msgDst m % 64)).length → ∃ t, exec (.followOnResend cl l p) s = .next t
      ∧ tfind (getCluster t cl).copies (4 * l + p) = some { x with retry := s.cycle + 64 }
      ∧ { t with clusters := s.clusters } = s)
    ∧ ((Rules.waiting s c (2 + msgDst m % 64)).length < 16 → ∃ t f, exec (.followOnResend cl l p) s = .next t
      ∧ tfind (getCluster t cl).copies (4 * l + p) = none
      ∧ Rules.waiting t c (2 + msgDst m % 64) = Rules.waiting s c (2 + msgDst m % 64) ++ [f]
      ∧ f.launch = x.cmd.launch ∧ f.reply.reg = imgReg m ∧ f.body = 0 ∧ (∀ b, b ≠ 136 → f.msg.getLsbD b = m.getLsbD b))

/-- R198, R200, R202, R207: a Ladle refills a read stream's ring, and drains a write stream's to memory with the byte enables of
its elements; a stream that closes ends when it has been drained, or at once where an access has failed, and each SCLOSE is
answered. A refill of compressed blocks needs a permit (R211). (The elements in the ring can be read back.) -/
def Sys2Proof.Rules.StreamEvents : Prop :=
  (∀ (cn i : Nat) (x : Stream) (v : Vec) (s s1 : State), i < 16 → tfind s.streams (cn * 16 + i) = some x →
    streamWrite x.desc = false → streamXform x.desc = 0 → x.fail = none → x.far + 1 = streamCount x.desc →
    x.far / 64 < x.pos / 64 + streamSlots x.desc →
    engAccess s (streamReq s x) { op := .load, n := 64, va := streamAddr x.desc x.far } = (s1, .ok v) →
    ∃ t, exec (.streamRefill cn i) s = .next t ∧ tfind t.streams (cn * 16 + i) = some { x with far := x.far + 1 }
      ∧ (∀ j, j < 64 → memGet t.mem (ringAddr (ctxCore x.ctx) x.desc x.far + j) = v.extractLsb' (8 * j) 8)
      ∧ (∀ a, (a < ringAddr (ctxCore x.ctx) x.desc x.far ∨ ringAddr (ctxCore x.ctx) x.desc x.far + 64 ≤ a) →
          memGet t.mem a = memGet s1.mem a) ∧ t.cav = s1.cav ∧ t.top = s1.top)
  ∧ (∀ (cn i code : Nat) (x : Stream) (s s1 : State), i < 16 → tfind s.streams (cn * 16 + i) = some x →
    streamWrite x.desc = false → streamXform x.desc = 0 → x.fail = none → x.far < streamCount x.desc →
    x.far / 64 < x.pos / 64 + streamSlots x.desc →
    engAccess s (streamReq s x) { op := .load, n := 64, va := streamAddr x.desc x.far } = (s1, .fault code) → code ≠ 0 →
    ∃ t, exec (.streamRefill cn i) s = .next t
      ∧ tfind t.streams (cn * 16 + i) = some { x with fail := some (x.far, code, 1, streamAddr x.desc x.far) })
  ∧ (∀ (cn i : Nat) (x : Stream) (s : State), tfind s.streams (cn * 16 + i) = some x → streamXform x.desc = 1 →
    streamWrite x.desc = false → permitFree s (cn / 8) (streamLadle x.desc) = false → exec (.streamRefill cn i) s = .next s)
  ∧ (∀ (cn i : Nat) (x : Stream) (v : Vec) (s s1 : State), i < 16 → tfind s.streams (cn * 16 + i) = some x →
    streamWrite x.desc = true → x.fail = none → x.pos = x.far + 1 → x.far < streamCount x.desc →
    scratchGood s (viewAddrs (ringAddr (ctxCore x.ctx) x.desc x.far) 64 false) = true →
    engAccess s (streamReq s x) { op := .store, n := 64, va := streamAddr x.desc x.far
                                  data := readVec s (ringAddr (ctxCore x.ctx) x.desc x.far) 64, be := x.masks.headD 0 } = (s1, .ok v) →
    (x.closing = [] → x.bound = true → x.pos % 64 = 0 → ∃ t, exec (.streamDrain cn i) s = .next t
      ∧ tfind t.streams (cn * 16 + i) = some { x with far := x.far + 1, masks := x.masks.drop 1 }
      ∧ t.mem = s1.mem ∧ t.cav = s1.cav ∧ t.top = s1.top)
    ∧ ((x.closing ≠ [] ∨ x.bound = false) → x.owed = none → ∃ t, exec (.streamDrain cn i) s = .next t
      ∧ tfind t.streams (cn * 16 + i) = none ∧ t.mem = s1.mem ∧ t.cav = s1.cav ∧ t.top = s1.top
      ∧ t.net = s1.net ++ (x.closing.map (fun d => Rules.fillSent { ctx := x.ctx, gen := x.gen, reg := d.1, inTrap := d.2 }
          ((BitVec.ofNat 64 (x.pos % 2 ^ 48 * 2 ^ 16)).setWidth 512))).flatten))
  ∧ ∀ (cn i n code acc : Nat) (ea : Dword) (x : Stream) (s : State), i < 16 → tfind s.streams (cn * 16 + i) = some x →
    streamWrite x.desc = true → (x.closing ≠ [] ∨ x.bound = false) → x.owed = none → x.fail = some (n, code, acc, ea) → code < 256 →
    ∃ t, exec (.streamDrain cn i) s = .next t ∧ tfind t.streams (cn * 16 + i) = none ∧ t.mem = s.mem
      ∧ t.net = s.net ++ (x.closing.map (fun d => Rules.fillSent { ctx := x.ctx, gen := x.gen, reg := d.1, inTrap := d.2 }
          ((BitVec.ofNat 64 (min x.far (streamCount x.desc) % 2 ^ 48 * 2 ^ 16 + code * 2 ^ 8 + 2)).setWidth 512))).flatten

/-- The Ladle and the stream engine; a stream whose context has ended is drained in the same way (R204).
(The model's choices in it: log 19, 20, 30, 31, 32, 61, 76, 91.) -/
def Obligations.LadleAndStreamEvents : Prop := Sys2Proof.Rules.LadleEvents ∧ Sys2Proof.Rules.StreamEvents

namespace Sys2Proof.Rules

/-- The logical Presses that the same physical one serves (R296). -/
def host (s : State) (cl p : Nat) : Nat := (getPress s cl p).host.getD p
def served (s : State) (cl p q : Nat) : Prop := q < 4 ∧ host s cl q = host s cl p

/-- The physical Press that serves a logical one does not wait to retire (R394). -/
def inService (s : State) (cl p : Nat) : Prop := (getCluster s cl).failures.contains (.press (host s cl p)) = false

/-- No command that the same physical Press accepted earlier is left (R285). -/
def oldest (s : State) (cl p : Nat) (y : PCmd) : Prop := ∀ q, served s cl p q → ∀ c ∈ (getPress s cl q).cmds, y.seq ≤ c.seq

end Sys2Proof.Rules

/-- R283, R285, R289, R292 to R298: a physical Press with fewer than two commands accepts one of an inbox, or ends it with
status 9 where the cluster is another Rind's; a PRES finds its record in its turn, and status 7 says that there is none; a PMMA
finds its tile in a bank or loads it, and a malformed image ends it with status 8; a K-block is accumulated; an ended command posts
its objects, and a PWLD copies its weights 64 bytes at a time. -/
def Sys2Proof.Rules.PressEvents : Prop :=
  (∀ (cl p : Nat) (q : Queued) (rest : List Queued) (s : State), p < 4 → Rules.waiting s cl (2 + p) = q :: rest →
    (((List.range 4).filter (fun j => Rules.host s cl j == Rules.host s cl p)).map
      (fun j => (getPress s cl j).cmds.length)).sum < 2 → pressTurn s cl p = true → Rules.inService s cl p →
    ((getCluster s cl).rind ≠ some (imgRind q.msg) → ∃ t x, exec (.pressAccept cl p) s = .next t
      ∧ Rules.waiting t cl (2 + p) = rest ∧ (getPress t cl p).cmds = (getPress s cl p).cmds ++ [x] ∧ x.cmd = q
      ∧ x.phase = .ends { status := 9, prog := BitVec.allOnes 32 } ∧ { t with clusters := s.clusters } = s)
    ∧ ((getCluster s cl).rind = some (imgRind q.msg) → pressWorks s cl = true → imgKind q.msg = 3 →
      ∃ t x, exec (.pressAccept cl p) s = .next t ∧ Rules.waiting t cl (2 + p) = rest
        ∧ (getPress t cl p).cmds = (getPress s cl p).cmds ++ [x] ∧ x.cmd = q ∧ x.phase = .resume ∧ { t with clusters := s.clusters } = s)
    ∧ ∀ b s1, (getCluster s cl).rind = some (imgRind q.msg) → pressWorks s cl = true → imgKind q.msg ≤ 1 →
      acceptRead s (pressReq s cl q) (imgPbva q.msg) 5 4 = (s1, .block b) → ∃ t x, exec (.pressAccept cl p) s = .next t
        ∧ Rules.waiting t cl (2 + p) = rest ∧ (getPress t cl p).cmds = (getPress s1 cl p).cmds ++ [x] ∧ x.cmd = q ∧ x.block = b
        ∧ x.stopping = false
        ∧ (imgKind q.msg = 0 → wlBad s1 (imgRind q.msg) b = false → x.phase = .copy 0)
        ∧ (imgKind q.msg = 0 → wlBad s1 (imgRind q.msg) b = true → x.phase = .ends { status := 5, prog := BitVec.allOnes 32 })
        ∧ (imgKind q.msg = 1 → mmBadEarly s1 (imgRind q.msg) b = false → x.phase = .load)
        ∧ { t with clusters := s1.clusters } = s1)
  ∧ (∀ (cl p : Nat) (y : PCmd) (s : State), p < 4 → Rules.host s cl p < 4 → (getPress s cl p).cmds = [y] → Rules.oldest s cl p y →
    Rules.inService s cl p →
    let x := getPress s cl p
    let h := Rules.host s cl p
    let z := getPress s cl h
    let other := if z.last = 0 then 1 else 0
    (y.phase = .load →
      (∀ i tile, validBank z p (mmWofs y.block) = some i → bankOf z i = some tile → mmBad y.block tile = false →
        mmRow0 y.block < mmM y.block → ∃ t, exec (.bankLoad cl p) s = .next t
          ∧ (getPress t cl p).cmds = [{ y with
              bank := i, tile := some tile, phase := .rows { r := mmRow0 y.block, kb := mmKb0 y.block, first := true } }]
          ∧ (getPress t cl h).last = i ∧ { getPress t cl h with last := z.last, cmds := z.cmds } = z ∧ { t with clusters := s.clusters } = s)
      ∧ (∀ tile, validBank z p (mmWofs y.block) = none → loadImage x p (mmWofs y.block) = some tile →
        ∃ t w, exec (.bankLoad cl p) s = .next t ∧ (getPress t cl p).cmds = [w] ∧ w.bank = other ∧ w.tile = some tile
          ∧ bankOf (getPress t cl h) other = some tile ∧ bankOf (getPress t cl h) (1 - other) = bankOf z (1 - other)
          ∧ (getPress t cl h).last = other ∧ { t with clusters := s.clusters } = s)
      ∧ (validBank z p (mmWofs y.block) = none → loadImage x p (mmWofs y.block) = none → ∃ t e, exec (.bankLoad cl p) s = .next t
          ∧ getPress t cl p = { x with cmds := [{ y with phase := .ends e }] } ∧ e.status = 8 ∧ { t with clusters := s.clusters } = s))
    ∧ (y.phase = .resume →
      let mine := fun (r : PRec) => r.asid = imgAsid y.cmd.msg ∧ r.block.toNat / 2 ^ 464 % 2 ^ 16 = (imgPbva y.cmd.msg).toNat % 2 ^ 16
      ((∀ r ∈ x.recs, ¬ mine r) → ∃ t, exec (.bankLoad cl p) s = .next t
        ∧ getPress t cl p = { x with cmds := [{ y with block := 0, phase := .ends { status := 7, prog := BitVec.allOnes 32 } }] })
      ∧ ∀ older r newer, x.recs = older ++ r :: newer → mine r → (∀ r ∈ newer, ¬ mine r) →
        mmBadEarly s (imgRind y.cmd.msg) (resumeBlock r) = false → ∃ t, exec (.bankLoad cl p) s = .next t
          ∧ getPress t cl p = { x with
              recs := older ++ newer, cmds := [{ y with block := resumeBlock r, phase := .load }] }))
  ∧ (∀ (cl p : Nat) (y : PCmd) (g : Group) (ins : GroupIn) (tile : Bank) (s : State), p < 4 → (getPress s cl p).cmds = [y] →
    Rules.oldest s cl p y → Rules.inService s cl p → y.phase = .rows g → y.tile = some tile → g.ins = some ins → g.inside = true →
    y.stopping = false → g.kb + 1 < mmNk y.block tile →
    (∃ t, exec (.kBlock cl p .none) s = .next t
      ∧ getPress t cl p = { getPress s cl p with cmds := [{ y with phase := .rows { g with
          kb := g.kb + 1, acc := accumulate y.block tile g.kb g.acc ins.rows } }] }
      ∧ { t with clusters := s.clusters } = s)
    ∧ ∃ t, exec (.kBlock cl p .transient) s = .next t ∧ (getPress t cl p).mism = (getPress s cl p).mism + 1
      ∧ (getPress t cl p).cmds = [{ y with phase := .rows { g with
          kb := g.kb + 1, acc := accumulate y.block tile g.kb g.acc ins.rows } }])
  ∧ (∀ (cl p : Nat) (y : PCmd) (rest : List PCmd) (e : Ending) (s : State), p < 4 → (getPress s cl p).cmds = y :: rest →
    Rules.oldest s cl p y → y.phase = .ends e → e.prog ≠ BitVec.allOnes 32 → imgKind y.cmd.msg ≤ 1 →
    let ctr := if imgKind y.cmd.msg = 0 then y.block.extractLsb' 192 64 else y.block.extractLsb' 256 64
    ∃ t, exec (.pressCompletion cl p) s = .next t ∧ (getPress t cl p).cmds = rest
      ∧ t.net = s.net ++ Rules.objects s y.cmd e
          (if imgKind y.cmd.msg = 0 then y.block.toNat / 2 ^ 128 % 2 ^ 16 else y.block.toNat / 2 ^ 464 % 2 ^ 16)
          (pressPort y.cmd) (imgPbva y.cmd.msg) ctr
      ∧ (imgKind y.cmd.msg = 1 → e.status = 1 → ∃ rec_, rec_ ∈ (getPress t cl p).recs ∧ rec_.block = y.block
          ∧ rec_.row = e.prog.toNat / 2 ^ 15 ∧ rec_.kb = e.prog.toNat / 2 ^ 12 % 8)
      ∧ { t with net := s.net, clusters := s.clusters } = s)
  ∧ ∀ (cl p n : Nat) (y : PCmd) (v : Vec) (s s1 : State), p < 4 → (getPress s cl p).cmds = [y] → Rules.oldest s cl p y →
    Rules.inService s cl p → y.phase = .copy n → y.stopping = false → n < wlLen y.block →
    engAccess s (pressReq s cl y.cmd) { op := .load, n := 64, va := wlSrc y.block + BitVec.ofNat 64 n } = (s1, .ok v) →
    (getPress s1 cl p).cmds = [y] → ∃ t, exec (.pressCompletion cl p) s = .next t
      ∧ (getPress t cl p).cmds = [{ y with phase := .copy (n + 64) }]
      ∧ (∀ j, j < 64 → memGet (getPress t cl p).buf (wlBoff y.block + n + j) = v.extractLsb' (8 * j) 8)
      ∧ ∀ q i b, q < 4 → i < 2 → bankOf (getPress s1 cl q) i = some b →
          bankOf (getPress t cl q) i = some (if b.home = p ∧ b.off < wlBoff y.block + n + 64 ∧ wlBoff y.block + n < b.off + b.len then
            { b with valid := false } else b)

/-- R305, R310 to R316: the front Harp accepts a fence, which fills 0; frees a descriptor slot; and enters a chain command whose
slot, index and slices are in order, with the leaves of its pages. A home Harp reads a slice. A command whose requests are
performed fills its row or status; a CSTG without release may fill it once its reads are made. -/
def Sys2Proof.Rules.HarpEvents : Prop :=
  (∀ (cl : Nat) (q : Queued) (rest : List Queued) (s : State), Rules.waiting s cl 6 = q :: rest →
    (imgKind q.msg = 3 → ∃ t, exec (.harpAccept cl) s = .next t ∧ Rules.waiting t cl 6 = rest
      ∧ t.net = s.net ++ Rules.fillSent q.reply 0 ∧ { t with net := s.net, clusters := s.clusters } = s)
    ∧ (imgKind q.msg = 0 → hcOpnd q = 0 → (hcArg q).toNat < 64 → ∃ t, exec (.harpAccept cl) s = .next t
      ∧ Rules.waiting t cl 6 = rest ∧ tfind (getCluster t cl).harp.slots (hcArg q).toNat = none
      ∧ (∀ j, j ≠ (hcArg q).toNat → tfind (getCluster t cl).harp.slots j = tfind (getCluster s cl).harp.slots j)
      ∧ (let younger := fun (e : Flight) => e.owner.map Prod.fst = some q.reply.ctx ∧ q.ord.born < e.ord.born
          ∃ pre post, s.net = pre ++ post ∧ t.net = pre ++ { owner := q.owner, ord := { slotOrd q with born := q.ord.born }
                                                             body := .descFill q.reply 0xFF00, launch := none } :: post
            ∧ (∀ e ∈ pre, ¬ younger e) ∧ ∀ e, post.head? = some e → younger e)
      ∧ { t with net := s.net, clusters := s.clusters } = s)
    ∧ (∀ d asid s1 xs, (imgKind q.msg = 1 ∨ imgKind q.msg = 2) → (hcOpnd q).toNat / 2 ^ 54 = 0 →
      tfind (getCluster s cl).harp.slots ((hcOpnd q).toNat / 2 ^ 48 % 64) = some (d, asid, q.launch) →
      (hcOpnd q).toNat % 2 ^ 40 < dsRows d → hcCol0 d q < dsW d →
      translateFactors (harpReq (setInbox s cl 6 rest) cl q asid) d (rowDigits d (dsN d) ((hcOpnd q).toNat % 2 ^ 40))
        (imgKind q.msg == 2) (List.range (dsN d)) [] (setInbox s cl 6 rest) = (s1, .ok xs) →
      let s2 := xs.foldl (fun s e => touchLeaf s (harpReq (setInbox s cl 6 rest) cl q asid) e.2 e.1) s1
      ∃ t n x, exec (.harpAccept cl) s = .next t ∧ tfind (getCluster t cl).harp.cmds n = some x ∧ x.cmd = q ∧ x.desc = d
        ∧ x.asid = asid ∧ x.digits = rowDigits d (dsN d) ((hcOpnd q).toNat % 2 ^ 40) ∧ x.leaves = leavesOf xs
        ∧ x.slices = [] ∧ x.updated = [] ∧ x.fail = none ∧ x.filled = false ∧ x.born = s.tick ∧ { t with clusters := s2.clusters } = s2)
    ∧ ((imgKind q.msg = 2) → (hcOpnd q).toNat / 2 ^ 54 = 0 →
      tfind (getCluster s cl).harp.slots ((hcOpnd q).toNat / 2 ^ 48 % 64) = none → ∃ t, exec (.harpAccept cl) s = .next t
        ∧ Rules.waiting t cl 6 = rest ∧ t.net = s.net ++ Rules.fillSent q.reply 0xFF01
        ∧ { t with net := s.net, clusters := s.clusters } = s))
  ∧ (∀ (cl n k : Nat) (x : HCmd) (vs : List Vec) (s s1 : State), tfind (getCluster s cl).harp.cmds n = some x →
    k < dsN x.desc → blockedAt s cl n (dsHome x.desc k) x = false → dsSerial x.desc = false → tfind x.slices k = none → x.fail = none →
    harpReads s (harpReq s cl x.cmd x.asid) x .load (chainBytes (dsFmt x.desc k))
      ((List.range (dsQ x.desc k * dsQ x.desc (k + 1))).map (fun i =>
        sliceAddr x.desc k (x.digits.getD k 0) + BitVec.ofNat 64 (i * chainBytes (dsFmt x.desc k)))) [] = (s1, .ok vs) →
    ∃ t y, exec (.sliceRequest cl n k) s = .next t ∧ tfind (getCluster t cl).harp.cmds n = some y
      ∧ tfind y.slices k = some (vs.map BitVec.toNat) ∧ { y with slices := x.slices } = x
      ∧ t.mem = s1.mem ∧ t.cav = s1.cav ∧ t.top = s1.top ∧ t.net = s1.net)
  ∧ ∀ (cl n : Nat) (x : HCmd) (s : State), tfind (getCluster s cl).harp.cmds n = some x →
    (imgKind x.cmd.msg = 1 → x.fail = none → x.filled = false → (∀ k, k < dsN x.desc → (tfind x.slices k).isSome = true) →
      ∃ t, exec (.harpCompletion cl n) s = .next t ∧ tfind (getCluster t cl).harp.cmds n = none
        ∧ t.net = s.net ++ Rules.fillSent x.cmd.reply (chainValue x) ∧ { t with net := s.net, clusters := s.clusters } = s)
    ∧ (imgKind x.cmd.msg = 2 → x.fail = none → (∀ k, k < dsN x.desc → k ∈ x.updated) →
      ∃ t, exec (.harpCompletion cl n) s = .next t ∧ tfind (getCluster t cl).harp.cmds n = none
        ∧ t.net = s.net ++ (if x.filled then [] else Rules.fillSent x.cmd.reply 0xFF00)
        ∧ { t with net := s.net, clusters := s.clusters } = s)
    ∧ (imgKind x.cmd.msg = 2 → ordRel (imgOrd x.cmd.msg) = false → x.fail = none → x.filled = false →
      (∀ k, k < dsN x.desc → (tfind x.slices k).isSome = true) → (∃ k, k < dsN x.desc ∧ k ∉ x.updated) →
      ∃ t, exec (.harpCompletion cl n) s = .next t ∧ (t = s ∨ (tfind (getCluster t cl).harp.cmds n = some { x with filled := true }
        ∧ t.net = s.net ++ Rules.fillSent x.cmd.reply 0xFF00 ∧ { t with net := s.net, clusters := s.clusters } = s)))
    ∧ (∀ k st, imgKind x.cmd.msg = 1 → x.fail = some (k, st) → x.filled = false → x.cmd.reply.reg ≠ 0 → k < 256 → st < 256 →
      ∃ t, exec (.harpCompletion cl n) s = .next t ∧ tfind (getCluster t cl).harp.cmds n = none
        ∧ t.net = s.net ++ [Rules.hardware none (.error x.cmd.reply
            { code := 0x0F, eaddr := hcOpnd x.cmd, info := 3, frame := [BitVec.ofNat 64 (k * 256 + st)] })])

/-- The Presses and the Harp.
(The model's choices in it: log 20, 21, 92; when a CSTG without release fills its status, log 77.) -/
def Obligations.PressAndHarpEvents : Prop := Sys2Proof.Rules.PressEvents ∧ Sys2Proof.Rules.HarpEvents

namespace Sys2Proof.Rules

/-- A trigger raised in a Rind by a source (R399, R400): one within 64 cycles of another that has been raised joins it, a held
snapshot counts one that comes later as missed in every core, and any other Rind starts to latch. -/
def raised (s t : State) (k : Nat) (src : Dword) : Prop :=
  ((getRind s k).trigger.isSome = true ∨ s.cycle < (getRind s k).joinTo → getRind t k = getRind s k
      ∧ ∀ cn, cn < 2048 → (getCluster s (cn / 8)).rind = some k → (getCore t cn).miss = (getCore s cn).miss)
  ∧ ((getRind s k).trigger = none → (getRind s k).joinTo ≤ s.cycle → (getRind s k).held = false →
      getRind t k = { getRind s k with trigger := some { cycle := s.cycle, src := src, ts := s.ts, waiters := [] } })
  ∧ ((getRind s k).trigger = none → (getRind s k).joinTo ≤ s.cycle → (getRind s k).held = true → getRind t k = getRind s k
      ∧ ∀ cn, cn < 2048 → (getCluster s (cn / 8)).rind = some k → (getCore t cn).miss = (getCore s cn).miss + 1)

/-- The value of command data that a management request is answered with (R421): code 2 for a Rind that does not exist. -/
def badMask (mask : BitVec 16) : Prop := 4096 ≤ mask.toNat

end Sys2Proof.Rules

/-- R399, R400, R421, R396, R397: the pin and a request of the fabric raise the triggers of the Rinds that they name; a trigger is
latched by every core of its Rind and answers the SNAPs that wait; the release lets the next one in. A management command
answers code 2 for a Rind that does not exist, and code 0 with its effect for any other, and a command byte that is not listed
code 1: the entries of the event log, the
triggers, the releases, the readings, and the reset of a Rind, which ends its launches. -/
def Sys2Proof.Rules.SnapshotsAndManagement : Prop :=
  (∀ (s : State), (∃ t, exec .snapshotPin s = .next t ∧ (∀ k, k < 12 → Rules.raised s t k 2)
    ∧ { t with rinds := s.rinds, cores := s.cores } = s))
  ∧ (∀ (m : BitVec 16) (s : State), (∃ t, exec (.snapshotRequest m) s = .next t
      ∧ (∀ k, k < 12 → (m.getLsbD k = true → Rules.raised s t k 3) ∧ (m.getLsbD k = false → getRind t k = getRind s k))
      ∧ { t with rinds := s.rinds, cores := s.cores } = s)
    ∧ execOutside .mgmtUnknown s = .next { s with mgmtOut := s.mgmtOut ++ [1] }
    ∧ (Rules.badMask m → ∀ i n, i = .mgmtSnapshot m ∨ i = .mgmtRelease m ∨ i = .rindReset m ∨ i = .eventRead m n →
        exec i s = .next { s with mgmtOut := s.mgmtOut ++ [2] })
    ∧ (Rules.badMask m → execOutside (.powerQuery m) s = .next { s with mgmtOut := s.mgmtOut ++ [2] })
    ∧ (¬ Rules.badMask m → ∃ w, execOutside (.powerQuery m) s = .next { s with mgmtOut := s.mgmtOut ++ [0, w] })
    ∧ (¬ Rules.badMask m → (∃ t src, exec (.mgmtSnapshot m) s = .next t ∧ t.mgmtOut = s.mgmtOut ++ [0]
        ∧ (∀ k, k < 12 → m.getLsbD k = true → Rules.raised s t k src)
        ∧ { t with rinds := s.rinds, cores := s.cores, mgmtOut := s.mgmtOut } = s)
      ∧ (∃ t, exec (.mgmtRelease m) s = .next t ∧ t.mgmtOut = s.mgmtOut ++ [0]
        ∧ (∀ k, k < 12 → m.getLsbD k = true → (getRind t k).held = false ∧ ∀ cn, cn < 2048 →
            (getCluster s (cn / 8)).rind = some k → (getCore t cn).held = false)
        ∧ { t with rinds := s.rinds, cores := s.cores, mgmtOut := s.mgmtOut } = s)
      ∧ (∃ t, exec (.rindReset m) s = .next t ∧ t.mgmtOut = s.mgmtOut ++ [0]
        ∧ ∀ l x, getLaunch t l = some x → x.rind < 12 → m.getLsbD x.rind = false))
    ∧ ∀ k n, k < 12 → m = BitVec.ofNat 16 (2 ^ k) → ∃ t e, exec (.eventRead m n) s = .next t
      ∧ e = tget 0 (getRind s k).log.ents (((getRind s k).log.head - 1 - BitVec.ofNat 32 n).toNat % 1024)
      ∧ t.mgmtOut = s.mgmtOut ++ [0, e.extractLsb' 0 64, e.extractLsb' 64 64, e.extractLsb' 128 64, e.extractLsb' 192 64]
      ∧ { t with mgmtOut := s.mgmtOut } = s)
  ∧ (∀ (k : Nat) (x : Trigger) (s : State), k < 12 → (getRind s k).trigger = some x →
    ∃ t, exec (.snapshotLatch k) s = .next t ∧ (getRind t k).trigger = none ∧ (getRind t k).held = true
      ∧ (getRind t k).latches = (getRind s k).latches + 1 ∧ (getRind t k).joinTo = x.cycle + 65
      ∧ t.net = s.net ++ (x.waiters.map (fun r => Rules.fillSent r (((getRind s k).latches + 1).setWidth 512))).flatten
      ∧ (∀ cn, cn < 2048 → (getCluster s (cn / 8)).rind = some k → (getCore t cn).held = true ∧ (getCore t cn).snapTs = x.ts
          ∧ (getCore t cn).snapSrc = x.src ∧ (getCore t cn).snapSeq = (getRind s k).latches + 1
          ∧ ∀ i, i < 16 → tget 0 (getCore t cn).snapRegs (0x811 + 2 * i) = (getCtx s (cn * 256 + i)).st
            ∧ tget 0 (getCore t cn).snapRegs (0x810 + 2 * i)
              = if (getCtx s (cn * 256 + i)).act = .dormant then 0 else (getCtx s (cn * 256 + i)).pc)
      ∧ t.ctxs = s.ctxs ∧ t.mem = s.mem ∧ t.cav = s.cav ∧ t.top = s.top)
  ∧ (∀ (k : Nat) (s : State), k < 12 → ∃ t, exec (.snapshotRelease k) s = .next t ∧ (getRind t k).held = false
    ∧ (∀ cn, cn < 2048 → (getCluster s (cn / 8)).rind = some k → (getCore t cn).held = false)
    ∧ { t with rinds := s.rinds, cores := s.cores } = s)
  ∧ ∀ s, (∃ t w, exec .powerQuery s = .next t ∧ t = { s with mgmtOut := s.mgmtOut ++ [0, w] })
    ∧ ∃ t w, exec .pldmMonitoring s = .next t ∧ t = { s with mgmtOut := s.mgmtOut ++ [w] }

/-- R88, R358, R417 to R419, R422: cold reset leaves nothing of the machine but host memory, the defects of its storage with the
rows repaired, the fuses, and what has left the package, and stays in
recovery unless its images verify and are not older than the fused counter; an update that verifies ends recovery; after power is good each Rind of the image has its
clusters, windows and pools, and its launch window opens with pattern 31 bound to port 63; rows repaired before are repaired for
good; an attestation request is answered with a measurement, of a Rind with digests that have been verified. A die above
105 °C halves its clock until it is below 95 °C. -/
def Sys2Proof.Rules.StarterEvents : Prop :=
  (∀ (ok : Bool) (ds : List (BitVec 512)) (s : State), ∃ t, exec (.coldReset ok ds) s = .next t
    ∧ (ok = false ∨ ds = [] → t.recovery = true) ∧ (ok = true → ds ≠ [] → s.fuseVersion = 0 → t.recovery = false)
    ∧ t.verified = ds ∧ t.fuseVersion = s.fuseVersion ∧ t.fuseKey = s.fuseKey ∧ t.fuseSecret = s.fuseSecret ∧ (∀ a, a < 0x100000000000 ∨ 0x200000000000 ≤ a → memGet t.mem a = 0)
    ∧ (∀ a, 0x100000000000 ≤ a → a < 0x200000000000 → memGet t.mem a = memGet s.mem a)
    ∧ (∀ d rest, ds = d :: rest → tget 0 t.slotsM 1 = Sha3.extend 0 d)
    ∧ t.badMem = s.badMem ∧ t.softMem = s.softMem ∧ (∀ i, getStack t i = { repaired := (getStack s i).repaired })
    ∧ { t with turn := .first, tick := 0, cycle := 0, ts := 0, me := 0, node := 0, mem := [], badMem := [], softMem := []
               ctls := [], fabOut := [], mgmtOut := [], msix := [], hostOut := [], starterOut := [], slotsM := []
               skew := State.reset.skew, fuseVersion := State.reset.fuseVersion, fuseKey := State.reset.fuseKey
               fuseSecret := State.reset.fuseSecret, verified := [], recovery := false } = State.reset)
  ∧ (∀ (ok : Bool) (ds : List (BitVec 512)) (s : State),
    (s.recovery = true → ok = true → ds ≠ [] → s.fuseVersion = 0 → ∃ t, exec (.pldmFirmwareUpdate ok ds) s = .next t
      ∧ t.recovery = false ∧ t.verified = ds ∧ { t with recovery := s.recovery, slotsM := s.slotsM, verified := s.verified } = s)
    ∧ (s.recovery = false ∨ ok = false ∨ ds = [] → exec (.pldmFirmwareUpdate ok ds) s = .next s))
  ∧ (∀ (m : RindImage) (s : State), s.recovery = false → s.slotsM ≠ [] → m.rind < 12 →
    (∀ c ∈ m.clusters, (getCluster s c).rind = none) → ∃ t, exec (.powerGood [m]) s = .next t
      ∧ (getRind t m.rind).started = true ∧ (getRind t m.rind).twin = m.twin &&& 0x01FFFFFFC0000000
      ∧ (getRind t m.rind).hwin = m.hwin &&& 0x83FFFFFFC0000000 ∧ (getRind t m.rind).spoolBase = m.spoolBase &&& 0x01FFFFFFFFC00000
      ∧ (getRind t m.rind).spoolCnt = m.spoolCnt &&& 0xFFFF
      ∧ (∀ c ∈ m.clusters, c < 256 → (getCluster t c).rind = some m.rind)
      ∧ (∀ c, c ∉ m.clusters → (getCluster t c).rind = (getCluster s c).rind)
      ∧ (∀ h ∈ t.badMem, h ∈ s.badMem ∧ ∀ e ∈ s.ctls, h / 2 ∉ e.2.repaired)
      ∧ ∀ cn, frontCore t m.rind = some cn → (getPort t cn 63).en = true ∧ (getPort t cn 63).count? = false ∧ (getPort t cn 63).cap = 16
        ∧ ∃ x, tfind t.patterns (cn * 32 + 31) = some x ∧ x.refs = [(63, 1)] ∧ x.cmask = 0 ∧ x.owner = none)
  ∧ (∀ (i : Nat) (s : State), (1 ≤ i → i ≤ 8 → ∃ t, exec (.attestation i) s = .next t
      ∧ t = { s with mgmtOut := s.mgmtOut ++ (List.range 8).map (fun j => (tget 0 s.slotsM i).extractLsb' (64 * j) 64) })
    ∧ (0x10 ≤ i → i < 0x1C → s.verified ≠ [] → ∃ a b, a ∈ s.verified ∧ b ∈ s.verified ∧ exec (.attestation i) s
      = .next { s with mgmtOut := s.mgmtOut ++ (List.range 8).map (fun j => a.extractLsb' (64 * j) 64)
          ++ (List.range 8).map (fun j => b.extractLsb' (64 * j) 64) }))
  ∧ ∀ (d tenths : Nat) (s : State), d < 4 →
    (1050 < tenths → ∃ t, exec (.thermalThrottle d tenths) s = .next t ∧ (getCave t d).halfClock = true
      ∧ { getCave t d with halfClock := (getCave s d).halfClock } = getCave s d ∧ Rules.OnlyCave s t d)
    ∧ (tenths < 950 → ∃ t, exec (.thermalThrottle d tenths) s = .next t ∧ (getCave t d).halfClock = false ∧ Rules.OnlyCave s t d)
    ∧ (950 ≤ tenths → tenths ≤ 1050 → exec (.thermalThrottle d tenths) s = .next s)

/-- Snapshots, the management port and the Starter.
(The model's choices in it: log 9, 22, 36, 39, 40, 41, 59, 87; that pattern 31 starts no seated context, log 73.) -/
def Obligations.StarterAndManagement : Prop := Sys2Proof.Rules.SnapshotsAndManagement ∧ Sys2Proof.Rules.StarterEvents

/-- R389, R390, R393 to R395, R412, R415: a core that retires ends all its contexts, and its spare takes over or it goes offline;
one that fails during a take-over of its cluster waits (R394); the
spare that runs sets core.hlth.sp; a lane that drops lowers its port, and a port with one lane left leaves every route; a
timestamp, a route update and a replay change only what they name.
(The model's choices in it: log 13, 35, 37, 38.) -/
def Obligations.FailureAndLinkEvents : Prop :=
  (∀ (cn : Nat) (checker : Bool) (s : State), cn < 2048 → (getCore s cn).off = false → (getCore s cn).takeover = false →
    (∃ j, j < 8 ∧ (getCore s (cn / 8 * 8 + j)).takeover = true) → .core cn ∉ (getCluster s (cn / 8)).failures →
    (checker = true ∨ 3 ≤ ((getCore s cn).regErrs.filter (fun c => decide (s.cycle < c + 2 ^ 30))).length) →
    ∃ t, exec (.coreRetirement cn checker) s = .next t
      ∧ (getCluster t (cn / 8)).failures = (getCluster s (cn / 8)).failures ++ [.core cn] ∧ { t with clusters := s.clusters } = s)
  ∧ (∀ (cn : Nat) (checker : Bool) (s : State), cn < 2048 → (getCore s cn).off = false →
    (∀ j, j < 8 → (getCore s (cn / 8 * 8 + j)).takeover = false) →
    (checker = true ∨ 3 ≤ ((getCore s cn).regErrs.filter (fun c => decide (s.cycle < c + 2 ^ 30))).length) →
    ∃ t, exec (.coreRetirement cn checker) s = .next t ∧ (∀ k, k / 256 = cn → (getCtx t k).act = .dormant)
      ∧ (getCore t cn).running = none ∧ (∀ r, (cn * 256, r) ∉ t.badReg)
      ∧ ((getCluster s (cn / 8)).spareUsed = true → (getCore t cn).off = true)
      ∧ ((getCluster s (cn / 8)).spareUsed = false → (getCore t cn).takeover = true ∧ (getCore t cn).off = false
          ∧ (getCluster t (cn / 8)).spareUsed = true))
  ∧ (∀ (cn : Nat) (s : State), (getCore s cn).takeover = true → (getCore s cn).spilled = [] →
    (getCluster s (cn / 8)).failures = [] →
    ∃ t, exec (.spareRun cn) s = .next t ∧ (getCore t cn).takeover = false ∧ (getCore t cn).sp = true ∧ t.ctxs = s.ctxs
      ∧ t.mem = s.mem)
  ∧ (∀ (p : Nat) (s : State), p < 48 → 2 ≤ (tget {} s.kports p).lanes → ∃ t, exec (.laneDrop p) s = .next t
    ∧ (tget {} t.kports p).lanes = (tget {} s.kports p).lanes - 1 ∧ (tget {} t.kports p).held = (tget {} s.kports p).held
    ∧ ((tget {} s.kports p).lanes = 2 → ∀ j, (tget 0 t.routes j).getLsbD p = false)
    ∧ (3 ≤ (tget {} s.kports p).lanes → t.routes = s.routes)
    ∧ { t with kports := s.kports, routes := s.routes, starterLog := s.starterLog } = s)
  ∧ (∀ (x : BitVec 64) (s : State), ∃ t n, exec (.timestamp x) s = .next t ∧ t.ts = x + BitVec.ofNat 64 n ∧ { t with ts := s.ts } = s)
  ∧ (∀ (p : Nat) (n : BitVec 16) (m : BitVec 64) (s : State), p < 48 → n.toNat < 4096 →
    ∃ t, exec (.routeUpdate p n m) s = .next t
      ∧ (∀ j, j < 64 → (tget 0 t.routes (4096 * p + n.toNat)).getLsbD j
          = (m.getLsbD j && (decide (j < 48) && decide (2 ≤ (tget {} s.kports j).lanes))))
      ∧ (∀ k, k ≠ 4096 * p + n.toNat → tfind t.routes k = tfind s.routes k) ∧ { t with routes := s.routes } = s)
  ∧ ∀ (p : Nat) (seq : BitVec 16) (q : FabricPacket) (l : Option Nat) (pre post : List (BitVec 16 × FabricPacket × Option Nat))
      (s : State), (tget {} s.kports p).held = pre ++ (seq, q, l) :: post → (∀ e ∈ pre, e.1 ≠ seq) →
    ∃ t, exec (.flitReplay p seq) s = .next t ∧ (tget {} t.kports p).held = (seq, q, l) :: post
      ∧ (tget {} t.kports p).seq = (tget {} s.kports p).seq ∧ t.fabOut = s.fabOut ∧ t.ctxs = s.ctxs ∧ t.mem = s.mem ∧ t.net = s.net

namespace Sys2Proof.Rules

/-- What a step makes of what its agent does in s: time passes after a next state; one that needs a stack that is held for
quiescence has done nothing yet (R71). -/
def passes (s : State) (o : Host.Outcome State Fault Refusal) : Host.Outcome State Fault Refusal :=
  match o with
  | .next t => .next (advance (if t.stalled then s else t))
  | .fault f => .fault f
  | .refused r => .refused r

/-- No pre-emption of the running context is due (R386): it holds a hint or runs in system mode, no record of a lower class
waits, or its quantum is not over and its launch not demoted. -/
def keepsSlot (s : State) (cn k : Nat) : Prop :=
  let c := getCtx s k
  c.hint ≠ none ∨ stSys c.st = true ∨ (∀ e, waits s cn e → rank c ≤ rank e.2)
    ∨ (((getCore s cn).quant = 0 ∨ s.cycle - c.selected < (getCore s cn).quant.toNat) ∧ stDem c.st = false)

/-- Words of the spec's listings and encodings (R29, R54, R243, R251), with the instructions that they stand for. -/
def words : List (Word × Instr) :=
  [(0x04A63800, .add 5 6 7 0), (0x18A60146, .shri 5 6 70), (0x1CA189AB, .lhi 5 1 0x89AB), (0x8024FFFF, .bnez 4 0xFFFF),
   (0x8C050000, .jr 5), (0x8C000002, .ret), (0x90040003, .rep 4 3), (0xDCA03001, .crd 5 1), (0xDC054001, .cwr 5 1),
   (0xDC002000, .eret), (0xB8000001, .exit), (0xD4A30010, .clean 5 3 0 1)]

/-- The value of a control register of context k after reset, where the spec gives one for the whole register or for the
fields that are not "—" (R36, R39, R165, R246, R331, R362, R378, R386, R389, R400): the index, the bits that the spec
gives, and their value. -/
def resetValues : List (Nat × Dword × Dword) :=
  [(0x000, 0xF0FFFFFFFFFF00FF, 0xE0), (0x001, ~~~0#64, 0), (0x002, ~~~0#64, 0xFFFFFFFFFFFFFFFE), (0x011, ~~~0#64, 0),
   (0x016, ~~~0#64, 0x30), (0x017, ~~~0#64, 0), (0x018, ~~~0#64, 0), (0x01F, ~~~0#64, 0), (0x100, ~~~0#64, 0),
   (0x103, ~~~0#64, 0), (0x104, ~~~0#64, 0), (0x105, ~~~0#64, 0), (0x202, ~~~0#64, 0), (0x210, ~~~0#64, 0),
   (0x220, ~~~0#64, 0), (0x221, ~~~0#64, 0), (0x222, ~~~0#64, 0), (0x230, ~~~0#64, 0), (0x241, ~~~0#64, 0),
   (0x242, ~~~0#64, 0), (0x250, ~~~0#64, 0), (0x251, ~~~0#64, 8), (0x252, ~~~0#64, 0), (0x253, ~~~0#64, 65536),
   (0x800, ~~~0#64, 0), (0x801, ~~~0#64, 0), (0x802, ~~~0#64, 0), (0x803, ~~~0#64, 0), (0x804, ~~~0#64, 0),
   (0x805, ~~~0#64, 0)]

end Sys2Proof.Rules

/-- R29, R54, R58: a well-formed instruction decodes from its word, with every field at every value that the encoding
admits; and a word that decodes is the word of the instruction it decodes to, so no bit of it is dropped. -/
def Obligations.DecodeEncode : Prop :=
  (∀ (i : Instr) (w : Word), WellFormed i → encode i = some w → decodeWord w = .ok i)
  ∧ ∀ (w : Word) (i : Instr), decodeWord w = .ok i → WellFormed i ∧ encode i = some w

/-- Words of the spec's encodings decode to the instructions that they stand for (R29, R54), and a word of a reserved
major opcode, with a reserved selector, a nonzero reserved field, or a field outside its limits is no instruction (R58). -/
def Obligations.DecodeWords : Prop :=
  (∀ e ∈ Rules.words, decodeWord e.1 = .ok e.2)
  ∧ decodeWord 0 = .error .reservedOpcode ∧ decodeWord 0x0400003F = .error .reservedField
  ∧ decodeWord 0x04A63880 = .error .reservedField ∧ decodeWord 0x90040000 = .error .illFormed

/-- One step is the turn of one agent, and then time passes. A core's turn runs the instruction that the word at the
running context's pc decodes to; a word that is no instruction has the effect of some instruction word in that context, which is
within the context's own powers: no LOOP, and no event of another agent (R61); a failed fetch is taken as a trap. At an instruction boundary a refusal that is due is taken as its trap first
(R382), and then a pre-emption that is due (R386). The event of a turn runs as it stands. No turn is the step of a core that is
offline or has no running context. (The model's choices in it: log 1, 11.) -/
def Obligations.StepRunsDecodedInstruction : Prop :=
  (∀ (s : State) (cn k : Nat),
    s.turn = .issue cn → (getCore s cn).off = false → (getCore s cn).running = some k → (getCtx s k).act = .running →
    ((getCtx s k).hint = none → deferredReady s k = true → step s = Rules.passes s (exec (.deferredTrap cn) s))
    ∧ ((getCtx s k).hint = none → deferredReady s k = false → ¬ Rules.keepsSlot s cn k →
        step s = Rules.passes s (exec (.preemption cn) s))
    ∧ (((getCtx s k).hint ≠ none ∨ deferredReady s k = false) → Rules.keepsSlot s cn k →
    (∀ s' w i, fetchWord { s with me := k } k = (s', .ok w) → decodeWord w = .ok i → step s = Rules.passes s (exec i s'))
    ∧ (∀ s' w e, fetchWord { s with me := k } k = (s', .ok w) → decodeWord w = .error e →
        ∃ w' i, decodeWord w' = .ok i ∧ isEvent i = false ∧ loopLength i = none ∧ step s = Rules.passes s (exec i s'))
    ∧ ∀ s' code ea, fetchWord { s with me := k } k = (s', .error (.fault code ea)) →
        step s = Rules.passes s (.next (takeTrap s' k
          { code := code, acc := if causeHasAcc code then accCode .fetch else 0, eaddr := ea } (Rules.again (getCtx s k))))))
  ∧ (∀ (s : State) (i : Instr), s.turn = .event i → isEvent i = true → step s = Rules.passes s (exec i s))
  ∧ (∀ (s : State) (cn : Nat), s.turn = .issue cn → (getCore s cn).off = true ∨ (getCore s cn).running = none →
    step s = .next (advance s))
  ∧ ∀ (s : State) (w : Word) (i : Instr), decodeWord w = .ok i →
    step (s.withFetchWord 32 w.toNat) = Rules.passes (s.withFetchWord 32 w.toNat) (exec i { s.withFetchWord 32 w.toNat with me := 0 })

/-- Every step from every state that meets the invariant leaves a state that meets it: the stored bytes stay in the
canonical form, and the tables of the bytes above them keep their keys rising. -/
def Obligations.StepKeepsMemInv : Prop :=
  ∀ s t : State, MemInv s → step s = .next t → MemInv t

/-- The state after cold reset: the invariant holds, and every context is dormant with its registers full; the control
registers, the region map, the controllers' registers, the Cave's and the Rinds' registers in control space hold the
reset values that the spec gives; no port is enabled, no stream is open, and nothing is in flight (R6, R19, R39, R40, R67,
R70, R332). -/
def Obligations.ResetState : Prop :=
  MemInv State.reset
  ∧ (∀ k r, (getCtx State.reset k).act = .dormant ∧ (getCtx State.reset k).isEmpty r = false)
  ∧ (∀ k, ∀ e ∈ Rules.resetValues, (ctlReg State.reset k e.1).map (fun x => x &&& e.2.1) = some e.2.2)
  ∧ (∀ r, r < 576 → ctlRead State.reset (.rmap r)
    = BitVec.ofNat 64 (15 * 2 ^ 60 + r / 12 * 2 ^ 49 + r % 12 * 2 ^ 45))
  ∧ (∀ st j, j < 6 → ctlRead State.reset (.ctl st (0x40 + 8 * j)) = 0x00100080 <<< j
    ∧ ctlRead State.reset (.ctl st (0x80 + 8 * j)) = 0x00100080 <<< j)
  ∧ (∀ st j, j < 64 → ctlRead State.reset (.ctl st (0x200 + 8 * j)) = 0)
  ∧ (∀ st, ∀ o ∈ [0, 8, 0x10, 0xC0], ctlRead State.reset (.ctl st o) = 0)
  ∧ (∀ d k, ctlRead State.reset (.rcfg d k) = 0 ∧ ctlRead State.reset (.caveStat d) = 0)
  ∧ (∀ k, (∀ o ∈ [0, 8, 0x10], ctlRead State.reset (.evReg k o) = 0) ∧ ctlRead State.reset (.hwin k) = 0
    ∧ ctlRead State.reset (.spoolBase k) = 0 ∧ ctlRead State.reset (.spoolCnt k) = 0
    ∧ ∀ e, ctlRead State.reset (.peer k e) = 0)
  ∧ (∀ cn p, (getPort State.reset cn p).en = false ∧ getCounter State.reset cn p = 0)
  ∧ State.reset.streams = [] ∧ State.reset.net = [] ∧ State.reset.launches = [] ∧ State.reset.patterns = []
end

