-- ==== Sys2Proof/Laws/Tab.lean ====
section
/-!
SUPPORT. The laws of sparse tables: what a key reads as after an entry, a removal or a filter, and that each keeps
the keys rising.
-/

namespace Sys2Proof

variable {α : Type}

/-! ### Reading -/

theorem tfind_tput (t : Tab α) (j i : Nat) (v : α) : tfind (tput t j v) i = if i = j then some v else tfind t i := by
  induction t with
  | nil => by_cases h : j = i <;> simp [tput, tfind, h, eq_comm]
  | cons e t ih =>
    obtain ⟨k, w⟩ := e
    by_cases hij : i = j
    · subst hij
      simp only [tput]
      split
      · simp [tfind]
      · split
        · simp [tfind]
        · rename_i h1 h2
          have : ¬ k = i := fun e => h2 e.symm
          simp [tfind, this, ih]
    · have hji : ¬ j = i := fun e => hij e.symm
      simp only [tput, if_neg hij]
      split
      · simp [tfind, hji]
      · split
        · rename_i h1 h2
          subst h2
          simp [tfind, hji]
        · simp [tfind, ih, hij]

@[simp] theorem tfind_tput_self (t : Tab α) (j : Nat) (v : α) : tfind (tput t j v) j = some v := by simp [tfind_tput]

theorem tfind_tput_other (t : Tab α) {j i : Nat} (v : α) (h : i ≠ j) : tfind (tput t j v) i = tfind t i := by
  simp [tfind_tput, h]

theorem tget_tput (d : α) (t : Tab α) (j i : Nat) (v : α) : tget d (tput t j v) i = if i = j then v else tget d t i := by
  by_cases h : i = j <;> simp [tget, tfind_tput, h]

@[simp] theorem tget_tput_self (d : α) (t : Tab α) (j : Nat) (v : α) : tget d (tput t j v) j = v := by simp [tget_tput]

theorem tget_tput_other (d : α) (t : Tab α) {j i : Nat} (v : α) (h : i ≠ j) : tget d (tput t j v) i = tget d t i := by
  simp [tget_tput, h]

@[simp] theorem tget_nil (d : α) (j : Nat) : tget d ([] : Tab α) j = d := rfl

theorem tfind_tdel (t : Tab α) (j i : Nat) : tfind (tdel t j) i = if i = j then none else tfind t i := by
  induction t with
  | nil => simp [tdel, tfind]
  | cons e t ih =>
    obtain ⟨k, w⟩ := e
    simp only [tdel] at ih ⊢
    by_cases hk : k = j
    · subst hk
      by_cases hi : i = k
      · subst hi
        simpa using ih
      · have : ¬ k = i := fun e => hi e.symm
        simp [ih, hi, tfind, this]
    · by_cases hi : i = j
      · subst hi
        simp [hk, tfind, ih]
      · simp [hk, tfind, ih, hi]

/-! ### Rising keys -/

/-- Every key of a table is above a bound. -/
def tabove (n : Nat) (t : Tab α) : Prop := ∀ e ∈ t, n < e.1

theorem tsorted_cons {k : Nat} {v : α} {t : Tab α} : tsorted ((k, v) :: t) = true ↔ tabove k t ∧ tsorted t = true := by
  induction t generalizing k v with
  | nil => simp [tsorted, tabove]
  | cons e t ih =>
    obtain ⟨j, w⟩ := e
    simp only [tsorted, Bool.and_eq_true, decide_eq_true_eq]
    constructor
    · rintro ⟨hkj, hs⟩
      refine ⟨?_, hs⟩
      intro x hx
      rcases List.mem_cons.1 hx with rfl | hx
      · exact hkj
      · exact Nat.lt_trans hkj ((ih.1 hs).1 x hx)
    · rintro ⟨ha, hs⟩
      exact ⟨ha (j, w) (List.mem_cons_self ..), hs⟩

theorem tabove_tput {n j : Nat} {v : α} {t : Tab α} (hn : n < j) (h : tabove n t) : tabove n (tput t j v) := by
  induction t with
  | nil => intro e he; simp [tput] at he; simpa [he] using hn
  | cons e t ih =>
    obtain ⟨k, w⟩ := e
    have hk : n < k := h (k, w) (List.mem_cons_self ..)
    have ht : tabove n t := fun e he => h e (List.mem_cons_of_mem _ he)
    intro e he
    simp only [tput] at he
    split at he
    · rcases List.mem_cons.1 he with rfl | he
      · exact hn
      · exact h e he
    · split at he
      · rcases List.mem_cons.1 he with rfl | he
        · exact hn
        · exact ht e he
      · rcases List.mem_cons.1 he with rfl | he
        · exact hk
        · exact ih ht e he

theorem tsorted_tput {t : Tab α} (j : Nat) (v : α) (h : tsorted t = true) : tsorted (tput t j v) = true := by
  induction t with
  | nil => rfl
  | cons e t ih =>
    obtain ⟨k, w⟩ := e
    obtain ⟨ha, hs⟩ := tsorted_cons.1 h
    simp only [tput]
    split
    · rename_i hlt
      refine tsorted_cons.2 ⟨?_, h⟩
      intro e he
      rcases List.mem_cons.1 he with rfl | he
      · exact hlt
      · exact Nat.lt_trans hlt (ha e he)
    · split
      · rename_i _ heq
        subst heq
        exact tsorted_cons.2 ⟨ha, hs⟩
      · rename_i h1 h2
        exact tsorted_cons.2 ⟨tabove_tput (by omega) ha, ih hs⟩

theorem tsorted_filter {t : Tab α} (f : Nat × α → Bool) (h : tsorted t = true) : tsorted (t.filter f) = true := by
  induction t with
  | nil => rfl
  | cons e t ih =>
    obtain ⟨k, w⟩ := e
    obtain ⟨ha, hs⟩ := tsorted_cons.1 h
    by_cases hf : f (k, w) = true
    · rw [List.filter_cons_of_pos hf]
      exact tsorted_cons.2 ⟨fun e he => ha e (List.mem_of_mem_filter he), ih hs⟩
    · rw [List.filter_cons_of_neg hf]
      exact ih hs

theorem tsorted_tdel {t : Tab α} (j : Nat) (h : tsorted t = true) : tsorted (tdel t j) = true := tsorted_filter _ h

theorem tsorted_tkeep {t : Tab α} (f : Nat → α → Bool) (h : tsorted t = true) : tsorted (tkeep t f) = true :=
  tsorted_filter _ h

/-- A key below or at every listed key's bound reads as unlisted. -/
theorem tfind_above {n : Nat} {t : Tab α} (h : tabove n t) : tfind t n = none := by
  induction t with
  | nil => rfl
  | cons e t ih =>
    obtain ⟨k, w⟩ := e
    have hk : n < k := h (k, w) (List.mem_cons_self ..)
    have : ¬ k = n := by omega
    simp [tfind, this, ih (fun e he => h e (List.mem_cons_of_mem _ he))]

end Sys2Proof
end

