-- ==== Sys2Proof/Laws/State.lean ====
section
/-!
SUPPORT. What each update of a part of State leaves as it was, field by field, and what the parts read as after it.
-/

namespace Sys2Proof.Machine

/-! ### setCtx -/

@[simp] theorem setCtx_turn (s : State) (k : Nat) (c : Ctx) : (setCtx s k c).turn = s.turn := rfl
@[simp] theorem setCtx_tick (s : State) (k : Nat) (c : Ctx) : (setCtx s k c).tick = s.tick := rfl
@[simp] theorem setCtx_cycle (s : State) (k : Nat) (c : Ctx) : (setCtx s k c).cycle = s.cycle := rfl
@[simp] theorem setCtx_ts (s : State) (k : Nat) (c : Ctx) : (setCtx s k c).ts = s.ts := rfl
@[simp] theorem setCtx_skew (s : State) (k : Nat) (c : Ctx) : (setCtx s k c).skew = s.skew := rfl
@[simp] theorem setCtx_me (s : State) (k : Nat) (c : Ctx) : (setCtx s k c).me = s.me := rfl
@[simp] theorem setCtx_node (s : State) (k : Nat) (c : Ctx) : (setCtx s k c).node = s.node := rfl
@[simp] theorem setCtx_stalled (s : State) (k : Nat) (c : Ctx) : (setCtx s k c).stalled = s.stalled := rfl
@[simp] theorem setCtx_mem (s : State) (k : Nat) (c : Ctx) : (setCtx s k c).mem = s.mem := rfl
@[simp] theorem setCtx_cav (s : State) (k : Nat) (c : Ctx) : (setCtx s k c).cav = s.cav := rfl
@[simp] theorem setCtx_top (s : State) (k : Nat) (c : Ctx) : (setCtx s k c).top = s.top := rfl
@[simp] theorem setCtx_cavHeld (s : State) (k : Nat) (c : Ctx) : (setCtx s k c).cavHeld = s.cavHeld := rfl
@[simp] theorem setCtx_topHeld (s : State) (k : Nat) (c : Ctx) : (setCtx s k c).topHeld = s.topHeld := rfl
@[simp] theorem setCtx_cores (s : State) (k : Nat) (c : Ctx) : (setCtx s k c).cores = s.cores := rfl
@[simp] theorem setCtx_clusters (s : State) (k : Nat) (c : Ctx) : (setCtx s k c).clusters = s.clusters := rfl
@[simp] theorem setCtx_rinds (s : State) (k : Nat) (c : Ctx) : (setCtx s k c).rinds = s.rinds := rfl
@[simp] theorem setCtx_launches (s : State) (k : Nat) (c : Ctx) : (setCtx s k c).launches = s.launches := rfl
@[simp] theorem setCtx_nextLaunch (s : State) (k : Nat) (c : Ctx) : (setCtx s k c).nextLaunch = s.nextLaunch := rfl
@[simp] theorem setCtx_recs (s : State) (k : Nat) (c : Ctx) : (setCtx s k c).recs = s.recs := rfl
@[simp] theorem setCtx_ports (s : State) (k : Nat) (c : Ctx) : (setCtx s k c).ports = s.ports := rfl
@[simp] theorem setCtx_patterns (s : State) (k : Nat) (c : Ctx) : (setCtx s k c).patterns = s.patterns := rfl
@[simp] theorem setCtx_slots (s : State) (k : Nat) (c : Ctx) : (setCtx s k c).slots = s.slots := rfl
@[simp] theorem setCtx_counters (s : State) (k : Nat) (c : Ctx) : (setCtx s k c).counters = s.counters := rfl
@[simp] theorem setCtx_watches (s : State) (k : Nat) (c : Ctx) : (setCtx s k c).watches = s.watches := rfl
@[simp] theorem setCtx_streams (s : State) (k : Nat) (c : Ctx) : (setCtx s k c).streams = s.streams := rfl
@[simp] theorem setCtx_tlbs (s : State) (k : Nat) (c : Ctx) : (setCtx s k c).tlbs = s.tlbs := rfl
@[simp] theorem setCtx_l1 (s : State) (k : Nat) (c : Ctx) : (setCtx s k c).l1 = s.l1 := rfl
@[simp] theorem setCtx_l2 (s : State) (k : Nat) (c : Ctx) : (setCtx s k c).l2 = s.l2 := rfl
@[simp] theorem setCtx_l1i (s : State) (k : Nat) (c : Ctx) : (setCtx s k c).l1i = s.l1i := rfl
@[simp] theorem setCtx_caves (s : State) (k : Nat) (c : Ctx) : (setCtx s k c).caves = s.caves := rfl
@[simp] theorem setCtx_ctls (s : State) (k : Nat) (c : Ctx) : (setCtx s k c).ctls = s.ctls := rfl
@[simp] theorem setCtx_rmap (s : State) (k : Nat) (c : Ctx) : (setCtx s k c).rmap = s.rmap := rfl
@[simp] theorem setCtx_quarantine (s : State) (k : Nat) (c : Ctx) : (setCtx s k c).quarantine = s.quarantine := rfl
@[simp] theorem setCtx_wheySeq (s : State) (k : Nat) (c : Ctx) : (setCtx s k c).wheySeq = s.wheySeq := rfl
@[simp] theorem setCtx_badMem (s : State) (k : Nat) (c : Ctx) : (setCtx s k c).badMem = s.badMem := rfl
@[simp] theorem setCtx_softMem (s : State) (k : Nat) (c : Ctx) : (setCtx s k c).softMem = s.softMem := rfl
@[simp] theorem setCtx_badReg (s : State) (k : Nat) (c : Ctx) : (setCtx s k c).badReg = s.badReg := rfl
@[simp] theorem setCtx_net (s : State) (k : Nat) (c : Ctx) : (setCtx s k c).net = s.net := rfl
@[simp] theorem setCtx_batches (s : State) (k : Nat) (c : Ctx) : (setCtx s k c).batches = s.batches := rfl
@[simp] theorem setCtx_fabOut (s : State) (k : Nat) (c : Ctx) : (setCtx s k c).fabOut = s.fabOut := rfl
@[simp] theorem setCtx_awaiting (s : State) (k : Nat) (c : Ctx) : (setCtx s k c).awaiting = s.awaiting := rfl
@[simp] theorem setCtx_nextTag (s : State) (k : Nat) (c : Ctx) : (setCtx s k c).nextTag = s.nextTag := rfl
@[simp] theorem setCtx_mgmtOut (s : State) (k : Nat) (c : Ctx) : (setCtx s k c).mgmtOut = s.mgmtOut := rfl
@[simp] theorem setCtx_kports (s : State) (k : Nat) (c : Ctx) : (setCtx s k c).kports = s.kports := rfl
@[simp] theorem setCtx_routes (s : State) (k : Nat) (c : Ctx) : (setCtx s k c).routes = s.routes := rfl
@[simp] theorem setCtx_hostLines (s : State) (k : Nat) (c : Ctx) : (setCtx s k c).hostLines = s.hostLines := rfl
@[simp] theorem setCtx_slotsM (s : State) (k : Nat) (c : Ctx) : (setCtx s k c).slotsM = s.slotsM := rfl
@[simp] theorem setCtx_verified (s : State) (k : Nat) (c : Ctx) : (setCtx s k c).verified = s.verified := rfl
@[simp] theorem setCtx_fuseVersion (s : State) (k : Nat) (c : Ctx) : (setCtx s k c).fuseVersion = s.fuseVersion := rfl
@[simp] theorem setCtx_fuseKey (s : State) (k : Nat) (c : Ctx) : (setCtx s k c).fuseKey = s.fuseKey := rfl
@[simp] theorem setCtx_fuseSecret (s : State) (k : Nat) (c : Ctx) : (setCtx s k c).fuseSecret = s.fuseSecret := rfl
@[simp] theorem setCtx_recovery (s : State) (k : Nat) (c : Ctx) : (setCtx s k c).recovery = s.recovery := rfl
@[simp] theorem setCtx_weights (s : State) (k : Nat) (c : Ctx) : (setCtx s k c).weights = s.weights := rfl
@[simp] theorem setCtx_starterLog (s : State) (k : Nat) (c : Ctx) : (setCtx s k c).starterLog = s.starterLog := rfl
@[simp] theorem setCtx_msix (s : State) (k : Nat) (c : Ctx) : (setCtx s k c).msix = s.msix := rfl
@[simp] theorem setCtx_hostOut (s : State) (k : Nat) (c : Ctx) : (setCtx s k c).hostOut = s.hostOut := rfl
@[simp] theorem setCtx_starterOut (s : State) (k : Nat) (c : Ctx) : (setCtx s k c).starterOut = s.starterOut := rfl
@[simp] theorem setCtx_rasUe (s : State) (k : Nat) (c : Ctx) : (setCtx s k c).rasUe = s.rasUe := rfl

/-! ### modCtx -/

@[simp] theorem modCtx_turn (s : State) (k : Nat) (f : Ctx → Ctx) : (modCtx s k f).turn = s.turn := rfl
@[simp] theorem modCtx_tick (s : State) (k : Nat) (f : Ctx → Ctx) : (modCtx s k f).tick = s.tick := rfl
@[simp] theorem modCtx_cycle (s : State) (k : Nat) (f : Ctx → Ctx) : (modCtx s k f).cycle = s.cycle := rfl
@[simp] theorem modCtx_ts (s : State) (k : Nat) (f : Ctx → Ctx) : (modCtx s k f).ts = s.ts := rfl
@[simp] theorem modCtx_skew (s : State) (k : Nat) (f : Ctx → Ctx) : (modCtx s k f).skew = s.skew := rfl
@[simp] theorem modCtx_me (s : State) (k : Nat) (f : Ctx → Ctx) : (modCtx s k f).me = s.me := rfl
@[simp] theorem modCtx_node (s : State) (k : Nat) (f : Ctx → Ctx) : (modCtx s k f).node = s.node := rfl
@[simp] theorem modCtx_stalled (s : State) (k : Nat) (f : Ctx → Ctx) : (modCtx s k f).stalled = s.stalled := rfl
@[simp] theorem modCtx_mem (s : State) (k : Nat) (f : Ctx → Ctx) : (modCtx s k f).mem = s.mem := rfl
@[simp] theorem modCtx_cav (s : State) (k : Nat) (f : Ctx → Ctx) : (modCtx s k f).cav = s.cav := rfl
@[simp] theorem modCtx_top (s : State) (k : Nat) (f : Ctx → Ctx) : (modCtx s k f).top = s.top := rfl
@[simp] theorem modCtx_cavHeld (s : State) (k : Nat) (f : Ctx → Ctx) : (modCtx s k f).cavHeld = s.cavHeld := rfl
@[simp] theorem modCtx_topHeld (s : State) (k : Nat) (f : Ctx → Ctx) : (modCtx s k f).topHeld = s.topHeld := rfl
@[simp] theorem modCtx_cores (s : State) (k : Nat) (f : Ctx → Ctx) : (modCtx s k f).cores = s.cores := rfl
@[simp] theorem modCtx_clusters (s : State) (k : Nat) (f : Ctx → Ctx) : (modCtx s k f).clusters = s.clusters := rfl
@[simp] theorem modCtx_rinds (s : State) (k : Nat) (f : Ctx → Ctx) : (modCtx s k f).rinds = s.rinds := rfl
@[simp] theorem modCtx_launches (s : State) (k : Nat) (f : Ctx → Ctx) : (modCtx s k f).launches = s.launches := rfl
@[simp] theorem modCtx_nextLaunch (s : State) (k : Nat) (f : Ctx → Ctx) : (modCtx s k f).nextLaunch = s.nextLaunch := rfl
@[simp] theorem modCtx_recs (s : State) (k : Nat) (f : Ctx → Ctx) : (modCtx s k f).recs = s.recs := rfl
@[simp] theorem modCtx_ports (s : State) (k : Nat) (f : Ctx → Ctx) : (modCtx s k f).ports = s.ports := rfl
@[simp] theorem modCtx_patterns (s : State) (k : Nat) (f : Ctx → Ctx) : (modCtx s k f).patterns = s.patterns := rfl
@[simp] theorem modCtx_slots (s : State) (k : Nat) (f : Ctx → Ctx) : (modCtx s k f).slots = s.slots := rfl
@[simp] theorem modCtx_counters (s : State) (k : Nat) (f : Ctx → Ctx) : (modCtx s k f).counters = s.counters := rfl
@[simp] theorem modCtx_watches (s : State) (k : Nat) (f : Ctx → Ctx) : (modCtx s k f).watches = s.watches := rfl
@[simp] theorem modCtx_streams (s : State) (k : Nat) (f : Ctx → Ctx) : (modCtx s k f).streams = s.streams := rfl
@[simp] theorem modCtx_tlbs (s : State) (k : Nat) (f : Ctx → Ctx) : (modCtx s k f).tlbs = s.tlbs := rfl
@[simp] theorem modCtx_l1 (s : State) (k : Nat) (f : Ctx → Ctx) : (modCtx s k f).l1 = s.l1 := rfl
@[simp] theorem modCtx_l2 (s : State) (k : Nat) (f : Ctx → Ctx) : (modCtx s k f).l2 = s.l2 := rfl
@[simp] theorem modCtx_l1i (s : State) (k : Nat) (f : Ctx → Ctx) : (modCtx s k f).l1i = s.l1i := rfl
@[simp] theorem modCtx_caves (s : State) (k : Nat) (f : Ctx → Ctx) : (modCtx s k f).caves = s.caves := rfl
@[simp] theorem modCtx_ctls (s : State) (k : Nat) (f : Ctx → Ctx) : (modCtx s k f).ctls = s.ctls := rfl
@[simp] theorem modCtx_rmap (s : State) (k : Nat) (f : Ctx → Ctx) : (modCtx s k f).rmap = s.rmap := rfl
@[simp] theorem modCtx_quarantine (s : State) (k : Nat) (f : Ctx → Ctx) : (modCtx s k f).quarantine = s.quarantine := rfl
@[simp] theorem modCtx_wheySeq (s : State) (k : Nat) (f : Ctx → Ctx) : (modCtx s k f).wheySeq = s.wheySeq := rfl
@[simp] theorem modCtx_badMem (s : State) (k : Nat) (f : Ctx → Ctx) : (modCtx s k f).badMem = s.badMem := rfl
@[simp] theorem modCtx_softMem (s : State) (k : Nat) (f : Ctx → Ctx) : (modCtx s k f).softMem = s.softMem := rfl
@[simp] theorem modCtx_badReg (s : State) (k : Nat) (f : Ctx → Ctx) : (modCtx s k f).badReg = s.badReg := rfl
@[simp] theorem modCtx_net (s : State) (k : Nat) (f : Ctx → Ctx) : (modCtx s k f).net = s.net := rfl
@[simp] theorem modCtx_batches (s : State) (k : Nat) (f : Ctx → Ctx) : (modCtx s k f).batches = s.batches := rfl
@[simp] theorem modCtx_fabOut (s : State) (k : Nat) (f : Ctx → Ctx) : (modCtx s k f).fabOut = s.fabOut := rfl
@[simp] theorem modCtx_awaiting (s : State) (k : Nat) (f : Ctx → Ctx) : (modCtx s k f).awaiting = s.awaiting := rfl
@[simp] theorem modCtx_nextTag (s : State) (k : Nat) (f : Ctx → Ctx) : (modCtx s k f).nextTag = s.nextTag := rfl
@[simp] theorem modCtx_mgmtOut (s : State) (k : Nat) (f : Ctx → Ctx) : (modCtx s k f).mgmtOut = s.mgmtOut := rfl
@[simp] theorem modCtx_kports (s : State) (k : Nat) (f : Ctx → Ctx) : (modCtx s k f).kports = s.kports := rfl
@[simp] theorem modCtx_routes (s : State) (k : Nat) (f : Ctx → Ctx) : (modCtx s k f).routes = s.routes := rfl
@[simp] theorem modCtx_hostLines (s : State) (k : Nat) (f : Ctx → Ctx) : (modCtx s k f).hostLines = s.hostLines := rfl
@[simp] theorem modCtx_slotsM (s : State) (k : Nat) (f : Ctx → Ctx) : (modCtx s k f).slotsM = s.slotsM := rfl
@[simp] theorem modCtx_verified (s : State) (k : Nat) (f : Ctx → Ctx) : (modCtx s k f).verified = s.verified := rfl
@[simp] theorem modCtx_fuseVersion (s : State) (k : Nat) (f : Ctx → Ctx) : (modCtx s k f).fuseVersion = s.fuseVersion := rfl
@[simp] theorem modCtx_fuseKey (s : State) (k : Nat) (f : Ctx → Ctx) : (modCtx s k f).fuseKey = s.fuseKey := rfl
@[simp] theorem modCtx_fuseSecret (s : State) (k : Nat) (f : Ctx → Ctx) : (modCtx s k f).fuseSecret = s.fuseSecret := rfl
@[simp] theorem modCtx_recovery (s : State) (k : Nat) (f : Ctx → Ctx) : (modCtx s k f).recovery = s.recovery := rfl
@[simp] theorem modCtx_weights (s : State) (k : Nat) (f : Ctx → Ctx) : (modCtx s k f).weights = s.weights := rfl
@[simp] theorem modCtx_starterLog (s : State) (k : Nat) (f : Ctx → Ctx) : (modCtx s k f).starterLog = s.starterLog := rfl
@[simp] theorem modCtx_msix (s : State) (k : Nat) (f : Ctx → Ctx) : (modCtx s k f).msix = s.msix := rfl
@[simp] theorem modCtx_hostOut (s : State) (k : Nat) (f : Ctx → Ctx) : (modCtx s k f).hostOut = s.hostOut := rfl
@[simp] theorem modCtx_starterOut (s : State) (k : Nat) (f : Ctx → Ctx) : (modCtx s k f).starterOut = s.starterOut := rfl
@[simp] theorem modCtx_rasUe (s : State) (k : Nat) (f : Ctx → Ctx) : (modCtx s k f).rasUe = s.rasUe := rfl

/-! ### modCore -/

@[simp] theorem modCore_turn (s : State) (cn : Nat) (f : Core → Core) : (modCore s cn f).turn = s.turn := rfl
@[simp] theorem modCore_tick (s : State) (cn : Nat) (f : Core → Core) : (modCore s cn f).tick = s.tick := rfl
@[simp] theorem modCore_cycle (s : State) (cn : Nat) (f : Core → Core) : (modCore s cn f).cycle = s.cycle := rfl
@[simp] theorem modCore_ts (s : State) (cn : Nat) (f : Core → Core) : (modCore s cn f).ts = s.ts := rfl
@[simp] theorem modCore_skew (s : State) (cn : Nat) (f : Core → Core) : (modCore s cn f).skew = s.skew := rfl
@[simp] theorem modCore_me (s : State) (cn : Nat) (f : Core → Core) : (modCore s cn f).me = s.me := rfl
@[simp] theorem modCore_node (s : State) (cn : Nat) (f : Core → Core) : (modCore s cn f).node = s.node := rfl
@[simp] theorem modCore_stalled (s : State) (cn : Nat) (f : Core → Core) : (modCore s cn f).stalled = s.stalled := rfl
@[simp] theorem modCore_mem (s : State) (cn : Nat) (f : Core → Core) : (modCore s cn f).mem = s.mem := rfl
@[simp] theorem modCore_cav (s : State) (cn : Nat) (f : Core → Core) : (modCore s cn f).cav = s.cav := rfl
@[simp] theorem modCore_top (s : State) (cn : Nat) (f : Core → Core) : (modCore s cn f).top = s.top := rfl
@[simp] theorem modCore_cavHeld (s : State) (cn : Nat) (f : Core → Core) : (modCore s cn f).cavHeld = s.cavHeld := rfl
@[simp] theorem modCore_topHeld (s : State) (cn : Nat) (f : Core → Core) : (modCore s cn f).topHeld = s.topHeld := rfl
@[simp] theorem modCore_ctxs (s : State) (cn : Nat) (f : Core → Core) : (modCore s cn f).ctxs = s.ctxs := rfl
@[simp] theorem modCore_clusters (s : State) (cn : Nat) (f : Core → Core) : (modCore s cn f).clusters = s.clusters := rfl
@[simp] theorem modCore_rinds (s : State) (cn : Nat) (f : Core → Core) : (modCore s cn f).rinds = s.rinds := rfl
@[simp] theorem modCore_launches (s : State) (cn : Nat) (f : Core → Core) : (modCore s cn f).launches = s.launches := rfl
@[simp] theorem modCore_nextLaunch (s : State) (cn : Nat) (f : Core → Core) : (modCore s cn f).nextLaunch = s.nextLaunch := rfl
@[simp] theorem modCore_recs (s : State) (cn : Nat) (f : Core → Core) : (modCore s cn f).recs = s.recs := rfl
@[simp] theorem modCore_ports (s : State) (cn : Nat) (f : Core → Core) : (modCore s cn f).ports = s.ports := rfl
@[simp] theorem modCore_patterns (s : State) (cn : Nat) (f : Core → Core) : (modCore s cn f).patterns = s.patterns := rfl
@[simp] theorem modCore_slots (s : State) (cn : Nat) (f : Core → Core) : (modCore s cn f).slots = s.slots := rfl
@[simp] theorem modCore_counters (s : State) (cn : Nat) (f : Core → Core) : (modCore s cn f).counters = s.counters := rfl
@[simp] theorem modCore_watches (s : State) (cn : Nat) (f : Core → Core) : (modCore s cn f).watches = s.watches := rfl
@[simp] theorem modCore_streams (s : State) (cn : Nat) (f : Core → Core) : (modCore s cn f).streams = s.streams := rfl
@[simp] theorem modCore_tlbs (s : State) (cn : Nat) (f : Core → Core) : (modCore s cn f).tlbs = s.tlbs := rfl
@[simp] theorem modCore_l1 (s : State) (cn : Nat) (f : Core → Core) : (modCore s cn f).l1 = s.l1 := rfl
@[simp] theorem modCore_l2 (s : State) (cn : Nat) (f : Core → Core) : (modCore s cn f).l2 = s.l2 := rfl
@[simp] theorem modCore_l1i (s : State) (cn : Nat) (f : Core → Core) : (modCore s cn f).l1i = s.l1i := rfl
@[simp] theorem modCore_caves (s : State) (cn : Nat) (f : Core → Core) : (modCore s cn f).caves = s.caves := rfl
@[simp] theorem modCore_ctls (s : State) (cn : Nat) (f : Core → Core) : (modCore s cn f).ctls = s.ctls := rfl
@[simp] theorem modCore_rmap (s : State) (cn : Nat) (f : Core → Core) : (modCore s cn f).rmap = s.rmap := rfl
@[simp] theorem modCore_quarantine (s : State) (cn : Nat) (f : Core → Core) : (modCore s cn f).quarantine = s.quarantine := rfl
@[simp] theorem modCore_wheySeq (s : State) (cn : Nat) (f : Core → Core) : (modCore s cn f).wheySeq = s.wheySeq := rfl
@[simp] theorem modCore_badMem (s : State) (cn : Nat) (f : Core → Core) : (modCore s cn f).badMem = s.badMem := rfl
@[simp] theorem modCore_softMem (s : State) (cn : Nat) (f : Core → Core) : (modCore s cn f).softMem = s.softMem := rfl
@[simp] theorem modCore_badReg (s : State) (cn : Nat) (f : Core → Core) : (modCore s cn f).badReg = s.badReg := rfl
@[simp] theorem modCore_net (s : State) (cn : Nat) (f : Core → Core) : (modCore s cn f).net = s.net := rfl
@[simp] theorem modCore_batches (s : State) (cn : Nat) (f : Core → Core) : (modCore s cn f).batches = s.batches := rfl
@[simp] theorem modCore_fabOut (s : State) (cn : Nat) (f : Core → Core) : (modCore s cn f).fabOut = s.fabOut := rfl
@[simp] theorem modCore_awaiting (s : State) (cn : Nat) (f : Core → Core) : (modCore s cn f).awaiting = s.awaiting := rfl
@[simp] theorem modCore_nextTag (s : State) (cn : Nat) (f : Core → Core) : (modCore s cn f).nextTag = s.nextTag := rfl
@[simp] theorem modCore_mgmtOut (s : State) (cn : Nat) (f : Core → Core) : (modCore s cn f).mgmtOut = s.mgmtOut := rfl
@[simp] theorem modCore_kports (s : State) (cn : Nat) (f : Core → Core) : (modCore s cn f).kports = s.kports := rfl
@[simp] theorem modCore_routes (s : State) (cn : Nat) (f : Core → Core) : (modCore s cn f).routes = s.routes := rfl
@[simp] theorem modCore_hostLines (s : State) (cn : Nat) (f : Core → Core) : (modCore s cn f).hostLines = s.hostLines := rfl
@[simp] theorem modCore_slotsM (s : State) (cn : Nat) (f : Core → Core) : (modCore s cn f).slotsM = s.slotsM := rfl
@[simp] theorem modCore_verified (s : State) (cn : Nat) (f : Core → Core) : (modCore s cn f).verified = s.verified := rfl
@[simp] theorem modCore_fuseVersion (s : State) (cn : Nat) (f : Core → Core) : (modCore s cn f).fuseVersion = s.fuseVersion := rfl
@[simp] theorem modCore_fuseKey (s : State) (cn : Nat) (f : Core → Core) : (modCore s cn f).fuseKey = s.fuseKey := rfl
@[simp] theorem modCore_fuseSecret (s : State) (cn : Nat) (f : Core → Core) : (modCore s cn f).fuseSecret = s.fuseSecret := rfl
@[simp] theorem modCore_recovery (s : State) (cn : Nat) (f : Core → Core) : (modCore s cn f).recovery = s.recovery := rfl
@[simp] theorem modCore_weights (s : State) (cn : Nat) (f : Core → Core) : (modCore s cn f).weights = s.weights := rfl
@[simp] theorem modCore_starterLog (s : State) (cn : Nat) (f : Core → Core) : (modCore s cn f).starterLog = s.starterLog := rfl
@[simp] theorem modCore_msix (s : State) (cn : Nat) (f : Core → Core) : (modCore s cn f).msix = s.msix := rfl
@[simp] theorem modCore_hostOut (s : State) (cn : Nat) (f : Core → Core) : (modCore s cn f).hostOut = s.hostOut := rfl
@[simp] theorem modCore_starterOut (s : State) (cn : Nat) (f : Core → Core) : (modCore s cn f).starterOut = s.starterOut := rfl
@[simp] theorem modCore_rasUe (s : State) (cn : Nat) (f : Core → Core) : (modCore s cn f).rasUe = s.rasUe := rfl

/-! ### modCluster -/

@[simp] theorem modCluster_turn (s : State) (c : Nat) (f : Cluster → Cluster) : (modCluster s c f).turn = s.turn := rfl
@[simp] theorem modCluster_tick (s : State) (c : Nat) (f : Cluster → Cluster) : (modCluster s c f).tick = s.tick := rfl
@[simp] theorem modCluster_cycle (s : State) (c : Nat) (f : Cluster → Cluster) : (modCluster s c f).cycle = s.cycle := rfl
@[simp] theorem modCluster_ts (s : State) (c : Nat) (f : Cluster → Cluster) : (modCluster s c f).ts = s.ts := rfl
@[simp] theorem modCluster_skew (s : State) (c : Nat) (f : Cluster → Cluster) : (modCluster s c f).skew = s.skew := rfl
@[simp] theorem modCluster_me (s : State) (c : Nat) (f : Cluster → Cluster) : (modCluster s c f).me = s.me := rfl
@[simp] theorem modCluster_node (s : State) (c : Nat) (f : Cluster → Cluster) : (modCluster s c f).node = s.node := rfl
@[simp] theorem modCluster_stalled (s : State) (c : Nat) (f : Cluster → Cluster) : (modCluster s c f).stalled = s.stalled := rfl
@[simp] theorem modCluster_mem (s : State) (c : Nat) (f : Cluster → Cluster) : (modCluster s c f).mem = s.mem := rfl
@[simp] theorem modCluster_cav (s : State) (c : Nat) (f : Cluster → Cluster) : (modCluster s c f).cav = s.cav := rfl
@[simp] theorem modCluster_top (s : State) (c : Nat) (f : Cluster → Cluster) : (modCluster s c f).top = s.top := rfl
@[simp] theorem modCluster_cavHeld (s : State) (c : Nat) (f : Cluster → Cluster) : (modCluster s c f).cavHeld = s.cavHeld := rfl
@[simp] theorem modCluster_topHeld (s : State) (c : Nat) (f : Cluster → Cluster) : (modCluster s c f).topHeld = s.topHeld := rfl
@[simp] theorem modCluster_ctxs (s : State) (c : Nat) (f : Cluster → Cluster) : (modCluster s c f).ctxs = s.ctxs := rfl
@[simp] theorem modCluster_cores (s : State) (c : Nat) (f : Cluster → Cluster) : (modCluster s c f).cores = s.cores := rfl
@[simp] theorem modCluster_rinds (s : State) (c : Nat) (f : Cluster → Cluster) : (modCluster s c f).rinds = s.rinds := rfl
@[simp] theorem modCluster_launches (s : State) (c : Nat) (f : Cluster → Cluster) : (modCluster s c f).launches = s.launches := rfl
@[simp] theorem modCluster_nextLaunch (s : State) (c : Nat) (f : Cluster → Cluster) : (modCluster s c f).nextLaunch = s.nextLaunch := rfl
@[simp] theorem modCluster_recs (s : State) (c : Nat) (f : Cluster → Cluster) : (modCluster s c f).recs = s.recs := rfl
@[simp] theorem modCluster_ports (s : State) (c : Nat) (f : Cluster → Cluster) : (modCluster s c f).ports = s.ports := rfl
@[simp] theorem modCluster_patterns (s : State) (c : Nat) (f : Cluster → Cluster) : (modCluster s c f).patterns = s.patterns := rfl
@[simp] theorem modCluster_slots (s : State) (c : Nat) (f : Cluster → Cluster) : (modCluster s c f).slots = s.slots := rfl
@[simp] theorem modCluster_counters (s : State) (c : Nat) (f : Cluster → Cluster) : (modCluster s c f).counters = s.counters := rfl
@[simp] theorem modCluster_watches (s : State) (c : Nat) (f : Cluster → Cluster) : (modCluster s c f).watches = s.watches := rfl
@[simp] theorem modCluster_streams (s : State) (c : Nat) (f : Cluster → Cluster) : (modCluster s c f).streams = s.streams := rfl
@[simp] theorem modCluster_tlbs (s : State) (c : Nat) (f : Cluster → Cluster) : (modCluster s c f).tlbs = s.tlbs := rfl
@[simp] theorem modCluster_l1 (s : State) (c : Nat) (f : Cluster → Cluster) : (modCluster s c f).l1 = s.l1 := rfl
@[simp] theorem modCluster_l2 (s : State) (c : Nat) (f : Cluster → Cluster) : (modCluster s c f).l2 = s.l2 := rfl
@[simp] theorem modCluster_l1i (s : State) (c : Nat) (f : Cluster → Cluster) : (modCluster s c f).l1i = s.l1i := rfl
@[simp] theorem modCluster_caves (s : State) (c : Nat) (f : Cluster → Cluster) : (modCluster s c f).caves = s.caves := rfl
@[simp] theorem modCluster_ctls (s : State) (c : Nat) (f : Cluster → Cluster) : (modCluster s c f).ctls = s.ctls := rfl
@[simp] theorem modCluster_rmap (s : State) (c : Nat) (f : Cluster → Cluster) : (modCluster s c f).rmap = s.rmap := rfl
@[simp] theorem modCluster_quarantine (s : State) (c : Nat) (f : Cluster → Cluster) : (modCluster s c f).quarantine = s.quarantine := rfl
@[simp] theorem modCluster_wheySeq (s : State) (c : Nat) (f : Cluster → Cluster) : (modCluster s c f).wheySeq = s.wheySeq := rfl
@[simp] theorem modCluster_badMem (s : State) (c : Nat) (f : Cluster → Cluster) : (modCluster s c f).badMem = s.badMem := rfl
@[simp] theorem modCluster_softMem (s : State) (c : Nat) (f : Cluster → Cluster) : (modCluster s c f).softMem = s.softMem := rfl
@[simp] theorem modCluster_badReg (s : State) (c : Nat) (f : Cluster → Cluster) : (modCluster s c f).badReg = s.badReg := rfl
@[simp] theorem modCluster_net (s : State) (c : Nat) (f : Cluster → Cluster) : (modCluster s c f).net = s.net := rfl
@[simp] theorem modCluster_batches (s : State) (c : Nat) (f : Cluster → Cluster) : (modCluster s c f).batches = s.batches := rfl
@[simp] theorem modCluster_fabOut (s : State) (c : Nat) (f : Cluster → Cluster) : (modCluster s c f).fabOut = s.fabOut := rfl
@[simp] theorem modCluster_awaiting (s : State) (c : Nat) (f : Cluster → Cluster) : (modCluster s c f).awaiting = s.awaiting := rfl
@[simp] theorem modCluster_nextTag (s : State) (c : Nat) (f : Cluster → Cluster) : (modCluster s c f).nextTag = s.nextTag := rfl
@[simp] theorem modCluster_mgmtOut (s : State) (c : Nat) (f : Cluster → Cluster) : (modCluster s c f).mgmtOut = s.mgmtOut := rfl
@[simp] theorem modCluster_kports (s : State) (c : Nat) (f : Cluster → Cluster) : (modCluster s c f).kports = s.kports := rfl
@[simp] theorem modCluster_routes (s : State) (c : Nat) (f : Cluster → Cluster) : (modCluster s c f).routes = s.routes := rfl
@[simp] theorem modCluster_hostLines (s : State) (c : Nat) (f : Cluster → Cluster) : (modCluster s c f).hostLines = s.hostLines := rfl
@[simp] theorem modCluster_slotsM (s : State) (c : Nat) (f : Cluster → Cluster) : (modCluster s c f).slotsM = s.slotsM := rfl
@[simp] theorem modCluster_verified (s : State) (c : Nat) (f : Cluster → Cluster) : (modCluster s c f).verified = s.verified := rfl
@[simp] theorem modCluster_fuseVersion (s : State) (c : Nat) (f : Cluster → Cluster) : (modCluster s c f).fuseVersion = s.fuseVersion := rfl
@[simp] theorem modCluster_fuseKey (s : State) (c : Nat) (f : Cluster → Cluster) : (modCluster s c f).fuseKey = s.fuseKey := rfl
@[simp] theorem modCluster_fuseSecret (s : State) (c : Nat) (f : Cluster → Cluster) : (modCluster s c f).fuseSecret = s.fuseSecret := rfl
@[simp] theorem modCluster_recovery (s : State) (c : Nat) (f : Cluster → Cluster) : (modCluster s c f).recovery = s.recovery := rfl
@[simp] theorem modCluster_weights (s : State) (c : Nat) (f : Cluster → Cluster) : (modCluster s c f).weights = s.weights := rfl
@[simp] theorem modCluster_starterLog (s : State) (c : Nat) (f : Cluster → Cluster) : (modCluster s c f).starterLog = s.starterLog := rfl
@[simp] theorem modCluster_msix (s : State) (c : Nat) (f : Cluster → Cluster) : (modCluster s c f).msix = s.msix := rfl
@[simp] theorem modCluster_hostOut (s : State) (c : Nat) (f : Cluster → Cluster) : (modCluster s c f).hostOut = s.hostOut := rfl
@[simp] theorem modCluster_starterOut (s : State) (c : Nat) (f : Cluster → Cluster) : (modCluster s c f).starterOut = s.starterOut := rfl
@[simp] theorem modCluster_rasUe (s : State) (c : Nat) (f : Cluster → Cluster) : (modCluster s c f).rasUe = s.rasUe := rfl

/-! ### modRind -/

@[simp] theorem modRind_turn (s : State) (r : Nat) (f : Rind → Rind) : (modRind s r f).turn = s.turn := rfl
@[simp] theorem modRind_tick (s : State) (r : Nat) (f : Rind → Rind) : (modRind s r f).tick = s.tick := rfl
@[simp] theorem modRind_cycle (s : State) (r : Nat) (f : Rind → Rind) : (modRind s r f).cycle = s.cycle := rfl
@[simp] theorem modRind_ts (s : State) (r : Nat) (f : Rind → Rind) : (modRind s r f).ts = s.ts := rfl
@[simp] theorem modRind_skew (s : State) (r : Nat) (f : Rind → Rind) : (modRind s r f).skew = s.skew := rfl
@[simp] theorem modRind_me (s : State) (r : Nat) (f : Rind → Rind) : (modRind s r f).me = s.me := rfl
@[simp] theorem modRind_node (s : State) (r : Nat) (f : Rind → Rind) : (modRind s r f).node = s.node := rfl
@[simp] theorem modRind_stalled (s : State) (r : Nat) (f : Rind → Rind) : (modRind s r f).stalled = s.stalled := rfl
@[simp] theorem modRind_mem (s : State) (r : Nat) (f : Rind → Rind) : (modRind s r f).mem = s.mem := rfl
@[simp] theorem modRind_cav (s : State) (r : Nat) (f : Rind → Rind) : (modRind s r f).cav = s.cav := rfl
@[simp] theorem modRind_top (s : State) (r : Nat) (f : Rind → Rind) : (modRind s r f).top = s.top := rfl
@[simp] theorem modRind_cavHeld (s : State) (r : Nat) (f : Rind → Rind) : (modRind s r f).cavHeld = s.cavHeld := rfl
@[simp] theorem modRind_topHeld (s : State) (r : Nat) (f : Rind → Rind) : (modRind s r f).topHeld = s.topHeld := rfl
@[simp] theorem modRind_ctxs (s : State) (r : Nat) (f : Rind → Rind) : (modRind s r f).ctxs = s.ctxs := rfl
@[simp] theorem modRind_cores (s : State) (r : Nat) (f : Rind → Rind) : (modRind s r f).cores = s.cores := rfl
@[simp] theorem modRind_clusters (s : State) (r : Nat) (f : Rind → Rind) : (modRind s r f).clusters = s.clusters := rfl
@[simp] theorem modRind_launches (s : State) (r : Nat) (f : Rind → Rind) : (modRind s r f).launches = s.launches := rfl
@[simp] theorem modRind_nextLaunch (s : State) (r : Nat) (f : Rind → Rind) : (modRind s r f).nextLaunch = s.nextLaunch := rfl
@[simp] theorem modRind_recs (s : State) (r : Nat) (f : Rind → Rind) : (modRind s r f).recs = s.recs := rfl
@[simp] theorem modRind_ports (s : State) (r : Nat) (f : Rind → Rind) : (modRind s r f).ports = s.ports := rfl
@[simp] theorem modRind_patterns (s : State) (r : Nat) (f : Rind → Rind) : (modRind s r f).patterns = s.patterns := rfl
@[simp] theorem modRind_slots (s : State) (r : Nat) (f : Rind → Rind) : (modRind s r f).slots = s.slots := rfl
@[simp] theorem modRind_counters (s : State) (r : Nat) (f : Rind → Rind) : (modRind s r f).counters = s.counters := rfl
@[simp] theorem modRind_watches (s : State) (r : Nat) (f : Rind → Rind) : (modRind s r f).watches = s.watches := rfl
@[simp] theorem modRind_streams (s : State) (r : Nat) (f : Rind → Rind) : (modRind s r f).streams = s.streams := rfl
@[simp] theorem modRind_tlbs (s : State) (r : Nat) (f : Rind → Rind) : (modRind s r f).tlbs = s.tlbs := rfl
@[simp] theorem modRind_l1 (s : State) (r : Nat) (f : Rind → Rind) : (modRind s r f).l1 = s.l1 := rfl
@[simp] theorem modRind_l2 (s : State) (r : Nat) (f : Rind → Rind) : (modRind s r f).l2 = s.l2 := rfl
@[simp] theorem modRind_l1i (s : State) (r : Nat) (f : Rind → Rind) : (modRind s r f).l1i = s.l1i := rfl
@[simp] theorem modRind_caves (s : State) (r : Nat) (f : Rind → Rind) : (modRind s r f).caves = s.caves := rfl
@[simp] theorem modRind_ctls (s : State) (r : Nat) (f : Rind → Rind) : (modRind s r f).ctls = s.ctls := rfl
@[simp] theorem modRind_rmap (s : State) (r : Nat) (f : Rind → Rind) : (modRind s r f).rmap = s.rmap := rfl
@[simp] theorem modRind_quarantine (s : State) (r : Nat) (f : Rind → Rind) : (modRind s r f).quarantine = s.quarantine := rfl
@[simp] theorem modRind_wheySeq (s : State) (r : Nat) (f : Rind → Rind) : (modRind s r f).wheySeq = s.wheySeq := rfl
@[simp] theorem modRind_badMem (s : State) (r : Nat) (f : Rind → Rind) : (modRind s r f).badMem = s.badMem := rfl
@[simp] theorem modRind_softMem (s : State) (r : Nat) (f : Rind → Rind) : (modRind s r f).softMem = s.softMem := rfl
@[simp] theorem modRind_badReg (s : State) (r : Nat) (f : Rind → Rind) : (modRind s r f).badReg = s.badReg := rfl
@[simp] theorem modRind_net (s : State) (r : Nat) (f : Rind → Rind) : (modRind s r f).net = s.net := rfl
@[simp] theorem modRind_batches (s : State) (r : Nat) (f : Rind → Rind) : (modRind s r f).batches = s.batches := rfl
@[simp] theorem modRind_fabOut (s : State) (r : Nat) (f : Rind → Rind) : (modRind s r f).fabOut = s.fabOut := rfl
@[simp] theorem modRind_awaiting (s : State) (r : Nat) (f : Rind → Rind) : (modRind s r f).awaiting = s.awaiting := rfl
@[simp] theorem modRind_nextTag (s : State) (r : Nat) (f : Rind → Rind) : (modRind s r f).nextTag = s.nextTag := rfl
@[simp] theorem modRind_mgmtOut (s : State) (r : Nat) (f : Rind → Rind) : (modRind s r f).mgmtOut = s.mgmtOut := rfl
@[simp] theorem modRind_kports (s : State) (r : Nat) (f : Rind → Rind) : (modRind s r f).kports = s.kports := rfl
@[simp] theorem modRind_routes (s : State) (r : Nat) (f : Rind → Rind) : (modRind s r f).routes = s.routes := rfl
@[simp] theorem modRind_hostLines (s : State) (r : Nat) (f : Rind → Rind) : (modRind s r f).hostLines = s.hostLines := rfl
@[simp] theorem modRind_slotsM (s : State) (r : Nat) (f : Rind → Rind) : (modRind s r f).slotsM = s.slotsM := rfl
@[simp] theorem modRind_verified (s : State) (r : Nat) (f : Rind → Rind) : (modRind s r f).verified = s.verified := rfl
@[simp] theorem modRind_fuseVersion (s : State) (r : Nat) (f : Rind → Rind) : (modRind s r f).fuseVersion = s.fuseVersion := rfl
@[simp] theorem modRind_fuseKey (s : State) (r : Nat) (f : Rind → Rind) : (modRind s r f).fuseKey = s.fuseKey := rfl
@[simp] theorem modRind_fuseSecret (s : State) (r : Nat) (f : Rind → Rind) : (modRind s r f).fuseSecret = s.fuseSecret := rfl
@[simp] theorem modRind_recovery (s : State) (r : Nat) (f : Rind → Rind) : (modRind s r f).recovery = s.recovery := rfl
@[simp] theorem modRind_weights (s : State) (r : Nat) (f : Rind → Rind) : (modRind s r f).weights = s.weights := rfl
@[simp] theorem modRind_starterLog (s : State) (r : Nat) (f : Rind → Rind) : (modRind s r f).starterLog = s.starterLog := rfl
@[simp] theorem modRind_msix (s : State) (r : Nat) (f : Rind → Rind) : (modRind s r f).msix = s.msix := rfl
@[simp] theorem modRind_hostOut (s : State) (r : Nat) (f : Rind → Rind) : (modRind s r f).hostOut = s.hostOut := rfl
@[simp] theorem modRind_starterOut (s : State) (r : Nat) (f : Rind → Rind) : (modRind s r f).starterOut = s.starterOut := rfl
@[simp] theorem modRind_rasUe (s : State) (r : Nat) (f : Rind → Rind) : (modRind s r f).rasUe = s.rasUe := rfl

/-! ### modCave -/

@[simp] theorem modCave_turn (s : State) (d : Nat) (f : Cave → Cave) : (modCave s d f).turn = s.turn := rfl
@[simp] theorem modCave_tick (s : State) (d : Nat) (f : Cave → Cave) : (modCave s d f).tick = s.tick := rfl
@[simp] theorem modCave_cycle (s : State) (d : Nat) (f : Cave → Cave) : (modCave s d f).cycle = s.cycle := rfl
@[simp] theorem modCave_ts (s : State) (d : Nat) (f : Cave → Cave) : (modCave s d f).ts = s.ts := rfl
@[simp] theorem modCave_skew (s : State) (d : Nat) (f : Cave → Cave) : (modCave s d f).skew = s.skew := rfl
@[simp] theorem modCave_me (s : State) (d : Nat) (f : Cave → Cave) : (modCave s d f).me = s.me := rfl
@[simp] theorem modCave_node (s : State) (d : Nat) (f : Cave → Cave) : (modCave s d f).node = s.node := rfl
@[simp] theorem modCave_stalled (s : State) (d : Nat) (f : Cave → Cave) : (modCave s d f).stalled = s.stalled := rfl
@[simp] theorem modCave_mem (s : State) (d : Nat) (f : Cave → Cave) : (modCave s d f).mem = s.mem := rfl
@[simp] theorem modCave_cav (s : State) (d : Nat) (f : Cave → Cave) : (modCave s d f).cav = s.cav := rfl
@[simp] theorem modCave_top (s : State) (d : Nat) (f : Cave → Cave) : (modCave s d f).top = s.top := rfl
@[simp] theorem modCave_cavHeld (s : State) (d : Nat) (f : Cave → Cave) : (modCave s d f).cavHeld = s.cavHeld := rfl
@[simp] theorem modCave_topHeld (s : State) (d : Nat) (f : Cave → Cave) : (modCave s d f).topHeld = s.topHeld := rfl
@[simp] theorem modCave_ctxs (s : State) (d : Nat) (f : Cave → Cave) : (modCave s d f).ctxs = s.ctxs := rfl
@[simp] theorem modCave_cores (s : State) (d : Nat) (f : Cave → Cave) : (modCave s d f).cores = s.cores := rfl
@[simp] theorem modCave_clusters (s : State) (d : Nat) (f : Cave → Cave) : (modCave s d f).clusters = s.clusters := rfl
@[simp] theorem modCave_rinds (s : State) (d : Nat) (f : Cave → Cave) : (modCave s d f).rinds = s.rinds := rfl
@[simp] theorem modCave_launches (s : State) (d : Nat) (f : Cave → Cave) : (modCave s d f).launches = s.launches := rfl
@[simp] theorem modCave_nextLaunch (s : State) (d : Nat) (f : Cave → Cave) : (modCave s d f).nextLaunch = s.nextLaunch := rfl
@[simp] theorem modCave_recs (s : State) (d : Nat) (f : Cave → Cave) : (modCave s d f).recs = s.recs := rfl
@[simp] theorem modCave_ports (s : State) (d : Nat) (f : Cave → Cave) : (modCave s d f).ports = s.ports := rfl
@[simp] theorem modCave_patterns (s : State) (d : Nat) (f : Cave → Cave) : (modCave s d f).patterns = s.patterns := rfl
@[simp] theorem modCave_slots (s : State) (d : Nat) (f : Cave → Cave) : (modCave s d f).slots = s.slots := rfl
@[simp] theorem modCave_counters (s : State) (d : Nat) (f : Cave → Cave) : (modCave s d f).counters = s.counters := rfl
@[simp] theorem modCave_watches (s : State) (d : Nat) (f : Cave → Cave) : (modCave s d f).watches = s.watches := rfl
@[simp] theorem modCave_streams (s : State) (d : Nat) (f : Cave → Cave) : (modCave s d f).streams = s.streams := rfl
@[simp] theorem modCave_tlbs (s : State) (d : Nat) (f : Cave → Cave) : (modCave s d f).tlbs = s.tlbs := rfl
@[simp] theorem modCave_l1 (s : State) (d : Nat) (f : Cave → Cave) : (modCave s d f).l1 = s.l1 := rfl
@[simp] theorem modCave_l2 (s : State) (d : Nat) (f : Cave → Cave) : (modCave s d f).l2 = s.l2 := rfl
@[simp] theorem modCave_l1i (s : State) (d : Nat) (f : Cave → Cave) : (modCave s d f).l1i = s.l1i := rfl
@[simp] theorem modCave_ctls (s : State) (d : Nat) (f : Cave → Cave) : (modCave s d f).ctls = s.ctls := rfl
@[simp] theorem modCave_rmap (s : State) (d : Nat) (f : Cave → Cave) : (modCave s d f).rmap = s.rmap := rfl
@[simp] theorem modCave_quarantine (s : State) (d : Nat) (f : Cave → Cave) : (modCave s d f).quarantine = s.quarantine := rfl
@[simp] theorem modCave_wheySeq (s : State) (d : Nat) (f : Cave → Cave) : (modCave s d f).wheySeq = s.wheySeq := rfl
@[simp] theorem modCave_badMem (s : State) (d : Nat) (f : Cave → Cave) : (modCave s d f).badMem = s.badMem := rfl
@[simp] theorem modCave_softMem (s : State) (d : Nat) (f : Cave → Cave) : (modCave s d f).softMem = s.softMem := rfl
@[simp] theorem modCave_badReg (s : State) (d : Nat) (f : Cave → Cave) : (modCave s d f).badReg = s.badReg := rfl
@[simp] theorem modCave_net (s : State) (d : Nat) (f : Cave → Cave) : (modCave s d f).net = s.net := rfl
@[simp] theorem modCave_batches (s : State) (d : Nat) (f : Cave → Cave) : (modCave s d f).batches = s.batches := rfl
@[simp] theorem modCave_fabOut (s : State) (d : Nat) (f : Cave → Cave) : (modCave s d f).fabOut = s.fabOut := rfl
@[simp] theorem modCave_awaiting (s : State) (d : Nat) (f : Cave → Cave) : (modCave s d f).awaiting = s.awaiting := rfl
@[simp] theorem modCave_nextTag (s : State) (d : Nat) (f : Cave → Cave) : (modCave s d f).nextTag = s.nextTag := rfl
@[simp] theorem modCave_mgmtOut (s : State) (d : Nat) (f : Cave → Cave) : (modCave s d f).mgmtOut = s.mgmtOut := rfl
@[simp] theorem modCave_kports (s : State) (d : Nat) (f : Cave → Cave) : (modCave s d f).kports = s.kports := rfl
@[simp] theorem modCave_routes (s : State) (d : Nat) (f : Cave → Cave) : (modCave s d f).routes = s.routes := rfl
@[simp] theorem modCave_hostLines (s : State) (d : Nat) (f : Cave → Cave) : (modCave s d f).hostLines = s.hostLines := rfl
@[simp] theorem modCave_slotsM (s : State) (d : Nat) (f : Cave → Cave) : (modCave s d f).slotsM = s.slotsM := rfl
@[simp] theorem modCave_verified (s : State) (d : Nat) (f : Cave → Cave) : (modCave s d f).verified = s.verified := rfl
@[simp] theorem modCave_fuseVersion (s : State) (d : Nat) (f : Cave → Cave) : (modCave s d f).fuseVersion = s.fuseVersion := rfl
@[simp] theorem modCave_fuseKey (s : State) (d : Nat) (f : Cave → Cave) : (modCave s d f).fuseKey = s.fuseKey := rfl
@[simp] theorem modCave_fuseSecret (s : State) (d : Nat) (f : Cave → Cave) : (modCave s d f).fuseSecret = s.fuseSecret := rfl
@[simp] theorem modCave_recovery (s : State) (d : Nat) (f : Cave → Cave) : (modCave s d f).recovery = s.recovery := rfl
@[simp] theorem modCave_weights (s : State) (d : Nat) (f : Cave → Cave) : (modCave s d f).weights = s.weights := rfl
@[simp] theorem modCave_starterLog (s : State) (d : Nat) (f : Cave → Cave) : (modCave s d f).starterLog = s.starterLog := rfl
@[simp] theorem modCave_msix (s : State) (d : Nat) (f : Cave → Cave) : (modCave s d f).msix = s.msix := rfl
@[simp] theorem modCave_hostOut (s : State) (d : Nat) (f : Cave → Cave) : (modCave s d f).hostOut = s.hostOut := rfl
@[simp] theorem modCave_starterOut (s : State) (d : Nat) (f : Cave → Cave) : (modCave s d f).starterOut = s.starterOut := rfl
@[simp] theorem modCave_rasUe (s : State) (d : Nat) (f : Cave → Cave) : (modCave s d f).rasUe = s.rasUe := rfl

/-! ### modStack -/

@[simp] theorem modStack_turn (s : State) (i : Nat) (f : Stack → Stack) : (modStack s i f).turn = s.turn := rfl
@[simp] theorem modStack_tick (s : State) (i : Nat) (f : Stack → Stack) : (modStack s i f).tick = s.tick := rfl
@[simp] theorem modStack_cycle (s : State) (i : Nat) (f : Stack → Stack) : (modStack s i f).cycle = s.cycle := rfl
@[simp] theorem modStack_ts (s : State) (i : Nat) (f : Stack → Stack) : (modStack s i f).ts = s.ts := rfl
@[simp] theorem modStack_skew (s : State) (i : Nat) (f : Stack → Stack) : (modStack s i f).skew = s.skew := rfl
@[simp] theorem modStack_me (s : State) (i : Nat) (f : Stack → Stack) : (modStack s i f).me = s.me := rfl
@[simp] theorem modStack_node (s : State) (i : Nat) (f : Stack → Stack) : (modStack s i f).node = s.node := rfl
@[simp] theorem modStack_stalled (s : State) (i : Nat) (f : Stack → Stack) : (modStack s i f).stalled = s.stalled := rfl
@[simp] theorem modStack_mem (s : State) (i : Nat) (f : Stack → Stack) : (modStack s i f).mem = s.mem := rfl
@[simp] theorem modStack_cav (s : State) (i : Nat) (f : Stack → Stack) : (modStack s i f).cav = s.cav := rfl
@[simp] theorem modStack_top (s : State) (i : Nat) (f : Stack → Stack) : (modStack s i f).top = s.top := rfl
@[simp] theorem modStack_cavHeld (s : State) (i : Nat) (f : Stack → Stack) : (modStack s i f).cavHeld = s.cavHeld := rfl
@[simp] theorem modStack_topHeld (s : State) (i : Nat) (f : Stack → Stack) : (modStack s i f).topHeld = s.topHeld := rfl
@[simp] theorem modStack_ctxs (s : State) (i : Nat) (f : Stack → Stack) : (modStack s i f).ctxs = s.ctxs := rfl
@[simp] theorem modStack_cores (s : State) (i : Nat) (f : Stack → Stack) : (modStack s i f).cores = s.cores := rfl
@[simp] theorem modStack_clusters (s : State) (i : Nat) (f : Stack → Stack) : (modStack s i f).clusters = s.clusters := rfl
@[simp] theorem modStack_rinds (s : State) (i : Nat) (f : Stack → Stack) : (modStack s i f).rinds = s.rinds := rfl
@[simp] theorem modStack_launches (s : State) (i : Nat) (f : Stack → Stack) : (modStack s i f).launches = s.launches := rfl
@[simp] theorem modStack_nextLaunch (s : State) (i : Nat) (f : Stack → Stack) : (modStack s i f).nextLaunch = s.nextLaunch := rfl
@[simp] theorem modStack_recs (s : State) (i : Nat) (f : Stack → Stack) : (modStack s i f).recs = s.recs := rfl
@[simp] theorem modStack_ports (s : State) (i : Nat) (f : Stack → Stack) : (modStack s i f).ports = s.ports := rfl
@[simp] theorem modStack_patterns (s : State) (i : Nat) (f : Stack → Stack) : (modStack s i f).patterns = s.patterns := rfl
@[simp] theorem modStack_slots (s : State) (i : Nat) (f : Stack → Stack) : (modStack s i f).slots = s.slots := rfl
@[simp] theorem modStack_counters (s : State) (i : Nat) (f : Stack → Stack) : (modStack s i f).counters = s.counters := rfl
@[simp] theorem modStack_watches (s : State) (i : Nat) (f : Stack → Stack) : (modStack s i f).watches = s.watches := rfl
@[simp] theorem modStack_streams (s : State) (i : Nat) (f : Stack → Stack) : (modStack s i f).streams = s.streams := rfl
@[simp] theorem modStack_tlbs (s : State) (i : Nat) (f : Stack → Stack) : (modStack s i f).tlbs = s.tlbs := rfl
@[simp] theorem modStack_l1 (s : State) (i : Nat) (f : Stack → Stack) : (modStack s i f).l1 = s.l1 := rfl
@[simp] theorem modStack_l2 (s : State) (i : Nat) (f : Stack → Stack) : (modStack s i f).l2 = s.l2 := rfl
@[simp] theorem modStack_l1i (s : State) (i : Nat) (f : Stack → Stack) : (modStack s i f).l1i = s.l1i := rfl
@[simp] theorem modStack_caves (s : State) (i : Nat) (f : Stack → Stack) : (modStack s i f).caves = s.caves := rfl
@[simp] theorem modStack_rmap (s : State) (i : Nat) (f : Stack → Stack) : (modStack s i f).rmap = s.rmap := rfl
@[simp] theorem modStack_quarantine (s : State) (i : Nat) (f : Stack → Stack) : (modStack s i f).quarantine = s.quarantine := rfl
@[simp] theorem modStack_wheySeq (s : State) (i : Nat) (f : Stack → Stack) : (modStack s i f).wheySeq = s.wheySeq := rfl
@[simp] theorem modStack_badMem (s : State) (i : Nat) (f : Stack → Stack) : (modStack s i f).badMem = s.badMem := rfl
@[simp] theorem modStack_softMem (s : State) (i : Nat) (f : Stack → Stack) : (modStack s i f).softMem = s.softMem := rfl
@[simp] theorem modStack_badReg (s : State) (i : Nat) (f : Stack → Stack) : (modStack s i f).badReg = s.badReg := rfl
@[simp] theorem modStack_net (s : State) (i : Nat) (f : Stack → Stack) : (modStack s i f).net = s.net := rfl
@[simp] theorem modStack_batches (s : State) (i : Nat) (f : Stack → Stack) : (modStack s i f).batches = s.batches := rfl
@[simp] theorem modStack_fabOut (s : State) (i : Nat) (f : Stack → Stack) : (modStack s i f).fabOut = s.fabOut := rfl
@[simp] theorem modStack_awaiting (s : State) (i : Nat) (f : Stack → Stack) : (modStack s i f).awaiting = s.awaiting := rfl
@[simp] theorem modStack_nextTag (s : State) (i : Nat) (f : Stack → Stack) : (modStack s i f).nextTag = s.nextTag := rfl
@[simp] theorem modStack_mgmtOut (s : State) (i : Nat) (f : Stack → Stack) : (modStack s i f).mgmtOut = s.mgmtOut := rfl
@[simp] theorem modStack_kports (s : State) (i : Nat) (f : Stack → Stack) : (modStack s i f).kports = s.kports := rfl
@[simp] theorem modStack_routes (s : State) (i : Nat) (f : Stack → Stack) : (modStack s i f).routes = s.routes := rfl
@[simp] theorem modStack_hostLines (s : State) (i : Nat) (f : Stack → Stack) : (modStack s i f).hostLines = s.hostLines := rfl
@[simp] theorem modStack_slotsM (s : State) (i : Nat) (f : Stack → Stack) : (modStack s i f).slotsM = s.slotsM := rfl
@[simp] theorem modStack_verified (s : State) (i : Nat) (f : Stack → Stack) : (modStack s i f).verified = s.verified := rfl
@[simp] theorem modStack_fuseVersion (s : State) (i : Nat) (f : Stack → Stack) : (modStack s i f).fuseVersion = s.fuseVersion := rfl
@[simp] theorem modStack_fuseKey (s : State) (i : Nat) (f : Stack → Stack) : (modStack s i f).fuseKey = s.fuseKey := rfl
@[simp] theorem modStack_fuseSecret (s : State) (i : Nat) (f : Stack → Stack) : (modStack s i f).fuseSecret = s.fuseSecret := rfl
@[simp] theorem modStack_recovery (s : State) (i : Nat) (f : Stack → Stack) : (modStack s i f).recovery = s.recovery := rfl
@[simp] theorem modStack_weights (s : State) (i : Nat) (f : Stack → Stack) : (modStack s i f).weights = s.weights := rfl
@[simp] theorem modStack_starterLog (s : State) (i : Nat) (f : Stack → Stack) : (modStack s i f).starterLog = s.starterLog := rfl
@[simp] theorem modStack_msix (s : State) (i : Nat) (f : Stack → Stack) : (modStack s i f).msix = s.msix := rfl
@[simp] theorem modStack_hostOut (s : State) (i : Nat) (f : Stack → Stack) : (modStack s i f).hostOut = s.hostOut := rfl
@[simp] theorem modStack_starterOut (s : State) (i : Nat) (f : Stack → Stack) : (modStack s i f).starterOut = s.starterOut := rfl
@[simp] theorem modStack_rasUe (s : State) (i : Nat) (f : Stack → Stack) : (modStack s i f).rasUe = s.rasUe := rfl

/-! ### modRec -/

@[simp] theorem modRec_turn (s : State) (cn l : Nat) (f : LRec → LRec) : (modRec s cn l f).turn = s.turn := rfl
@[simp] theorem modRec_tick (s : State) (cn l : Nat) (f : LRec → LRec) : (modRec s cn l f).tick = s.tick := rfl
@[simp] theorem modRec_cycle (s : State) (cn l : Nat) (f : LRec → LRec) : (modRec s cn l f).cycle = s.cycle := rfl
@[simp] theorem modRec_ts (s : State) (cn l : Nat) (f : LRec → LRec) : (modRec s cn l f).ts = s.ts := rfl
@[simp] theorem modRec_skew (s : State) (cn l : Nat) (f : LRec → LRec) : (modRec s cn l f).skew = s.skew := rfl
@[simp] theorem modRec_me (s : State) (cn l : Nat) (f : LRec → LRec) : (modRec s cn l f).me = s.me := rfl
@[simp] theorem modRec_node (s : State) (cn l : Nat) (f : LRec → LRec) : (modRec s cn l f).node = s.node := rfl
@[simp] theorem modRec_stalled (s : State) (cn l : Nat) (f : LRec → LRec) : (modRec s cn l f).stalled = s.stalled := rfl
@[simp] theorem modRec_mem (s : State) (cn l : Nat) (f : LRec → LRec) : (modRec s cn l f).mem = s.mem := rfl
@[simp] theorem modRec_cav (s : State) (cn l : Nat) (f : LRec → LRec) : (modRec s cn l f).cav = s.cav := rfl
@[simp] theorem modRec_top (s : State) (cn l : Nat) (f : LRec → LRec) : (modRec s cn l f).top = s.top := rfl
@[simp] theorem modRec_cavHeld (s : State) (cn l : Nat) (f : LRec → LRec) : (modRec s cn l f).cavHeld = s.cavHeld := rfl
@[simp] theorem modRec_topHeld (s : State) (cn l : Nat) (f : LRec → LRec) : (modRec s cn l f).topHeld = s.topHeld := rfl
@[simp] theorem modRec_ctxs (s : State) (cn l : Nat) (f : LRec → LRec) : (modRec s cn l f).ctxs = s.ctxs := rfl
@[simp] theorem modRec_cores (s : State) (cn l : Nat) (f : LRec → LRec) : (modRec s cn l f).cores = s.cores := rfl
@[simp] theorem modRec_clusters (s : State) (cn l : Nat) (f : LRec → LRec) : (modRec s cn l f).clusters = s.clusters := rfl
@[simp] theorem modRec_rinds (s : State) (cn l : Nat) (f : LRec → LRec) : (modRec s cn l f).rinds = s.rinds := rfl
@[simp] theorem modRec_launches (s : State) (cn l : Nat) (f : LRec → LRec) : (modRec s cn l f).launches = s.launches := rfl
@[simp] theorem modRec_nextLaunch (s : State) (cn l : Nat) (f : LRec → LRec) : (modRec s cn l f).nextLaunch = s.nextLaunch := rfl
@[simp] theorem modRec_ports (s : State) (cn l : Nat) (f : LRec → LRec) : (modRec s cn l f).ports = s.ports := rfl
@[simp] theorem modRec_patterns (s : State) (cn l : Nat) (f : LRec → LRec) : (modRec s cn l f).patterns = s.patterns := rfl
@[simp] theorem modRec_slots (s : State) (cn l : Nat) (f : LRec → LRec) : (modRec s cn l f).slots = s.slots := rfl
@[simp] theorem modRec_counters (s : State) (cn l : Nat) (f : LRec → LRec) : (modRec s cn l f).counters = s.counters := rfl
@[simp] theorem modRec_watches (s : State) (cn l : Nat) (f : LRec → LRec) : (modRec s cn l f).watches = s.watches := rfl
@[simp] theorem modRec_streams (s : State) (cn l : Nat) (f : LRec → LRec) : (modRec s cn l f).streams = s.streams := rfl
@[simp] theorem modRec_tlbs (s : State) (cn l : Nat) (f : LRec → LRec) : (modRec s cn l f).tlbs = s.tlbs := rfl
@[simp] theorem modRec_l1 (s : State) (cn l : Nat) (f : LRec → LRec) : (modRec s cn l f).l1 = s.l1 := rfl
@[simp] theorem modRec_l2 (s : State) (cn l : Nat) (f : LRec → LRec) : (modRec s cn l f).l2 = s.l2 := rfl
@[simp] theorem modRec_l1i (s : State) (cn l : Nat) (f : LRec → LRec) : (modRec s cn l f).l1i = s.l1i := rfl
@[simp] theorem modRec_caves (s : State) (cn l : Nat) (f : LRec → LRec) : (modRec s cn l f).caves = s.caves := rfl
@[simp] theorem modRec_ctls (s : State) (cn l : Nat) (f : LRec → LRec) : (modRec s cn l f).ctls = s.ctls := rfl
@[simp] theorem modRec_rmap (s : State) (cn l : Nat) (f : LRec → LRec) : (modRec s cn l f).rmap = s.rmap := rfl
@[simp] theorem modRec_quarantine (s : State) (cn l : Nat) (f : LRec → LRec) : (modRec s cn l f).quarantine = s.quarantine := rfl
@[simp] theorem modRec_wheySeq (s : State) (cn l : Nat) (f : LRec → LRec) : (modRec s cn l f).wheySeq = s.wheySeq := rfl
@[simp] theorem modRec_badMem (s : State) (cn l : Nat) (f : LRec → LRec) : (modRec s cn l f).badMem = s.badMem := rfl
@[simp] theorem modRec_softMem (s : State) (cn l : Nat) (f : LRec → LRec) : (modRec s cn l f).softMem = s.softMem := rfl
@[simp] theorem modRec_badReg (s : State) (cn l : Nat) (f : LRec → LRec) : (modRec s cn l f).badReg = s.badReg := rfl
@[simp] theorem modRec_net (s : State) (cn l : Nat) (f : LRec → LRec) : (modRec s cn l f).net = s.net := rfl
@[simp] theorem modRec_batches (s : State) (cn l : Nat) (f : LRec → LRec) : (modRec s cn l f).batches = s.batches := rfl
@[simp] theorem modRec_fabOut (s : State) (cn l : Nat) (f : LRec → LRec) : (modRec s cn l f).fabOut = s.fabOut := rfl
@[simp] theorem modRec_awaiting (s : State) (cn l : Nat) (f : LRec → LRec) : (modRec s cn l f).awaiting = s.awaiting := rfl
@[simp] theorem modRec_nextTag (s : State) (cn l : Nat) (f : LRec → LRec) : (modRec s cn l f).nextTag = s.nextTag := rfl
@[simp] theorem modRec_mgmtOut (s : State) (cn l : Nat) (f : LRec → LRec) : (modRec s cn l f).mgmtOut = s.mgmtOut := rfl
@[simp] theorem modRec_kports (s : State) (cn l : Nat) (f : LRec → LRec) : (modRec s cn l f).kports = s.kports := rfl
@[simp] theorem modRec_routes (s : State) (cn l : Nat) (f : LRec → LRec) : (modRec s cn l f).routes = s.routes := rfl
@[simp] theorem modRec_hostLines (s : State) (cn l : Nat) (f : LRec → LRec) : (modRec s cn l f).hostLines = s.hostLines := rfl
@[simp] theorem modRec_slotsM (s : State) (cn l : Nat) (f : LRec → LRec) : (modRec s cn l f).slotsM = s.slotsM := rfl
@[simp] theorem modRec_verified (s : State) (cn l : Nat) (f : LRec → LRec) : (modRec s cn l f).verified = s.verified := rfl
@[simp] theorem modRec_fuseVersion (s : State) (cn l : Nat) (f : LRec → LRec) : (modRec s cn l f).fuseVersion = s.fuseVersion := rfl
@[simp] theorem modRec_fuseKey (s : State) (cn l : Nat) (f : LRec → LRec) : (modRec s cn l f).fuseKey = s.fuseKey := rfl
@[simp] theorem modRec_fuseSecret (s : State) (cn l : Nat) (f : LRec → LRec) : (modRec s cn l f).fuseSecret = s.fuseSecret := rfl
@[simp] theorem modRec_recovery (s : State) (cn l : Nat) (f : LRec → LRec) : (modRec s cn l f).recovery = s.recovery := rfl
@[simp] theorem modRec_weights (s : State) (cn l : Nat) (f : LRec → LRec) : (modRec s cn l f).weights = s.weights := rfl
@[simp] theorem modRec_starterLog (s : State) (cn l : Nat) (f : LRec → LRec) : (modRec s cn l f).starterLog = s.starterLog := rfl
@[simp] theorem modRec_msix (s : State) (cn l : Nat) (f : LRec → LRec) : (modRec s cn l f).msix = s.msix := rfl
@[simp] theorem modRec_hostOut (s : State) (cn l : Nat) (f : LRec → LRec) : (modRec s cn l f).hostOut = s.hostOut := rfl
@[simp] theorem modRec_starterOut (s : State) (cn l : Nat) (f : LRec → LRec) : (modRec s cn l f).starterOut = s.starterOut := rfl
@[simp] theorem modRec_rasUe (s : State) (cn l : Nat) (f : LRec → LRec) : (modRec s cn l f).rasUe = s.rasUe := rfl

/-! ### setPort -/

@[simp] theorem setPort_turn (s : State) (cn p : Nat) (q : Port) : (setPort s cn p q).turn = s.turn := rfl
@[simp] theorem setPort_tick (s : State) (cn p : Nat) (q : Port) : (setPort s cn p q).tick = s.tick := rfl
@[simp] theorem setPort_cycle (s : State) (cn p : Nat) (q : Port) : (setPort s cn p q).cycle = s.cycle := rfl
@[simp] theorem setPort_ts (s : State) (cn p : Nat) (q : Port) : (setPort s cn p q).ts = s.ts := rfl
@[simp] theorem setPort_skew (s : State) (cn p : Nat) (q : Port) : (setPort s cn p q).skew = s.skew := rfl
@[simp] theorem setPort_me (s : State) (cn p : Nat) (q : Port) : (setPort s cn p q).me = s.me := rfl
@[simp] theorem setPort_node (s : State) (cn p : Nat) (q : Port) : (setPort s cn p q).node = s.node := rfl
@[simp] theorem setPort_stalled (s : State) (cn p : Nat) (q : Port) : (setPort s cn p q).stalled = s.stalled := rfl
@[simp] theorem setPort_mem (s : State) (cn p : Nat) (q : Port) : (setPort s cn p q).mem = s.mem := rfl
@[simp] theorem setPort_cav (s : State) (cn p : Nat) (q : Port) : (setPort s cn p q).cav = s.cav := rfl
@[simp] theorem setPort_top (s : State) (cn p : Nat) (q : Port) : (setPort s cn p q).top = s.top := rfl
@[simp] theorem setPort_cavHeld (s : State) (cn p : Nat) (q : Port) : (setPort s cn p q).cavHeld = s.cavHeld := rfl
@[simp] theorem setPort_topHeld (s : State) (cn p : Nat) (q : Port) : (setPort s cn p q).topHeld = s.topHeld := rfl
@[simp] theorem setPort_ctxs (s : State) (cn p : Nat) (q : Port) : (setPort s cn p q).ctxs = s.ctxs := rfl
@[simp] theorem setPort_cores (s : State) (cn p : Nat) (q : Port) : (setPort s cn p q).cores = s.cores := rfl
@[simp] theorem setPort_clusters (s : State) (cn p : Nat) (q : Port) : (setPort s cn p q).clusters = s.clusters := rfl
@[simp] theorem setPort_rinds (s : State) (cn p : Nat) (q : Port) : (setPort s cn p q).rinds = s.rinds := rfl
@[simp] theorem setPort_launches (s : State) (cn p : Nat) (q : Port) : (setPort s cn p q).launches = s.launches := rfl
@[simp] theorem setPort_nextLaunch (s : State) (cn p : Nat) (q : Port) : (setPort s cn p q).nextLaunch = s.nextLaunch := rfl
@[simp] theorem setPort_recs (s : State) (cn p : Nat) (q : Port) : (setPort s cn p q).recs = s.recs := rfl
@[simp] theorem setPort_patterns (s : State) (cn p : Nat) (q : Port) : (setPort s cn p q).patterns = s.patterns := rfl
@[simp] theorem setPort_slots (s : State) (cn p : Nat) (q : Port) : (setPort s cn p q).slots = s.slots := rfl
@[simp] theorem setPort_counters (s : State) (cn p : Nat) (q : Port) : (setPort s cn p q).counters = s.counters := rfl
@[simp] theorem setPort_watches (s : State) (cn p : Nat) (q : Port) : (setPort s cn p q).watches = s.watches := rfl
@[simp] theorem setPort_streams (s : State) (cn p : Nat) (q : Port) : (setPort s cn p q).streams = s.streams := rfl
@[simp] theorem setPort_tlbs (s : State) (cn p : Nat) (q : Port) : (setPort s cn p q).tlbs = s.tlbs := rfl
@[simp] theorem setPort_l1 (s : State) (cn p : Nat) (q : Port) : (setPort s cn p q).l1 = s.l1 := rfl
@[simp] theorem setPort_l2 (s : State) (cn p : Nat) (q : Port) : (setPort s cn p q).l2 = s.l2 := rfl
@[simp] theorem setPort_l1i (s : State) (cn p : Nat) (q : Port) : (setPort s cn p q).l1i = s.l1i := rfl
@[simp] theorem setPort_caves (s : State) (cn p : Nat) (q : Port) : (setPort s cn p q).caves = s.caves := rfl
@[simp] theorem setPort_ctls (s : State) (cn p : Nat) (q : Port) : (setPort s cn p q).ctls = s.ctls := rfl
@[simp] theorem setPort_rmap (s : State) (cn p : Nat) (q : Port) : (setPort s cn p q).rmap = s.rmap := rfl
@[simp] theorem setPort_quarantine (s : State) (cn p : Nat) (q : Port) : (setPort s cn p q).quarantine = s.quarantine := rfl
@[simp] theorem setPort_wheySeq (s : State) (cn p : Nat) (q : Port) : (setPort s cn p q).wheySeq = s.wheySeq := rfl
@[simp] theorem setPort_badMem (s : State) (cn p : Nat) (q : Port) : (setPort s cn p q).badMem = s.badMem := rfl
@[simp] theorem setPort_softMem (s : State) (cn p : Nat) (q : Port) : (setPort s cn p q).softMem = s.softMem := rfl
@[simp] theorem setPort_badReg (s : State) (cn p : Nat) (q : Port) : (setPort s cn p q).badReg = s.badReg := rfl
@[simp] theorem setPort_net (s : State) (cn p : Nat) (q : Port) : (setPort s cn p q).net = s.net := rfl
@[simp] theorem setPort_batches (s : State) (cn p : Nat) (q : Port) : (setPort s cn p q).batches = s.batches := rfl
@[simp] theorem setPort_fabOut (s : State) (cn p : Nat) (q : Port) : (setPort s cn p q).fabOut = s.fabOut := rfl
@[simp] theorem setPort_awaiting (s : State) (cn p : Nat) (q : Port) : (setPort s cn p q).awaiting = s.awaiting := rfl
@[simp] theorem setPort_nextTag (s : State) (cn p : Nat) (q : Port) : (setPort s cn p q).nextTag = s.nextTag := rfl
@[simp] theorem setPort_mgmtOut (s : State) (cn p : Nat) (q : Port) : (setPort s cn p q).mgmtOut = s.mgmtOut := rfl
@[simp] theorem setPort_kports (s : State) (cn p : Nat) (q : Port) : (setPort s cn p q).kports = s.kports := rfl
@[simp] theorem setPort_routes (s : State) (cn p : Nat) (q : Port) : (setPort s cn p q).routes = s.routes := rfl
@[simp] theorem setPort_hostLines (s : State) (cn p : Nat) (q : Port) : (setPort s cn p q).hostLines = s.hostLines := rfl
@[simp] theorem setPort_slotsM (s : State) (cn p : Nat) (q : Port) : (setPort s cn p q).slotsM = s.slotsM := rfl
@[simp] theorem setPort_verified (s : State) (cn p : Nat) (q : Port) : (setPort s cn p q).verified = s.verified := rfl
@[simp] theorem setPort_fuseVersion (s : State) (cn p : Nat) (q : Port) : (setPort s cn p q).fuseVersion = s.fuseVersion := rfl
@[simp] theorem setPort_fuseKey (s : State) (cn p : Nat) (q : Port) : (setPort s cn p q).fuseKey = s.fuseKey := rfl
@[simp] theorem setPort_fuseSecret (s : State) (cn p : Nat) (q : Port) : (setPort s cn p q).fuseSecret = s.fuseSecret := rfl
@[simp] theorem setPort_recovery (s : State) (cn p : Nat) (q : Port) : (setPort s cn p q).recovery = s.recovery := rfl
@[simp] theorem setPort_weights (s : State) (cn p : Nat) (q : Port) : (setPort s cn p q).weights = s.weights := rfl
@[simp] theorem setPort_starterLog (s : State) (cn p : Nat) (q : Port) : (setPort s cn p q).starterLog = s.starterLog := rfl
@[simp] theorem setPort_msix (s : State) (cn p : Nat) (q : Port) : (setPort s cn p q).msix = s.msix := rfl
@[simp] theorem setPort_hostOut (s : State) (cn p : Nat) (q : Port) : (setPort s cn p q).hostOut = s.hostOut := rfl
@[simp] theorem setPort_starterOut (s : State) (cn p : Nat) (q : Port) : (setPort s cn p q).starterOut = s.starterOut := rfl
@[simp] theorem setPort_rasUe (s : State) (cn p : Nat) (q : Port) : (setPort s cn p q).rasUe = s.rasUe := rfl

/-! ### setCounter -/

@[simp] theorem setCounter_turn (s : State) (cn i : Nat) (v : Word) : (setCounter s cn i v).turn = s.turn := rfl
@[simp] theorem setCounter_tick (s : State) (cn i : Nat) (v : Word) : (setCounter s cn i v).tick = s.tick := rfl
@[simp] theorem setCounter_cycle (s : State) (cn i : Nat) (v : Word) : (setCounter s cn i v).cycle = s.cycle := rfl
@[simp] theorem setCounter_ts (s : State) (cn i : Nat) (v : Word) : (setCounter s cn i v).ts = s.ts := rfl
@[simp] theorem setCounter_skew (s : State) (cn i : Nat) (v : Word) : (setCounter s cn i v).skew = s.skew := rfl
@[simp] theorem setCounter_me (s : State) (cn i : Nat) (v : Word) : (setCounter s cn i v).me = s.me := rfl
@[simp] theorem setCounter_node (s : State) (cn i : Nat) (v : Word) : (setCounter s cn i v).node = s.node := rfl
@[simp] theorem setCounter_stalled (s : State) (cn i : Nat) (v : Word) : (setCounter s cn i v).stalled = s.stalled := rfl
@[simp] theorem setCounter_mem (s : State) (cn i : Nat) (v : Word) : (setCounter s cn i v).mem = s.mem := rfl
@[simp] theorem setCounter_cav (s : State) (cn i : Nat) (v : Word) : (setCounter s cn i v).cav = s.cav := rfl
@[simp] theorem setCounter_top (s : State) (cn i : Nat) (v : Word) : (setCounter s cn i v).top = s.top := rfl
@[simp] theorem setCounter_cavHeld (s : State) (cn i : Nat) (v : Word) : (setCounter s cn i v).cavHeld = s.cavHeld := rfl
@[simp] theorem setCounter_topHeld (s : State) (cn i : Nat) (v : Word) : (setCounter s cn i v).topHeld = s.topHeld := rfl
@[simp] theorem setCounter_ctxs (s : State) (cn i : Nat) (v : Word) : (setCounter s cn i v).ctxs = s.ctxs := rfl
@[simp] theorem setCounter_cores (s : State) (cn i : Nat) (v : Word) : (setCounter s cn i v).cores = s.cores := rfl
@[simp] theorem setCounter_clusters (s : State) (cn i : Nat) (v : Word) : (setCounter s cn i v).clusters = s.clusters := rfl
@[simp] theorem setCounter_rinds (s : State) (cn i : Nat) (v : Word) : (setCounter s cn i v).rinds = s.rinds := rfl
@[simp] theorem setCounter_launches (s : State) (cn i : Nat) (v : Word) : (setCounter s cn i v).launches = s.launches := rfl
@[simp] theorem setCounter_nextLaunch (s : State) (cn i : Nat) (v : Word) : (setCounter s cn i v).nextLaunch = s.nextLaunch := rfl
@[simp] theorem setCounter_recs (s : State) (cn i : Nat) (v : Word) : (setCounter s cn i v).recs = s.recs := rfl
@[simp] theorem setCounter_ports (s : State) (cn i : Nat) (v : Word) : (setCounter s cn i v).ports = s.ports := rfl
@[simp] theorem setCounter_patterns (s : State) (cn i : Nat) (v : Word) : (setCounter s cn i v).patterns = s.patterns := rfl
@[simp] theorem setCounter_slots (s : State) (cn i : Nat) (v : Word) : (setCounter s cn i v).slots = s.slots := rfl
@[simp] theorem setCounter_watches (s : State) (cn i : Nat) (v : Word) : (setCounter s cn i v).watches = s.watches := rfl
@[simp] theorem setCounter_streams (s : State) (cn i : Nat) (v : Word) : (setCounter s cn i v).streams = s.streams := rfl
@[simp] theorem setCounter_tlbs (s : State) (cn i : Nat) (v : Word) : (setCounter s cn i v).tlbs = s.tlbs := rfl
@[simp] theorem setCounter_l1 (s : State) (cn i : Nat) (v : Word) : (setCounter s cn i v).l1 = s.l1 := rfl
@[simp] theorem setCounter_l2 (s : State) (cn i : Nat) (v : Word) : (setCounter s cn i v).l2 = s.l2 := rfl
@[simp] theorem setCounter_l1i (s : State) (cn i : Nat) (v : Word) : (setCounter s cn i v).l1i = s.l1i := rfl
@[simp] theorem setCounter_caves (s : State) (cn i : Nat) (v : Word) : (setCounter s cn i v).caves = s.caves := rfl
@[simp] theorem setCounter_ctls (s : State) (cn i : Nat) (v : Word) : (setCounter s cn i v).ctls = s.ctls := rfl
@[simp] theorem setCounter_rmap (s : State) (cn i : Nat) (v : Word) : (setCounter s cn i v).rmap = s.rmap := rfl
@[simp] theorem setCounter_quarantine (s : State) (cn i : Nat) (v : Word) : (setCounter s cn i v).quarantine = s.quarantine := rfl
@[simp] theorem setCounter_wheySeq (s : State) (cn i : Nat) (v : Word) : (setCounter s cn i v).wheySeq = s.wheySeq := rfl
@[simp] theorem setCounter_badMem (s : State) (cn i : Nat) (v : Word) : (setCounter s cn i v).badMem = s.badMem := rfl
@[simp] theorem setCounter_softMem (s : State) (cn i : Nat) (v : Word) : (setCounter s cn i v).softMem = s.softMem := rfl
@[simp] theorem setCounter_badReg (s : State) (cn i : Nat) (v : Word) : (setCounter s cn i v).badReg = s.badReg := rfl
@[simp] theorem setCounter_net (s : State) (cn i : Nat) (v : Word) : (setCounter s cn i v).net = s.net := rfl
@[simp] theorem setCounter_batches (s : State) (cn i : Nat) (v : Word) : (setCounter s cn i v).batches = s.batches := rfl
@[simp] theorem setCounter_fabOut (s : State) (cn i : Nat) (v : Word) : (setCounter s cn i v).fabOut = s.fabOut := rfl
@[simp] theorem setCounter_awaiting (s : State) (cn i : Nat) (v : Word) : (setCounter s cn i v).awaiting = s.awaiting := rfl
@[simp] theorem setCounter_nextTag (s : State) (cn i : Nat) (v : Word) : (setCounter s cn i v).nextTag = s.nextTag := rfl
@[simp] theorem setCounter_mgmtOut (s : State) (cn i : Nat) (v : Word) : (setCounter s cn i v).mgmtOut = s.mgmtOut := rfl
@[simp] theorem setCounter_kports (s : State) (cn i : Nat) (v : Word) : (setCounter s cn i v).kports = s.kports := rfl
@[simp] theorem setCounter_routes (s : State) (cn i : Nat) (v : Word) : (setCounter s cn i v).routes = s.routes := rfl
@[simp] theorem setCounter_hostLines (s : State) (cn i : Nat) (v : Word) : (setCounter s cn i v).hostLines = s.hostLines := rfl
@[simp] theorem setCounter_slotsM (s : State) (cn i : Nat) (v : Word) : (setCounter s cn i v).slotsM = s.slotsM := rfl
@[simp] theorem setCounter_verified (s : State) (cn i : Nat) (v : Word) : (setCounter s cn i v).verified = s.verified := rfl
@[simp] theorem setCounter_fuseVersion (s : State) (cn i : Nat) (v : Word) : (setCounter s cn i v).fuseVersion = s.fuseVersion := rfl
@[simp] theorem setCounter_fuseKey (s : State) (cn i : Nat) (v : Word) : (setCounter s cn i v).fuseKey = s.fuseKey := rfl
@[simp] theorem setCounter_fuseSecret (s : State) (cn i : Nat) (v : Word) : (setCounter s cn i v).fuseSecret = s.fuseSecret := rfl
@[simp] theorem setCounter_recovery (s : State) (cn i : Nat) (v : Word) : (setCounter s cn i v).recovery = s.recovery := rfl
@[simp] theorem setCounter_weights (s : State) (cn i : Nat) (v : Word) : (setCounter s cn i v).weights = s.weights := rfl
@[simp] theorem setCounter_starterLog (s : State) (cn i : Nat) (v : Word) : (setCounter s cn i v).starterLog = s.starterLog := rfl
@[simp] theorem setCounter_msix (s : State) (cn i : Nat) (v : Word) : (setCounter s cn i v).msix = s.msix := rfl
@[simp] theorem setCounter_hostOut (s : State) (cn i : Nat) (v : Word) : (setCounter s cn i v).hostOut = s.hostOut := rfl
@[simp] theorem setCounter_starterOut (s : State) (cn i : Nat) (v : Word) : (setCounter s cn i v).starterOut = s.starterOut := rfl
@[simp] theorem setCounter_rasUe (s : State) (cn i : Nat) (v : Word) : (setCounter s cn i v).rasUe = s.rasUe := rfl

/-! ### setTlb -/

@[simp] theorem setTlb_turn (s : State) (u : Nat) (t : List Tlb) : (setTlb s u t).turn = s.turn := rfl
@[simp] theorem setTlb_tick (s : State) (u : Nat) (t : List Tlb) : (setTlb s u t).tick = s.tick := rfl
@[simp] theorem setTlb_cycle (s : State) (u : Nat) (t : List Tlb) : (setTlb s u t).cycle = s.cycle := rfl
@[simp] theorem setTlb_ts (s : State) (u : Nat) (t : List Tlb) : (setTlb s u t).ts = s.ts := rfl
@[simp] theorem setTlb_skew (s : State) (u : Nat) (t : List Tlb) : (setTlb s u t).skew = s.skew := rfl
@[simp] theorem setTlb_me (s : State) (u : Nat) (t : List Tlb) : (setTlb s u t).me = s.me := rfl
@[simp] theorem setTlb_node (s : State) (u : Nat) (t : List Tlb) : (setTlb s u t).node = s.node := rfl
@[simp] theorem setTlb_stalled (s : State) (u : Nat) (t : List Tlb) : (setTlb s u t).stalled = s.stalled := rfl
@[simp] theorem setTlb_mem (s : State) (u : Nat) (t : List Tlb) : (setTlb s u t).mem = s.mem := rfl
@[simp] theorem setTlb_cav (s : State) (u : Nat) (t : List Tlb) : (setTlb s u t).cav = s.cav := rfl
@[simp] theorem setTlb_top (s : State) (u : Nat) (t : List Tlb) : (setTlb s u t).top = s.top := rfl
@[simp] theorem setTlb_cavHeld (s : State) (u : Nat) (t : List Tlb) : (setTlb s u t).cavHeld = s.cavHeld := rfl
@[simp] theorem setTlb_topHeld (s : State) (u : Nat) (t : List Tlb) : (setTlb s u t).topHeld = s.topHeld := rfl
@[simp] theorem setTlb_ctxs (s : State) (u : Nat) (t : List Tlb) : (setTlb s u t).ctxs = s.ctxs := rfl
@[simp] theorem setTlb_cores (s : State) (u : Nat) (t : List Tlb) : (setTlb s u t).cores = s.cores := rfl
@[simp] theorem setTlb_clusters (s : State) (u : Nat) (t : List Tlb) : (setTlb s u t).clusters = s.clusters := rfl
@[simp] theorem setTlb_rinds (s : State) (u : Nat) (t : List Tlb) : (setTlb s u t).rinds = s.rinds := rfl
@[simp] theorem setTlb_launches (s : State) (u : Nat) (t : List Tlb) : (setTlb s u t).launches = s.launches := rfl
@[simp] theorem setTlb_nextLaunch (s : State) (u : Nat) (t : List Tlb) : (setTlb s u t).nextLaunch = s.nextLaunch := rfl
@[simp] theorem setTlb_recs (s : State) (u : Nat) (t : List Tlb) : (setTlb s u t).recs = s.recs := rfl
@[simp] theorem setTlb_ports (s : State) (u : Nat) (t : List Tlb) : (setTlb s u t).ports = s.ports := rfl
@[simp] theorem setTlb_patterns (s : State) (u : Nat) (t : List Tlb) : (setTlb s u t).patterns = s.patterns := rfl
@[simp] theorem setTlb_slots (s : State) (u : Nat) (t : List Tlb) : (setTlb s u t).slots = s.slots := rfl
@[simp] theorem setTlb_counters (s : State) (u : Nat) (t : List Tlb) : (setTlb s u t).counters = s.counters := rfl
@[simp] theorem setTlb_watches (s : State) (u : Nat) (t : List Tlb) : (setTlb s u t).watches = s.watches := rfl
@[simp] theorem setTlb_streams (s : State) (u : Nat) (t : List Tlb) : (setTlb s u t).streams = s.streams := rfl
@[simp] theorem setTlb_l1 (s : State) (u : Nat) (t : List Tlb) : (setTlb s u t).l1 = s.l1 := rfl
@[simp] theorem setTlb_l2 (s : State) (u : Nat) (t : List Tlb) : (setTlb s u t).l2 = s.l2 := rfl
@[simp] theorem setTlb_l1i (s : State) (u : Nat) (t : List Tlb) : (setTlb s u t).l1i = s.l1i := rfl
@[simp] theorem setTlb_caves (s : State) (u : Nat) (t : List Tlb) : (setTlb s u t).caves = s.caves := rfl
@[simp] theorem setTlb_ctls (s : State) (u : Nat) (t : List Tlb) : (setTlb s u t).ctls = s.ctls := rfl
@[simp] theorem setTlb_rmap (s : State) (u : Nat) (t : List Tlb) : (setTlb s u t).rmap = s.rmap := rfl
@[simp] theorem setTlb_quarantine (s : State) (u : Nat) (t : List Tlb) : (setTlb s u t).quarantine = s.quarantine := rfl
@[simp] theorem setTlb_wheySeq (s : State) (u : Nat) (t : List Tlb) : (setTlb s u t).wheySeq = s.wheySeq := rfl
@[simp] theorem setTlb_badMem (s : State) (u : Nat) (t : List Tlb) : (setTlb s u t).badMem = s.badMem := rfl
@[simp] theorem setTlb_softMem (s : State) (u : Nat) (t : List Tlb) : (setTlb s u t).softMem = s.softMem := rfl
@[simp] theorem setTlb_badReg (s : State) (u : Nat) (t : List Tlb) : (setTlb s u t).badReg = s.badReg := rfl
@[simp] theorem setTlb_net (s : State) (u : Nat) (t : List Tlb) : (setTlb s u t).net = s.net := rfl
@[simp] theorem setTlb_batches (s : State) (u : Nat) (t : List Tlb) : (setTlb s u t).batches = s.batches := rfl
@[simp] theorem setTlb_fabOut (s : State) (u : Nat) (t : List Tlb) : (setTlb s u t).fabOut = s.fabOut := rfl
@[simp] theorem setTlb_awaiting (s : State) (u : Nat) (t : List Tlb) : (setTlb s u t).awaiting = s.awaiting := rfl
@[simp] theorem setTlb_nextTag (s : State) (u : Nat) (t : List Tlb) : (setTlb s u t).nextTag = s.nextTag := rfl
@[simp] theorem setTlb_mgmtOut (s : State) (u : Nat) (t : List Tlb) : (setTlb s u t).mgmtOut = s.mgmtOut := rfl
@[simp] theorem setTlb_kports (s : State) (u : Nat) (t : List Tlb) : (setTlb s u t).kports = s.kports := rfl
@[simp] theorem setTlb_routes (s : State) (u : Nat) (t : List Tlb) : (setTlb s u t).routes = s.routes := rfl
@[simp] theorem setTlb_hostLines (s : State) (u : Nat) (t : List Tlb) : (setTlb s u t).hostLines = s.hostLines := rfl
@[simp] theorem setTlb_slotsM (s : State) (u : Nat) (t : List Tlb) : (setTlb s u t).slotsM = s.slotsM := rfl
@[simp] theorem setTlb_verified (s : State) (u : Nat) (t : List Tlb) : (setTlb s u t).verified = s.verified := rfl
@[simp] theorem setTlb_fuseVersion (s : State) (u : Nat) (t : List Tlb) : (setTlb s u t).fuseVersion = s.fuseVersion := rfl
@[simp] theorem setTlb_fuseKey (s : State) (u : Nat) (t : List Tlb) : (setTlb s u t).fuseKey = s.fuseKey := rfl
@[simp] theorem setTlb_fuseSecret (s : State) (u : Nat) (t : List Tlb) : (setTlb s u t).fuseSecret = s.fuseSecret := rfl
@[simp] theorem setTlb_recovery (s : State) (u : Nat) (t : List Tlb) : (setTlb s u t).recovery = s.recovery := rfl
@[simp] theorem setTlb_weights (s : State) (u : Nat) (t : List Tlb) : (setTlb s u t).weights = s.weights := rfl
@[simp] theorem setTlb_starterLog (s : State) (u : Nat) (t : List Tlb) : (setTlb s u t).starterLog = s.starterLog := rfl
@[simp] theorem setTlb_msix (s : State) (u : Nat) (t : List Tlb) : (setTlb s u t).msix = s.msix := rfl
@[simp] theorem setTlb_hostOut (s : State) (u : Nat) (t : List Tlb) : (setTlb s u t).hostOut = s.hostOut := rfl
@[simp] theorem setTlb_starterOut (s : State) (u : Nat) (t : List Tlb) : (setTlb s u t).starterOut = s.starterOut := rfl
@[simp] theorem setTlb_rasUe (s : State) (u : Nat) (t : List Tlb) : (setTlb s u t).rasUe = s.rasUe := rfl

/-! ### modLaunch -/

@[simp] theorem modLaunch_turn (s : State) (l : Nat) (f : Launch → Launch) : (modLaunch s l f).turn = s.turn := by unfold modLaunch; split <;> rfl
@[simp] theorem modLaunch_tick (s : State) (l : Nat) (f : Launch → Launch) : (modLaunch s l f).tick = s.tick := by unfold modLaunch; split <;> rfl
@[simp] theorem modLaunch_cycle (s : State) (l : Nat) (f : Launch → Launch) : (modLaunch s l f).cycle = s.cycle := by unfold modLaunch; split <;> rfl
@[simp] theorem modLaunch_ts (s : State) (l : Nat) (f : Launch → Launch) : (modLaunch s l f).ts = s.ts := by unfold modLaunch; split <;> rfl
@[simp] theorem modLaunch_skew (s : State) (l : Nat) (f : Launch → Launch) : (modLaunch s l f).skew = s.skew := by unfold modLaunch; split <;> rfl
@[simp] theorem modLaunch_me (s : State) (l : Nat) (f : Launch → Launch) : (modLaunch s l f).me = s.me := by unfold modLaunch; split <;> rfl
@[simp] theorem modLaunch_node (s : State) (l : Nat) (f : Launch → Launch) : (modLaunch s l f).node = s.node := by unfold modLaunch; split <;> rfl
@[simp] theorem modLaunch_stalled (s : State) (l : Nat) (f : Launch → Launch) : (modLaunch s l f).stalled = s.stalled := by unfold modLaunch; split <;> rfl
@[simp] theorem modLaunch_mem (s : State) (l : Nat) (f : Launch → Launch) : (modLaunch s l f).mem = s.mem := by unfold modLaunch; split <;> rfl
@[simp] theorem modLaunch_cav (s : State) (l : Nat) (f : Launch → Launch) : (modLaunch s l f).cav = s.cav := by unfold modLaunch; split <;> rfl
@[simp] theorem modLaunch_top (s : State) (l : Nat) (f : Launch → Launch) : (modLaunch s l f).top = s.top := by unfold modLaunch; split <;> rfl
@[simp] theorem modLaunch_cavHeld (s : State) (l : Nat) (f : Launch → Launch) : (modLaunch s l f).cavHeld = s.cavHeld := by unfold modLaunch; split <;> rfl
@[simp] theorem modLaunch_topHeld (s : State) (l : Nat) (f : Launch → Launch) : (modLaunch s l f).topHeld = s.topHeld := by unfold modLaunch; split <;> rfl
@[simp] theorem modLaunch_ctxs (s : State) (l : Nat) (f : Launch → Launch) : (modLaunch s l f).ctxs = s.ctxs := by unfold modLaunch; split <;> rfl
@[simp] theorem modLaunch_cores (s : State) (l : Nat) (f : Launch → Launch) : (modLaunch s l f).cores = s.cores := by unfold modLaunch; split <;> rfl
@[simp] theorem modLaunch_clusters (s : State) (l : Nat) (f : Launch → Launch) : (modLaunch s l f).clusters = s.clusters := by unfold modLaunch; split <;> rfl
@[simp] theorem modLaunch_rinds (s : State) (l : Nat) (f : Launch → Launch) : (modLaunch s l f).rinds = s.rinds := by unfold modLaunch; split <;> rfl
@[simp] theorem modLaunch_nextLaunch (s : State) (l : Nat) (f : Launch → Launch) : (modLaunch s l f).nextLaunch = s.nextLaunch := by unfold modLaunch; split <;> rfl
@[simp] theorem modLaunch_recs (s : State) (l : Nat) (f : Launch → Launch) : (modLaunch s l f).recs = s.recs := by unfold modLaunch; split <;> rfl
@[simp] theorem modLaunch_ports (s : State) (l : Nat) (f : Launch → Launch) : (modLaunch s l f).ports = s.ports := by unfold modLaunch; split <;> rfl
@[simp] theorem modLaunch_patterns (s : State) (l : Nat) (f : Launch → Launch) : (modLaunch s l f).patterns = s.patterns := by unfold modLaunch; split <;> rfl
@[simp] theorem modLaunch_slots (s : State) (l : Nat) (f : Launch → Launch) : (modLaunch s l f).slots = s.slots := by unfold modLaunch; split <;> rfl
@[simp] theorem modLaunch_counters (s : State) (l : Nat) (f : Launch → Launch) : (modLaunch s l f).counters = s.counters := by unfold modLaunch; split <;> rfl
@[simp] theorem modLaunch_watches (s : State) (l : Nat) (f : Launch → Launch) : (modLaunch s l f).watches = s.watches := by unfold modLaunch; split <;> rfl
@[simp] theorem modLaunch_streams (s : State) (l : Nat) (f : Launch → Launch) : (modLaunch s l f).streams = s.streams := by unfold modLaunch; split <;> rfl
@[simp] theorem modLaunch_tlbs (s : State) (l : Nat) (f : Launch → Launch) : (modLaunch s l f).tlbs = s.tlbs := by unfold modLaunch; split <;> rfl
@[simp] theorem modLaunch_l1 (s : State) (l : Nat) (f : Launch → Launch) : (modLaunch s l f).l1 = s.l1 := by unfold modLaunch; split <;> rfl
@[simp] theorem modLaunch_l2 (s : State) (l : Nat) (f : Launch → Launch) : (modLaunch s l f).l2 = s.l2 := by unfold modLaunch; split <;> rfl
@[simp] theorem modLaunch_l1i (s : State) (l : Nat) (f : Launch → Launch) : (modLaunch s l f).l1i = s.l1i := by unfold modLaunch; split <;> rfl
@[simp] theorem modLaunch_caves (s : State) (l : Nat) (f : Launch → Launch) : (modLaunch s l f).caves = s.caves := by unfold modLaunch; split <;> rfl
@[simp] theorem modLaunch_ctls (s : State) (l : Nat) (f : Launch → Launch) : (modLaunch s l f).ctls = s.ctls := by unfold modLaunch; split <;> rfl
@[simp] theorem modLaunch_rmap (s : State) (l : Nat) (f : Launch → Launch) : (modLaunch s l f).rmap = s.rmap := by unfold modLaunch; split <;> rfl
@[simp] theorem modLaunch_quarantine (s : State) (l : Nat) (f : Launch → Launch) : (modLaunch s l f).quarantine = s.quarantine := by unfold modLaunch; split <;> rfl
@[simp] theorem modLaunch_wheySeq (s : State) (l : Nat) (f : Launch → Launch) : (modLaunch s l f).wheySeq = s.wheySeq := by unfold modLaunch; split <;> rfl
@[simp] theorem modLaunch_badMem (s : State) (l : Nat) (f : Launch → Launch) : (modLaunch s l f).badMem = s.badMem := by unfold modLaunch; split <;> rfl
@[simp] theorem modLaunch_softMem (s : State) (l : Nat) (f : Launch → Launch) : (modLaunch s l f).softMem = s.softMem := by unfold modLaunch; split <;> rfl
@[simp] theorem modLaunch_badReg (s : State) (l : Nat) (f : Launch → Launch) : (modLaunch s l f).badReg = s.badReg := by unfold modLaunch; split <;> rfl
@[simp] theorem modLaunch_net (s : State) (l : Nat) (f : Launch → Launch) : (modLaunch s l f).net = s.net := by unfold modLaunch; split <;> rfl
@[simp] theorem modLaunch_batches (s : State) (l : Nat) (f : Launch → Launch) : (modLaunch s l f).batches = s.batches := by unfold modLaunch; split <;> rfl
@[simp] theorem modLaunch_fabOut (s : State) (l : Nat) (f : Launch → Launch) : (modLaunch s l f).fabOut = s.fabOut := by unfold modLaunch; split <;> rfl
@[simp] theorem modLaunch_awaiting (s : State) (l : Nat) (f : Launch → Launch) : (modLaunch s l f).awaiting = s.awaiting := by unfold modLaunch; split <;> rfl
@[simp] theorem modLaunch_nextTag (s : State) (l : Nat) (f : Launch → Launch) : (modLaunch s l f).nextTag = s.nextTag := by unfold modLaunch; split <;> rfl
@[simp] theorem modLaunch_mgmtOut (s : State) (l : Nat) (f : Launch → Launch) : (modLaunch s l f).mgmtOut = s.mgmtOut := by unfold modLaunch; split <;> rfl
@[simp] theorem modLaunch_kports (s : State) (l : Nat) (f : Launch → Launch) : (modLaunch s l f).kports = s.kports := by unfold modLaunch; split <;> rfl
@[simp] theorem modLaunch_routes (s : State) (l : Nat) (f : Launch → Launch) : (modLaunch s l f).routes = s.routes := by unfold modLaunch; split <;> rfl
@[simp] theorem modLaunch_hostLines (s : State) (l : Nat) (f : Launch → Launch) : (modLaunch s l f).hostLines = s.hostLines := by unfold modLaunch; split <;> rfl
@[simp] theorem modLaunch_slotsM (s : State) (l : Nat) (f : Launch → Launch) : (modLaunch s l f).slotsM = s.slotsM := by unfold modLaunch; split <;> rfl
@[simp] theorem modLaunch_verified (s : State) (l : Nat) (f : Launch → Launch) : (modLaunch s l f).verified = s.verified := by unfold modLaunch; split <;> rfl
@[simp] theorem modLaunch_fuseVersion (s : State) (l : Nat) (f : Launch → Launch) : (modLaunch s l f).fuseVersion = s.fuseVersion := by unfold modLaunch; split <;> rfl
@[simp] theorem modLaunch_fuseKey (s : State) (l : Nat) (f : Launch → Launch) : (modLaunch s l f).fuseKey = s.fuseKey := by unfold modLaunch; split <;> rfl
@[simp] theorem modLaunch_fuseSecret (s : State) (l : Nat) (f : Launch → Launch) : (modLaunch s l f).fuseSecret = s.fuseSecret := by unfold modLaunch; split <;> rfl
@[simp] theorem modLaunch_recovery (s : State) (l : Nat) (f : Launch → Launch) : (modLaunch s l f).recovery = s.recovery := by unfold modLaunch; split <;> rfl
@[simp] theorem modLaunch_weights (s : State) (l : Nat) (f : Launch → Launch) : (modLaunch s l f).weights = s.weights := by unfold modLaunch; split <;> rfl
@[simp] theorem modLaunch_starterLog (s : State) (l : Nat) (f : Launch → Launch) : (modLaunch s l f).starterLog = s.starterLog := by unfold modLaunch; split <;> rfl
@[simp] theorem modLaunch_msix (s : State) (l : Nat) (f : Launch → Launch) : (modLaunch s l f).msix = s.msix := by unfold modLaunch; split <;> rfl
@[simp] theorem modLaunch_hostOut (s : State) (l : Nat) (f : Launch → Launch) : (modLaunch s l f).hostOut = s.hostOut := by unfold modLaunch; split <;> rfl
@[simp] theorem modLaunch_starterOut (s : State) (l : Nat) (f : Launch → Launch) : (modLaunch s l f).starterOut = s.starterOut := by unfold modLaunch; split <;> rfl
@[simp] theorem modLaunch_rasUe (s : State) (l : Nat) (f : Launch → Launch) : (modLaunch s l f).rasUe = s.rasUe := by unfold modLaunch; split <;> rfl

/-! ### Reading a part after its update -/

theorem getCtx_setCtx (s : State) (k j : Nat) (c : Ctx) : getCtx (setCtx s k c) j = if j = k then c else getCtx s j := by
  unfold getCtx setCtx
  by_cases h : j = k
  · subst h; simp
  · simp [tget_tput_other, h]
@[simp] theorem getCtx_setCtx_self (s : State) (k : Nat) (c : Ctx) : getCtx (setCtx s k c) k = c := by
  simp [getCtx_setCtx]
theorem getCtx_modCtx (s : State) (k j : Nat) (f : Ctx → Ctx) :
    getCtx (modCtx s k f) j = if j = k then f (getCtx s k) else getCtx s j := getCtx_setCtx ..
@[simp] theorem getCtx_modCtx_self (s : State) (k : Nat) (f : Ctx → Ctx) : getCtx (modCtx s k f) k = f (getCtx s k) := by
  simp [getCtx_modCtx]
theorem getCore_modCore (s : State) (cn j : Nat) (f : Core → Core) :
    getCore (modCore s cn f) j = if j = cn then f (getCore s cn) else getCore s j := by
  simp [getCore, modCore, tget_tput]
@[simp] theorem getCore_modCore_self (s : State) (cn : Nat) (f : Core → Core) :
    getCore (modCore s cn f) cn = f (getCore s cn) := by simp [getCore_modCore]
theorem getCluster_modCluster (s : State) (c j : Nat) (f : Cluster → Cluster) :
    getCluster (modCluster s c f) j = if j = c then f (getCluster s c) else getCluster s j := by
  simp [getCluster, modCluster, tget_tput]
@[simp] theorem getCluster_modCluster_self (s : State) (c : Nat) (f : Cluster → Cluster) :
    getCluster (modCluster s c f) c = f (getCluster s c) := by simp [getCluster_modCluster]
theorem getRind_modRind (s : State) (r j : Nat) (f : Rind → Rind) :
    getRind (modRind s r f) j = if j = r then f (getRind s r) else getRind s j := by
  simp [getRind, modRind, tget_tput]
@[simp] theorem getRind_modRind_self (s : State) (r : Nat) (f : Rind → Rind) :
    getRind (modRind s r f) r = f (getRind s r) := by simp [getRind_modRind]
theorem getCave_modCave (s : State) (d j : Nat) (f : Cave → Cave) :
    getCave (modCave s d f) j = if j = d then f (getCave s d) else getCave s j := by
  simp [getCave, modCave, tget_tput]
@[simp] theorem getCave_modCave_self (s : State) (d : Nat) (f : Cave → Cave) :
    getCave (modCave s d f) d = f (getCave s d) := by simp [getCave_modCave]
theorem getStack_modStack (s : State) (i j : Nat) (f : Stack → Stack) :
    getStack (modStack s i f) j = if j = i then f (getStack s i) else getStack s j := by
  simp [getStack, modStack, tget_tput]
@[simp] theorem getStack_modStack_self (s : State) (i : Nat) (f : Stack → Stack) :
    getStack (modStack s i f) i = f (getStack s i) := by simp [getStack_modStack]
theorem getLaunch_modLaunch (s : State) (l j : Nat) (f : Launch → Launch) :
    getLaunch (modLaunch s l f) j = if j = l then (getLaunch s l).map f else getLaunch s j := by
  unfold modLaunch getLaunch
  by_cases h : j = l
  · subst h
    rw [if_pos rfl]
    cases hl : tfind s.launches j <;> simp [hl]
  · rw [if_neg h]
    split
    · rfl
    · simp [tfind_tput_other, h]
theorem getCounter_setCounter (s : State) (cn i : Nat) (v : Word) : getCounter (setCounter s cn i v) cn i = v := by
  simp [getCounter, setCounter]
theorem getPort_setPort (s : State) (cn p : Nat) (q : Port) : getPort (setPort s cn p q) cn p = q := by
  simp [getPort, setPort]

/-! ### Parts that an update leaves alone -/

@[simp] theorem getCore_setCtx (s : State) (k : Nat) (c : Ctx) (j : Nat) : getCore (setCtx s k c) j = getCore s j := rfl
@[simp] theorem getCluster_setCtx (s : State) (k : Nat) (c : Ctx) (j : Nat) : getCluster (setCtx s k c) j = getCluster s j := rfl
@[simp] theorem getRind_setCtx (s : State) (k : Nat) (c : Ctx) (j : Nat) : getRind (setCtx s k c) j = getRind s j := rfl
@[simp] theorem getCave_setCtx (s : State) (k : Nat) (c : Ctx) (j : Nat) : getCave (setCtx s k c) j = getCave s j := rfl
@[simp] theorem getStack_setCtx (s : State) (k : Nat) (c : Ctx) (j : Nat) : getStack (setCtx s k c) j = getStack s j := rfl
@[simp] theorem getLaunch_setCtx (s : State) (k : Nat) (c : Ctx) (j : Nat) : getLaunch (setCtx s k c) j = getLaunch s j := rfl
@[simp] theorem getRec_setCtx (s : State) (k : Nat) (c : Ctx) (b w : Nat) : getRec (setCtx s k c) b w = getRec s b w := rfl
@[simp] theorem getPort_setCtx (s : State) (k : Nat) (c : Ctx) (b w : Nat) : getPort (setCtx s k c) b w = getPort s b w := rfl
@[simp] theorem getCounter_setCtx (s : State) (k : Nat) (c : Ctx) (b w : Nat) : getCounter (setCtx s k c) b w = getCounter s b w := rfl
@[simp] theorem getTlb_setCtx (s : State) (k : Nat) (c : Ctx) (j : Nat) : getTlb (setCtx s k c) j = getTlb s j := rfl
@[simp] theorem getCore_modCtx (s : State) (k : Nat) (f : Ctx → Ctx) (j : Nat) : getCore (modCtx s k f) j = getCore s j := rfl
@[simp] theorem getCluster_modCtx (s : State) (k : Nat) (f : Ctx → Ctx) (j : Nat) : getCluster (modCtx s k f) j = getCluster s j := rfl
@[simp] theorem getRind_modCtx (s : State) (k : Nat) (f : Ctx → Ctx) (j : Nat) : getRind (modCtx s k f) j = getRind s j := rfl
@[simp] theorem getCave_modCtx (s : State) (k : Nat) (f : Ctx → Ctx) (j : Nat) : getCave (modCtx s k f) j = getCave s j := rfl
@[simp] theorem getStack_modCtx (s : State) (k : Nat) (f : Ctx → Ctx) (j : Nat) : getStack (modCtx s k f) j = getStack s j := rfl
@[simp] theorem getLaunch_modCtx (s : State) (k : Nat) (f : Ctx → Ctx) (j : Nat) : getLaunch (modCtx s k f) j = getLaunch s j := rfl
@[simp] theorem getRec_modCtx (s : State) (k : Nat) (f : Ctx → Ctx) (b w : Nat) : getRec (modCtx s k f) b w = getRec s b w := rfl
@[simp] theorem getPort_modCtx (s : State) (k : Nat) (f : Ctx → Ctx) (b w : Nat) : getPort (modCtx s k f) b w = getPort s b w := rfl
@[simp] theorem getCounter_modCtx (s : State) (k : Nat) (f : Ctx → Ctx) (b w : Nat) : getCounter (modCtx s k f) b w = getCounter s b w := rfl
@[simp] theorem getTlb_modCtx (s : State) (k : Nat) (f : Ctx → Ctx) (j : Nat) : getTlb (modCtx s k f) j = getTlb s j := rfl
@[simp] theorem getCtx_modCore (s : State) (cn : Nat) (f : Core → Core) (j : Nat) : getCtx (modCore s cn f) j = getCtx s j := rfl
@[simp] theorem getCluster_modCore (s : State) (cn : Nat) (f : Core → Core) (j : Nat) : getCluster (modCore s cn f) j = getCluster s j := rfl
@[simp] theorem getRind_modCore (s : State) (cn : Nat) (f : Core → Core) (j : Nat) : getRind (modCore s cn f) j = getRind s j := rfl
@[simp] theorem getCave_modCore (s : State) (cn : Nat) (f : Core → Core) (j : Nat) : getCave (modCore s cn f) j = getCave s j := rfl
@[simp] theorem getStack_modCore (s : State) (cn : Nat) (f : Core → Core) (j : Nat) : getStack (modCore s cn f) j = getStack s j := rfl
@[simp] theorem getLaunch_modCore (s : State) (cn : Nat) (f : Core → Core) (j : Nat) : getLaunch (modCore s cn f) j = getLaunch s j := rfl
@[simp] theorem getRec_modCore (s : State) (cn : Nat) (f : Core → Core) (b w : Nat) : getRec (modCore s cn f) b w = getRec s b w := rfl
@[simp] theorem getPort_modCore (s : State) (cn : Nat) (f : Core → Core) (b w : Nat) : getPort (modCore s cn f) b w = getPort s b w := rfl
@[simp] theorem getCounter_modCore (s : State) (cn : Nat) (f : Core → Core) (b w : Nat) : getCounter (modCore s cn f) b w = getCounter s b w := rfl
@[simp] theorem getTlb_modCore (s : State) (cn : Nat) (f : Core → Core) (j : Nat) : getTlb (modCore s cn f) j = getTlb s j := rfl
@[simp] theorem getCtx_modCluster (s : State) (c : Nat) (f : Cluster → Cluster) (j : Nat) : getCtx (modCluster s c f) j = getCtx s j := rfl
@[simp] theorem getCore_modCluster (s : State) (c : Nat) (f : Cluster → Cluster) (j : Nat) : getCore (modCluster s c f) j = getCore s j := rfl
@[simp] theorem getRind_modCluster (s : State) (c : Nat) (f : Cluster → Cluster) (j : Nat) : getRind (modCluster s c f) j = getRind s j := rfl
@[simp] theorem getCave_modCluster (s : State) (c : Nat) (f : Cluster → Cluster) (j : Nat) : getCave (modCluster s c f) j = getCave s j := rfl
@[simp] theorem getStack_modCluster (s : State) (c : Nat) (f : Cluster → Cluster) (j : Nat) : getStack (modCluster s c f) j = getStack s j := rfl
@[simp] theorem getLaunch_modCluster (s : State) (c : Nat) (f : Cluster → Cluster) (j : Nat) : getLaunch (modCluster s c f) j = getLaunch s j := rfl
@[simp] theorem getRec_modCluster (s : State) (c : Nat) (f : Cluster → Cluster) (b w : Nat) : getRec (modCluster s c f) b w = getRec s b w := rfl
@[simp] theorem getPort_modCluster (s : State) (c : Nat) (f : Cluster → Cluster) (b w : Nat) : getPort (modCluster s c f) b w = getPort s b w := rfl
@[simp] theorem getCounter_modCluster (s : State) (c : Nat) (f : Cluster → Cluster) (b w : Nat) : getCounter (modCluster s c f) b w = getCounter s b w := rfl
@[simp] theorem getTlb_modCluster (s : State) (c : Nat) (f : Cluster → Cluster) (j : Nat) : getTlb (modCluster s c f) j = getTlb s j := rfl
@[simp] theorem getCtx_modRind (s : State) (r : Nat) (f : Rind → Rind) (j : Nat) : getCtx (modRind s r f) j = getCtx s j := rfl
@[simp] theorem getCore_modRind (s : State) (r : Nat) (f : Rind → Rind) (j : Nat) : getCore (modRind s r f) j = getCore s j := rfl
@[simp] theorem getCluster_modRind (s : State) (r : Nat) (f : Rind → Rind) (j : Nat) : getCluster (modRind s r f) j = getCluster s j := rfl
@[simp] theorem getCave_modRind (s : State) (r : Nat) (f : Rind → Rind) (j : Nat) : getCave (modRind s r f) j = getCave s j := rfl
@[simp] theorem getStack_modRind (s : State) (r : Nat) (f : Rind → Rind) (j : Nat) : getStack (modRind s r f) j = getStack s j := rfl
@[simp] theorem getLaunch_modRind (s : State) (r : Nat) (f : Rind → Rind) (j : Nat) : getLaunch (modRind s r f) j = getLaunch s j := rfl
@[simp] theorem getRec_modRind (s : State) (r : Nat) (f : Rind → Rind) (b w : Nat) : getRec (modRind s r f) b w = getRec s b w := rfl
@[simp] theorem getPort_modRind (s : State) (r : Nat) (f : Rind → Rind) (b w : Nat) : getPort (modRind s r f) b w = getPort s b w := rfl
@[simp] theorem getCounter_modRind (s : State) (r : Nat) (f : Rind → Rind) (b w : Nat) : getCounter (modRind s r f) b w = getCounter s b w := rfl
@[simp] theorem getTlb_modRind (s : State) (r : Nat) (f : Rind → Rind) (j : Nat) : getTlb (modRind s r f) j = getTlb s j := rfl
@[simp] theorem getCtx_modCave (s : State) (d : Nat) (f : Cave → Cave) (j : Nat) : getCtx (modCave s d f) j = getCtx s j := rfl
@[simp] theorem getCore_modCave (s : State) (d : Nat) (f : Cave → Cave) (j : Nat) : getCore (modCave s d f) j = getCore s j := rfl
@[simp] theorem getCluster_modCave (s : State) (d : Nat) (f : Cave → Cave) (j : Nat) : getCluster (modCave s d f) j = getCluster s j := rfl
@[simp] theorem getRind_modCave (s : State) (d : Nat) (f : Cave → Cave) (j : Nat) : getRind (modCave s d f) j = getRind s j := rfl
@[simp] theorem getStack_modCave (s : State) (d : Nat) (f : Cave → Cave) (j : Nat) : getStack (modCave s d f) j = getStack s j := rfl
@[simp] theorem getLaunch_modCave (s : State) (d : Nat) (f : Cave → Cave) (j : Nat) : getLaunch (modCave s d f) j = getLaunch s j := rfl
@[simp] theorem getRec_modCave (s : State) (d : Nat) (f : Cave → Cave) (b w : Nat) : getRec (modCave s d f) b w = getRec s b w := rfl
@[simp] theorem getPort_modCave (s : State) (d : Nat) (f : Cave → Cave) (b w : Nat) : getPort (modCave s d f) b w = getPort s b w := rfl
@[simp] theorem getCounter_modCave (s : State) (d : Nat) (f : Cave → Cave) (b w : Nat) : getCounter (modCave s d f) b w = getCounter s b w := rfl
@[simp] theorem getTlb_modCave (s : State) (d : Nat) (f : Cave → Cave) (j : Nat) : getTlb (modCave s d f) j = getTlb s j := rfl
@[simp] theorem getCtx_modStack (s : State) (i : Nat) (f : Stack → Stack) (j : Nat) : getCtx (modStack s i f) j = getCtx s j := rfl
@[simp] theorem getCore_modStack (s : State) (i : Nat) (f : Stack → Stack) (j : Nat) : getCore (modStack s i f) j = getCore s j := rfl
@[simp] theorem getCluster_modStack (s : State) (i : Nat) (f : Stack → Stack) (j : Nat) : getCluster (modStack s i f) j = getCluster s j := rfl
@[simp] theorem getRind_modStack (s : State) (i : Nat) (f : Stack → Stack) (j : Nat) : getRind (modStack s i f) j = getRind s j := rfl
@[simp] theorem getCave_modStack (s : State) (i : Nat) (f : Stack → Stack) (j : Nat) : getCave (modStack s i f) j = getCave s j := rfl
@[simp] theorem getLaunch_modStack (s : State) (i : Nat) (f : Stack → Stack) (j : Nat) : getLaunch (modStack s i f) j = getLaunch s j := rfl
@[simp] theorem getRec_modStack (s : State) (i : Nat) (f : Stack → Stack) (b w : Nat) : getRec (modStack s i f) b w = getRec s b w := rfl
@[simp] theorem getPort_modStack (s : State) (i : Nat) (f : Stack → Stack) (b w : Nat) : getPort (modStack s i f) b w = getPort s b w := rfl
@[simp] theorem getCounter_modStack (s : State) (i : Nat) (f : Stack → Stack) (b w : Nat) : getCounter (modStack s i f) b w = getCounter s b w := rfl
@[simp] theorem getTlb_modStack (s : State) (i : Nat) (f : Stack → Stack) (j : Nat) : getTlb (modStack s i f) j = getTlb s j := rfl
@[simp] theorem getCtx_modRec (s : State) (cn l : Nat) (f : LRec → LRec) (j : Nat) : getCtx (modRec s cn l f) j = getCtx s j := rfl
@[simp] theorem getCore_modRec (s : State) (cn l : Nat) (f : LRec → LRec) (j : Nat) : getCore (modRec s cn l f) j = getCore s j := rfl
@[simp] theorem getCluster_modRec (s : State) (cn l : Nat) (f : LRec → LRec) (j : Nat) : getCluster (modRec s cn l f) j = getCluster s j := rfl
@[simp] theorem getRind_modRec (s : State) (cn l : Nat) (f : LRec → LRec) (j : Nat) : getRind (modRec s cn l f) j = getRind s j := rfl
@[simp] theorem getCave_modRec (s : State) (cn l : Nat) (f : LRec → LRec) (j : Nat) : getCave (modRec s cn l f) j = getCave s j := rfl
@[simp] theorem getStack_modRec (s : State) (cn l : Nat) (f : LRec → LRec) (j : Nat) : getStack (modRec s cn l f) j = getStack s j := rfl
@[simp] theorem getLaunch_modRec (s : State) (cn l : Nat) (f : LRec → LRec) (j : Nat) : getLaunch (modRec s cn l f) j = getLaunch s j := rfl
@[simp] theorem getPort_modRec (s : State) (cn l : Nat) (f : LRec → LRec) (b w : Nat) : getPort (modRec s cn l f) b w = getPort s b w := rfl
@[simp] theorem getCounter_modRec (s : State) (cn l : Nat) (f : LRec → LRec) (b w : Nat) : getCounter (modRec s cn l f) b w = getCounter s b w := rfl
@[simp] theorem getTlb_modRec (s : State) (cn l : Nat) (f : LRec → LRec) (j : Nat) : getTlb (modRec s cn l f) j = getTlb s j := rfl
@[simp] theorem getCtx_setPort (s : State) (cn p : Nat) (q : Port) (j : Nat) : getCtx (setPort s cn p q) j = getCtx s j := rfl
@[simp] theorem getCore_setPort (s : State) (cn p : Nat) (q : Port) (j : Nat) : getCore (setPort s cn p q) j = getCore s j := rfl
@[simp] theorem getCluster_setPort (s : State) (cn p : Nat) (q : Port) (j : Nat) : getCluster (setPort s cn p q) j = getCluster s j := rfl
@[simp] theorem getRind_setPort (s : State) (cn p : Nat) (q : Port) (j : Nat) : getRind (setPort s cn p q) j = getRind s j := rfl
@[simp] theorem getCave_setPort (s : State) (cn p : Nat) (q : Port) (j : Nat) : getCave (setPort s cn p q) j = getCave s j := rfl
@[simp] theorem getStack_setPort (s : State) (cn p : Nat) (q : Port) (j : Nat) : getStack (setPort s cn p q) j = getStack s j := rfl
@[simp] theorem getLaunch_setPort (s : State) (cn p : Nat) (q : Port) (j : Nat) : getLaunch (setPort s cn p q) j = getLaunch s j := rfl
@[simp] theorem getRec_setPort (s : State) (cn p : Nat) (q : Port) (b w : Nat) : getRec (setPort s cn p q) b w = getRec s b w := rfl
@[simp] theorem getCounter_setPort (s : State) (cn p : Nat) (q : Port) (b w : Nat) : getCounter (setPort s cn p q) b w = getCounter s b w := rfl
@[simp] theorem getTlb_setPort (s : State) (cn p : Nat) (q : Port) (j : Nat) : getTlb (setPort s cn p q) j = getTlb s j := rfl
@[simp] theorem getCtx_setCounter (s : State) (cn i : Nat) (v : Word) (j : Nat) : getCtx (setCounter s cn i v) j = getCtx s j := rfl
@[simp] theorem getCore_setCounter (s : State) (cn i : Nat) (v : Word) (j : Nat) : getCore (setCounter s cn i v) j = getCore s j := rfl
@[simp] theorem getCluster_setCounter (s : State) (cn i : Nat) (v : Word) (j : Nat) : getCluster (setCounter s cn i v) j = getCluster s j := rfl
@[simp] theorem getRind_setCounter (s : State) (cn i : Nat) (v : Word) (j : Nat) : getRind (setCounter s cn i v) j = getRind s j := rfl
@[simp] theorem getCave_setCounter (s : State) (cn i : Nat) (v : Word) (j : Nat) : getCave (setCounter s cn i v) j = getCave s j := rfl
@[simp] theorem getStack_setCounter (s : State) (cn i : Nat) (v : Word) (j : Nat) : getStack (setCounter s cn i v) j = getStack s j := rfl
@[simp] theorem getLaunch_setCounter (s : State) (cn i : Nat) (v : Word) (j : Nat) : getLaunch (setCounter s cn i v) j = getLaunch s j := rfl
@[simp] theorem getRec_setCounter (s : State) (cn i : Nat) (v : Word) (b w : Nat) : getRec (setCounter s cn i v) b w = getRec s b w := rfl
@[simp] theorem getPort_setCounter (s : State) (cn i : Nat) (v : Word) (b w : Nat) : getPort (setCounter s cn i v) b w = getPort s b w := rfl
@[simp] theorem getTlb_setCounter (s : State) (cn i : Nat) (v : Word) (j : Nat) : getTlb (setCounter s cn i v) j = getTlb s j := rfl
@[simp] theorem getCtx_setTlb (s : State) (u : Nat) (t : List Tlb) (j : Nat) : getCtx (setTlb s u t) j = getCtx s j := rfl
@[simp] theorem getCore_setTlb (s : State) (u : Nat) (t : List Tlb) (j : Nat) : getCore (setTlb s u t) j = getCore s j := rfl
@[simp] theorem getCluster_setTlb (s : State) (u : Nat) (t : List Tlb) (j : Nat) : getCluster (setTlb s u t) j = getCluster s j := rfl
@[simp] theorem getRind_setTlb (s : State) (u : Nat) (t : List Tlb) (j : Nat) : getRind (setTlb s u t) j = getRind s j := rfl
@[simp] theorem getCave_setTlb (s : State) (u : Nat) (t : List Tlb) (j : Nat) : getCave (setTlb s u t) j = getCave s j := rfl
@[simp] theorem getStack_setTlb (s : State) (u : Nat) (t : List Tlb) (j : Nat) : getStack (setTlb s u t) j = getStack s j := rfl
@[simp] theorem getLaunch_setTlb (s : State) (u : Nat) (t : List Tlb) (j : Nat) : getLaunch (setTlb s u t) j = getLaunch s j := rfl
@[simp] theorem getRec_setTlb (s : State) (u : Nat) (t : List Tlb) (b w : Nat) : getRec (setTlb s u t) b w = getRec s b w := rfl
@[simp] theorem getPort_setTlb (s : State) (u : Nat) (t : List Tlb) (b w : Nat) : getPort (setTlb s u t) b w = getPort s b w := rfl
@[simp] theorem getCounter_setTlb (s : State) (u : Nat) (t : List Tlb) (b w : Nat) : getCounter (setTlb s u t) b w = getCounter s b w := rfl
@[simp] theorem getCtx_modLaunch (s : State) (l : Nat) (f : Launch → Launch) (j : Nat) : getCtx (modLaunch s l f) j = getCtx s j := by simp [getCtx]
@[simp] theorem getCore_modLaunch (s : State) (l : Nat) (f : Launch → Launch) (j : Nat) : getCore (modLaunch s l f) j = getCore s j := by simp [getCore]
@[simp] theorem getCluster_modLaunch (s : State) (l : Nat) (f : Launch → Launch) (j : Nat) : getCluster (modLaunch s l f) j = getCluster s j := by simp [getCluster]
@[simp] theorem getRind_modLaunch (s : State) (l : Nat) (f : Launch → Launch) (j : Nat) : getRind (modLaunch s l f) j = getRind s j := by simp [getRind]
@[simp] theorem getCave_modLaunch (s : State) (l : Nat) (f : Launch → Launch) (j : Nat) : getCave (modLaunch s l f) j = getCave s j := by simp [getCave]
@[simp] theorem getStack_modLaunch (s : State) (l : Nat) (f : Launch → Launch) (j : Nat) : getStack (modLaunch s l f) j = getStack s j := by simp [getStack]
@[simp] theorem getRec_modLaunch (s : State) (l : Nat) (f : Launch → Launch) (b w : Nat) : getRec (modLaunch s l f) b w = getRec s b w := by simp [getRec]
@[simp] theorem getPort_modLaunch (s : State) (l : Nat) (f : Launch → Launch) (b w : Nat) : getPort (modLaunch s l f) b w = getPort s b w := by simp [getPort]
@[simp] theorem getCounter_modLaunch (s : State) (l : Nat) (f : Launch → Launch) (b w : Nat) : getCounter (modLaunch s l f) b w = getCounter s b w := by simp [getCounter]
@[simp] theorem getTlb_modLaunch (s : State) (l : Nat) (f : Launch → Launch) (j : Nat) : getTlb (modLaunch s l f) j = getTlb s j := by simp [getTlb]

end Sys2Proof.Machine
end

