-- ==== Sys2Proof/Laws/Ctx.lean ====
section
/-!
SUPPORT. The registers of a context: what each reads as after a write, and that g0 and p0 are constant (R34, R40).
-/

namespace Sys2Proof.Machine

/-! ### The constant registers -/

@[simp] theorem readG_zero (c : Ctx) : c.readG 0 = 0 := rfl
@[simp] theorem writeG_zero (c : Ctx) (x : Dword) : c.writeG 0 x = c := rfl
@[simp] theorem readP_zero (c : Ctx) : c.readP 0 = BitVec.allOnes 64 := rfl
@[simp] theorem writeP_zero (c : Ctx) (x : Dword) : c.writeP 0 x = c := rfl
@[simp] theorem isEmpty_zero (c : Ctx) : c.isEmpty 0 = false := rfl
@[simp] theorem setEmpty_zero (c : Ctx) (b : Bool) : c.setEmpty 0 b = c := rfl

/-! ### Read after write -/

theorem readG_writeG (c : Ctx) (r j : Nat) (x : Dword) :
    (c.writeG r x).readG j = if j = r ∧ r ≠ 0 then x else c.readG j := by
  unfold Ctx.writeG Ctx.readG
  by_cases hr : r = 0
  · simp [hr]
  · by_cases hj : j = 0
    · have h0 : ¬ (0 = r) := fun e => hr e.symm
      simp [hr, hj, h0]
    · by_cases hjr : j = r
      · subst hjr; simp [hr]
      · simp [hr, hjr, tget_tput_other]

theorem readG_writeG_self (c : Ctx) {r : Nat} (x : Dword) (h : r ≠ 0) : (c.writeG r x).readG r = x := by
  simp [readG_writeG, h]

theorem readG_writeG_other (c : Ctx) {r j : Nat} (x : Dword) (h : j ≠ r) : (c.writeG r x).readG j = c.readG j := by
  simp [readG_writeG, h]

theorem readV_writeV (c : Ctx) (r j : Nat) (x : Vec) : (c.writeV r x).readV j = if j = r then x else c.readV j := by
  simp [Ctx.writeV, Ctx.readV, tget_tput]

@[simp] theorem readV_writeV_self (c : Ctx) (r : Nat) (x : Vec) : (c.writeV r x).readV r = x := by simp [readV_writeV]

theorem readP_writeP (c : Ctx) (r j : Nat) (x : Dword) :
    (c.writeP r x).readP j = if j = r ∧ r ≠ 0 then x else c.readP j := by
  unfold Ctx.writeP Ctx.readP
  by_cases hr : r = 0
  · simp [hr]
  · by_cases hj : j = 0
    · have h0 : ¬ (0 = r) := fun e => hr e.symm
      simp [hr, hj, h0]
    · by_cases hjr : j = r
      · subst hjr; simp [hr]
      · simp [hr, hjr, tget_tput_other]

theorem isEmpty_setEmpty (c : Ctx) (r j : Nat) (b : Bool) :
    (c.setEmpty r b).isEmpty j = if j = r ∧ r ≠ 0 then b else c.isEmpty j := by
  unfold Ctx.setEmpty Ctx.isEmpty
  by_cases hr : r = 0
  · simp [hr]
  · by_cases hj : j = 0
    · have h0 : ¬ (0 = r) := fun e => hr e.symm
      simp [hr, hj, h0]
    · by_cases hjr : j = r
      · subst hjr; simp [hr]
      · simp [hr, hjr, tget_tput_other]

/-! ### What a register write leaves -/
@[simp] theorem writeG_v (c : Ctx) (r : Nat) (x : Dword) : (c.writeG r x).v = c.v := by unfold Ctx.writeG; split <;> rfl
@[simp] theorem writeG_p (c : Ctx) (r : Nat) (x : Dword) : (c.writeG r x).p = c.p := by unfold Ctx.writeG; split <;> rfl
@[simp] theorem writeG_empty (c : Ctx) (r : Nat) (x : Dword) : (c.writeG r x).empty = c.empty := by unfold Ctx.writeG; split <;> rfl
@[simp] theorem writeG_pc (c : Ctx) (r : Nat) (x : Dword) : (c.writeG r x).pc = c.pc := by unfold Ctx.writeG; split <;> rfl
@[simp] theorem writeG_st (c : Ctx) (r : Nat) (x : Dword) : (c.writeG r x).st = c.st := by unfold Ctx.writeG; split <;> rfl
@[simp] theorem writeG_fepol (c : Ctx) (r : Nat) (x : Dword) : (c.writeG r x).fepol = c.fepol := by unfold Ctx.writeG; split <;> rfl
@[simp] theorem writeG_tsv1 (c : Ctx) (r : Nat) (x : Dword) : (c.writeG r x).tsv1 = c.tsv1 := by unfold Ctx.writeG; split <;> rfl
@[simp] theorem writeG_tsv2 (c : Ctx) (r : Nat) (x : Dword) : (c.writeG r x).tsv2 = c.tsv2 := by unfold Ctx.writeG; split <;> rfl
@[simp] theorem writeG_epc (c : Ctx) (r : Nat) (x : Dword) : (c.writeG r x).epc = c.epc := by unfold Ctx.writeG; split <;> rfl
@[simp] theorem writeG_ecause (c : Ctx) (r : Nat) (x : Dword) : (c.writeG r x).ecause = c.ecause := by unfold Ctx.writeG; split <;> rfl
@[simp] theorem writeG_eaddr (c : Ctx) (r : Nat) (x : Dword) : (c.writeG r x).eaddr = c.eaddr := by unfold Ctx.writeG; split <;> rfl
@[simp] theorem writeG_eseq (c : Ctx) (r : Nat) (x : Dword) : (c.writeG r x).eseq = c.eseq := by unfold Ctx.writeG; split <;> rfl
@[simp] theorem writeG_est (c : Ctx) (r : Nat) (x : Dword) : (c.writeG r x).est = c.est := by unfold Ctx.writeG; split <;> rfl
@[simp] theorem writeG_tfInfo (c : Ctx) (r : Nat) (x : Dword) : (c.writeG r x).tfInfo = c.tfInfo := by unfold Ctx.writeG; split <;> rfl
@[simp] theorem writeG_tfd (c : Ctx) (r : Nat) (x : Dword) : (c.writeG r x).tfd = c.tfd := by unfold Ctx.writeG; split <;> rfl
@[simp] theorem writeG_tarea (c : Ctx) (r : Nat) (x : Dword) : (c.writeG r x).tarea = c.tarea := by unfold Ctx.writeG; split <;> rfl
@[simp] theorem writeG_loopCnt (c : Ctx) (r : Nat) (x : Dword) : (c.writeG r x).loopCnt = c.loopCnt := by unfold Ctx.writeG; split <;> rfl
@[simp] theorem writeG_loopEnd (c : Ctx) (r : Nat) (x : Dword) : (c.writeG r x).loopEnd = c.loopEnd := by unfold Ctx.writeG; split <;> rfl
@[simp] theorem writeG_loopLen (c : Ctx) (r : Nat) (x : Dword) : (c.writeG r x).loopLen = c.loopLen := by unfold Ctx.writeG; split <;> rfl
@[simp] theorem writeG_cspAddr (c : Ctx) (r : Nat) (x : Dword) : (c.writeG r x).cspAddr = c.cspAddr := by unfold Ctx.writeG; split <;> rfl
@[simp] theorem writeG_hoop (c : Ctx) (r : Nat) (x : Dword) : (c.writeG r x).hoop = c.hoop := by unfold Ctx.writeG; split <;> rfl
@[simp] theorem writeG_hint (c : Ctx) (r : Nat) (x : Dword) : (c.writeG r x).hint = c.hint := by unfold Ctx.writeG; split <;> rfl
@[simp] theorem writeG_act (c : Ctx) (r : Nat) (x : Dword) : (c.writeG r x).act = c.act := by unfold Ctx.writeG; split <;> rfl
@[simp] theorem writeG_errs (c : Ctx) (r : Nat) (x : Dword) : (c.writeG r x).errs = c.errs := by unfold Ctx.writeG; split <;> rfl
@[simp] theorem writeG_errTsv1 (c : Ctx) (r : Nat) (x : Dword) : (c.writeG r x).errTsv1 = c.errTsv1 := by unfold Ctx.writeG; split <;> rfl
@[simp] theorem writeG_errTsv2 (c : Ctx) (r : Nat) (x : Dword) : (c.writeG r x).errTsv2 = c.errTsv2 := by unfold Ctx.writeG; split <;> rfl
@[simp] theorem writeG_deferred (c : Ctx) (r : Nat) (x : Dword) : (c.writeG r x).deferred = c.deferred := by unfold Ctx.writeG; split <;> rfl
@[simp] theorem writeG_pending (c : Ctx) (r : Nat) (x : Dword) : (c.writeG r x).pending = c.pending := by unfold Ctx.writeG; split <;> rfl
@[simp] theorem writeG_unacked (c : Ctx) (r : Nat) (x : Dword) : (c.writeG r x).unacked = c.unacked := by unfold Ctx.writeG; split <;> rfl
@[simp] theorem writeG_frames (c : Ctx) (r : Nat) (x : Dword) : (c.writeG r x).frames = c.frames := by unfold Ctx.writeG; split <;> rfl
@[simp] theorem writeG_sel (c : Ctx) (r : Nat) (x : Dword) : (c.writeG r x).sel = c.sel := by unfold Ctx.writeG; split <;> rfl
@[simp] theorem writeG_selected (c : Ctx) (r : Nat) (x : Dword) : (c.writeG r x).selected = c.selected := by unfold Ctx.writeG; split <;> rfl
@[simp] theorem writeG_launch (c : Ctx) (r : Nat) (x : Dword) : (c.writeG r x).launch = c.launch := by unfold Ctx.writeG; split <;> rfl
@[simp] theorem writeG_collect (c : Ctx) (r : Nat) (x : Dword) : (c.writeG r x).collect = c.collect := by unfold Ctx.writeG; split <;> rfl
@[simp] theorem writeG_trail (c : Ctx) (r : Nat) (x : Dword) : (c.writeG r x).trail = c.trail := by unfold Ctx.writeG; split <;> rfl
@[simp] theorem writeG_walked (c : Ctx) (r : Nat) (x : Dword) : (c.writeG r x).walked = c.walked := by unfold Ctx.writeG; split <;> rfl
@[simp] theorem writeG_asks (c : Ctx) (r : Nat) (x : Dword) : (c.writeG r x).asks = c.asks := by unfold Ctx.writeG; split <;> rfl
@[simp] theorem writeG_got (c : Ctx) (r : Nat) (x : Dword) : (c.writeG r x).got = c.got := by unfold Ctx.writeG; split <;> rfl
@[simp] theorem writeG_migrTo (c : Ctx) (r : Nat) (x : Dword) : (c.writeG r x).migrTo = c.migrTo := by unfold Ctx.writeG; split <;> rfl
@[simp] theorem writeV_g (c : Ctx) (r : Nat) (x : Vec) : (c.writeV r x).g = c.g := rfl
@[simp] theorem writeV_p (c : Ctx) (r : Nat) (x : Vec) : (c.writeV r x).p = c.p := rfl
@[simp] theorem writeV_empty (c : Ctx) (r : Nat) (x : Vec) : (c.writeV r x).empty = c.empty := rfl
@[simp] theorem writeV_pc (c : Ctx) (r : Nat) (x : Vec) : (c.writeV r x).pc = c.pc := rfl
@[simp] theorem writeV_st (c : Ctx) (r : Nat) (x : Vec) : (c.writeV r x).st = c.st := rfl
@[simp] theorem writeV_fepol (c : Ctx) (r : Nat) (x : Vec) : (c.writeV r x).fepol = c.fepol := rfl
@[simp] theorem writeV_tsv1 (c : Ctx) (r : Nat) (x : Vec) : (c.writeV r x).tsv1 = c.tsv1 := rfl
@[simp] theorem writeV_tsv2 (c : Ctx) (r : Nat) (x : Vec) : (c.writeV r x).tsv2 = c.tsv2 := rfl
@[simp] theorem writeV_epc (c : Ctx) (r : Nat) (x : Vec) : (c.writeV r x).epc = c.epc := rfl
@[simp] theorem writeV_ecause (c : Ctx) (r : Nat) (x : Vec) : (c.writeV r x).ecause = c.ecause := rfl
@[simp] theorem writeV_eaddr (c : Ctx) (r : Nat) (x : Vec) : (c.writeV r x).eaddr = c.eaddr := rfl
@[simp] theorem writeV_eseq (c : Ctx) (r : Nat) (x : Vec) : (c.writeV r x).eseq = c.eseq := rfl
@[simp] theorem writeV_est (c : Ctx) (r : Nat) (x : Vec) : (c.writeV r x).est = c.est := rfl
@[simp] theorem writeV_tfInfo (c : Ctx) (r : Nat) (x : Vec) : (c.writeV r x).tfInfo = c.tfInfo := rfl
@[simp] theorem writeV_tfd (c : Ctx) (r : Nat) (x : Vec) : (c.writeV r x).tfd = c.tfd := rfl
@[simp] theorem writeV_tarea (c : Ctx) (r : Nat) (x : Vec) : (c.writeV r x).tarea = c.tarea := rfl
@[simp] theorem writeV_loopCnt (c : Ctx) (r : Nat) (x : Vec) : (c.writeV r x).loopCnt = c.loopCnt := rfl
@[simp] theorem writeV_loopEnd (c : Ctx) (r : Nat) (x : Vec) : (c.writeV r x).loopEnd = c.loopEnd := rfl
@[simp] theorem writeV_loopLen (c : Ctx) (r : Nat) (x : Vec) : (c.writeV r x).loopLen = c.loopLen := rfl
@[simp] theorem writeV_cspAddr (c : Ctx) (r : Nat) (x : Vec) : (c.writeV r x).cspAddr = c.cspAddr := rfl
@[simp] theorem writeV_hoop (c : Ctx) (r : Nat) (x : Vec) : (c.writeV r x).hoop = c.hoop := rfl
@[simp] theorem writeV_hint (c : Ctx) (r : Nat) (x : Vec) : (c.writeV r x).hint = c.hint := rfl
@[simp] theorem writeV_act (c : Ctx) (r : Nat) (x : Vec) : (c.writeV r x).act = c.act := rfl
@[simp] theorem writeV_errs (c : Ctx) (r : Nat) (x : Vec) : (c.writeV r x).errs = c.errs := rfl
@[simp] theorem writeV_errTsv1 (c : Ctx) (r : Nat) (x : Vec) : (c.writeV r x).errTsv1 = c.errTsv1 := rfl
@[simp] theorem writeV_errTsv2 (c : Ctx) (r : Nat) (x : Vec) : (c.writeV r x).errTsv2 = c.errTsv2 := rfl
@[simp] theorem writeV_deferred (c : Ctx) (r : Nat) (x : Vec) : (c.writeV r x).deferred = c.deferred := rfl
@[simp] theorem writeV_pending (c : Ctx) (r : Nat) (x : Vec) : (c.writeV r x).pending = c.pending := rfl
@[simp] theorem writeV_unacked (c : Ctx) (r : Nat) (x : Vec) : (c.writeV r x).unacked = c.unacked := rfl
@[simp] theorem writeV_frames (c : Ctx) (r : Nat) (x : Vec) : (c.writeV r x).frames = c.frames := rfl
@[simp] theorem writeV_sel (c : Ctx) (r : Nat) (x : Vec) : (c.writeV r x).sel = c.sel := rfl
@[simp] theorem writeV_selected (c : Ctx) (r : Nat) (x : Vec) : (c.writeV r x).selected = c.selected := rfl
@[simp] theorem writeV_launch (c : Ctx) (r : Nat) (x : Vec) : (c.writeV r x).launch = c.launch := rfl
@[simp] theorem writeV_collect (c : Ctx) (r : Nat) (x : Vec) : (c.writeV r x).collect = c.collect := rfl
@[simp] theorem writeV_trail (c : Ctx) (r : Nat) (x : Vec) : (c.writeV r x).trail = c.trail := rfl
@[simp] theorem writeV_walked (c : Ctx) (r : Nat) (x : Vec) : (c.writeV r x).walked = c.walked := rfl
@[simp] theorem writeV_asks (c : Ctx) (r : Nat) (x : Vec) : (c.writeV r x).asks = c.asks := rfl
@[simp] theorem writeV_got (c : Ctx) (r : Nat) (x : Vec) : (c.writeV r x).got = c.got := rfl
@[simp] theorem writeV_migrTo (c : Ctx) (r : Nat) (x : Vec) : (c.writeV r x).migrTo = c.migrTo := rfl
@[simp] theorem writeP_g (c : Ctx) (r : Nat) (x : Dword) : (c.writeP r x).g = c.g := by unfold Ctx.writeP; split <;> rfl
@[simp] theorem writeP_v (c : Ctx) (r : Nat) (x : Dword) : (c.writeP r x).v = c.v := by unfold Ctx.writeP; split <;> rfl
@[simp] theorem writeP_empty (c : Ctx) (r : Nat) (x : Dword) : (c.writeP r x).empty = c.empty := by unfold Ctx.writeP; split <;> rfl
@[simp] theorem writeP_pc (c : Ctx) (r : Nat) (x : Dword) : (c.writeP r x).pc = c.pc := by unfold Ctx.writeP; split <;> rfl
@[simp] theorem writeP_st (c : Ctx) (r : Nat) (x : Dword) : (c.writeP r x).st = c.st := by unfold Ctx.writeP; split <;> rfl
@[simp] theorem writeP_fepol (c : Ctx) (r : Nat) (x : Dword) : (c.writeP r x).fepol = c.fepol := by unfold Ctx.writeP; split <;> rfl
@[simp] theorem writeP_tsv1 (c : Ctx) (r : Nat) (x : Dword) : (c.writeP r x).tsv1 = c.tsv1 := by unfold Ctx.writeP; split <;> rfl
@[simp] theorem writeP_tsv2 (c : Ctx) (r : Nat) (x : Dword) : (c.writeP r x).tsv2 = c.tsv2 := by unfold Ctx.writeP; split <;> rfl
@[simp] theorem writeP_epc (c : Ctx) (r : Nat) (x : Dword) : (c.writeP r x).epc = c.epc := by unfold Ctx.writeP; split <;> rfl
@[simp] theorem writeP_ecause (c : Ctx) (r : Nat) (x : Dword) : (c.writeP r x).ecause = c.ecause := by unfold Ctx.writeP; split <;> rfl
@[simp] theorem writeP_eaddr (c : Ctx) (r : Nat) (x : Dword) : (c.writeP r x).eaddr = c.eaddr := by unfold Ctx.writeP; split <;> rfl
@[simp] theorem writeP_eseq (c : Ctx) (r : Nat) (x : Dword) : (c.writeP r x).eseq = c.eseq := by unfold Ctx.writeP; split <;> rfl
@[simp] theorem writeP_est (c : Ctx) (r : Nat) (x : Dword) : (c.writeP r x).est = c.est := by unfold Ctx.writeP; split <;> rfl
@[simp] theorem writeP_tfInfo (c : Ctx) (r : Nat) (x : Dword) : (c.writeP r x).tfInfo = c.tfInfo := by unfold Ctx.writeP; split <;> rfl
@[simp] theorem writeP_tfd (c : Ctx) (r : Nat) (x : Dword) : (c.writeP r x).tfd = c.tfd := by unfold Ctx.writeP; split <;> rfl
@[simp] theorem writeP_tarea (c : Ctx) (r : Nat) (x : Dword) : (c.writeP r x).tarea = c.tarea := by unfold Ctx.writeP; split <;> rfl
@[simp] theorem writeP_loopCnt (c : Ctx) (r : Nat) (x : Dword) : (c.writeP r x).loopCnt = c.loopCnt := by unfold Ctx.writeP; split <;> rfl
@[simp] theorem writeP_loopEnd (c : Ctx) (r : Nat) (x : Dword) : (c.writeP r x).loopEnd = c.loopEnd := by unfold Ctx.writeP; split <;> rfl
@[simp] theorem writeP_loopLen (c : Ctx) (r : Nat) (x : Dword) : (c.writeP r x).loopLen = c.loopLen := by unfold Ctx.writeP; split <;> rfl
@[simp] theorem writeP_cspAddr (c : Ctx) (r : Nat) (x : Dword) : (c.writeP r x).cspAddr = c.cspAddr := by unfold Ctx.writeP; split <;> rfl
@[simp] theorem writeP_hoop (c : Ctx) (r : Nat) (x : Dword) : (c.writeP r x).hoop = c.hoop := by unfold Ctx.writeP; split <;> rfl
@[simp] theorem writeP_hint (c : Ctx) (r : Nat) (x : Dword) : (c.writeP r x).hint = c.hint := by unfold Ctx.writeP; split <;> rfl
@[simp] theorem writeP_act (c : Ctx) (r : Nat) (x : Dword) : (c.writeP r x).act = c.act := by unfold Ctx.writeP; split <;> rfl
@[simp] theorem writeP_errs (c : Ctx) (r : Nat) (x : Dword) : (c.writeP r x).errs = c.errs := by unfold Ctx.writeP; split <;> rfl
@[simp] theorem writeP_errTsv1 (c : Ctx) (r : Nat) (x : Dword) : (c.writeP r x).errTsv1 = c.errTsv1 := by unfold Ctx.writeP; split <;> rfl
@[simp] theorem writeP_errTsv2 (c : Ctx) (r : Nat) (x : Dword) : (c.writeP r x).errTsv2 = c.errTsv2 := by unfold Ctx.writeP; split <;> rfl
@[simp] theorem writeP_deferred (c : Ctx) (r : Nat) (x : Dword) : (c.writeP r x).deferred = c.deferred := by unfold Ctx.writeP; split <;> rfl
@[simp] theorem writeP_pending (c : Ctx) (r : Nat) (x : Dword) : (c.writeP r x).pending = c.pending := by unfold Ctx.writeP; split <;> rfl
@[simp] theorem writeP_unacked (c : Ctx) (r : Nat) (x : Dword) : (c.writeP r x).unacked = c.unacked := by unfold Ctx.writeP; split <;> rfl
@[simp] theorem writeP_frames (c : Ctx) (r : Nat) (x : Dword) : (c.writeP r x).frames = c.frames := by unfold Ctx.writeP; split <;> rfl
@[simp] theorem writeP_sel (c : Ctx) (r : Nat) (x : Dword) : (c.writeP r x).sel = c.sel := by unfold Ctx.writeP; split <;> rfl
@[simp] theorem writeP_selected (c : Ctx) (r : Nat) (x : Dword) : (c.writeP r x).selected = c.selected := by unfold Ctx.writeP; split <;> rfl
@[simp] theorem writeP_launch (c : Ctx) (r : Nat) (x : Dword) : (c.writeP r x).launch = c.launch := by unfold Ctx.writeP; split <;> rfl
@[simp] theorem writeP_collect (c : Ctx) (r : Nat) (x : Dword) : (c.writeP r x).collect = c.collect := by unfold Ctx.writeP; split <;> rfl
@[simp] theorem writeP_trail (c : Ctx) (r : Nat) (x : Dword) : (c.writeP r x).trail = c.trail := by unfold Ctx.writeP; split <;> rfl
@[simp] theorem writeP_walked (c : Ctx) (r : Nat) (x : Dword) : (c.writeP r x).walked = c.walked := by unfold Ctx.writeP; split <;> rfl
@[simp] theorem writeP_asks (c : Ctx) (r : Nat) (x : Dword) : (c.writeP r x).asks = c.asks := by unfold Ctx.writeP; split <;> rfl
@[simp] theorem writeP_got (c : Ctx) (r : Nat) (x : Dword) : (c.writeP r x).got = c.got := by unfold Ctx.writeP; split <;> rfl
@[simp] theorem writeP_migrTo (c : Ctx) (r : Nat) (x : Dword) : (c.writeP r x).migrTo = c.migrTo := by unfold Ctx.writeP; split <;> rfl
@[simp] theorem setEmpty_g (c : Ctx) (r : Nat) (b : Bool) : (c.setEmpty r b).g = c.g := by unfold Ctx.setEmpty; split <;> rfl
@[simp] theorem setEmpty_v (c : Ctx) (r : Nat) (b : Bool) : (c.setEmpty r b).v = c.v := by unfold Ctx.setEmpty; split <;> rfl
@[simp] theorem setEmpty_p (c : Ctx) (r : Nat) (b : Bool) : (c.setEmpty r b).p = c.p := by unfold Ctx.setEmpty; split <;> rfl
@[simp] theorem setEmpty_pc (c : Ctx) (r : Nat) (b : Bool) : (c.setEmpty r b).pc = c.pc := by unfold Ctx.setEmpty; split <;> rfl
@[simp] theorem setEmpty_st (c : Ctx) (r : Nat) (b : Bool) : (c.setEmpty r b).st = c.st := by unfold Ctx.setEmpty; split <;> rfl
@[simp] theorem setEmpty_fepol (c : Ctx) (r : Nat) (b : Bool) : (c.setEmpty r b).fepol = c.fepol := by unfold Ctx.setEmpty; split <;> rfl
@[simp] theorem setEmpty_tsv1 (c : Ctx) (r : Nat) (b : Bool) : (c.setEmpty r b).tsv1 = c.tsv1 := by unfold Ctx.setEmpty; split <;> rfl
@[simp] theorem setEmpty_tsv2 (c : Ctx) (r : Nat) (b : Bool) : (c.setEmpty r b).tsv2 = c.tsv2 := by unfold Ctx.setEmpty; split <;> rfl
@[simp] theorem setEmpty_epc (c : Ctx) (r : Nat) (b : Bool) : (c.setEmpty r b).epc = c.epc := by unfold Ctx.setEmpty; split <;> rfl
@[simp] theorem setEmpty_ecause (c : Ctx) (r : Nat) (b : Bool) : (c.setEmpty r b).ecause = c.ecause := by unfold Ctx.setEmpty; split <;> rfl
@[simp] theorem setEmpty_eaddr (c : Ctx) (r : Nat) (b : Bool) : (c.setEmpty r b).eaddr = c.eaddr := by unfold Ctx.setEmpty; split <;> rfl
@[simp] theorem setEmpty_eseq (c : Ctx) (r : Nat) (b : Bool) : (c.setEmpty r b).eseq = c.eseq := by unfold Ctx.setEmpty; split <;> rfl
@[simp] theorem setEmpty_est (c : Ctx) (r : Nat) (b : Bool) : (c.setEmpty r b).est = c.est := by unfold Ctx.setEmpty; split <;> rfl
@[simp] theorem setEmpty_tfInfo (c : Ctx) (r : Nat) (b : Bool) : (c.setEmpty r b).tfInfo = c.tfInfo := by unfold Ctx.setEmpty; split <;> rfl
@[simp] theorem setEmpty_tfd (c : Ctx) (r : Nat) (b : Bool) : (c.setEmpty r b).tfd = c.tfd := by unfold Ctx.setEmpty; split <;> rfl
@[simp] theorem setEmpty_tarea (c : Ctx) (r : Nat) (b : Bool) : (c.setEmpty r b).tarea = c.tarea := by unfold Ctx.setEmpty; split <;> rfl
@[simp] theorem setEmpty_loopCnt (c : Ctx) (r : Nat) (b : Bool) : (c.setEmpty r b).loopCnt = c.loopCnt := by unfold Ctx.setEmpty; split <;> rfl
@[simp] theorem setEmpty_loopEnd (c : Ctx) (r : Nat) (b : Bool) : (c.setEmpty r b).loopEnd = c.loopEnd := by unfold Ctx.setEmpty; split <;> rfl
@[simp] theorem setEmpty_loopLen (c : Ctx) (r : Nat) (b : Bool) : (c.setEmpty r b).loopLen = c.loopLen := by unfold Ctx.setEmpty; split <;> rfl
@[simp] theorem setEmpty_cspAddr (c : Ctx) (r : Nat) (b : Bool) : (c.setEmpty r b).cspAddr = c.cspAddr := by unfold Ctx.setEmpty; split <;> rfl
@[simp] theorem setEmpty_hoop (c : Ctx) (r : Nat) (b : Bool) : (c.setEmpty r b).hoop = c.hoop := by unfold Ctx.setEmpty; split <;> rfl
@[simp] theorem setEmpty_hint (c : Ctx) (r : Nat) (b : Bool) : (c.setEmpty r b).hint = c.hint := by unfold Ctx.setEmpty; split <;> rfl
@[simp] theorem setEmpty_act (c : Ctx) (r : Nat) (b : Bool) : (c.setEmpty r b).act = c.act := by unfold Ctx.setEmpty; split <;> rfl
@[simp] theorem setEmpty_errs (c : Ctx) (r : Nat) (b : Bool) : (c.setEmpty r b).errs = c.errs := by unfold Ctx.setEmpty; split <;> rfl
@[simp] theorem setEmpty_errTsv1 (c : Ctx) (r : Nat) (b : Bool) : (c.setEmpty r b).errTsv1 = c.errTsv1 := by unfold Ctx.setEmpty; split <;> rfl
@[simp] theorem setEmpty_errTsv2 (c : Ctx) (r : Nat) (b : Bool) : (c.setEmpty r b).errTsv2 = c.errTsv2 := by unfold Ctx.setEmpty; split <;> rfl
@[simp] theorem setEmpty_deferred (c : Ctx) (r : Nat) (b : Bool) : (c.setEmpty r b).deferred = c.deferred := by unfold Ctx.setEmpty; split <;> rfl
@[simp] theorem setEmpty_pending (c : Ctx) (r : Nat) (b : Bool) : (c.setEmpty r b).pending = c.pending := by unfold Ctx.setEmpty; split <;> rfl
@[simp] theorem setEmpty_unacked (c : Ctx) (r : Nat) (b : Bool) : (c.setEmpty r b).unacked = c.unacked := by unfold Ctx.setEmpty; split <;> rfl
@[simp] theorem setEmpty_frames (c : Ctx) (r : Nat) (b : Bool) : (c.setEmpty r b).frames = c.frames := by unfold Ctx.setEmpty; split <;> rfl
@[simp] theorem setEmpty_sel (c : Ctx) (r : Nat) (b : Bool) : (c.setEmpty r b).sel = c.sel := by unfold Ctx.setEmpty; split <;> rfl
@[simp] theorem setEmpty_selected (c : Ctx) (r : Nat) (b : Bool) : (c.setEmpty r b).selected = c.selected := by unfold Ctx.setEmpty; split <;> rfl
@[simp] theorem setEmpty_launch (c : Ctx) (r : Nat) (b : Bool) : (c.setEmpty r b).launch = c.launch := by unfold Ctx.setEmpty; split <;> rfl
@[simp] theorem setEmpty_collect (c : Ctx) (r : Nat) (b : Bool) : (c.setEmpty r b).collect = c.collect := by unfold Ctx.setEmpty; split <;> rfl
@[simp] theorem setEmpty_trail (c : Ctx) (r : Nat) (b : Bool) : (c.setEmpty r b).trail = c.trail := by unfold Ctx.setEmpty; split <;> rfl
@[simp] theorem setEmpty_walked (c : Ctx) (r : Nat) (b : Bool) : (c.setEmpty r b).walked = c.walked := by unfold Ctx.setEmpty; split <;> rfl
@[simp] theorem setEmpty_asks (c : Ctx) (r : Nat) (b : Bool) : (c.setEmpty r b).asks = c.asks := by unfold Ctx.setEmpty; split <;> rfl
@[simp] theorem setEmpty_got (c : Ctx) (r : Nat) (b : Bool) : (c.setEmpty r b).got = c.got := by unfold Ctx.setEmpty; split <;> rfl
@[simp] theorem setEmpty_migrTo (c : Ctx) (r : Nat) (b : Bool) : (c.setEmpty r b).migrTo = c.migrTo := by unfold Ctx.setEmpty; split <;> rfl
@[simp] theorem readV_writeG (c : Ctx) (r : Nat) (x : Dword) (j : Nat) : (c.writeG r x).readV j = c.readV j := by simp [Ctx.readV]
@[simp] theorem readP_writeG (c : Ctx) (r : Nat) (x : Dword) (j : Nat) : (c.writeG r x).readP j = c.readP j := by simp [Ctx.readP]
@[simp] theorem isEmpty_writeG (c : Ctx) (r : Nat) (x : Dword) (j : Nat) : (c.writeG r x).isEmpty j = c.isEmpty j := by simp [Ctx.isEmpty]
@[simp] theorem readG_writeV (c : Ctx) (r : Nat) (x : Vec) (j : Nat) : (c.writeV r x).readG j = c.readG j := by simp [Ctx.readG]
@[simp] theorem readP_writeV (c : Ctx) (r : Nat) (x : Vec) (j : Nat) : (c.writeV r x).readP j = c.readP j := by simp [Ctx.readP]
@[simp] theorem isEmpty_writeV (c : Ctx) (r : Nat) (x : Vec) (j : Nat) : (c.writeV r x).isEmpty j = c.isEmpty j := by simp [Ctx.isEmpty]
@[simp] theorem readG_writeP (c : Ctx) (r : Nat) (x : Dword) (j : Nat) : (c.writeP r x).readG j = c.readG j := by simp [Ctx.readG]
@[simp] theorem readV_writeP (c : Ctx) (r : Nat) (x : Dword) (j : Nat) : (c.writeP r x).readV j = c.readV j := by simp [Ctx.readV]
@[simp] theorem isEmpty_writeP (c : Ctx) (r : Nat) (x : Dword) (j : Nat) : (c.writeP r x).isEmpty j = c.isEmpty j := by simp [Ctx.isEmpty]
@[simp] theorem readG_setEmpty (c : Ctx) (r : Nat) (b : Bool) (j : Nat) : (c.setEmpty r b).readG j = c.readG j := by simp [Ctx.readG]
@[simp] theorem readV_setEmpty (c : Ctx) (r : Nat) (b : Bool) (j : Nat) : (c.setEmpty r b).readV j = c.readV j := by simp [Ctx.readV]
@[simp] theorem readP_setEmpty (c : Ctx) (r : Nat) (b : Bool) (j : Nat) : (c.setEmpty r b).readP j = c.readP j := by simp [Ctx.readP]

/-! ### The program counter (R247) -/

@[simp] theorem nextPc_g (c : Ctx) (w : Dword) : (nextPc c w).g = c.g := by unfold nextPc; (repeat' split) <;> rfl
@[simp] theorem nextPc_v (c : Ctx) (w : Dword) : (nextPc c w).v = c.v := by unfold nextPc; (repeat' split) <;> rfl
@[simp] theorem nextPc_p (c : Ctx) (w : Dword) : (nextPc c w).p = c.p := by unfold nextPc; (repeat' split) <;> rfl
@[simp] theorem nextPc_empty (c : Ctx) (w : Dword) : (nextPc c w).empty = c.empty := by unfold nextPc; (repeat' split) <;> rfl
@[simp] theorem nextPc_st (c : Ctx) (w : Dword) : (nextPc c w).st = c.st := by unfold nextPc; (repeat' split) <;> rfl
@[simp] theorem nextPc_fepol (c : Ctx) (w : Dword) : (nextPc c w).fepol = c.fepol := by unfold nextPc; (repeat' split) <;> rfl
@[simp] theorem nextPc_tsv1 (c : Ctx) (w : Dword) : (nextPc c w).tsv1 = c.tsv1 := by unfold nextPc; (repeat' split) <;> rfl
@[simp] theorem nextPc_tsv2 (c : Ctx) (w : Dword) : (nextPc c w).tsv2 = c.tsv2 := by unfold nextPc; (repeat' split) <;> rfl
@[simp] theorem nextPc_epc (c : Ctx) (w : Dword) : (nextPc c w).epc = c.epc := by unfold nextPc; (repeat' split) <;> rfl
@[simp] theorem nextPc_ecause (c : Ctx) (w : Dword) : (nextPc c w).ecause = c.ecause := by unfold nextPc; (repeat' split) <;> rfl
@[simp] theorem nextPc_eaddr (c : Ctx) (w : Dword) : (nextPc c w).eaddr = c.eaddr := by unfold nextPc; (repeat' split) <;> rfl
@[simp] theorem nextPc_eseq (c : Ctx) (w : Dword) : (nextPc c w).eseq = c.eseq := by unfold nextPc; (repeat' split) <;> rfl
@[simp] theorem nextPc_est (c : Ctx) (w : Dword) : (nextPc c w).est = c.est := by unfold nextPc; (repeat' split) <;> rfl
@[simp] theorem nextPc_tfInfo (c : Ctx) (w : Dword) : (nextPc c w).tfInfo = c.tfInfo := by unfold nextPc; (repeat' split) <;> rfl
@[simp] theorem nextPc_tfd (c : Ctx) (w : Dword) : (nextPc c w).tfd = c.tfd := by unfold nextPc; (repeat' split) <;> rfl
@[simp] theorem nextPc_tarea (c : Ctx) (w : Dword) : (nextPc c w).tarea = c.tarea := by unfold nextPc; (repeat' split) <;> rfl
@[simp] theorem nextPc_loopEnd (c : Ctx) (w : Dword) : (nextPc c w).loopEnd = c.loopEnd := by unfold nextPc; (repeat' split) <;> rfl
@[simp] theorem nextPc_loopLen (c : Ctx) (w : Dword) : (nextPc c w).loopLen = c.loopLen := by unfold nextPc; (repeat' split) <;> rfl
@[simp] theorem nextPc_cspAddr (c : Ctx) (w : Dword) : (nextPc c w).cspAddr = c.cspAddr := by unfold nextPc; (repeat' split) <;> rfl
@[simp] theorem nextPc_hoop (c : Ctx) (w : Dword) : (nextPc c w).hoop = c.hoop := by unfold nextPc; (repeat' split) <;> rfl
@[simp] theorem nextPc_hint (c : Ctx) (w : Dword) : (nextPc c w).hint = c.hint := by unfold nextPc; (repeat' split) <;> rfl
@[simp] theorem nextPc_act (c : Ctx) (w : Dword) : (nextPc c w).act = c.act := by unfold nextPc; (repeat' split) <;> rfl
@[simp] theorem nextPc_errs (c : Ctx) (w : Dword) : (nextPc c w).errs = c.errs := by unfold nextPc; (repeat' split) <;> rfl
@[simp] theorem nextPc_errTsv1 (c : Ctx) (w : Dword) : (nextPc c w).errTsv1 = c.errTsv1 := by unfold nextPc; (repeat' split) <;> rfl
@[simp] theorem nextPc_errTsv2 (c : Ctx) (w : Dword) : (nextPc c w).errTsv2 = c.errTsv2 := by unfold nextPc; (repeat' split) <;> rfl
@[simp] theorem nextPc_deferred (c : Ctx) (w : Dword) : (nextPc c w).deferred = c.deferred := by unfold nextPc; (repeat' split) <;> rfl
@[simp] theorem nextPc_pending (c : Ctx) (w : Dword) : (nextPc c w).pending = c.pending := by unfold nextPc; (repeat' split) <;> rfl
@[simp] theorem nextPc_unacked (c : Ctx) (w : Dword) : (nextPc c w).unacked = c.unacked := by unfold nextPc; (repeat' split) <;> rfl
@[simp] theorem nextPc_frames (c : Ctx) (w : Dword) : (nextPc c w).frames = c.frames := by unfold nextPc; (repeat' split) <;> rfl
@[simp] theorem nextPc_sel (c : Ctx) (w : Dword) : (nextPc c w).sel = c.sel := by unfold nextPc; (repeat' split) <;> rfl
@[simp] theorem nextPc_selected (c : Ctx) (w : Dword) : (nextPc c w).selected = c.selected := by unfold nextPc; (repeat' split) <;> rfl
@[simp] theorem nextPc_launch (c : Ctx) (w : Dword) : (nextPc c w).launch = c.launch := by unfold nextPc; (repeat' split) <;> rfl
@[simp] theorem nextPc_collect (c : Ctx) (w : Dword) : (nextPc c w).collect = c.collect := by unfold nextPc; (repeat' split) <;> rfl
@[simp] theorem nextPc_trail (c : Ctx) (w : Dword) : (nextPc c w).trail = c.trail := by unfold nextPc; (repeat' split) <;> rfl
@[simp] theorem nextPc_walked (c : Ctx) (w : Dword) : (nextPc c w).walked = c.walked := by unfold nextPc; (repeat' split) <;> rfl
@[simp] theorem nextPc_asks (c : Ctx) (w : Dword) : (nextPc c w).asks = c.asks := by unfold nextPc; (repeat' split) <;> rfl
@[simp] theorem nextPc_got (c : Ctx) (w : Dword) : (nextPc c w).got = c.got := by unfold nextPc; (repeat' split) <;> rfl
@[simp] theorem nextPc_migrTo (c : Ctx) (w : Dword) : (nextPc c w).migrTo = c.migrTo := by unfold nextPc; (repeat' split) <;> rfl
@[simp] theorem readG_nextPc (c : Ctx) (w : Dword) (j : Nat) : (nextPc c w).readG j = c.readG j := by simp [Ctx.readG]
@[simp] theorem readV_nextPc (c : Ctx) (w : Dword) (j : Nat) : (nextPc c w).readV j = c.readV j := by simp [Ctx.readV]
@[simp] theorem readP_nextPc (c : Ctx) (w : Dword) (j : Nat) : (nextPc c w).readP j = c.readP j := by simp [Ctx.readP]
@[simp] theorem isEmpty_nextPc (c : Ctx) (w : Dword) (j : Nat) : (nextPc c w).isEmpty j = c.isEmpty j := by simp [Ctx.isEmpty]
@[simp] theorem jumpPc_g (c : Ctx) (w t : Dword) : (jumpPc c w t).g = c.g := by unfold jumpPc; dsimp only; split <;> rfl
@[simp] theorem jumpPc_v (c : Ctx) (w t : Dword) : (jumpPc c w t).v = c.v := by unfold jumpPc; dsimp only; split <;> rfl
@[simp] theorem jumpPc_p (c : Ctx) (w t : Dword) : (jumpPc c w t).p = c.p := by unfold jumpPc; dsimp only; split <;> rfl
@[simp] theorem jumpPc_empty (c : Ctx) (w t : Dword) : (jumpPc c w t).empty = c.empty := by unfold jumpPc; dsimp only; split <;> rfl
@[simp] theorem jumpPc_st (c : Ctx) (w t : Dword) : (jumpPc c w t).st = c.st := by unfold jumpPc; dsimp only; split <;> rfl
@[simp] theorem jumpPc_fepol (c : Ctx) (w t : Dword) : (jumpPc c w t).fepol = c.fepol := by unfold jumpPc; dsimp only; split <;> rfl
@[simp] theorem jumpPc_tsv1 (c : Ctx) (w t : Dword) : (jumpPc c w t).tsv1 = c.tsv1 := by unfold jumpPc; dsimp only; split <;> rfl
@[simp] theorem jumpPc_tsv2 (c : Ctx) (w t : Dword) : (jumpPc c w t).tsv2 = c.tsv2 := by unfold jumpPc; dsimp only; split <;> rfl
@[simp] theorem jumpPc_epc (c : Ctx) (w t : Dword) : (jumpPc c w t).epc = c.epc := by unfold jumpPc; dsimp only; split <;> rfl
@[simp] theorem jumpPc_ecause (c : Ctx) (w t : Dword) : (jumpPc c w t).ecause = c.ecause := by unfold jumpPc; dsimp only; split <;> rfl
@[simp] theorem jumpPc_eaddr (c : Ctx) (w t : Dword) : (jumpPc c w t).eaddr = c.eaddr := by unfold jumpPc; dsimp only; split <;> rfl
@[simp] theorem jumpPc_eseq (c : Ctx) (w t : Dword) : (jumpPc c w t).eseq = c.eseq := by unfold jumpPc; dsimp only; split <;> rfl
@[simp] theorem jumpPc_est (c : Ctx) (w t : Dword) : (jumpPc c w t).est = c.est := by unfold jumpPc; dsimp only; split <;> rfl
@[simp] theorem jumpPc_tfInfo (c : Ctx) (w t : Dword) : (jumpPc c w t).tfInfo = c.tfInfo := by unfold jumpPc; dsimp only; split <;> rfl
@[simp] theorem jumpPc_tfd (c : Ctx) (w t : Dword) : (jumpPc c w t).tfd = c.tfd := by unfold jumpPc; dsimp only; split <;> rfl
@[simp] theorem jumpPc_tarea (c : Ctx) (w t : Dword) : (jumpPc c w t).tarea = c.tarea := by unfold jumpPc; dsimp only; split <;> rfl
@[simp] theorem jumpPc_loopEnd (c : Ctx) (w t : Dword) : (jumpPc c w t).loopEnd = c.loopEnd := by unfold jumpPc; dsimp only; split <;> rfl
@[simp] theorem jumpPc_loopLen (c : Ctx) (w t : Dword) : (jumpPc c w t).loopLen = c.loopLen := by unfold jumpPc; dsimp only; split <;> rfl
@[simp] theorem jumpPc_cspAddr (c : Ctx) (w t : Dword) : (jumpPc c w t).cspAddr = c.cspAddr := by unfold jumpPc; dsimp only; split <;> rfl
@[simp] theorem jumpPc_hoop (c : Ctx) (w t : Dword) : (jumpPc c w t).hoop = c.hoop := by unfold jumpPc; dsimp only; split <;> rfl
@[simp] theorem jumpPc_hint (c : Ctx) (w t : Dword) : (jumpPc c w t).hint = c.hint := by unfold jumpPc; dsimp only; split <;> rfl
@[simp] theorem jumpPc_act (c : Ctx) (w t : Dword) : (jumpPc c w t).act = c.act := by unfold jumpPc; dsimp only; split <;> rfl
@[simp] theorem jumpPc_errs (c : Ctx) (w t : Dword) : (jumpPc c w t).errs = c.errs := by unfold jumpPc; dsimp only; split <;> rfl
@[simp] theorem jumpPc_errTsv1 (c : Ctx) (w t : Dword) : (jumpPc c w t).errTsv1 = c.errTsv1 := by unfold jumpPc; dsimp only; split <;> rfl
@[simp] theorem jumpPc_errTsv2 (c : Ctx) (w t : Dword) : (jumpPc c w t).errTsv2 = c.errTsv2 := by unfold jumpPc; dsimp only; split <;> rfl
@[simp] theorem jumpPc_deferred (c : Ctx) (w t : Dword) : (jumpPc c w t).deferred = c.deferred := by unfold jumpPc; dsimp only; split <;> rfl
@[simp] theorem jumpPc_pending (c : Ctx) (w t : Dword) : (jumpPc c w t).pending = c.pending := by unfold jumpPc; dsimp only; split <;> rfl
@[simp] theorem jumpPc_unacked (c : Ctx) (w t : Dword) : (jumpPc c w t).unacked = c.unacked := by unfold jumpPc; dsimp only; split <;> rfl
@[simp] theorem jumpPc_frames (c : Ctx) (w t : Dword) : (jumpPc c w t).frames = c.frames := by unfold jumpPc; dsimp only; split <;> rfl
@[simp] theorem jumpPc_sel (c : Ctx) (w t : Dword) : (jumpPc c w t).sel = c.sel := by unfold jumpPc; dsimp only; split <;> rfl
@[simp] theorem jumpPc_selected (c : Ctx) (w t : Dword) : (jumpPc c w t).selected = c.selected := by unfold jumpPc; dsimp only; split <;> rfl
@[simp] theorem jumpPc_launch (c : Ctx) (w t : Dword) : (jumpPc c w t).launch = c.launch := by unfold jumpPc; dsimp only; split <;> rfl
@[simp] theorem jumpPc_collect (c : Ctx) (w t : Dword) : (jumpPc c w t).collect = c.collect := by unfold jumpPc; dsimp only; split <;> rfl
@[simp] theorem jumpPc_trail (c : Ctx) (w t : Dword) : (jumpPc c w t).trail = c.trail := by unfold jumpPc; dsimp only; split <;> rfl
@[simp] theorem jumpPc_walked (c : Ctx) (w t : Dword) : (jumpPc c w t).walked = c.walked := by unfold jumpPc; dsimp only; split <;> rfl
@[simp] theorem jumpPc_asks (c : Ctx) (w t : Dword) : (jumpPc c w t).asks = c.asks := by unfold jumpPc; dsimp only; split <;> rfl
@[simp] theorem jumpPc_got (c : Ctx) (w t : Dword) : (jumpPc c w t).got = c.got := by unfold jumpPc; dsimp only; split <;> rfl
@[simp] theorem jumpPc_migrTo (c : Ctx) (w t : Dword) : (jumpPc c w t).migrTo = c.migrTo := by unfold jumpPc; dsimp only; split <;> rfl
@[simp] theorem readG_jumpPc (c : Ctx) (w t : Dword) (j : Nat) : (jumpPc c w t).readG j = c.readG j := by simp [Ctx.readG]
@[simp] theorem readV_jumpPc (c : Ctx) (w t : Dword) (j : Nat) : (jumpPc c w t).readV j = c.readV j := by simp [Ctx.readV]
@[simp] theorem readP_jumpPc (c : Ctx) (w t : Dword) (j : Nat) : (jumpPc c w t).readP j = c.readP j := by simp [Ctx.readP]
@[simp] theorem isEmpty_jumpPc (c : Ctx) (w t : Dword) (j : Nat) : (jumpPc c w t).isEmpty j = c.isEmpty j := by simp [Ctx.isEmpty]

/-- A word that does not end the active loop is followed by the next one (R247). -/
theorem nextPc_pc (c : Ctx) (w : Dword) (h : w ≠ c.loopEnd ∨ c.loopCnt = 0) : (nextPc c w).pc = w + 4 := by
  unfold nextPc
  rw [if_neg]
  rintro ⟨h1, h2, _⟩
  exact h.elim (fun g => g h1) (fun g => h2 g)

/-- The target of a taken transfer (R244). -/
@[simp] theorem jumpPc_pc (c : Ctx) (w t : Dword) : (jumpPc c w t).pc = t := by unfold jumpPc; dsimp only; split <;> rfl

end Sys2Proof.Machine
end

