-- ==== Sys2Proof/Laws/Issue.lean ====
section
/-!
SUPPORT. What the issue of an instruction does, said once: when nothing stops it, its effect runs and its end is
applied; and what the end of an instruction that only computes on its context leaves.
-/

namespace Sys2Proof.Machine

/-! ### The tests, when nothing stops the instruction -/

theorem Ready.mono {s : State} {rs ws : List Nat} (h : Ready s rs) (hw : ∀ r ∈ ws, r ∈ rs) : Ready s ws :=
  ⟨fun hr r m => h.roams hr r (hw r m), fun r m => h.full r (hw r m), fun r m => h.plain r (hw r m),
   fun r m => h.sound r (hw r m), h.loops⟩

theorem lowest_none {l : List Nat} {f : Nat → Bool} (h : ∀ r ∈ l, f r = false) : lowest l f = none := by
  unfold lowest
  have : l.filter f = [] := by
    rw [List.filter_eq_nil_iff]
    intro r hr
    simp [h r hr]
  rw [this]; rfl

theorem find?_none_of {α : Type} {l : List α} {f : α → Bool} (h : ∀ r ∈ l, f r = false) : l.find? f = none := by
  rw [List.find?_eq_none]
  intro r hr
  simp [h r hr]

theorem classBad_ready {s : State} {u : Named} {rs : List Nat} (h : Ready s rs) (hc : u.ctl = none)
    (hm : ∀ r ∈ u.reads ++ u.writes ++ u.tests ++ u.merges ++ u.names, r ∈ rs) : classBad (actor s) u = none := by
  unfold classBad
  split
  · rfl
  · rename_i hr
    rw [hc]
    refine find?_none_of fun r m => ?_
    have := h.roams (by simpa using hr) r (hm r (by simp at m ⊢; tauto))
    simp; omega

theorem issueTest_ready {s : State} {rs ws : List Nat} (h : Ready s rs) (hm : ∀ r ∈ ws, r ∈ rs) :
    issueTest (actor s) ws = .pass := by
  unfold issueTest
  have : lowest (ws.filter (fun r => decide (r < 64))) (fun r => (actor s).isEmpty r) = none := by
    refine lowest_none fun r m => ?_
    rw [List.mem_filter] at m
    exact h.full r (hm r m.1) (by simpa using m.2)
  simp only [this]

theorem streamConflict_ready {s : State} {u : Named} {rs : List Nat} (h : Ready s rs)
    (hm : ∀ r ∈ u.reads ++ u.writes, r ∈ rs) (hn : ∀ r, u.noStream = some r → r ∈ rs ∧ r < 64) :
    streamConflict s s.me u = none := by
  have k0 : u.noStream.filter (fun r => decide (32 ≤ r) && (streamSlot s s.me (r - 32)).isSome) = none := by
    cases hns : u.noStream with
    | none => rfl
    | some r =>
      obtain ⟨h1, h2⟩ := hn r hns
      by_cases h3 : 32 ≤ r
      · simp [Option.filter, h.plain r h1 h3 h2]
      · simp [Option.filter, h3]
  unfold streamConflict
  dsimp only
  rw [k0, lowest_none (l := u.reads), lowest_none (l := u.writes)]
  · rfl
  all_goals
    intro r m
    by_cases h1 : 32 ≤ r
    · by_cases h2 : r < 64
      · simp [h.plain r (hm r (by simp [m])) h1 h2]
      · simp [h2]
    · simp [h1]

theorem badRegister_ready {s : State} {rs ws : List Nat} (h : Ready s rs) (hm : ∀ r ∈ ws, r ∈ rs) :
    badRegister s s.me ws = none := lowest_none fun r m => h.sound r (hm r m)

theorem loopBad_ready {s : State} {rs : List Nat} (h : Ready s rs) (c : Ctx) (u : Named) :
    loopBad s s.me c u = false := by
  unfold loopBad
  rw [List.any_eq_false]
  intro e he
  by_cases hk : e.1 = s.me
  · by_cases hl : loopReg e.2 = true
    · have hb := h.loops e.2 hl
      have he' : s.badReg.contains (s.me, e.2) = true := List.contains_iff_mem.mpr (by rw [← hk]; exact he)
      rw [hb] at he'
      exact absurd he' Bool.false_ne_true
    · simp_all
  · simp [hk]

theorem streamFault_ready {s : State} {u : Named} {rs : List Nat} (h : Ready s rs)
    (hm : ∀ r ∈ u.reads ++ u.writes, r ∈ rs) : streamFault s s.me u = none := by
  unfold streamFault
  rw [List.findSome?_eq_none_iff]
  intro r m
  split
  · rfl
  · rename_i hr
    have h1 : 32 ≤ r := by omega
    have h2 : r < 64 := by omega
    simp [h.plain r (hm r m) h1 h2]

theorem ringBad_ready {s : State} {rs ws : List Nat} (h : Ready s rs) (hm : ∀ r ∈ ws, r ∈ rs) : ringBad s s.me ws = none := by
  unfold ringBad
  rw [List.find?_eq_none]
  intro r m
  by_cases h1 : 32 ≤ r
  · by_cases h2 : r < 64
    · simp [h.plain r (hm r m) h1 h2]
    · simp [h2]
  · simp [h1]

theorem loadHeads_ready {s : State} {rs ws : List Nat} (h : Ready s rs) (hm : ∀ r ∈ ws, r ∈ rs) :
    loadHeads s s.me ws = s := by
  unfold loadHeads
  induction ws with
  | nil => rfl
  | cons r l ih =>
    rw [List.foldl_cons]
    have : (if r < 32 ∨ 64 ≤ r then s
        else match (streamSlot s s.me (r - 32)).bind (tfind s.streams) with
          | none => s
          | some t => if streamWrite t.desc then s
            else modCtx s s.me (fun c => c.writeV (r - 32) (readVec s (ringAddr (ctxCore s.me) t.desc t.pos) 64))) = s := by
      split
      · rfl
      · rename_i hr
        have h1 : 32 ≤ r := by omega
        have h2 : r < 64 := by omega
        simp [h.plain r (hm r (by simp)) h1 h2]
    exact (congrArg (fun x => List.foldl _ x l) this).trans (ih fun r m => hm r (by simp [m]))

/-- The end of an effect, applied. -/
def finish (s : State) (u : Named) (x : State × Done) : State :=
  let c := actor s
  match x with
  | (s', .next) => retire s' s.me u c (fun y => nextPc y c.pc)
  | (s', .jump t) => retire s' s.me u c (fun y => jumpPc y c.pc t)
  | (s', .trap t) => takeTrap s' s.me t (resumeAddr c)
  | (s', .hold) => yieldSlot s' s.me
  | (s', .moved) => s'

/-- An instruction that nothing stops runs its effect, and its end is applied. -/
theorem issue_class {s : State} {u : Named} {rs : List Nat} (body : State → Ctx → State × Done) (h : Ready s rs)
    (hm : ∀ r ∈ u.reads ++ u.writes ++ u.tests ++ u.merges, r ∈ rs) (hc : classBad (actor s) u = none)
    (hn : ∀ r, u.noStream = some r → r ∈ rs ∧ r < 64) :
    issue s u body = .next (finish s u (body s (actor s))) := by
  have m2 : ∀ r ∈ u.reads ++ u.writes, r ∈ rs := fun r m => hm r (by simp at m ⊢; tauto)
  have m1 : ∀ r ∈ u.reads ++ u.writes ++ u.tests, r ∈ rs := fun r m => hm r (by simp at m ⊢; tauto)
  have m3 : ∀ r ∈ u.reads, r ∈ rs := fun r m => hm r (by simp [m])
  have m4 : ∀ r ∈ u.reads ++ u.merges, r ∈ rs := fun r m => hm r (by simp at m ⊢; tauto)
  unfold issue
  simp only [hc, streamConflict_ready h m2 hn, issueTest_ready h m1, badRegister_ready h m4,
    loopBad_ready h, streamFault_ready h m2, ringBad_ready h m3, loadHeads_ready h m3]
  unfold finish
  simp only [Bool.false_eq_true, if_false]
  split <;> rename_i he <;> simp [he]

theorem issue_ready {s : State} {u : Named} {rs : List Nat} (body : State → Ctx → State × Done) (h : Ready s rs)
    (hm : ∀ r ∈ u.reads ++ u.writes ++ u.tests ++ u.merges ++ u.names, r ∈ rs) (hc : u.ctl = none)
    (hn : ∀ r, u.noStream = some r → r ∈ rs ∧ r < 64) :
    issue s u body = .next (finish s u (body s (actor s))) :=
  issue_class body h (fun r m => hm r (by simp at m ⊢; tauto)) (classBad_ready h hc hm) hn

theorem classBad_seated {c : Ctx} (u : Named) (h : stRoam c.st = false) : classBad c u = none := by
  unfold classBad
  rw [h]
  rfl

/-- The same for a seated context, which may name every register (R35). -/
theorem issue_seated {s : State} {u : Named} {rs : List Nat} (body : State → Ctx → State × Done) (h : Ready s rs)
    (hr : stRoam (actor s).st = false) (hm : ∀ r ∈ u.reads ++ u.writes ++ u.tests ++ u.merges, r ∈ rs)
    (hn : ∀ r, u.noStream = some r → r ∈ rs ∧ r < 64) :
    issue s u body = .next (finish s u (body s (actor s))) := issue_class body h hm (classBad_seated u hr) hn

/-! ### The end of an instruction that only computes on its context -/

theorem moveStreams_none {s : State} {k : Nat} {u : Named}
    (h : ∀ r ∈ u.reads ++ u.writes, 32 ≤ r → r < 64 → streamSlot s k (r - 32) = none) : moveStreams s k u = s := by
  have fold : ∀ (F : State → Nat → State) (l : List Nat), (∀ r ∈ l, F s r = s) → l.foldl F s = s := by
    intro F l
    induction l with
    | nil => intro _; rfl
    | cons r l ih => intro hl; rw [List.foldl_cons, hl r (by simp), ih fun q m => hl q (by simp [m])]
  have one : ∀ r ∈ u.reads ++ u.writes, ¬ (r < 32 ∨ 64 ≤ r) → streamSlot s k (r - 32) = none :=
    fun r m hr => h r m (by omega) (by omega)
  unfold moveStreams
  dsimp only
  rw [fold _ u.reads.eraseDups, fold _ u.writes.eraseDups]
  · intro r m
    have m' : r ∈ u.reads ++ u.writes := by simp [List.mem_eraseDups.1 m]
    by_cases hr : r < 32 ∨ 64 ≤ r
    · simp [hr]
    · simp [hr, one r m' hr]
  · intro r m
    have m' : r ∈ u.reads ++ u.writes := by simp [List.mem_eraseDups.1 m]
    by_cases hr : r < 32 ∨ 64 ≤ r
    · simp [hr]
    · simp [hr, one r m' hr]

/-- Stream slots are found in the table of streams alone. -/
theorem streamSlot_congr {s t : State} (h : t.streams = s.streams) (k v : Nat) : streamSlot t k v = streamSlot s k v := by
  simp [streamSlot, h]

theorem getCtx_congr {s t : State} (h : t.ctxs = s.ctxs) (k : Nat) : getCtx t k = getCtx s k := by simp [getCtx, h]

@[simp] theorem freshRegs_ctxs (s : State) (k : Nat) (f : Nat → Bool) : (freshRegs s k f).ctxs = s.ctxs := rfl
@[simp] theorem getCtx_freshRegs (s : State) (k j : Nat) (f : Nat → Bool) : getCtx (freshRegs s k f) j = getCtx s j := rfl

/-- Counting energy touches the counts of one Rind and one launch only (R374). -/
theorem countEnergy_world (s : State) (u e n r : Nat) (l : Option Nat) :
    { countEnergy s u e n r l with rinds := s.rinds, launches := s.launches } = s := by
  unfold countEnergy
  cases l with
  | none => rfl
  | some l => unfold modLaunch; dsimp only; split <;> rfl

theorem countEnergy_ctxs (s : State) (u e n r : Nat) (l : Option Nat) : (countEnergy s u e n r l).ctxs = s.ctxs :=
  (congrArg State.ctxs (countEnergy_world s u e n r l) :)

theorem countEnergy_rind (s : State) (u e n r : Nat) (l : Option Nat) (j : Nat) :
    { getRind (countEnergy s u e n r l) j with energy := (getRind s j).energy } = getRind s j := by
  unfold countEnergy
  cases l with
  | none =>
    simp only [getRind_modRind]
    split <;> rename_i h
    · subst h; rfl
    · rfl
  | some l =>
    simp only [getRind_modLaunch, getRind_modRind]
    split <;> rename_i h
    · subst h; rfl
    · rfl

theorem countEnergy_launch (s : State) (u e n r : Nat) (l : Option Nat) (j : Nat) :
    (getLaunch (countEnergy s u e n r l) j).map (fun x => { x with energy := 0 })
      = (getLaunch s j).map (fun x => { x with energy := 0 }) := by
  unfold countEnergy
  cases l with
  | none => rfl
  | some l =>
    simp only [getLaunch_modLaunch, getLaunch_modRind]
    split <;> rename_i h
    · subst h
      cases getLaunch s j <;> rfl
    · rfl

/-- A byte reads the same in two states that agree in what R65 to R82 lay under it. -/
theorem readByte_congr {s t : State} (h1 : t.mem = s.mem) (h2 : t.cav = s.cav) (h3 : t.top = s.top)
    (h4 : t.rmap = s.rmap) (h5 : t.ctls = s.ctls) (h6 : t.cavHeld = s.cavHeld) (h7 : t.topHeld = s.topHeld) :
    SameBytes s t := by
  intro a
  have hp : memAt t = memAt s := by unfold memAt place rmapOf getStack; rw [h1, h4, h5]
  have hs : storedNat t = storedNat s := by unfold storedNat; rw [hp]
  have hb : aliasBlock t = aliasBlock s := by unfold aliasBlock rmapOf; rw [h4]
  simp only [readByte, caveByte, storedByte, aliasImage, hs, hb, hp, h2, h3, h6, h7]

/-- s' is s but for its acting context, which is c'. -/
structure OnlyCtx (s s' : State) (c' : Ctx) : Prop where
  own : getCtx s' s.me = c'
  others : ∀ k, k ≠ s.me → getCtx s' k = getCtx s k
  world : { s' with ctxs := s.ctxs } = s

theorem onlyCtx_self (s : State) : OnlyCtx s s (actor s) := ⟨rfl, fun _ _ => rfl, rfl⟩
theorem onlyCtx_set (s : State) (c' : Ctx) : OnlyCtx s (setCtx s s.me c') c' :=
  ⟨by simp, fun k hk => by rw [getCtx_setCtx, if_neg hk], rfl⟩

/-- What the end of an effect leaves, when it changed nothing but the acting context and no named register is in
stream mode. -/
theorem retire_spec {s s' : State} {u : Named} {c' : Ctx} (pcOf : Ctx → Ctx) (hs : OnlyCtx s s' c')
    (h : ∀ r ∈ u.reads ++ u.writes, 32 ≤ r → r < 64 → streamSlot s s.me (r - 32) = none) :
    (retire s' s.me u (actor s) pcOf).me = s.me
      ∧ actor (retire s' s.me u (actor s) pcOf) = ended (pcOf c')
      ∧ OnlyActor s (retire s' s.me u (actor s) pcOf) u.writes := by
  have hst : s'.streams = s.streams := (congrArg State.streams hs.world :)
  have hm : moveStreams s' s.me u = s' :=
    moveStreams_none fun r m h1 h2 => by rw [streamSlot_congr hst]; exact h r m h1 h2
  unfold retire
  rw [hm]
  dsimp only
  generalize hx : (if u.vec then countEnergy (freshRegs s' s.me u.writes.contains)
    (unitKey 0 (ctxCore s.me)) 2 1 (stRind (actor s).st) (actor s).launch
    else freshRegs s' s.me u.writes.contains) = x
  have hw1 : { x with rinds := s'.rinds, launches := s'.launches } = freshRegs s' s.me u.writes.contains := by
    subst hx
    split
    · exact countEnergy_world ..
    · rfl
  have hr' : s'.rinds = s.rinds := (congrArg State.rinds hs.world :)
  have hl' : s'.launches = s.launches := (congrArg State.launches hs.world :)
  have hw : { x with rinds := s.rinds, launches := s.launches, ctxs := s.ctxs } = freshRegs s s.me u.writes.contains :=
    (by rw [hr', hl'] at hw1
        exact (congrArg (fun z : State => { z with ctxs := s.ctxs }) hw1).trans
          (congrArg (fun z => freshRegs z s.me u.writes.contains) hs.world))
  have hme : x.me = s.me := (congrArg State.me hw :)
  have hctx : x.ctxs = s'.ctxs := (congrArg State.ctxs hw1 :)
  have hget : ∀ j, getCtx x j = getCtx s' j := getCtx_congr hctx
  have hact : getCtx x s.me = c' := by rw [hget]; exact hs.own
  refine ⟨hme, ?_, ?_⟩
  · show getCtx _ (modCtx x s.me _).me = _
    rw [modCtx_me, hme, getCtx_modCtx_self, hact]
  · constructor
    · intro k hk
      rw [getCtx_modCtx, if_neg hk, hget]
      exact hs.others k hk
    · intro e
      have hb : (modCtx x s.me (fun c => ended (pcOf c))).badReg
          = s.badReg.filter (fun e => !(e.1 == s.me && u.writes.contains e.2)) := (congrArg State.badReg hw :)
      rw [hb, List.mem_filter]
      simp
      tauto
    · intro r
      rw [getRind_modCtx]
      have e : getRind s' = getRind s := by unfold getRind; rw [hr']
      subst hx
      split
      · have := countEnergy_rind (freshRegs s' s.me u.writes.contains) (unitKey 0 (ctxCore s.me)) 2 1 (stRind (actor s).st)
          (actor s).launch r
        rw [show getRind (freshRegs s' s.me u.writes.contains) = getRind s' from rfl, e] at this
        exact this
      · rw [show getRind (freshRegs s' s.me u.writes.contains) = getRind s' from rfl, e]
    · intro l
      rw [getLaunch_modCtx]
      have e : getLaunch s' = getLaunch s := by unfold getLaunch; rw [hl']
      subst hx
      split
      · have := countEnergy_launch (freshRegs s' s.me u.writes.contains) (unitKey 0 (ctxCore s.me)) 2 1 (stRind (actor s).st)
          (actor s).launch l
        rw [show getLaunch (freshRegs s' s.me u.writes.contains) = getLaunch s' from rfl, e] at this
        exact this
      · rw [show getLaunch (freshRegs s' s.me u.writes.contains) = getLaunch s' from rfl, e]
    · exact readByte_congr (congrArg State.mem hw :) (congrArg State.cav hw :) (congrArg State.top hw :) (congrArg State.rmap hw :)
        (congrArg State.ctls hw :)
        (congrArg State.cavHeld hw :) (congrArg State.topHeld hw :)
    · exact congrArg (fun z : State => { z with ctxs := s.ctxs, badReg := s.badReg }) hw

/-- An instruction that only computes on its context, when nothing stops it. -/
theorem issue_pure {s : State} {u : Named} {rs : List Nat} (f : Ctx → Ctx) (h : Ready s rs)
    (hm : ∀ r ∈ u.reads ++ u.writes ++ u.tests ++ u.merges ++ u.names, r ∈ rs) (hc : u.ctl = none) (hn : u.noStream = none) :
    ∃ t, issue s u (pureBody f) = .next t ∧ t.me = s.me
      ∧ actor t = ended (nextPc (f (actor s)) (actor s).pc)
      ∧ OnlyActor s t u.writes :=
  ⟨_, issue_ready (pureBody f) h hm hc (by simp [hn]),
    retire_spec (fun y => nextPc y (actor s).pc) (onlyCtx_set s _) (fun r m => h.plain r (hm r (by simp at m ⊢; tauto)))⟩

/-- An instruction whose effect changes its own context to c' and completes, when nothing stops it. -/
theorem issue_own {s s' : State} {u : Named} {rs : List Nat} {c' : Ctx} (body : State → Ctx → State × Done)
    (hb : body s (actor s) = (s', .next)) (hs : OnlyCtx s s' c') (h : Ready s rs)
    (hm : ∀ r ∈ u.reads ++ u.writes ++ u.tests ++ u.merges, r ∈ rs) (hc : classBad (actor s) u = none)
    (hn : ∀ r, u.noStream = some r → r ∈ rs ∧ r < 64) :
    ∃ t, issue s u body = .next t ∧ t.me = s.me
      ∧ actor t = ended (nextPc c' (actor s).pc)
      ∧ OnlyActor s t u.writes := by
  refine ⟨_, issue_class body h hm hc hn, ?_⟩
  rw [hb]
  exact retire_spec (fun y => nextPc y (actor s).pc) hs (fun r m => h.plain r (hm r (by simp at m ⊢; tauto)))

/-- The same with a transfer at its end. -/
theorem issue_jump {s s' : State} {u : Named} {rs : List Nat} {c' : Ctx} {target : Dword}
    (body : State → Ctx → State × Done) (hb : body s (actor s) = (s', .jump target)) (hs : OnlyCtx s s' c') (h : Ready s rs)
    (hm : ∀ r ∈ u.reads ++ u.writes ++ u.tests ++ u.merges, r ∈ rs) (hc : classBad (actor s) u = none)
    (hn : ∀ r, u.noStream = some r → r ∈ rs ∧ r < 64) :
    ∃ t, issue s u body = .next t ∧ t.me = s.me
      ∧ actor t = ended (jumpPc c' (actor s).pc target)
      ∧ OnlyActor s t u.writes := by
  refine ⟨_, issue_class body h hm hc hn, ?_⟩
  rw [hb]
  exact retire_spec (fun y => jumpPc y (actor s).pc target) hs (fun r m => h.plain r (hm r (by simp at m ⊢; tauto)))

/-! ### The frame of a register write -/

theorem onlyRegs_intro {s t : State} {c' : Ctx} {ws : List Nat} {pcOf : Ctx → Ctx}
    (ha : actor t = ended (pcOf c')) (hw : OnlyActor s t ws)
    (hpc : pcOf = (fun y => nextPc y (actor s).pc) ∨ ∃ x, pcOf = fun y => jumpPc y (actor s).pc x)
    (hg : ∀ r, r < 32 → r ∉ ws → c'.readG r = (actor s).readG r)
    (hv : ∀ r, 32 + r ∉ ws → c'.readV r = (actor s).readV r)
    (hp : ∀ r, 64 + r ∉ ws → c'.readP r = (actor s).readP r)
    (hr : { c' with g := (actor s).g, v := (actor s).v, p := (actor s).p } = actor s) : OnlyRegs s t ws := by
  have e : ∀ {α : Type} (F : Ctx → α), F { c' with g := (actor s).g, v := (actor s).v, p := (actor s).p } = F (actor s) :=
    fun F => congrArg F hr
  constructor
  · intro r h1 h2
    rw [ha, ← hg r h1 h2]
    rcases hpc with rfl | ⟨x, rfl⟩
    · exact readG_nextPc ..
    · exact readG_jumpPc ..
  · intro r h2
    rw [ha, ← hv r h2]
    rcases hpc with rfl | ⟨x, rfl⟩
    · exact readV_nextPc ..
    · exact readV_jumpPc ..
  · intro r h2
    rw [ha, ← hp r h2]
    rcases hpc with rfl | ⟨x, rfl⟩
    · exact readP_nextPc ..
    · exact readP_jumpPc ..
  · rw [ha]
    refine Eq.trans ?_ (e (fun c => { c with
      pc := (actor s).pc, loopCnt := (actor s).loopCnt, hint := (actor s).hint, trail := (actor s).trail,
      got := (actor s).got, walked := (actor s).walked, asks := (actor s).asks }))
    rcases hpc with rfl | ⟨x, rfl⟩ <;> simp [ended]
  · exact hw

theorem nextPc_congr {c c' : Ctx} (w : Dword) (h1 : c'.loopEnd = c.loopEnd) (h2 : c'.loopCnt = c.loopCnt) (h3 : c'.st = c.st)
    (h4 : c'.loopLen = c.loopLen) :
    (nextPc c' w).pc = (nextPc c w).pc ∧ (nextPc c' w).loopCnt = (nextPc c w).loopCnt := by
  unfold nextPc
  simp only [h1, h2, h3, h4]
  constructor <;> (repeat' split) <;> rfl

/-- The model's next pc is that of R247. -/
theorem nextPc_loopStep (c : Ctx) : LoopStep c (nextPc c c.pc).pc (nextPc c c.pc).loopCnt := by
  have hl : fldN c.loopLen 0 10 = c.loopLen.toNat % 2 ^ 10 := by
    rw [fldN, fld, BitVec.extractLsb'_toNat, Nat.shiftRight_zero]
  have n : nextPc c c.pc = if EndsBody c then
      if 1 < c.loopCnt.toNat then
        { c with loopCnt := c.loopCnt - 1, pc := c.loopEnd - BitVec.ofNat 64 (4 * (c.loopLen.toNat % 2 ^ 10)) + 4 }
      else { c with loopCnt := 0, pc := c.pc + 4 }
    else { c with pc := c.pc + 4 } := by rw [← hl]; rfl
  constructor
  · intro h1 h2
    rw [n, if_pos h1, if_pos h2]
    exact ⟨rfl, rfl⟩
  · intro h1 h2
    rw [n, if_pos h1, if_neg (by omega)]
    exact ⟨rfl, congrArg (· + 4) h1.1⟩
  · intro h
    rw [n, if_neg h]
    exact ⟨rfl, rfl⟩

/-- An instruction that writes one g register and nothing else, when nothing stops it. -/
theorem issue_writeG {s : State} {u : Named} {rs : List Nat} (d : BitVec 5) (F : Ctx → Dword) (h : Ready s rs)
    (hu : u.writes = [d.toNat])
    (hm : ∀ r ∈ u.reads ++ u.writes ++ u.tests ++ u.merges ++ u.names, r ∈ rs) (hc : u.ctl = none) (hn : u.noStream = none) :
    ∃ t, issue s u (pureBody (fun c => c.writeG d.toNat (F c))) = .next t
      ∧ (actor t).readG d.toNat = (if d = 0 then 0 else F (actor s))
      ∧ FallsThrough s t ∧ OnlyRegs s t [d.toNat] := by
  obtain ⟨t, h1, h2, h3, h4⟩ := issue_pure (fun c => c.writeG d.toNat (F c)) h hm hc hn
  refine ⟨t, h1, ?_, ?_, ?_⟩
  · rw [h3]
    have : (ended (nextPc ((actor s).writeG d.toNat (F (actor s))) (actor s).pc)).readG
        d.toNat = ((actor s).writeG d.toNat (F (actor s))).readG d.toNat := readG_nextPc ..
    rw [this, readG_writeG]
    by_cases hd : d = 0
    · simp [hd]
    · have : d.toNat ≠ 0 := fun e => hd (BitVec.eq_of_toNat_eq (by simpa using e))
      rw [if_neg hd, if_pos ⟨rfl, this⟩]
  · have e := nextPc_congr (c := actor s) (c' := (actor s).writeG d.toNat (F (actor s))) (actor s).pc (by simp) (by simp)
      (by simp) (by simp)
    rw [FallsThrough, h3]
    refine ⟨?_, rfl⟩
    have l := nextPc_loopStep (actor s)
    rw [← e.1, ← e.2] at l
    exact l
  · rw [hu] at h4
    refine onlyRegs_intro (pcOf := fun y => nextPc y (actor s).pc) h3 h4 (.inl rfl) ?_ ?_ ?_ ?_
    · intro r _ hr
      exact readG_writeG_other _ _ (by simpa using hr)
    · intro r _; simp
    · intro r _; simp
    · unfold Ctx.writeG
      split <;> rfl

end Sys2Proof.Machine
end

