-- ==== Sys2Proof/Laws/Memory.lean ====
section
/-!
SUPPORT. The laws of byte memory: a read after a write, every other byte, and the canonical form that each memory
operation keeps.
-/

namespace Sys2Proof.Machine

/-! ### Read after write -/

theorem memGet_memPut (m : Tab Byte) (a i : Nat) (b : Byte) : memGet (memPut m a b) i = if i = a then b else memGet m i := by
  unfold memPut memGet
  by_cases hb : b = 0
  · rw [if_pos hb]
    by_cases h : i = a <;> simp [hb, tget, tfind_tdel, h, memDefault]
  · rw [if_neg hb, tget_tput]

@[simp] theorem memGet_memPut_self (m : Tab Byte) (a : Nat) (b : Byte) : memGet (memPut m a b) a = b := by
  simp [memGet_memPut]

theorem memGet_memPut_other (m : Tab Byte) {a i : Nat} (b : Byte) (h : i ≠ a) : memGet (memPut m a b) i = memGet m i := by
  simp [memGet_memPut, h]

/-- Bytes stored one after another: byte j of the list stands at a + j. -/
theorem memGet_memPuts (m : Tab Byte) (a i : Nat) (bs : List Byte) :
    memGet (memPuts m a bs) i = if a ≤ i ∧ i < a + bs.length then bs.getD (i - a) 0 else memGet m i := by
  induction bs generalizing m a with
  | nil =>
    have : ¬ (a ≤ i ∧ i < a + ([] : List Byte).length) := by simp
    rw [if_neg this]
    rfl
  | cons b bs ih =>
    rw [memPuts, ih]
    simp only [List.length_cons]
    by_cases h1 : a + 1 ≤ i ∧ i < a + 1 + bs.length
    · have h2 : a ≤ i ∧ i < a + (bs.length + 1) := by omega
      rw [if_pos h1, if_pos h2]
      obtain ⟨n, rfl⟩ : ∃ n, i = a + 1 + n := ⟨i - (a + 1), by omega⟩
      have e1 : a + 1 + n - (a + 1) = n := by omega
      have e2 : a + 1 + n - a = n + 1 := by omega
      simp [e1, e2]
    · rw [if_neg h1, memGet_memPut]
      by_cases h3 : i = a
      · subst h3
        simp
      · have h2 : ¬ (a ≤ i ∧ i < a + (bs.length + 1)) := by omega
        rw [if_neg h3, if_neg h2]

/-! ### The canonical form -/

theorem wf_iff {m : Tab Byte} : Memory.wf m = true ↔ tsorted m = true ∧ ∀ e ∈ m, e.2 ≠ memDefault := by
  simp [Memory.wf]

theorem wf_nil : Memory.wf [] = true := rfl

theorem mem_tput {α : Type} {t : Tab α} {j : Nat} {v : α} {e : Nat × α} (h : e ∈ tput t j v) : e ∈ t ∨ e = (j, v) := by
  induction t with
  | nil => simp [tput] at h; exact .inr h
  | cons x t ih =>
    obtain ⟨k, w⟩ := x
    simp only [tput] at h
    split at h
    · rcases List.mem_cons.1 h with h | h
      · exact .inr h
      · exact .inl h
    · split at h
      · rcases List.mem_cons.1 h with h | h
        · exact .inr h
        · exact .inl (List.mem_cons_of_mem _ h)
      · rcases List.mem_cons.1 h with h | h
        · exact .inl (h ▸ List.mem_cons_self ..)
        · rcases ih h with h | h
          · exact .inl (List.mem_cons_of_mem _ h)
          · exact .inr h

theorem wf_filter {m : Tab Byte} (f : Nat × Byte → Bool) (h : Memory.wf m = true) : Memory.wf (m.filter f) = true := by
  rw [wf_iff] at h ⊢
  exact ⟨tsorted_filter f h.1, fun e he => h.2 e (List.mem_of_mem_filter he)⟩

theorem wf_memPut {m : Tab Byte} (a : Nat) (b : Byte) (h : Memory.wf m = true) : Memory.wf (memPut m a b) = true := by
  unfold memPut
  split
  · exact wf_filter _ h
  · rename_i hb
    rw [wf_iff] at h ⊢
    refine ⟨tsorted_tput a b h.1, fun e he => ?_⟩
    rcases mem_tput he with he | rfl
    · exact h.2 e he
    · exact hb

theorem wf_memPuts {m : Tab Byte} (a : Nat) (bs : List Byte) (h : Memory.wf m = true) : Memory.wf (memPuts m a bs) = true := by
  induction bs generalizing m a with
  | nil => exact h
  | cons b bs ih => exact ih (a + 1) (wf_memPut a b h)

theorem wf_foldPut {β : Type} (f : β → Nat) (g : β → Byte) (l : List β) {m : Tab Byte} (h : Memory.wf m = true) :
    Memory.wf (l.foldl (fun m e => memPut m (f e) (g e)) m) = true := by
  induction l generalizing m with
  | nil => exact h
  | cons b l ih => exact ih (wf_memPut _ _ h)

theorem sorted_foldPut {α β : Type} (f : β → Nat) (g : β → α) (l : List β) {t : Tab α} (h : tsorted t = true) :
    tsorted (l.foldl (fun t e => tput t (f e) (g e)) t) = true := by
  induction l generalizing t with
  | nil => exact h
  | cons b l ih => exact ih (tsorted_tput _ _ h)

theorem sorted_overDrop {t : Tab Byte} (lo n : Nat) (h : tsorted t = true) : tsorted (overDrop t lo n) = true :=
  tsorted_filter _ h

/-- Two memories in the canonical form that read the same everywhere are equal. -/
theorem wf_ext {m n : Tab Byte} (hm : Memory.wf m = true) (hn : Memory.wf n = true)
    (h : ∀ a, memGet m a = memGet n a) : m = n := by
  induction m generalizing n with
  | nil =>
    cases n with
    | nil => rfl
    | cons e n =>
      obtain ⟨k, b⟩ := e
      have h1 := h k
      have h2 := (wf_iff.1 hn).2 (k, b) (List.mem_cons_self ..)
      simp [memGet, tget, tfind] at h1
      exact absurd h1.symm h2
  | cons e m ih =>
    obtain ⟨k, b⟩ := e
    have hm' := wf_iff.1 hm
    have hb := hm'.2 (k, b) (List.mem_cons_self ..)
    obtain ⟨ham, hsm⟩ := tsorted_cons.1 hm'.1
    cases n with
    | nil =>
      have h1 := h k
      simp [memGet, tget, tfind] at h1
      exact absurd h1 hb
    | cons e n =>
      obtain ⟨j, c⟩ := e
      have hn' := wf_iff.1 hn
      have hc := hn'.2 (j, c) (List.mem_cons_self ..)
      obtain ⟨han, hsn⟩ := tsorted_cons.1 hn'.1
      have hkj : k = j := by
        rcases Nat.lt_trichotomy k j with hlt | heq | hlt
        · exfalso
          have h1 := h k
          have : tfind n k = none := tfind_above (fun e he => Nat.lt_trans hlt (han e he))
          have hjk : ¬ j = k := by omega
          simp [memGet, tget, tfind, hjk, this] at h1
          exact hb h1
        · exact heq
        · exfalso
          have h1 := h j
          have : tfind m j = none := tfind_above (fun e he => Nat.lt_trans hlt (ham e he))
          have hkj : ¬ k = j := by omega
          simp [memGet, tget, tfind, hkj, this] at h1
          exact hc h1.symm
      subst hkj
      have hbc : b = c := by
        have h1 := h k
        simpa [memGet, tget, tfind] using h1
      subst hbc
      have : m = n := by
        refine ih (wf_iff.2 ⟨hsm, fun e he => hm'.2 e (List.mem_cons_of_mem _ he)⟩)
          (wf_iff.2 ⟨hsn, fun e he => hn'.2 e (List.mem_cons_of_mem _ he)⟩) ?_
        intro a
        by_cases hak : k = a
        · subst hak
          simp [memGet, tget, tfind_above ham, tfind_above han]
        · have h1 := h a
          simpa [memGet, tget, tfind, hak] using h1
      rw [this]

end Sys2Proof.Machine
end

