-- ==== Sys2Proof/Tests/Slice0.lean ====
section
/-! SUPPORT. The package's own tests: the words of the encoding tables (spec/02_encoding.md and the instruction pages), the
ill-formed terms that WellFormed refuses, the selection example of R370, and for every statement with hypotheses a state and
operands that meet them. Every expected value is the spec's. -/

open Sys2Proof Sys2Proof.Machine

namespace Sys2Proof.Tests

set_option Elab.async false
set_option maxRecDepth 20000
set_option exponentiation.threshold 1024

/-! The words of the encodings. -/

/-- Each word reads as its instruction, and the instruction is written as that word. -/
abbrev Reads (l : List (Word × Instr)) : Prop := ∀ e ∈ l, decodeWord e.1 = .ok e.2 ∧ encode e.2 = some e.1

theorem test_decode_rows_0 : Reads [(0x06AAD840, .add 0x15 0xA 0x1B 1), (0x06AAD841, .sub 0x15 0xA 0x1B 1), (0x06AAD802, .and 0x15 0xA 0x1B),
  (0x06AAD803, .or 0x15 0xA 0x1B), (0x06AAD804, .xor 0x15 0xA 0x1B), (0x06AAD805, .andn 0x15 0xA 0x1B),
  (0x06AAD846, .shl 0x15 0xA 0x1B 1), (0x06AAD847, .shr 0x15 0xA 0x1B 1), (0x06AAD848, .sar 0x15 0xA 0x1B 1),
  (0x06AAD809, .slt 0x15 0xA 0x1B), (0x06AAD80A, .sltn 0x15 0xA 0x1B), (0x06AAD80B, .min 0x15 0xA 0x1B),
  (0x06AAD80C, .max 0x15 0xA 0x1B), (0x06AAD80D, .minn 0x15 0xA 0x1B), (0x06AAD80E, .maxn 0x15 0xA 0x1B),
  (0x06AAD84F, .mul 0x15 0xA 0x1B 1), (0x06AAD810, .mulh 0x15 0xA 0x1B), (0x06AAD811, .mulhn 0x15 0xA 0x1B),
  (0x06AAD852, .div 0x15 0xA 0x1B 1), (0x06AAD853, .divn 0x15 0xA 0x1B 1), (0x06AAD854, .rem 0x15 0xA 0x1B 1),
  (0x06AAD855, .remn 0x15 0xA 0x1B 1), (0x06AA0016, .clz 0x15 0xA), (0x06AA0017, .ctz 0x15 0xA),
  (0x06AA0018, .popc 0x15 0xA), (0x0AAAC35A, .addi 0x15 0xA 0xC35A), (0x0EAAC35A, .andi 0x15 0xA 0xC35A),
  (0x12AAC35A, .ori 0x15 0xA 0xC35A), (0x16AAC35A, .xori 0x15 0xA 0xC35A), (0x22AAC35A, .slti 0x15 0xA 0xC35A),
  (0x26AAC35A, .sltin 0x15 0xA 0xC35A), (0x2AA0C35A, .addpc 0x15 0xC35A)] := by decide +kernel

theorem test_decode_rows_1 : Reads [(0x1AAA00A5, .shli 0x15 0xA 0xA5), (0x1AAA01A5, .shri 0x15 0xA 0xA5), (0x1AAA02A5, .sari 0x15 0xA 0xA5),
  (0x1AAA04A5, .shliW 0x15 0xA 0xA5), (0x1AAA05A5, .shriW 0x15 0xA 0xA5), (0x1AAA06A5, .sariW 0x15 0xA 0xA5),
  (0x1EA2C35A, .lhi 0x15 2 0xC35A), (0x42AA6ABC, .ldb 0x15 0xA 1 2 0xABC),
  (0x46AA6ABC, .ldbn 0x15 0xA 1 2 0xABC), (0x4AAA6ABC, .ldh 0x15 0xA 1 2 0xABC),
  (0x4EAA6ABC, .ldhn 0x15 0xA 1 2 0xABC), (0x52AA6ABC, .ldw 0x15 0xA 1 2 0xABC),
  (0x56AA6ABC, .ldwn 0x15 0xA 1 2 0xABC), (0x5AAA6ABC, .ldd 0x15 0xA 1 2 0xABC),
  (0x5EAAAABC, .stb 0x15 0xA 2 2 0xABC), (0x62AAAABC, .sth 0x15 0xA 2 2 0xABC),
  (0x66AAAABC, .stw 0x15 0xA 2 2 0xABC), (0x6AAAAABC, .std 0x15 0xA 2 2 0xABC),
  (0x6EAA6ABC, .vld 0x15 0xA 1 2 0xABC), (0x72AAAABC, .vst 0x15 0xA 2 2 0xABC),
  (0x7EAAD832, .ldx 0x15 0xA 0x1B 1 2 2), (0x7EAAD8B2, .ldxn 0x15 0xA 0x1B 1 2 2),
  (0x7EAAD952, .stx 0x15 0xA 0x1B 2 2 2), (0x7EAAD9B4, .vldu 0x15 0xA 0x1B 1 2),
  (0x7EAADA54, .vstu 0x15 0xA 0x1B 2 2), (0x7EAADADB, .vgath 0x15 0xA 0x1B 5 1 3),
  (0x7EAADB52, .vscat 0x15 0xA 0x1B 5 2), (0x76AAD83B, .amoSwap 0x15 0xA 0x1B 3 2 1),
  (0x76AAD87B, .amoCas 0x15 0xA 0x1B 3 2 1), (0x76AAD8BB, .amoAdd 0x15 0xA 0x1B 3 2 1),
  (0x76AAD8FB, .amoAnd 0x15 0xA 0x1B 3 2 1), (0x76AAD93B, .amoOr 0x15 0xA 0x1B 3 2 1)] := by decide +kernel

theorem test_decode_rows_2 : Reads [(0x76AAD97B, .amoXor 0x15 0xA 0x1B 3 2 1), (0x76AAD9BB, .amoSmin 0x15 0xA 0x1B 3 2 1),
  (0x76AAD9FB, .amoSmax 0x15 0xA 0x1B 3 2 1), (0x76AADA3B, .amoUmin 0x15 0xA 0x1B 3 2 1),
  (0x76AADA7B, .amoUmax 0x15 0xA 0x1B 3 2 1), (0x76AADABA, .amoFadd 0x15 0xA 0x1B 3 2), (0x78000008, .fence 2),
  (0x78000009, .fenceAcq 2), (0x7800000A, .fenceRel 2), (0x800AC35A, .beqz 0xA 0xC35A),
  (0x802AC35A, .bnez 0xA 0xC35A), (0x804AC35A, .bltz 0xA 0xC35A), (0x806AC35A, .bgez 0xA 0xC35A),
  (0x808AC35A, .bgtz 0xA 0xC35A), (0x80AAC35A, .blez 0xA 0xC35A), (0x80C0C35A, .br 0xC35A),
  (0x80EAC35A, .bodd 0xA 0xC35A), (0x810AC35A, .bevn 0xA 0xC35A), (0x812AC35A, .bemp 0xA 0xC35A),
  (0x814AC35A, .bful 0xA 0xC35A), (0x86C35A7B, .jmp 0x2C35A7B), (0x8AC35A7B, .call 0x2C35A7B),
  (0x8C0A0000, .jr 0xA), (0x8C0A0001, .callr 0xA), (0x8C000002, .ret), (0x900A02C3, .rep 0xA 0x2C3),
  (0x903B02C3, .reps 0x1B 0x2C3), (0x96AAD85B, .vadd 0x15 0xA 0x1B 5 5 1),
  (0x96AAD8DB, .vsub 0x15 0xA 0x1B 5 5 1), (0x96AAD95B, .vadds 0x15 0xA 0x1B 5 5 1),
  (0x96AAD9DB, .vsubs 0x15 0xA 0x1B 5 5 1), (0x96AADA5B, .vmul 0x15 0xA 0x1B 5 5 1)] := by decide +kernel

theorem test_decode_rows_3 : Reads [(0x96AADADB, .vmulh 0x15 0xA 0x1B 5 5 1), (0x96AADB5B, .vmin 0x15 0xA 0x1B 5 5 1),
  (0x96AADBDB, .vmax 0x15 0xA 0x1B 5 5 1), (0x96AADC5B, .vand 0x15 0xA 0x1B 5 5 1),
  (0x96AADCDB, .vor 0x15 0xA 0x1B 5 5 1), (0x96AADD5B, .vxor 0x15 0xA 0x1B 5 5 1),
  (0x96AADDDB, .vandn 0x15 0xA 0x1B 5 5 1), (0x96AADE5B, .vshl 0x15 0xA 0x1B 5 5 1),
  (0x96AADEDB, .vshr 0x15 0xA 0x1B 5 5 1), (0x96AA073B, .vabs 0x15 0xA 3 5 1),
  (0x96AA07DB, .vsplat 0x15 0xA 5 5 1), (0x9AAAD82B, .vaddFp 0x15 0xA 0x1B 2 5 1),
  (0x9AAAD8AB, .vsubFp 0x15 0xA 0x1B 2 5 1), (0x9AAAD92B, .vmulFp 0x15 0xA 0x1B 2 5 1),
  (0x9AAAD9AB, .vfma 0x15 0xA 0x1B 2 5 1), (0x9AAADA2B, .vdiv 0x15 0xA 0x1B 2 5 1),
  (0x9AAA02AB, .vsqrt 0x15 0xA 2 5 1), (0x9AAADB2B, .vminFp 0x15 0xA 0x1B 2 5 1),
  (0x9AAADBAB, .vmaxFp 0x15 0xA 0x1B 2 5 1), (0x9AAA042B, .vabsFp 0x15 0xA 2 5 1),
  (0x9AAA04AB, .vneg 0x15 0xA 2 5 1), (0x9EAA01FB, .vcvt 0x15 0xA 7 3 5 1),
  (0xA2AAD83B, .vperm 0x15 0xA 0x1B 3 5 1), (0xA2AA00BA, .vcmprs 0x15 0xA 3 5),
  (0xA2AA013B, .vexpnd 0x15 0xA 3 5 1), (0xA2AAD9BB, .vslup 0x15 0xA 0x1B 3 5 1),
  (0xA2AADA3B, .vsldn 0x15 0xA 0x1B 3 5 1), (0xA2AADABB, .vbcst 0x15 0xA 0x1B 3 5 1),
  (0xA2AADB30, .vext 0x15 0xA 0x1B 3), (0xA2AADBB0, .vins 0x15 0xA 0x1B 3), (0xA2A0043B, .viota 0x15 3 5 1),
  (0xA6AA005A, .vraddInt 0x15 0xA 5 5)] := by decide +kernel

theorem test_decode_rows_4 : Reads [(0xA6AA00DA, .vrminInt 0x15 0xA 5 5), (0xA6AA015A, .vrmaxInt 0x15 0xA 5 5),
  (0xA6AA022A, .vraddFp 0x15 0xA 2 5), (0xA6AA02AA, .vrminFp 0x15 0xA 2 5),
  (0xA6AA032A, .vrmaxFp 0x15 0xA 2 5), (0xA6AA03AA, .vrssq 0x15 0xA 2 5), (0xAAAA001B, .vrcp 0x15 0xA 1 5 1),
  (0xAAAA009B, .vrsqrt 0x15 0xA 1 5 1), (0xAAAA011B, .vexp2 0x15 0xA 1 5 1),
  (0xAAAA019B, .vlog2 0x15 0xA 1 5 1), (0xAAAA021B, .vexp 0x15 0xA 1 5 1), (0xAAAA029B, .vlog 0x15 0xA 1 5 1),
  (0xAAAA031B, .vtanh 0x15 0xA 1 5 1), (0xAAAA039B, .vsigm 0x15 0xA 1 5 1),
  (0xAAAADC0B, .vpmrg 0x15 0xA 0x1B 5 1), (0xAAAADC8B, .vpmrge 0x15 0xA 0x1B 5 1),
  (0xACCAD8AB, .vcmpeq 6 0xA 0x1B 0xA 5 1), (0xACCAD9AB, .vcmpne 6 0xA 0x1B 0xA 5 1),
  (0xACCADAAB, .vcmplt 6 0xA 0x1B 0xA 5 1), (0xACCADBAB, .vcmple 6 0xA 0x1B 0xA 5 1),
  (0xACCADCAB, .vcmpgt 6 0xA 0x1B 0xA 5 1), (0xACCADDAB, .vcmpge 6 0xA 0x1B 0xA 5 1),
  (0xACC51F00, .pand 6 5 3), (0xACC51F10, .por 6 5 3), (0xACC51F20, .pxor 6 5 3), (0xACC51F30, .pandn 6 5 3),
  (0xACC50740, .pnot 6 5), (0xACCA0750, .pmovgp 6 0xA), (0xAEA60760, .pmovpg 0x15 6),
  (0xAEA60770, .vpcnt8 0x15 6), (0xAEA60780, .vpcnt16 0x15 6), (0xAEA60790, .vpcnt32 0x15 6)] := by decide +kernel

theorem test_decode_rows_5 : Reads [(0xAEA607A0, .vpcnt64 0x15 6), (0xACCADFBA, .vxsectN32 6 0xA 0x1B 5), (0xACCADFCA, .vxsectN64 6 0xA 0x1B 5),
  (0xB00AD6A0, .send 0xA 0x1A 6 2 2), (0xB00ADEA1, .sendv 0xA 0x1B 6 2 2), (0xB00AD6A2, .reply 0xA 0x1A 6 2 2),
  (0xB00A00A3, .pmsg 0xA 2 2), (0xB6AA0000, .pcfg 0x15 0xA), (0xB6AAD801, .pbind 0x15 0xA 0x1B),
  (0xB6AA0002, .punbind 0x15 0xA), (0xB6AA0003, .ppeek 0x15 0xA), (0xB8000000, .park), (0xB8000001, .exit),
  (0xB8000002, .yield), (0xBAAAD003, .spawn 0x15 0xA 0x1A), (0xBAAAD014, .spawnr 0x15 0xA 0x1A 1),
  (0xB80A0005, .migr 0xA), (0xBAAA0006, .hoopin 0x15 0xA), (0xBAA00007, .hoopout 0x15),
  (0xBAAA0008, .kill 0x15 0xA), (0xBC0A00A0, .cinc 0xA 2 2), (0xBC0AD8A1, .cadd 0xA 0x1B 2 2),
  (0xBEAA0092, .crdc 0x15 0xA 2 1), (0xBEAAD803, .cwatch 0x15 0xA 0x1B), (0xC2AAD800, .tarm 0x15 0xA 0x1B),
  (0xC2AA00A1, .tdone 0x15 0xA 2 2), (0xC2A00102, .take 0x15 1), (0xC2A00003, .steal 0x15),
  (0xC2AA0004, .tdisarm 0x15 0xA), (0xC6AA01B0, .cpy 0x15 0xA 1 2 3), (0xC6AAD9B1, .cpym 0x15 0xA 0x1B 1 2 3),
  (0xC6AAD9B2, .cpyc 0x15 0xA 0x1B 1 2 3)] := by decide +kernel

theorem test_decode_rows_6 : Reads [(0xC6AA0003, .cpbiBlk 0x15 0xA), (0xC6A00203, .cpbiAll 0x15), (0xC6AA0104, .cstat 0x15 0xA 1),
  (0xC6AA0304, .cstatStop 0x15 0xA 1), (0xCAAAE800, .scfg 0x15 0xA 5), (0xCAA0E801, .sclose 0x15 5),
  (0xCAA0E802, .sstat 0x15 5), (0xCAAAD892, .sstatBt 0x15 0xA 0x1B 2), (0xCAAAD822, .sstatBw 0x15 0xA 0x1B),
  (0xCEAADAB0, .pwld 0x15 0xA 0x1B 2 2 3), (0xCEAADAB1, .pmma 0x15 0xA 0x1B 2 2 3),
  (0xCEAA0202, .pstop 0x15 0xA 2), (0xCEAADAB3, .pres 0x15 0xA 0x1B 2 2 3), (0xCEAA0204, .pstat 0x15 0xA 2),
  (0xCEA00604, .pstatHl 0x15 2), (0xD2AAD800, .cdesc 0x15 0xA 0x1B), (0xD2AA0091, .cld 0x15 0xA 2 1),
  (0xD2AA0191, .cldG 0x15 0xA 2 1), (0xD2AAD8B2, .cstg 0x15 0xA 0x1B 2 3),
  (0xD2AAD9B2, .cstgG 0x15 0xA 0x1B 2 3), (0xD2A00083, .cfnc 0x15 2), (0xD6AA0060, .clean 0x15 0xA 1 2),
  (0xD6AA0161, .inval 0x15 0xA 1 1 2), (0xD40A0092, .pref 0xA 2 1), (0xD6AA0013, .orient 0x15 0xA 1),
  (0xD6AA0004, .dedupqSec 0x15 0xA), (0xD6AA0014, .dedupqCnt 0x15 0xA), (0xDAAAD800, .tlbi 0x15 0xA 0x1B 0),
  (0xDAAA0001, .vflip 0x15 0xA), (0xDAAAD802, .vflipc 0x15 0xA 0x1B), (0xDAAA0003, .vpin 0x15 0xA),
  (0xDAA00064, .vrd 0x15 1 2)] := by decide +kernel

theorem test_decode_rows_7 : Reads [(0xDC000000, .nop), (0xDC001ABC, .trap 0xABC), (0xDC002000, .eret), (0xDEA03ABC, .crd 0x15 0xABC),
  (0xDC0A4ABC, .cwr 0xA 0xABC), (0xDEA05000, .snap 0x15), (0xDEAA6000, .erd 0x15 0xA), (0xDC007000, .gate),
  (0xFC5A1B3C, .hImm 0x5A1B3C), (0xFCB00000, .hSched 1 2), (0xFD480000, .hMod 4 1)] := by decide +kernel

/-! Ill-formed terms: one for each check (R27, R28, R45 to R56, and the rules of the instructions named). -/

theorem test_wf_refuses_scalar : ∀ i ∈ ([.ldb 1 2 2 0 0, .ldb 1 2 0 1 0, .stb 1 2 1 0 0, .ldx 0 0 0 0 0 4, .ldxn 0 0 0 0 0 3,
    .vgath 0 0 0 0 0 1, .vgath 0 0 0 0 1 0, .vscat 0 0 0 0 4, .amoAdd 0 0 0 0 1 0, .bemp 0 0, .bful 0 0,
    .rep 0 0, .reps 23 0] : List Instr), i.wf = false := by decide +kernel

theorem test_wf_refuses_vector : ∀ i ∈ ([.vadd 0 0 0 0 0 1, .vabs 0 0 4 0 0, .vaddFp 0 0 0 3 0 0, .vcvt 0 0 23 0 0 0, .vcvt 0 0 12 1 0 0,
    .vcvt 0 0 0 2 0 0, .vperm 0 0 0 4 0 0, .vcmpeq 8 0 0 0 0 0, .vcmpeq 0 0 0 11 0 0, .pand 8 0 0,
    .pmovgp 8 0, .pmovpg 0 8] : List Instr), i.wf = false := by decide +kernel

theorem test_wf_refuses_sends_and_caches : ∀ i ∈ ([.send 0 0 0 0 0, .send 0 27 0 0 0, .send 0 8 7 0 0, .send 0 8 0 0 1, .pmsg 0 0 1, .spawn 0 0 28,
    .spawnr 0 0 27 0, .cpy 0 0 0 1 0, .clean 0 0 0 3, .clean 0 0 2 0, .pref 0 0 2, .pref 0 3 0,
    .tlbi 0 0 0 3, .tlbi 0 1 0 1, .hSched 3 0, .hMod 5 0, .hMod 0 0, .crdc 0 0 0 2, .cinc 0 0 1,
    .vraddFp 0 0 3 0, .vxsectN32 8 0 0 0] : List Instr), i.wf = false := by decide +kernel

/-! The machine that the witnesses start from. -/

/-- A leaf that a TLB holds: page number, frame, companion word, permission bits. -/
def page (vpage frame : Nat) (comp : Nat) (perm : Nat := 0xEF) : Tlb :=
  { rind := 0, asid := 7, shift := 16, vpage := vpage, entry := BitVec.ofNat 64 (frame * 65536 + perm),
    comp := BitVec.ofNat 128 (comp + (2 ^ 32 - 1) * 2 ^ 96), fetched := false, slot := 0x100000 }
def kindOf (pkind okind home : Nat) : Nat := pkind * 2 ^ 69 + okind * 2 ^ 67 + home * 2 ^ 80 + 2 ^ 91
/-- Registers 1 to 6 and 20 on. -/
def c0 : Ctx :=
  { Ctx.initial 0 with
    act := .running, pc := 0x1000, launch := some 1
    g := [(1, 10), (2, 3), (3, 0x20040), (4, 5), (5, 0x80000000FFFFFFFF), (6, 0xFFFFFFFFFFFFFFF9), (20, 7)]
    v := [(1, BitVec.ofNat 512 0x0807060504030201), (2, BitVec.ofNat 512 (2 ^ 512 - 1)), (3, 0x3F8000003F000000)]
    p := [(1, 0x5555), (2, 0xF0F0F0F0F0F0F0F0)] }
def pages0 : List Tlb := [page 2 0x8000000 (kindOf 3 2 0), page 3 1 (kindOf 0 2 0), page 4 2 (kindOf 0 2 1)]
def s0 : State :=
  { turn := .issue 0, cycle := 1000, ts := 77
    ctxs := [(0, c0)]
    cores := [(0, { running := some 0 })]
    clusters := [(0, { rind := some 0 })]
    launches := [(1, { rind := 0, asid := 7, front := 0, block := 0 })]
    recs := [(2048, { asid := 7, root := 0x4000, tvec := 0x9000, sbase := 0x80000000000 })]
    rmap := [(0, 0), (256, 0)]
    rinds := [(0, { started := true })]
    -- 0x20000: scratchpad of core 0; 0x30000: HBM at home core 0; 0x40000: HBM at home core 1
    tlbs := [(0, pages0), (2048, pages0)] }
def okD {ε α : Type} (d : α) (e : Except ε α) : α := match e with | .ok x => x | .error _ => d
def noAccess : Access :=
  { ctx := 0, gen := 0, inTrap := false, op := .load, dest := .none, n := 0, pa := 0, va := 0, data := 0, expect := 0, pkind := 0,
    home := 0, col := none, nalloc := false, rind := 0, launch := none, size := 0 }
def noXl : Xl := { pa := 0, entry := 0, comp := 0, shift := 0, slot := 0 }
def stC (s : State) (w : Want) : State := (checkAccess s s.me w).1
def acC (s : State) (w : Want) : Access := (okD (noAccess, noXl, false) (checkAccess s s.me w).2).1
def xlC (s : State) (w : Want) : Xl := (okD (noAccess, noXl, false) (checkAccess s s.me w).2).2.1
def vecP (p : State × Performed) : Vec := match p.2 with | .ok v => v | _ => 0
def dsc (w : Nat) : BitVec 512 := BitVec.ofNat 512 (0x30000 + 64 * 2 ^ 64 + 64 * 2 ^ 160 + 2 ^ 176 + 2 ^ 192 + 2 ^ 208 + 2 ^ 217 + w * 2 ^ 228)
def rdS : Stream := { ctx := 0, reg := 24, gen := 0, launch := some 1, rind := 0, sys := false, desc := dsc 0, pos := 3, far := 5, masks := [], fail := none }
def wrS : Stream := { ctx := 0, reg := 25, gen := 0, launch := some 1, rind := 0, sys := false, desc := dsc 1, pos := 3, far := 2, masks := [5], fail := none }
def sStr : State := { s0 with streams := [(0, rdS), (1, wrS)], mem := [(0x800000010C0, 7), (0x800000010FF, 9)] }
def sys (s : State) : State := { s with ctxs := s.ctxs.map (fun e => (e.1, { e.2 with st := e.2.st ||| 1 })) }
def stp (p : State × Performed) : State := p.1
/-- A state whose acting context is changed. -/
def withCtx (s : State) (f : Ctx → Ctx) : State := setCtx s 0 (f (getCtx s 0))
def rlL (p : State × ListRes) : List Dword := match p.2 with | .ok l => l | _ => []
def brV (p : State × BlockRes) : Vec := match p.2 with | .ok l => l | _ => 0
def fst {α : Type} (p : State × α) : State := p.1
/-- n dwords in memory from an address. -/
def dwords (a : Nat) : List Nat → Tab Byte
  | [] => []
  | d :: ds => (((List.range 8).map (fun i => (a + i, BitVec.ofNat 8 (d / 256 ^ i)))).filter (fun e => e.2 != 0)) ++ dwords (a + 8) ds
/-- s0 with g3 = 0x20040 on a scratchpad page and dwords there. -/
def withMem (s : State) (ds : List Nat) : State := { s with mem := dwords 0x80000000040 ds }

/-- Registers named and full, no read stream among them, none marked bad: in a form that can be decided. -/
theorem ready_of {s : State} {rs : List Nat}
    (h : (∀ r ∈ rs, (stRoam (actor s).st = true → r ≤ 6) ∧ (r < 64 → (actor s).isEmpty r = false)
        ∧ (32 ≤ r → r < 64 → streamSlot s s.me (r - 32) = none))
      ∧ ∀ e ∈ s.badReg, e.1 = s.me → e.2 ∉ rs ∧ loopReg e.2 = false) : Ready s rs := by
  obtain ⟨h1, h2⟩ := h
  refine ⟨fun hr r m => (h1 r m).1 hr, fun r m l => (h1 r m).2.1 l, fun r m l u => (h1 r m).2.2 l u, fun r m => ?_, fun r l => ?_⟩
  · cases hc : s.badReg.contains (s.me, r)
    · rfl
    · exact absurd m (h2 _ (List.contains_iff_mem.1 hc) rfl).1
  · cases hc : s.badReg.contains (s.me, r)
    · rfl
    · have := (h2 _ (List.contains_iff_mem.1 hc) rfl).2
      rw [this] at l; cases l

/-- Four facts, and one more after them. -/
theorem four {a b c d e : Prop} (h : a ∧ b ∧ c ∧ d) (k : e) : a ∧ b ∧ c ∧ d ∧ e := ⟨h.1, h.2.1, h.2.2.1, h.2.2.2, k⟩

/-- The permits that the copies of a Ladle hold, without the order of their acceptance. -/
theorem copyPermits_eq (s : State) (cl l : Nat) : copyPermits s cl l
    = (((getCluster s cl).copies.filter (fun e => e.1 / 4 == l)).map (fun e => e.2.places.length)).sum :=
  ((List.mergeSort_perm _ _).map _).sum_eq

/-- A core with the bypass limit 2 and these records: context, class, arrival, port, hit, bypass count, demoted. -/
def records (l : List (Nat × Nat × Nat × Nat × Bool × Nat × Bool)) : State :=
  { s0 with
    ctxs := l.map (fun e => (e.1, { c0 with
      act := .runnable, st := BitVec.ofNat 64 (e.1 * 256 + e.2.1 * 32 + (if e.2.2.2.2.2.2 then 16 else 0))
      sel := { arrival := e.2.2.1, port := e.2.2.2.1, hit := e.2.2.2.2.1, bypass := e.2.2.2.2.2.1 } }))
    cores := [(0, { bypass := 2 })] }

/-- R370's example: the hits go first, c5 before c7 by its lower port; at its second bypass c2 goes before c11; c9 is last. -/
theorem test_selection_of_R370 :
    (selectRec (records [(2, 3, 10, 64, false, 0, false), (5, 3, 12, 2, true, 0, false), (7, 3, 12, 4, true, 0, false),
      (9, 1, 20, 64, true, 0, true)]) 0).map (fun e => e.1.1) = some 5
    ∧ (selectRec (records [(2, 3, 10, 64, false, 1, false), (7, 3, 12, 4, true, 0, false), (9, 1, 20, 64, true, 0, true)]) 0).map
      (fun e => e.1.1) = some 7
    ∧ (selectRec (records [(2, 3, 10, 64, false, 2, false), (9, 1, 20, 64, true, 0, true), (11, 3, 45, 64, true, 0, false)]) 0).map
      (fun e => e.1.1) = some 2
    ∧ (selectRec (records [(9, 1, 20, 64, true, 0, true), (11, 3, 45, 64, true, 0, false)]) 0).map (fun e => e.1.1) = some 11 := by
  decide +kernel

/-- The invariant, and a step from a state that meets it. -/
theorem wit_StepKeepsMemInv : ∃ s t, MemInv s ∧ step s = .next t :=
  ⟨State.reset, _, ⟨rfl, rfl, rfl⟩, rfl⟩

namespace Scalar

def sI : State := withCtx s0 (fun c => { c with hint := some (0xFFC, .hImm 0x400000) })
def sLp : State := withCtx s0 (fun c => { c with g := [(2, 0x20044), (31, 8)], loopCnt := 3, loopEnd := 0x1000, loopLen := 5 })
def wS : Want := { Rules.storeOf 0x30040 2 5 0 0 with data := 5 }
def pfS : State × Performed := performAt (settlePredictor (Rules.marked (stC s0 wS) (xlC s0 wS) .store) 0 (homeKey (acC s0 wS).pa (acC s0 wS).home) true) (acC s0 wS)
def wL : Want := Rules.loadOf 0x20040 3 (.g 3 false) 0 0
def pfL : State × Performed := performAt (settlePredictor (Rules.marked (stC s0 wL) (xlC s0 wL) .load) 0 (homeKey (acC s0 wL).pa (acC s0 wL).home) true) (acC s0 wL)
def s1 : State := withCtx s0 (fun c => { c with g := [(3, 0x40000), (2, 1), (4, 9)] })
def wR : Want := Rules.loadOf 0x40001 0 (.g 2 true) 0 0
def aSt : Access := { noAccess with op := .store, n := 64, pa := 0x10080, data := BitVec.allOnes 512 - 5, home := 0 }
def sL2 : State := { s0 with l2 := [(l2Key 0 (0x10080 / 128), { replica := none })], mem := [(0x1007F, 1), (0x10080, 2), (0x100C0, 3)], cav := [(0x10081, 8)], top := [(0x10082, 8)] }
def aSc : Access := { noAccess with op := .store, n := 4, pa := 0x8000000007C, data := 0x00ABCDEF, home := 0, pkind := 3 }
def sSc : State := { s0 with mem := [(0x8000000007B, 1), (0x8000000007F, 2), (0x80000000080, 3)] }
def aAt : Access := { aSc with op := .atomic 1, expect := 0x02000000 }
def vRow : Rules.Lanes := Rules.vint 3 1 2 1 2 1 (fun x y => x + y)
def rowOf (f : Instr → Option Rules.Lanes) (i : Instr) : Rules.Lanes := (f i).getD vRow
def L1 : Rules.Lanes := Rules.vint 3 24 24 2 1 1 (fun x y => x + y)
def L2 : Rules.Lanes := Rules.vint 25 1 2 1 1 0 (fun x y => x + y)
def sEnd (n : Dword) : State := withCtx s0 (fun c => { c with loopCnt := n, loopEnd := 0x1000, loopLen := 5 })
def aLd : Access := { noAccess with op := .load, n := 8, pa := 0x8000000007C, home := 0, pkind := 3 }
def aLc : Access := { noAccess with op := .load, n := 64, pa := 0x10080, home := 0 }
def aAc : Access := { aLc with op := .atomic 10, n := 4, data := 9, expect := 0x0802 }

theorem wit_ScalarResults :
    (∃ (i : Instr) (d : BitVec 5) (a : BitVec 5) (b : BitVec 5) (f : Dword → Dword → Dword) (s : State), Rules.intr i
    = some (d, a, b, f) ∧ Ready s [a.toNat, b.toNat, d.toNat])
    ∧ (∃ (i : Instr) (d : BitVec 5) (a : BitVec 5) (f : Dword → Dword) (s : State), Rules.one i = some (d, a, f) ∧
    Ready s [a.toNat, d.toNat])
    ∧ (∃ (i : Instr) (d : BitVec 5) (rs : List ℕ) (x : Dword) (s : State), Rules.imm (actor s) i = some (d, rs, x) ∧
    Ready s (d.toNat :: rs)) :=
  ⟨⟨.mulhn 31 5 6, 31, 5, 6, fun x y => Rules.narrow 0 ((x.toNat * y.toNat / 2 ^ 64 : Nat) : Int), s0, rfl,
    ready_of (by decide +kernel)⟩,
   ⟨.sariW 0 5 255, 0, 5, fun x => Rules.sar 1 x (255#8).toNat, s0, rfl, ready_of (by decide +kernel)⟩,
   ⟨.addi 31 0 0xFFF, 31, [0], ((Rules.imm (actor sI) (.addi 31 0 0xFFF)).getD (0, [], 0)).2.2, sI,
    by decide +kernel, ready_of (by decide +kernel)⟩⟩

theorem wit_BranchGoesWhereTheTestSays :
    (∃ (i : Instr) (a : BitVec 5) (o : BitVec 16) (test : Dword → Bool) (s : State), Rules.branch i = some (a, o,
    test) ∧ Ready s [a.toNat])
    ∧ (∃ (i : Instr) (a : BitVec 5) (o : BitVec 16) (want : Bool) (s : State), Rules.branchBit i = some (a, o, want) ∧
    Ready s [] ∧ (stRoam (actor s).st = true → a.toNat ≤ 6)) :=
  ⟨⟨.bgez 6 0xFFFF, 6, 0xFFFF, fun x => 0 ≤ x.toInt, s0, rfl, ready_of (by decide +kernel)⟩,
   ⟨.bemp 31 0x8000, 31, 0x8000, true, s0, by decide +kernel, ready_of (by decide +kernel), by decide +kernel⟩⟩

theorem wit_JumpsAndCallsTransfer :
    (∃ (i : Instr) (rs : List ℕ) (link : Bool) (dest : Dword) (s : State), Rules.jump (actor s) i = some (rs, link,
    dest) ∧ (BitVec.toNat dest % 4 = 0 ∨ rs = []) ∧ Ready s (if link = true then 31 :: rs else rs))
    ∧ (∃ (i : Instr) (rs : List ℕ) (link : Bool) (dest : Dword) (s : State), Rules.jump (actor s) i = some (rs, link,
    dest) ∧ rs ≠ [] ∧ BitVec.toNat dest % 4 ≠ 0 ∧ Ready s (if link = true then 31 :: rs else rs)) :=
  ⟨⟨.callr 31, [31], true, 8, sLp, by decide +kernel, by decide +kernel, ready_of (by decide +kernel)⟩,
   ⟨.jr 5, [5], false, 0x1006, withCtx s0 (fun c => { c with g := [(5, 0x1006)] }), by decide +kernel,
    by decide +kernel, by decide +kernel, ready_of (by decide +kernel)⟩⟩

theorem wit_LoopStarts :
    (∃ (i : Instr) (rs : List ℕ) (n : Dword) (l : ℕ) (s : State), Rules.loop s i = some (rs, n, l) ∧ WellFormed i ∧
    Ready s rs ∧ stRoam (actor s).st = false ∧ (actor s).loopCnt = 0)
    ∧ (∃ (i : Instr) (l : BitVec 10) (rs : List ℕ) (s : State), (∃ a, i = Instr.rep a l ∧ rs = [a.toNat] ∨ i =
    Instr.reps a l ∧ rs = []) ∧ WellFormed i ∧ Ready s rs ∧ stRoam (actor s).st = false ∧ (actor s).loopCnt ≠ 0)
    ∧ (∃ (s : State), Ready s [] ∧ (actor s).pc = (actor s).loopEnd ∧ stTrap (actor s).st = BitVec.getLsbD (actor
    s).loopLen 10)
    ∧ (∃ (s : State), Ready s [] ∧ (actor s).pc = (actor s).loopEnd ∧ stTrap (actor s).st = BitVec.getLsbD (actor
    s).loopLen 10) :=
  ⟨⟨.rep 0 1023, [0], 0, 1023, s0, by decide +kernel, rfl, ready_of (by decide +kernel), by decide +kernel⟩,
   ⟨.rep 5 7, 7, [5], withCtx s0 (fun c => { c with loopCnt := 1, loopEnd := 0x2000, loopLen := 3 }),
    by decide +kernel, rfl, ready_of (by decide +kernel), by decide +kernel⟩,
   ⟨sEnd 2, ready_of (by decide +kernel), by decide +kernel⟩,
   ⟨sEnd 1, ready_of (by decide +kernel), by decide +kernel⟩⟩

theorem wit_AccessPerformedAtIssue :
    (∃ (i : Instr) (w : Want) (rs : List ℕ) (s : State) (s1 : State) (s2 : State) (a : Access) (x : Xl) (v : Vec),
    Rules.access (actor s) i = some (w, rs) ∧ WellFormed i ∧ Ready s rs ∧ BitVec.toNat w.ea % w.n = 0 ∧ checkAccess
    s s.me w = (s1, Except.ok (a, x, true)) ∧ mustWait s1 s.me (accessOrd s1 w a x) = false ∧ usesReplica s1
    (ctxCore s.me) x (opLoads w.op) (opStores w.op) = false ∧ performAt (settlePredictor (Rules.marked s1 x (opAcc
    w.op)) s.me (homeKey a.pa a.home) true) a = (s2, Performed.ok v))
    ∧ (∃ (s : State) (s' : State) (a : Access) (v : Vec), a.op = AccOp.load ∧ a.n ≤ 64 ∧ (windowOf (paLocal a.pa) =
    Window.scratch ∨ windowOf (paLocal a.pa) = Window.host ∨ Rules.InL2 s a) ∧ performAt s a = (s', Performed.ok v))
    ∧ (∃ (s : State) (s' : State) (a : Access) (v : Vec), a.op = AccOp.load ∧ a.n ≤ 64 ∧ (windowOf (paLocal a.pa) =
    Window.scratch ∨ windowOf (paLocal a.pa) = Window.host ∨ Rules.InL2 s a) ∧ performAt s a = (s', Performed.ok v)) :=
  ⟨⟨.ldd 3 3 0 0 0, wL, [3,3], s0, stC s0 wL, pfL.1, acC s0 wL, xlC s0 wL, vecP pfL, by decide +kernel, rfl,
    ready_of (by decide +kernel), by decide +kernel⟩,
   ⟨sSc, (performAt sSc aLd).1, aLd, vecP (performAt sSc aLd), by decide +kernel, by decide +kernel,
    Or.inl (by decide +kernel), by decide +kernel⟩,
   ⟨sL2, (performAt sL2 aLc).1, aLc, vecP (performAt sL2 aLc), by decide +kernel, by decide +kernel,
    Or.inr (Or.inr (⟨by decide +kernel, by decide +kernel, by decide +kernel, by decide +kernel, by decide +kernel⟩)),
    by decide +kernel⟩⟩

theorem wit_AccessSentToItsHome :
    ∃ i w rs s s1 a x, Rules.access (actor s) i = some (w, rs) ∧ WellFormed i ∧ Ready s rs ∧ w.ea.toNat % w.n = 0 ∧
    checkAccess s s.me w = (s1, Except.ok (a, x, false)) ∧ migrates s1 s.me a = false :=
  ⟨.ldb 2 3 0 0 1, wR, [3, 2], s1, stC s1 wR, acC s1 wR, xlC s1 wR, by decide +kernel, rfl,
    ready_of (by decide +kernel), by decide +kernel, by decide +kernel, by decide +kernel⟩

theorem wit_MisalignedAccessTraps :
    ∃ (i : Instr) (w : Want) (rs : List ℕ) (s : State), Rules.access (actor s) i = some (w, rs) ∧ WellFormed i ∧
    Ready s rs ∧ BitVec.toNat w.ea % w.n ≠ 0 :=
  ⟨.ldh 2 2 0 0 4095, Rules.loadOf 1 1 (.g 2 true) 0 0, [2, 2], s0, by decide +kernel, rfl,
    ready_of (by decide +kernel), by decide +kernel⟩

theorem wit_StoreChangesItsBytesOnly :
    ∃ (s : State) (s' : State) (a : Access) (v : Vec), a.op = AccOp.store ∧ Rules.InL2 s a ∧ storeBad s (homePath
    a.home) (viewAddrs (paLocal a.pa) a.n false) = [] ∧ performAt s a = (s', Performed.ok v) :=
  ⟨sL2, (performAt sL2 aSt).1, aSt, 0, by decide +kernel,
    ⟨by decide +kernel, by decide +kernel, by decide +kernel, by decide +kernel, by decide +kernel⟩,
    by decide +kernel⟩

theorem wit_ScratchpadStoreChangesItsBytesOnly :
    ∃ (s : State) (s' : State) (a : Access) (v : Vec), a.op = AccOp.store ∧ a.n ≤ 64 ∧ (∀ j < a.n, windowOf (paLocal
    a.pa + j) = Window.scratch) ∧ Rules.correct s (paLocal a.pa) a.n ∧ performAt s a = (s', Performed.ok v) :=
  ⟨sSc, (performAt sSc aSc).1, aSc, 0, by decide +kernel, by decide +kernel, by decide +kernel,
    by unfold Sys2Proof.Rules.correct; decide +kernel, by decide +kernel⟩

theorem wit_AtomicIsIndivisible :
    (∃ (s : State) (s' : State) (a : Access) (op : ℕ) (v : Vec), a.op = AccOp.atomic op ∧ op ≤ 10 ∧ (a.n = 4 ∨ a.n =
    8) ∧ (op = 10 → a.n = 4) ∧ (∀ j < a.n, windowOf (paLocal a.pa + j) = Window.scratch) ∧ Rules.correct s (paLocal
    a.pa) a.n ∧ performAt s a = (s', Performed.ok v))
    ∧ (∃ (s : State) (s' : State) (a : Access) (op : ℕ) (v : Vec), a.op = AccOp.atomic op ∧ op ≤ 10 ∧ (a.n = 4 ∨ a.n =
    8) ∧ (op = 10 → a.n = 4) ∧ Rules.InL2 s a ∧ performAt s a = (s', Performed.ok v)) :=
  ⟨⟨sSc, (performAt sSc aAt).1, aAt, 1, vecP (performAt sSc aAt), by decide +kernel, by decide +kernel,
    by decide +kernel, by decide +kernel, by decide +kernel, by unfold Sys2Proof.Rules.correct; decide +kernel,
    by decide +kernel⟩,
   ⟨sL2, (performAt sL2 aAc).1, aAc, 10, vecP (performAt sL2 aAc), by decide +kernel, by decide +kernel,
    by decide +kernel, by decide +kernel,
    ⟨by decide +kernel, by decide +kernel, by decide +kernel, by decide +kernel, by decide +kernel⟩,
    by decide +kernel⟩⟩

theorem wit_VintWritesLanes :
    ∃ (i : Instr) (r : Rules.Lanes) (s : State), Rules.vintRow i = some r ∧ WellFormed i ∧ Ready s (Rules.names r) :=
  ⟨.vadd 3 1 2 1 2 1, vRow, s0, rfl, rfl, ready_of (by decide +kernel)⟩

theorem wit_VfltAndVsfnWriteLanes :
    ∃ (i : Instr) (r : Rules.Lanes) (s : State), Rules.vfltRow i = some r ∧ WellFormed i ∧ Ready s (Rules.names r) :=
  ⟨.vaddFp 3 3 1 0 1 0, rowOf Rules.vfltRow (.vaddFp 3 3 1 0 1 0), s0, rfl, rfl, ready_of (by decide +kernel)⟩

theorem wit_PermutationsWriteLanes :
    ∃ (i : Instr) (r : Rules.Lanes) (s : State), Rules.vprmRow i = some r ∧ WellFormed i ∧ Ready s (Rules.names r) :=
  ⟨.vperm 3 1 2 3 1 0, rowOf Rules.vprmRow (.vperm 3 1 2 3 1 0), s0, rfl, rfl, ready_of (by decide +kernel)⟩

theorem wit_CompressExtractInsert :
    (∃ (d : BitVec 5) (a : BitVec 5) (w : BitVec 3) (m : BitVec 3) (s : State), w.toNat ≤ 3 ∧ Ready s [32 + a.toNat,
    64 + m.toNat, 32 + d.toNat])
    ∧ (∃ (d : BitVec 5) (a : BitVec 5) (b : BitVec 5) (w : BitVec 3) (s : State), w.toNat ≤ 3 ∧ Ready s [32 + a.toNat,
    b.toNat, d.toNat])
    ∧ (∃ (d : BitVec 5) (a : BitVec 5) (b : BitVec 5) (w : BitVec 3) (s : State), w.toNat ≤ 3 ∧ Ready s [a.toNat,
    b.toNat, 32 + d.toNat]) :=
  ⟨⟨3, 1, 3, 7, s0, by decide +kernel, ready_of (by decide +kernel)⟩,
   ⟨4, 1, 5, 0, s0, by decide +kernel, ready_of (by decide +kernel)⟩,
   ⟨31, 4, 2, 3, s0, by decide +kernel, ready_of (by decide +kernel)⟩⟩

theorem wit_ConversionWritesLanes :
    ∃ (d : BitVec 5) (a : BitVec 5) (k : BitVec 5) (q : BitVec 2) (m : BitVec 3) (z : BitVec 1) (s : State) (sb : ℕ)
    (db : ℕ), WellFormed (Instr.vcvt d a k q m z) ∧ (cvtKind k.toNat).1.bytes = sb ∧ (cvtKind k.toNat).2.bytes = db
    ∧ Ready s [32 + a.toNat, 64 + m.toNat, 32 + d.toNat] :=
  ⟨3, 1, 0, 0, 1, 0, s0, (cvtKind 0).1.bytes, (cvtKind 0).2.bytes, rfl, by decide +kernel, by decide +kernel,
    ready_of (by decide +kernel)⟩

theorem wit_ReductionsWriteResult :
    ∃ (i : Instr) (d : BitVec 5) (a : BitVec 5) (m : BitVec 3) (x : ℤ) (s : State), Rules.red (actor s) i = some (d,
    a, m, x) ∧ WellFormed i ∧ Ready s [32 + a.toNat, 64 + m.toNat, 32 + d.toNat] :=
  ⟨.vraddInt 3 1 1 2, 3, 1, 2, ((Rules.red (actor s0) (.vraddInt 3 1 1 2)).getD (0, 0, 0, 0)).2.2.2, s0,
    by decide +kernel, rfl, ready_of (by decide +kernel)⟩

theorem wit_PredicatesPerLane :
    ∃ (i : Instr) (d : BitVec 5) (m : BitVec 3) (clear : Bool) (n : ℕ) (rs : List ℕ) (test : ℕ → Bool) (s : State),
    Rules.pred (actor s) i = some (d, m, clear, n, rs, test) ∧ WellFormed i ∧ Ready s (rs ++ [64 + m.toNat, 64 +
    d.toNat]) :=
  ⟨.vxsectN32 0 1 2 1, 0, 1, true, 4, [33, 34],
    ((Rules.pred (actor s0) (.vxsectN32 0 1 2 1)).getD (0, 0, true, 0, [], fun _ => true)).2.2.2.2.2, s0, rfl, rfl,
    ready_of (by decide +kernel)⟩

theorem wit_PredicateOperations :
    ∃ (i : Instr) (d : ℕ) (rs : List ℕ) (x : Dword) (s : State), Rules.predBits (actor s) i = some (d, rs, x) ∧
    WellFormed i ∧ Ready s (d :: rs) :=
  ⟨.pnot 0 2, 64, [66], ~~~(actor s0).readP 2, s0, by decide +kernel, rfl, ready_of (by decide +kernel)⟩

theorem wit_StreamsArePoppedAndPushed :
    (∃ (i : Instr) (r : Rules.Lanes) (s : State) (v : ℕ) (q : ℕ) (st : Machine.Stream), (Rules.vintRow i = some r ∨
    Rules.vfltRow i = some r) ∧ WellFormed i ∧ v < 32 ∧ 32 + v ∈ r.reads ∧ r.d.toNat ≠ v ∧ streamSlot s s.me v =
    some q ∧ tfind s.streams q = some st ∧ streamWrite st.desc = false ∧ st.fail = none ∧ Ready s (List.filter (fun
    x => x != 32 + v) (Rules.names r)) ∧ stRoam (actor s).st = false ∧ (actor s).isEmpty (32 + v) = false ∧
    s.badReg.contains (s.me, 32 + v) = false)
    ∧ (∃ (i : Instr) (r : Rules.Lanes) (s : State) (q : ℕ) (st : Machine.Stream), (Rules.vintRow i = some r ∨
    Rules.vprmRow i = some r) ∧ WellFormed i ∧ 32 + r.d.toNat ∉ r.reads ∧ streamSlot s s.me r.d.toNat = some q ∧
    tfind s.streams q = some st ∧ streamWrite st.desc = true ∧ st.fail = none ∧ st.owed = none ∧ st.pos <
    streamCount st.desc ∧ ctxCore s.me = ctxCore st.ctx ∧ Ready s (r.reads ++ [64 + r.m.toNat]) ∧ stRoam (actor
    s).st = false ∧ (actor s).isEmpty (32 + r.d.toNat) = false ∧ s.badReg.contains (s.me, 32 + r.d.toNat) = false) :=
  ⟨⟨.vadd 3 24 24 2 1 1, L1, sStr, 24, 0, rdS, Or.inl (rfl), rfl, by decide +kernel, by decide +kernel,
    by decide +kernel, by decide +kernel, by decide +kernel, by decide +kernel, by decide +kernel,
    ready_of (by decide +kernel), by decide +kernel⟩,
   ⟨.vadd 25 1 2 1 1 0, L2, sStr, 1, wrS, Or.inl (rfl), rfl, by decide +kernel, by decide +kernel,
    by decide +kernel, by decide +kernel, by decide +kernel, by decide +kernel, by decide +kernel,
    by decide +kernel, ready_of (by decide +kernel), by decide +kernel⟩⟩

end Scalar

namespace Lanes

def fAdd (x y : Dword) : Dword := Rules.narrow 0 (x.toInt + y.toInt)
def sE (f : Ctx → Ctx) : State := withCtx s0 (fun c => f { c with empty := [(3, true), (5, true)] })
def sE1 : State := sE (fun c => { c with errs := [(5, { code := 0x0F, eaddr := 3 })] })
def sE2 : State := sE (fun c => { c with fepol := 0x28, hint := some (0xFFC, .hImm 4) })
def sE3 : State := sE (fun c => { c with hint := some (0xFFC, .hImm 4) })
def sRo : State := withCtx s0 (fun c => { c with st := c.st ||| 4 })
def tr : TrapRec := { code := 0x10, acc := 2, eaddr := 0x1234, info := 5, frame := [1, 2, 3, 4, 5, 6, 7, 8, 9] }
def sH : State := withCtx s0 (fun c => { c with st := c.st ||| 3, empty := [(1, true)], frames := [4], epc := 3, deferred := [(1, tr)] })
def sRt : State := withCtx s0 (fun c => { c with st := c.st ||| 3, epc := 0x2004, tfInfo := 0x20, tsv1 := 7 })
def sY : State := sys s0
def fl : Flight := { owner := some (0, 0), ord := { okind := 2, ld := false, st := true, acq := false, rel := false, lo := 0, hi := 8 }, body := .post 5 1 0, launch := some 1 }
def sF : State := { s0 with net := [fl] }
def s40 : State := withCtx sY (fun c => { c with cspAddr := 0xF0000800000 })
def lx : Launch := { rind := 0, asid := 7, front := 0, block := 0 }
def tl : State := { withCtx sY (fun c => { c with g := [(4, 0x0FFFFFFFF00000007), (5, 0x20000)] }) with tlbs := [(0, [page 2 5 0])] }
def me3 : Reply := { ctx := 0, gen := 0, reg := 3, inTrap := false }
def shF : Flight := { owner := none, launch := none, ord := sendOrd false false, body := .shoot me3 0 0 }
def vf : State := { withMem s0 [5, 6, 7, 8] with rinds := [(0, { live := 3 })] }
def m5 : BitVec 256 := BitVec.ofNat 256 (5 + 6 * 2 ^ 64 + 7 * 2 ^ 128 + 8 * 2 ^ 192)
def vg : State := withCtx (withMem s0 [5, 6, 7, 8, 0x8000000000000003, 9, 0, 0]) (fun c => { c with g := [(3, 0x20040), (4, 0x20060)] })
def vg1 : State := (readList vg 0 0x20040 4 []).1
def sd : State := withCtx s0 (fun c => { c with g := [(3, 0x20040), (4, 0x8000000000000047), (10, 1), (11, 2), (12, 3), (13, 4), (14, 5), (15, 6)] })
def sdX : Rules.Sending := { dst := 0x47, rpt := 0, rv := true, fmt := 0, dk := 0, kind := 0, payload := Rules.six (actor sd) 10, o := 2, sc := 1 }
def sdm : State := withMem sd [0x0080000000000000, 0x43]
def sdr : State × BlockRes := blockRead sdm 0 0x20040 64
def sdY : Rules.Sending := { sdX with dst := 0x43, rpt := 0x43, rv := false, o := 0, sc := 0 }

theorem wit_EmptyRegisterStopsTheIssue :
    (∃ (i : Instr) (d : BitVec 5) (a : BitVec 5) (b : BitVec 5) (f : Dword → Dword → Dword) (s : State) (r : ℕ) (e :
    TrapRec), Rules.intr i = some (d, a, b, f) ∧ (stRoam (actor s).st = true → d.toNat ≤ 6 ∧ a.toNat ≤ 6 ∧ b.toNat ≤
    6) ∧ (r ∈ [a.toNat, b.toNat, d.toNat] ∧ ((actor s).isEmpty r = true ∧ (tfind (actor s).errs r).isSome = true) ∧
    ∀ x ∈ [a.toNat, b.toNat, d.toNat], (actor s).isEmpty x = true ∧ (tfind (actor s).errs x).isSome = true → r ≤ x)
    ∧ tfind (actor s).errs r = some e)
    ∧ (∃ (i : Instr) (d : BitVec 5) (a : BitVec 5) (b : BitVec 5) (f : Dword → Dword → Dword) (s : State) (r : ℕ),
    Rules.intr i = some (d, a, b, f) ∧ (stRoam (actor s).st = true → d.toNat ≤ 6 ∧ a.toNat ≤ 6 ∧ b.toNat ≤ 6) ∧ (∀ x
    ∈ [a.toNat, b.toNat, d.toNat], (actor s).isEmpty x = true → tfind (actor s).errs x = none) ∧ r ∈ [a.toNat,
    b.toNat, d.toNat] ∧ ((actor s).isEmpty r = true ∧ BitVec.getLsbD (actor s).fepol r = true) ∧ ∀ x ∈ [a.toNat,
    b.toNat, d.toNat], (actor s).isEmpty x = true ∧ BitVec.getLsbD (actor s).fepol x = true → r ≤ x)
    ∧ (∃ (i : Instr) (d : BitVec 5) (a : BitVec 5) (b : BitVec 5) (f : Dword → Dword → Dword) (s : State) (r : ℕ),
    Rules.intr i = some (d, a, b, f) ∧ (stRoam (actor s).st = true → d.toNat ≤ 6 ∧ a.toNat ≤ 6 ∧ b.toNat ≤ 6) ∧ (∀ x
    ∈ [a.toNat, b.toNat, d.toNat], (actor s).isEmpty x = true → tfind (actor s).errs x = none ∧ BitVec.getLsbD
    (actor s).fepol x = false) ∧ r ∈ [a.toNat, b.toNat, d.toNat] ∧ (actor s).isEmpty r = true ∧ ∀ x ∈ [a.toNat,
    b.toNat, d.toNat], (actor s).isEmpty x = true → r ≤ x)
    ∧ (∃ (i : Instr) (d : BitVec 5) (a : BitVec 5) (b : BitVec 5) (f : Dword → Dword → Dword) (s : State), Rules.intr i
    = some (d, a, b, f) ∧ stRoam (actor s).st = true ∧ ¬(d.toNat ≤ 6 ∧ a.toNat ≤ 6 ∧ b.toNat ≤ 6)) :=
  ⟨⟨.add 5 5 3 0, 5, 5, 3, fAdd, sE1, 5, { code := 0x0F, eaddr := 3 }, rfl, by decide +kernel⟩,
   ⟨.add 5 5 3 0, 5, 5, 3, fAdd, sE2, 3, rfl, by decide +kernel⟩,
   ⟨.add 5 5 3 0, 5, 5, 3, fAdd, sE3, 3, rfl, by decide +kernel⟩,
   ⟨.add 7 5 3 0, 7, 5, 3, fAdd, sRo, rfl, by decide +kernel⟩⟩

theorem wit_TrapEntry :
    ∃ (s : State) (k : ℕ) (c : TrapRec), stTrap (getCtx s k).st = false ∧ stRoam (getCtx s k).st = false ∧ (getCtx s
    k).hoop = 0 ∧ BitVec.getLsbD (getCore s (ctxCore k)).fmask (c.code % 256) = false :=
  ⟨s0, 0, tr, by decide +kernel⟩

theorem wit_DoubleTrapKills :
    ∃ (s : State) (k : ℕ) (rind : ℕ), stTrap (getCtx s k).st = true ∧ (getCtx s k).hoop = 0 ∧ ctxIdx k < 128 ∧ (∀ e
    ∈ s.streams, e.2.ctx ≠ k) ∧ coreRind s (ctxCore k) = some rind ∧ BitVec.toNat ((getRind s rind).log.head -
    (getRind s rind).log.tail) ≠ 1024 :=
  ⟨sH, 0, 0, by decide +kernel⟩

theorem wit_TrapAndReturn :
    (∃ (s : State), Ready s [])
    ∧ (∃ (s : State), Ready s [1, 2] ∧ stSys (actor s).st = true ∧ stTrap (actor s).st = true ∧ stRoam (actor s).est =
    false) :=
  ⟨⟨s0, ready_of (by decide +kernel)⟩,
   ⟨sRt, ready_of (by decide +kernel), by decide +kernel⟩⟩

theorem wit_PrivilegedFormsTrap :
    ∃ (i : Instr) (rs : List ℕ) (s : State), Rules.systemOnly i = some rs ∧ Ready s rs ∧ stRoam (actor s).st = false
    ∧ stSys (actor s).st = false :=
  ⟨.inval 3 4 1 0 0, [4, 3], s0, by decide +kernel, ready_of (by decide +kernel), by decide +kernel⟩

theorem wit_ControlRegisterRead :
    (∃ (d : BitVec 5) (i : BitVec 12) (x : Dword) (s : State), (i.toNat, x) ∈ Rules.controls s ∧ Ready s [d.toNat] ∧
    stRoam (actor s).st = false)
    ∧ (∃ (d : BitVec 5) (i : BitVec 12) (s : State), (∀ e ∈ Rules.controls s, e.1 ≠ i.toNat) ∧ i ≠ 561 ∧ Ready s
    [d.toNat] ∧ stRoam (actor s).st = false) :=
  ⟨⟨0, 0x243, ctxName s0 0, s0, by decide +kernel, ready_of (by decide +kernel), by decide +kernel⟩,
   ⟨5, 0xFFF, s0, by decide +kernel, by decide +kernel, ready_of (by decide +kernel), by decide +kernel⟩⟩

theorem wit_ControlRegisterWritten :
    (∃ (a : BitVec 5) (i : BitVec 12) (m : Dword) (s : State), (i.toNat, m) ∈ Rules.writable ∧ Ready s [a.toNat] ∧
    stRoam (actor s).st = false ∧ (stSys (actor s).st = true ∨ i = 1))
    ∧ (∃ (a : BitVec 5) (s : State), Ready s [a.toNat] ∧ stRoam (actor s).st = false ∧ stSys (actor s).st = true)
    ∧ (∃ (a : BitVec 5) (i : BitVec 12) (x : Dword) (s : State), (i.toNat, x) ∈ Rules.controls s ∧ (∀ (m : Dword),
    (i.toNat, m) ∉ Rules.writable) ∧ i ≠ 32 ∧ i ≠ 544 ∧ i ≠ 2048 ∧ Ready s [a.toNat] ∧ stRoam (actor s).st = false ∧
    stSys (actor s).st = true) :=
  ⟨⟨6, 0x253, 0xFFFFFFFF, sY, by decide +kernel, ready_of (by decide +kernel), by decide +kernel⟩,
   ⟨6, sY, ready_of (by decide +kernel), by decide +kernel⟩,
   ⟨6, 0x260, 77, sY, by decide +kernel, by intro m; simp [Rules.writable], by decide +kernel, by decide +kernel,
    by decide +kernel, ready_of (by decide +kernel), by decide +kernel⟩⟩

theorem wit_FencesNopAndHints :
    (∃ (i : Instr) (f : Flight → Bool) (s : State), Rules.fence i = some f ∧ Ready s [] ∧ (pendingOf s s.me).any f =
    false)
    ∧ (∃ (i : Instr) (f : Flight → Bool) (s : State), Rules.fence i = some f ∧ Ready s [] ∧ (pendingOf s s.me).any f =
    true)
    ∧ (∃ (i : Instr) (s : State), Rules.hint i = true ∧ Ready s []) :=
  ⟨⟨.fenceAcq 0, fun f => f.ord.ld && decide (f.ord.okind ≤ 2), sF, rfl, ready_of (by decide +kernel),
    by decide +kernel⟩,
   ⟨.fenceRel 0, fun f => decide (f.ord.okind ≤ 2), sF, rfl, ready_of (by decide +kernel), by decide +kernel⟩,
   ⟨.hMod 1 0, s0, by decide +kernel, ready_of (by decide +kernel)⟩⟩

theorem wit_YieldsAndExit :
    (∃ (i : Instr) (a : Activity) (s : State), Ready s [] ∧ (getCore s (ctxCore s.me)).running = some s.me ∧ (i =
    Instr.park ∧ a = Activity.waiting Wait.park ∨ i = Instr.gate ∧ a = Activity.waiting Wait.gate ∧ stSys (actor
    s).st = true ∨ i = Instr.yield ∧ a = Activity.runnable))
    ∧ (∃ (s : State), Ready s [] ∧ ctxIdx s.me < 128 ∧ (actor s).hoop = 0 ∧ ∀ e ∈ s.streams, e.2.ctx ≠ s.me) :=
  ⟨⟨.gate, .waiting .gate, sY, ready_of (by decide +kernel), by decide +kernel⟩,
   ⟨withCtx s0 (fun c => { c with frames := [3], loopCnt := 4 }), ready_of (by decide +kernel), by decide +kernel⟩⟩

theorem wit_QueriesAreFilled :
    ∃ (i : Instr) (rs : List ℕ) (d : BitVec 5) (x : Dword) (s : State), Rules.query s i = some (rs, d, x) ∧ Ready s
    (d.toNat :: rs) :=
  ⟨.pstatHl 4 3, [], 4, 0x300, s0, by decide +kernel, ready_of (by decide +kernel)⟩

theorem wit_SnapRaisesTheTrigger :
    ∃ (d : BitVec 5) (s : State), Ready s [d.toNat] ∧ stSys (actor s).st = true ∧ (pendingOf s s.me).isEmpty = true :=
  ⟨4, sY, ready_of (by decide +kernel), by decide +kernel⟩

theorem wit_SpecialRegisterWrites :
    (∃ (a : BitVec 5) (r : CtlReg) (s : State), Ready s [a.toNat] ∧ stSys (actor s).st = true ∧ stRoam (actor s).st =
    false ∧ (pendingOf s s.me).isEmpty = true ∧ ctlAt (BitVec.toNat (actor s).cspAddr) = some r ∧ ctlAdmits s
    (stRind (actor s).st) r = true)
    ∧ (∃ (a : BitVec 5) (l : ℕ) (x : Launch) (s : State), Ready s [a.toNat] ∧ stSys (actor s).st = true ∧ stRoam (actor
    s).st = false ∧ (actor s).launch = some l ∧ getLaunch s l = some x) :=
  ⟨⟨6, .hwin 0, s40, ready_of (by decide +kernel), by decide +kernel⟩,
   ⟨6, 1, lx, sY, ready_of (by decide +kernel), by decide +kernel⟩⟩

theorem wit_TranslationInstructions :
    (∃ (d : BitVec 5) (a : BitVec 5) (b : BitVec 5) (kind : BitVec 2) (s : State), WellFormed (Instr.tlbi d a b kind)
    ∧ Ready s [b.toNat, a.toNat, d.toNat] ∧ stSys (actor s).st = true)
    ∧ (∃ (n : ℕ) (rind : ℕ) (before : ℕ) (f : Flight) (r : Reply) (s : State), s.net[n]? = some f ∧ f.body =
    Packet.shoot r rind before)
    ∧ (∃ (d : BitVec 5) (a : BitVec 5) (ds : List Dword) (m : BitVec 256) (s : State) (s1 : State), Ready s [a.toNat,
    d.toNat] ∧ BitVec.toNat ((actor s).readG a.toNat) % 32 = 0 ∧ (pendingOf s s.me).isEmpty = true ∧ readList s s.me
    ((actor s).readG a.toNat) 4 [] = (s1, ListRes.ok ds) ∧ Rules.block32 ds m)
    ∧ (∃ (d : BitVec 5) (a : BitVec 5) (b : BitVec 5) (ds : List Dword) (es : List Dword) (m : BitVec 256) (s : State)
    (s1 : State) (s2 : State), Ready s [a.toNat, b.toNat, d.toNat] ∧ BitVec.toNat ((actor s).readG a.toNat) % 32 = 0
    ∧ BitVec.toNat ((actor s).readG b.toNat) % 32 = 0 ∧ (pendingOf s s.me).isEmpty = true ∧ readList s s.me ((actor
    s).readG a.toNat) 4 [] = (s1, ListRes.ok ds) ∧ Rules.block32 ds m ∧ readList s1 s.me ((actor s).readG b.toNat) 4
    [] = (s2, ListRes.ok es) ∧ es.getD 2 0 = 0 ∧ ctrMalformed (es.getD 0 0) = false ∧ ctrNode (es.getD 0 0) = s.node
    ∧ coreRind s2 (ctrCore (es.getD 0 0)) = some (stRind (actor s).st))
    ∧ (∃ (d : BitVec 5) (s : State), Ready s [d.toNat]) :=
  ⟨⟨3, 0, 4, 2, tl, rfl, ready_of (by decide +kernel), by decide +kernel⟩,
   ⟨0, 0, 0, shF, me3, { tl with net := [shF] }, by decide +kernel⟩,
   ⟨4, 3, [5, 6, 7, 8], m5, vf, (readList vf 0 0x20040 4 []).1, ready_of (by decide +kernel), by decide +kernel,
    by decide +kernel, by decide +kernel, by unfold Sys2Proof.Rules.block32; decide +kernel⟩,
   ⟨5, 3, 4, [5, 6, 7, 8], [0x8000000000000003, 9, 0, 0], m5, vg, vg1, (readList vg1 0 0x20060 4 []).1,
    ready_of (by decide +kernel), by decide +kernel, by decide +kernel, by decide +kernel, by decide +kernel,
    by unfold Sys2Proof.Rules.block32; decide +kernel, by decide +kernel⟩,
   ⟨0, s0, ready_of (by decide +kernel)⟩⟩

theorem wit_SendsGoOut :
    (∃ (i : Instr) (rs : List ℕ) (blk : Option (BitVec 5)) (m : Vec) (x : Rules.Sending) (s : State) (s1 : State),
    Rules.sending (actor s) m i = some (rs, blk, x) ∧ WellFormed i ∧ Ready s rs ∧ (blk = none → s1 = s) ∧ (∀ (a :
    BitVec 5), blk = some a → BitVec.toNat ((actor s).readG a.toNat) % 64 = 0 ∧ blockRead s s.me ((actor s).readG
    a.toNat) 64 = (s1, BlockRes.ok m)) ∧ x.dst < 2 ^ 29 ∧ (x.dst / 2 ^ 17 = s.node → coreRind s1 (coreOfField (x.dst
    / 64 % 2048)) = some (stRind (actor s).st)) ∧ (x.dk = 0 → x.dst / 2 ^ 17 = s.node) ∧ (actor s).unacked < 4)
    ∧ (∃ (i : Instr) (rs : List ℕ) (blk : Option (BitVec 5)) (m : Vec) (x : Rules.Sending) (s : State) (s1 : State),
    Rules.sending (actor s) m i = some (rs, blk, x) ∧ WellFormed i ∧ Ready s rs ∧ (blk = none → s1 = s) ∧ (∀ (a :
    BitVec 5), blk = some a → BitVec.toNat ((actor s).readG a.toNat) % 64 = 0 ∧ blockRead s s.me ((actor s).readG
    a.toNat) 64 = (s1, BlockRes.ok m)) ∧ x.dst < 2 ^ 29 ∧ (x.dst / 2 ^ 17 = s.node → coreRind s1 (coreOfField (x.dst
    / 64 % 2048)) = some (stRind (actor s).st)) ∧ (x.dk = 0 → x.dst / 2 ^ 17 = s.node) ∧ (actor s).unacked < 4) :=
  ⟨⟨.send 4 10 0 1 2, [4, 10, 11, 12, 13, 14, 15], none, 0, sdX, sd, sd, rfl, rfl, ready_of (by decide +kernel),
    by decide +kernel, by intro m; simp [Rules.writable], by decide +kernel⟩,
   ⟨.reply 3 10 0 0 0, [3, 10, 11, 12, 13, 14, 15], some 3, brV sdr, sdY, sdm, sdr.1, rfl, rfl,
    ready_of (by decide +kernel), by decide +kernel,
    by intro a h; cases h; exact ⟨by decide +kernel, by decide +kernel⟩, by decide +kernel⟩⟩

end Lanes

namespace PortsAndCaches

def g3 (x : Dword) : State := withCtx s0 (fun c => {c with g := [(3, x), (4, 5)]})
def pb : State := {withCtx (withMem s0 [2^31 + 5*2^16 + 3, 0, 1 * 2^48 + 2 * 2^40, 0x4000]) (fun c => {c with g := [(3, 0x20040), (4, 30)]}) with ports := [(5, {en := true, cap := 4, owner := some 1})]}
def pbr := readList pb 0 0x20040 4 []
def pbm : BitVec 256 := BitVec.ofNat 256 (2^31 + 5*2^16 + 3 + (1 * 2^48 + 2 * 2^40) * 2^128 + 0x4000 * 2^192)
def bf (n : Nat) : Flight := { owner := some (0, 0), launch := some 1, ord := sendOrd false false, body := .bind 0 (some 1) false (BitVec.ofNat 64 n) pbm {ctx := 0, gen := 0, reg := 5, inTrap := false} }
def cg : State := { withCtx s0 (fun c => {c with g := [(3, 0x30080), (4, 5)]}) with top := [(0x10081, 3)], cav := [(0x10082, 4), (0x10200, 6)], l2 := [(l2Key 0 (0x10080/128), {replica := none})], l1 := [(l1Key 0 (0x10080/128), {replica := none})], caves := [(0, {rcfg := [(0, 0x0010000010000000)], sectors := [(0x10080/1024, {rind := 0, way := 0, valid := 255, col := false, entry := 0, used := 0, validLo := 0, plain := true})], entries := [(0, {rind := 0, rc := 1, hashed := false, hash := 0, slot := none})]})] }
def cx := translate cg (ctxReq cg 0) 0x30080 .load
def cxs := translate (sys cg) (ctxReq (sys cg) 0) 0x30080 .store
def cc : State := { cg with caves := [(0, {rcfg := [(0, 0x0010000010000000)], sectors := [(0x10080/1024, {rind := 0, way := 0, valid := 255, col := true, entry := 0, used := 0, validLo := 0, plain := true})], entries := [(0, {rind := 0, rc := 1, hashed := false, hash := 0, slot := none})]})], l1 := [], l2 := [], top := [] }
def ccx := translate cc (ctxReq cc 0) 0x30080 .store
def me5 : Reply := {ctx := 0, gen := 0, reg := 5, inTrap := false}
def p3s : State := {g3 3 with patterns := [(3, {refs := [], handler := 0, cmask := 0, prio := 0, owner := some 1})]}
def t0c : Sector := {rind := 0, way := 0, valid := 255, validLo := 0, plain := true, col := true, entry := 0, used := 0}

theorem wit_PortInstructions :
    (∃ (d : BitVec 5) (a : BitVec 5) (s : State), Ready s [a.toNat, d.toNat] ∧ Rules.sendsAtOnce s)
    ∧ (∃ (d : BitVec 5) (a : BitVec 5) (b : BitVec 5) (ds : List Dword) (m : BitVec 256) (s : State) (s1 : State),
    Ready s [a.toNat, b.toNat, d.toNat] ∧ BitVec.toNat ((actor s).readG a.toNat) % 32 = 0 ∧ readList s s.me ((actor
    s).readG a.toNat) 4 [] = (s1, ListRes.ok ds) ∧ Rules.block32 ds m)
    ∧ (∃ (n : ℕ) (cn : ℕ) (i : ℕ) (launch : Option ℕ) (sys : Bool) (m : BitVec 256) (f : Flight) (r : Reply) (s :
    State), s.net[n]? = some f ∧ f.body = Packet.bind cn launch sys (BitVec.ofNat 64 i) m r ∧ mayPerform s n f =
    true ∧ i < 32 ∧ (i = 31 → sys = true) ∧ blockBad s cn launch m = false ∧ ∀ (p : Pattern), tfind s.patterns (cn *
    32 + i) = some p → p.owner = none ∨ p.owner = launch)
    ∧ (∃ (d : BitVec 5) (a : BitVec 5) (s : State), Ready s [a.toNat, d.toNat] ∧ mustWait s s.me (Rules.patternOrder
    (s.me / 256) ((actor s).readG a.toNat)) = false ∧ BitVec.toNat ((actor s).readG a.toNat) < 32 ∧ (BitVec.toNat
    ((actor s).readG a.toNat) = 31 → stSys (actor s).st = true) ∧ ∀ (p : Pattern), tfind s.patterns (s.me / 256 * 32
    + BitVec.toNat ((actor s).readG a.toNat)) = some p → p.owner = none ∨ p.owner = (actor s).launch)
    ∧ (∃ (d : BitVec 5) (a : BitVec 5) (s : State), Ready s [a.toNat, d.toNat]) :=
  ⟨⟨4, 3, g3 (2^63 + 5), ready_of (by decide +kernel), by unfold Rules.sendsAtOnce; decide +kernel⟩,
   ⟨5, 3, 4, [2^31 + 5*2^16 + 3, 0, 1 * 2^48 + 2 * 2^40, 0x4000], pbm, pb, fst pbr, ready_of (by decide +kernel),
    by decide +kernel, by decide +kernel, by unfold Sys2Proof.Rules.block32; decide +kernel⟩,
   ⟨0, 0, 30, some 1, false, pbm, bf 30, me5, {pb with net := [bf 30]}, by decide +kernel⟩,
   ⟨5, 3, p3s, ready_of (by decide +kernel), by decide +kernel⟩,
   ⟨5, 3, g3 70, ready_of (by decide +kernel)⟩⟩

theorem wit_CacheInstructions :
    (∃ (d : BitVec 5) (a : BitVec 5) (l : BitVec 2) (u : BitVec 2) (s : State) (s1 : State) (x : Xl), WellFormed
    (Instr.clean d a l u) ∧ Ready s [a.toNat, d.toNat] ∧ Machine.translate s (ctxReq s s.me) ((actor s).readG
    a.toNat) AccKind.load = (s1, Except.ok x) ∧ cachedKind s1 x = true ∧ (pendingOf s1 s.me).isEmpty = true)
    ∧ (∃ (d : BitVec 5) (a : BitVec 5) (l : BitVec 2) (u : BitVec 2) (s : State) (s1 : State) (x : Xl), WellFormed
    (Instr.inval d a 1 l u) ∧ Ready s [a.toNat, d.toNat] ∧ stSys (actor s).st = true ∧ Machine.translate s (ctxReq s
    s.me) ((actor s).readG a.toNat) AccKind.store = (s1, Except.ok x) ∧ cachedKind s1 x = true ∧ (pendingOf s1
    s.me).isEmpty = true)
    ∧ (∃ (d : BitVec 5) (a : BitVec 5) (s : State) (s1 : State) (x : Xl) (t0 : Sector), Ready s [a.toNat, d.toNat] ∧
    Machine.translate s (ctxReq s s.me) ((actor s).readG a.toNat) AccKind.store = (s1, Except.ok x) ∧ isLocal s1
    x.pa = true ∧ columnBad s1 x.pkind (paLocal x.pa) x.home = false ∧ (pendingOf s1 s.me).isEmpty = true ∧ colBit
    (Rules.marked s1 x AccKind.store) (clusterDie (coreCluster x.home)) (paLocal x.pa) = true ∧ tfind (getCave
    (Rules.marked s1 x AccKind.store) (clusterDie (coreCluster x.home))).sectors (paLocal x.pa / 1024) = some t0)
    ∧ (∃ (d : BitVec 5) (a : BitVec 5) (s : State) (s1 : State) (x : Xl), Ready s [a.toNat, d.toNat] ∧
    Machine.translate s (ctxReq s s.me) ((actor s).readG a.toNat) AccKind.load = (s1, Except.ok x) ∧ cachedKind s1 x
    = true)
    ∧ (∃ (a : BitVec 5) (t : BitVec 2) (u : BitVec 2) (s : State), WellFormed (Instr.pref a t u) ∧ Ready s [a.toNat] ∧
    (Machine.translate s (ctxReq s s.me) ((actor s).readG a.toNat) AccKind.load).2 ≠ Except.error NoXl.walking) :=
  ⟨⟨5, 3, 0, 0, cg, fst cx, okD noXl cx.2, rfl, ready_of (by decide +kernel), by decide +kernel⟩,
   ⟨5, 3, 0, 1, sys cg, fst cxs, okD noXl cxs.2, rfl, ready_of (by decide +kernel), by decide +kernel⟩,
   ⟨5, 3, cc, fst ccx, okD noXl ccx.2, t0c, ready_of (by decide +kernel), by decide +kernel⟩,
   ⟨5, 3, cg, fst cx, okD noXl cx.2, ready_of (by decide +kernel), by decide +kernel⟩,
   ⟨3, 1, 1, cg, rfl, ready_of (by decide +kernel), by decide +kernel⟩⟩

end PortsAndCaches

namespace ContextMoves

def vl : State := { withCtx s0 (fun c => {c with g := [(3, 0x20000), (4, 0x7F)], v := [(1, BitVec.ofNat 512 (2^512-1)), (2, 5)]}) with mem := [(0x8000000007F, 1), (0x80000000080, 2)] }
def noP : Rules.Parts := {wants := [], aligned := false, load := false, d := 0, base := 0, regs := []}
def pl (s : State) (i : Instr) := (Rules.parts (actor s) i).getD noP
def pq (s : State) (i : Instr) := checkAll s 0 (pl s i).aligned (pl s i).wants
def qs (s : State) (i : Instr) := okD [] (pq s i).2
def qq (s : State) (i : Instr) := (qs s i).flatMap (packetParts (fst (pq s i)))
def p2 (s : State) (i : Instr) : State := fst (partsReady (fst (pq s i)) 0 (qq s i))
def rp (s : State) (i : Instr) := runParts ((qq s i).foldl (fun s q => Rules.marked s q.2.2.1 (opAcc q.1.op)) (p2 s i)) 0 (qq s i) { val := (pl s i).base }
def vg : State := withCtx vl (fun c => {c with g := [(3, 0x30000)], v := [(2, BitVec.ofNat 512 (5 + 0xFFFF000000000000)), (5, BitVec.ofNat 512 ((2^32 + 7) * (2^64 + 1) - 2^32))], p := [(1, 0x1011)]})
def gi2 : Instr := .vgath 2 3 5 1 0 2
def vh : State := withCtx vg (fun c => {c with g := [(3, 0x40000)]})
def sp : State := setCtx (setCtx (withCtx s0 (fun c => {c with g := [(3, 0x4000), (10,1),(11,2),(12,3),(13,4),(14,5)], st := c.st ||| 0x18})) 1 {Ctx.initial 1 with launch := some 1, act := .waiting .park}) 2 {Ctx.initial 2 with launch := some 1, empty := [(3,true)], g := [(1,9)]}
def sr : State := {withCtx s0 (fun c => {c with g := [(3, 0x4000), (10,0x40000),(11,2),(12,3),(13,4),(14,5),(15,6)]}) with recs := [(2048, { asid := 7, root := 0x4000, tvec := 0x9000 }), (2049, {asid := 7})]}
def mg : State := withCtx sr (fun c => {c with g := [(3, 0x40000)]})
def mgx (s : State) := translate s (ctxReq s 0) 0x40000 .load
def mr : State := withCtx mg (fun c => {c with st := c.st ||| 4})
def lr : Launch := { rind := 0, asid := 7, front := 0, block := 0 }
def lrF : Launch := { rind := 0, asid := 7, front := 0, block := 0, roaming := 65536 }
def srF : State := {sr with launches := [(1, lrF)]}

theorem wit_SplitAndLaneAccesses :
    ∃ (i : Instr) (p : Rules.Parts) (s : State) (s1 : State) (s2 : State) (s3 : State) (qs : List (Want × Access ×
    Xl × Bool)) (r : Parts), Rules.parts (actor s) i = some p ∧ WellFormed i ∧ Ready s p.regs ∧ checkAll s s.me
    p.aligned p.wants = (s1, Except.ok qs) ∧ (∀ q ∈ List.flatMap (packetParts s1) qs, q.2.2.2 = true → mustWait s1
    s.me (accessOrd s1 q.1 q.2.1 q.2.2.1) = false) ∧ partsReady s1 s.me (List.flatMap (packetParts s1) qs) = (s2,
    none) ∧ runParts (List.foldl (fun s q => Rules.marked s q.2.2.1 (opAcc q.1.op)) s2 (List.flatMap (packetParts
    s1) qs)) s.me (List.flatMap (packetParts s1) qs) { val := p.base } = (s3, r) ∧ r.trap = none :=
  ⟨gi2, pl vh gi2, vh, fst (pq vh gi2), p2 vh gi2, (rp vh gi2).1, qs vh gi2, (rp vh gi2).2, rfl, rfl,
    ready_of (by decide +kernel), by decide +kernel, by decide +kernel, by decide +kernel, rfl, by decide +kernel⟩

theorem wit_SpawnStartsAContext :
    (∃ (d : BitVec 5) (a : BitVec 5) (b : BitVec 5) (s : State) (l : ℕ), WellFormed (Instr.spawn d a b) ∧ Ready s
    (a.toNat :: d.toNat :: List.map (fun i => b.toNat + i) (List.range 5)) ∧ BitVec.toNat ((actor s).readG a.toNat)
    % 4 = 0 ∧ (actor s).launch = some l ∧ (actor s).act ≠ Activity.dormant ∧ Rules.sendsAtOnce s ∧ ∀ (i : ℕ), ¬(i <
    16 ∧ (getCtx s (ctxCore s.me * 256 + i)).act = Activity.dormant ∧ (getCtx s (ctxCore s.me * 256 + i)).launch =
    some l))
    ∧ (∃ (d : BitVec 5) (a : BitVec 5) (b : BitVec 5) (s : State) (l : ℕ) (i : ℕ), WellFormed (Instr.spawn d a b) ∧
    Ready s (a.toNat :: d.toNat :: List.map (fun i => b.toNat + i) (List.range 5)) ∧ BitVec.toNat ((actor s).readG
    a.toNat) % 4 = 0 ∧ (actor s).launch = some l ∧ (actor s).act ≠ Activity.dormant ∧ Rules.sendsAtOnce s ∧ (i < 16
    ∧ (getCtx s (ctxCore s.me * 256 + i)).act = Activity.dormant ∧ (getCtx s (ctxCore s.me * 256 + i)).launch = some
    l) ∧ ∀ j < i, ¬(j < 16 ∧ (getCtx s (ctxCore s.me * 256 + j)).act = Activity.dormant ∧ (getCtx s (ctxCore s.me *
    256 + j)).launch = some l)) :=
  ⟨⟨4, 3, 10, setCtx sp 2 {Ctx.initial 2 with launch := some 2}, 1, rfl, ready_of (by decide +kernel),
    by decide +kernel, by decide +kernel, by decide +kernel, rfl,
    by intro i h; obtain ⟨hi, hr⟩ := h; revert hr; revert i; decide +kernel⟩,
   ⟨0, 3, 10, sp, 1, 2, rfl, ready_of (by decide +kernel), by decide +kernel, by decide +kernel, by decide +kernel,
    rfl, by decide +kernel⟩⟩

theorem wit_RoamingContextsMove :
    (∃ (d : BitVec 5) (a : BitVec 5) (b : BitVec 5) (h : BitVec 1) (s : State) (l : ℕ) (x : Launch), WellFormed
    (Instr.spawnr d a b h) ∧ Ready s (a.toNat :: d.toNat :: List.map (fun i => b.toNat + i) (List.range 6)) ∧
    BitVec.toNat ((actor s).readG a.toNat) % 4 = 0 ∧ (actor s).launch = some l ∧ getLaunch s l = some x ∧ 65536 ≤
    x.roaming)
    ∧ (∃ (d : BitVec 5) (a : BitVec 5) (b : BitVec 5) (h : BitVec 1) (s : State) (s1 : State) (l : ℕ) (cn : ℕ) (x :
    Launch), WellFormed (Instr.spawnr d a b h) ∧ Ready s (a.toNat :: d.toNat :: List.map (fun i => b.toNat + i)
    (List.range 6)) ∧ BitVec.toNat ((actor s).readG a.toNat) % 4 = 0 ∧ (actor s).launch = some l ∧ getLaunch s l =
    some x ∧ x.roaming < 65536 ∧ spawnTarget s s.me (h == 1) ((actor s).readG b.toNat) = (s1, SpawnAt.core cn))
    ∧ (∃ (a : BitVec 5) (s : State) (s1 : State) (x : Xl), Ready s [a.toNat] ∧ Machine.translate s (ctxReq s s.me)
    ((actor s).readG a.toNat) AccKind.load = (s1, Except.ok x) ∧ (stRoam (actor s).st = false ∨ homeKey x.pa x.home
    = (Rules.marked s1 x AccKind.load).node * 2048 + ctxCore s.me ∨ x.pkind = 4))
    ∧ (∃ (a : BitVec 5) (s : State) (s1 : State) (x : Xl), Ready s [a.toNat] ∧ Machine.translate s (ctxReq s s.me)
    ((actor s).readG a.toNat) AccKind.load = (s1, Except.ok x) ∧ stRoam (actor s).st = true ∧ homeKey x.pa x.home ≠
    (Rules.marked s1 x AccKind.load).node * 2048 + ctxCore s.me ∧ x.pkind ≠ 4 ∧ ∀ (r : ℕ), 1 ≤ r → r ≤ 6 → (actor
    s).isEmpty r = false) :=
  ⟨⟨0, 3, 10, 0, srF, 1, lrF, rfl, ready_of (by decide +kernel), by decide +kernel⟩,
   ⟨4, 3, 10, 1, sr, fst (spawnTarget sr 0 true 0x40000), 1, 1, lr, rfl, ready_of (by decide +kernel),
    by decide +kernel⟩,
   ⟨3, mg, fst (mgx mg), okD noXl (mgx mg).2, ready_of (by decide +kernel), by decide +kernel⟩,
   ⟨3, mr, fst (mgx mr), okD noXl (mgx mr).2, ready_of (by decide +kernel), by decide +kernel⟩⟩

end ContextMoves

namespace CountersAndTasks

def gs (f : List (Nat × Dword)) : State := withCtx s0 (fun c => {c with g := f})
def ho : State := {gs [(3, 0x20040)] with mem := dwords 0x80000000040 [5]}
def hw (op : AccOp) : Want := Rules.hoopWant op 0x20040 4
def hp (s : State) (op : AccOp) := performAt (settlePredictor (Rules.marked (stC s (hw op)) (xlC s (hw op)) (opAcc op)) 0 (homeKey (acC s (hw op)).pa (acC s (hw op)).home) true) (acC s (hw op))
def hh : State := withCtx ho (fun c => {c with hoop := 0x20040})
def kl (x : Dword) (c : Ctx) : State := setCtx (gs [(3, x)]) 2 c
def k2 : Ctx := {Ctx.initial 2 with launch := some 1, act := .runnable, empty := [(3,true)], g := [(1,9)], st := (Ctx.initial 2).st ||| 0x500000000, frames := [4]}
def ct : State := gs [(3, 0x8000000000000003), (4, 2^32+7)]
def bw : State := gs [(3, 0x30008), (4, 5), (5, 0x1F)]
def bwx := translate bw (ctxReq bw 0) 0x30008 .load
def tb (ds : List Nat) : State := withMem (gs [(3, 0x20040), (4, 0x8000000000000005)]) ds
def tq : List Nat := [0,0,0,0,0, 2 * 2^16 + 3 * 2^32, 0, 0x77]
def tr (s : State) := blockRead s 0 0x20040 64
def t1 := tb tq
def t2 : State := {t1 with clusters := [(0, {rind := some 0, arms := [(5, {state := .armed, owner := 1})]})]}
def t3 : State := {t1 with clusters := [(0, {rind := some 0, arms := [(5, {state := .ready, onRack := true, owner := 2})]})]}
def td : State := {t1 with mem := dwords 0x80000000040 [0,0,0,0,0, 2, 0x200A0, 0x77, 0,0,0,0,0x8000000000000005, 0x8000000000000006]}
def td1 := tr td
def td2 := readList (fst td1) 0 0x200A0 2 []
def rk : State := {t1 with clusters := [(0, {rind := some 0, arms := [(4, {state := .ready, onRack := true, owner := 2, pcls := 0}), (5, {state := .ready, onRack := true, owner := 1, pcls := 3, block := 8, probe := 9}), (6, {state := .ready, onRack := true, owner := 1, pcls := 1, block := 7})]}), (1, {rind := some 0, arms := [(4, {state := .ready, onRack := true, owner := 1, pcls := 1, block := 66})]})]}
def stp (todo : List Nat) (st : State) : State := { st with net := [{ owner := some (0, 0), ord := { okind := 2, ld := true, st := false, acq := true, rel := false, lo := 0, hi := 0, scope := 3 }, body := .steal {ctx := 0, gen := 0, reg := 5, inTrap := false} 1 todo, launch := some 1 }] }
def stf (todo : List Nat) : Flight := (stp todo t1).net.headD {owner := none, ord := sendOrd false false, body := .post 0 0 0, launch := none}
def hq (op : AccOp) : Access := {noAccess with op := op, dest := .g 4 false, n := 8, pa := 0x80000000040, va := 0x20040, pkind := 3, size := 3}
def ho2 : State := {gs [(3, 0x20040)] with mem := dwords 0x80000000040 [2^40 + 2^32 - 1]}
def ho3 : State := {gs [(3, 0x20040)] with mem := dwords 0x80000000040 [2^40 + 2^32 - 2]}
def e6 : Arm := {state := .ready, onRack := true, owner := 1, pcls := 1, block := 7}
def e4 : Arm := {state := .ready, onRack := true, owner := 1, pcls := 1, block := 66}

theorem own_tasks : ∀ n ∈ rlL td2, Rules.ownTask (fst td2) n := by
  rw [show rlL td2 = [0x8000000000000005, 0x8000000000000006] by decide +kernel]
  intro n h
  unfold Rules.ownTask Rules.taskName
  rcases List.mem_cons.1 h with rfl | h
  · decide +kernel
  · cases List.mem_singleton.1 h; decide +kernel

theorem wit_HoopsJoinAndLeave :
    (∃ (op : AccOp) (d : BitVec 5) (a : BitVec 5) (ea : Dword) (i : Instr) (s : State) (s1 : State) (s2 : State) (q :
    Access) (x : Xl) (v : Vec), (i = Instr.hoopin d a ∧ op = AccOp.hoopIn ∧ ea = (actor s).readG a.toNat ∨ i =
    Instr.hoopout d ∧ a = 0 ∧ op = AccOp.hoopOut ∧ ea = (actor s).hoop ∧ ea ≠ 0) ∧ Ready s [a.toNat, d.toNat] ∧
    stRoam (actor s).st = false ∧ BitVec.toNat ea % 64 = 0 ∧ checkAccess s s.me (Rules.hoopWant op ea d) = (s1,
    Except.ok (q, x, true)) ∧ mustWait s1 s.me (accessOrd s1 (Rules.hoopWant op ea d) q x) = false ∧ performAt
    (settlePredictor (Rules.marked s1 x (opAcc op)) s.me (homeKey q.pa q.home) true) q = (s2, Performed.ok v))
    ∧ (∃ (d : BitVec 5) (s : State), Ready s [d.toNat] ∧ stRoam (actor s).st = false ∧ (actor s).hoop = 0)
    ∧ (∃ (s : State) (s' : State) (q : Access) (v : Vec), q.op = AccOp.hoopIn ∧ (∀ j < 8, windowOf (paLocal q.pa + j) =
    Window.scratch) ∧ Rules.correct s (paLocal q.pa) 8 ∧ performAt s q = (s', Performed.ok v) ∧ ¬((getCtx s
    q.ctx).hoop ≠ 0 ∨ BitVec.toNat (readVec s (paLocal q.pa) 8) % 2 ^ 32 = 2 ^ 32 - 1))
    ∧ (∃ (s : State) (s' : State) (q : Access) (v : Vec), q.op = AccOp.hoopIn ∧ (∀ j < 8, windowOf (paLocal q.pa + j) =
    Window.scratch) ∧ Rules.correct s (paLocal q.pa) 8 ∧ performAt s q = (s', Performed.ok v) ∧ ((getCtx s
    q.ctx).hoop ≠ 0 ∨ BitVec.toNat (readVec s (paLocal q.pa) 8) % 2 ^ 32 = 2 ^ 32 - 1))
    ∧ (∃ (s : State) (s' : State) (q : Access) (v : Vec), q.op = AccOp.hoopOut ∧ (∀ j < 8, windowOf (paLocal q.pa + j)
    = Window.scratch) ∧ Rules.correct s (paLocal q.pa) 8 ∧ performAt s q = (s', Performed.ok v) ∧ 0 < BitVec.toNat
    (readVec s (paLocal q.pa) 8) % 2 ^ 32) :=
  ⟨⟨.hoopIn, 4, 3, 0x20040, .hoopin 4 3, ho, stC ho (hw .hoopIn), fst (hp ho .hoopIn), acC ho (hw .hoopIn),
    xlC ho (hw .hoopIn), vecP (hp ho .hoopIn), by decide +kernel, ready_of (by decide +kernel), by decide +kernel⟩,
   ⟨4, ho, ready_of (by decide +kernel), by decide +kernel⟩,
   ⟨ho3, fst (performAt ho3 (hq .hoopIn)), hq .hoopIn, vecP (performAt ho3 (hq .hoopIn)), by decide +kernel,
    by decide +kernel, by unfold Sys2Proof.Rules.correct; decide +kernel, by decide +kernel⟩,
   ⟨ho2, fst (performAt ho2 (hq .hoopIn)), hq .hoopIn, vecP (performAt ho2 (hq .hoopIn)), by decide +kernel,
    by decide +kernel, by unfold Sys2Proof.Rules.correct; decide +kernel, by decide +kernel⟩,
   ⟨hh, fst (performAt hh (hq .hoopOut)), hq .hoopOut, vecP (performAt hh (hq .hoopOut)), by decide +kernel,
    by decide +kernel, by unfold Sys2Proof.Rules.correct; decide +kernel, by decide +kernel⟩⟩

theorem wit_KillEndsItsTarget :
    ∃ (d : BitVec 5) (a : BitVec 5) (s : State), Ready s [a.toNat, d.toNat] :=
  ⟨0, 3, kl 0x0000050000000002 k2, ready_of (by decide +kernel)⟩

theorem wit_CounterInstructions :
    (∃ (i : Instr) (rs : List ℕ) (a : BitVec 5) (addend : Word) (sc : BitVec 2) (o : BitVec 2) (s : State), (i =
    Instr.cinc a sc o ∧ rs = [a.toNat] ∧ addend = 1 ∨ ∃ b, i = Instr.cadd a b sc o ∧ rs = [a.toNat, b.toNat] ∧
    addend = BitVec.setWidth 32 ((actor s).readG b.toNat)) ∧ Ready s rs ∧ ctrBad s (stRind (actor s).st) ((actor
    s).readG a.toNat) = false)
    ∧ (∃ (d : BitVec 5) (a : BitVec 5) (s : State), Ready s [a.toNat, d.toNat] ∧ ctrBad s (stRind (actor s).st) ((actor
    s).readG a.toNat) = false ∧ BitVec.toNat ((actor s).readG a.toNat) / 2 ^ 48 % 2 ^ 12 = s.node ∧ coreOfField
    (BitVec.toNat ((actor s).readG a.toNat) / 2 ^ 37 % 2 ^ 11) = ctxCore s.me ∧ (pendingOf s s.me).isEmpty = true)
    ∧ (∃ (d : BitVec 5) (a : BitVec 5) (s : State), Ready s [a.toNat, d.toNat] ∧ ctrBad s (stRind (actor s).st) ((actor
    s).readG a.toNat) = false ∧ BitVec.toNat ((actor s).readG a.toNat) / 2 ^ 48 % 2 ^ 12 = s.node ∧ coreOfField
    (BitVec.toNat ((actor s).readG a.toNat) / 2 ^ 37 % 2 ^ 11) ≠ ctxCore s.me)
    ∧ (∃ (d : BitVec 5) (a : BitVec 5) (b : BitVec 5) (s : State), Ready s [a.toNat, b.toNat, d.toNat] ∧ ctrBad s
    (stRind (actor s).st) ((actor s).readG a.toNat) = false ∧ BitVec.toNat ((actor s).readG a.toNat) / 2 ^ 48 % 2 ^
    12 = s.node ∧ BitVec.toNat ((actor s).readG b.toNat) / 2 ^ 61 = 0)
    ∧ (∃ (d : BitVec 5) (a : BitVec 5) (b : BitVec 5) (s : State) (s1 : State) (x : Xl), Ready s [a.toNat, b.toNat,
    d.toNat] ∧ BitVec.toNat ((actor s).readG a.toNat) % 8 = 0 ∧ Machine.translate s (ctxReq s s.me) ((actor s).readG
    a.toNat) AccKind.load = (s1, Except.ok x) ∧ (BitVec.setWidth 32 ((actor s).readG d.toNat)).toNat < 2 ^ 29 ∧
    isLocal s1 x.pa = true) :=
  ⟨⟨.cadd 3 4 1 0, [3,4], 3, 7, 1, 0, ct, by decide +kernel, ready_of (by decide +kernel), by decide +kernel⟩,
   ⟨5, 3, ct, ready_of (by decide +kernel), by decide +kernel⟩,
   ⟨5, 3, gs [(3, 0x8000002000000003)], ready_of (by decide +kernel), by decide +kernel⟩,
   ⟨5, 3, 4, ct, ready_of (by decide +kernel), by decide +kernel⟩,
   ⟨5, 3, 4, bw, fst bwx, okD noXl bwx.2, ready_of (by decide +kernel), by decide +kernel⟩⟩

theorem wit_TaskInstructions :
    (∃ (d : BitVec 5) (a : BitVec 5) (b : BitVec 5) (s : State) (s1 : State) (blk : Vec), Ready s [a.toNat, b.toNat,
    d.toNat] ∧ BitVec.toNat ((actor s).readG a.toNat) % 64 = 0 ∧ blockRead s s.me ((actor s).readG a.toNat) 64 =
    (s1, BlockRes.ok blk) ∧ Rules.goodTask blk ∧ Rules.ownTask s1 ((actor s).readG b.toNat) ∧ (Rules.armOf s1
    ((actor s).readG b.toNat)).state = ArmState.free ∧ BitVec.toNat blk / 2 ^ 336 % 2 ^ 16 ≠ 0)
    ∧ (∃ (d : BitVec 5) (a : BitVec 5) (b : BitVec 5) (s : State) (s1 : State) (blk : Vec), Ready s [a.toNat, b.toNat,
    d.toNat] ∧ BitVec.toNat ((actor s).readG a.toNat) % 64 = 0 ∧ blockRead s s.me ((actor s).readG a.toNat) 64 =
    (s1, BlockRes.ok blk) ∧ Rules.goodTask blk ∧ Rules.ownTask s1 ((actor s).readG b.toNat) ∧ (Rules.armOf s1
    ((actor s).readG b.toNat)).state ≠ ArmState.free)
    ∧ (∃ (d : BitVec 5) (a : BitVec 5) (s : State), Ready s [a.toNat, d.toNat] ∧ Rules.ownTask s ((actor s).readG
    a.toNat))
    ∧ (∃ (d : BitVec 5) (a : BitVec 5) (s : State) (s1 : State) (s2 : State) (blk : Vec) (ns : List Dword), Ready s
    [a.toNat, d.toNat] ∧ BitVec.toNat ((actor s).readG a.toNat) % 64 = 0 ∧ blockRead s s.me ((actor s).readG
    a.toNat) 64 = (s1, BlockRes.ok blk) ∧ Rules.goodTask blk ∧ readList s1 s.me (BitVec.extractLsb' 384 64 blk)
    (BitVec.toNat blk / 2 ^ 320 % 256) [] = (s2, ListRes.ok ns) ∧ ∀ n ∈ ns, Rules.ownTask s2 n)
    ∧ (∃ (d : BitVec 5) (s : State) (e : ℕ × Arm), Ready s [d.toNat] ∧ e ∈ (getCluster s (s.me / 2048)).arms ∧
    e.2.onRack = true ∧ e.2.owner = (actor s).launch.getD 0)
    ∧ (∃ (d : BitVec 5) (s : State), Ready s [d.toNat])
    ∧ (∃ (n : ℕ) (launch : ℕ) (todo : List ℕ) (f : Flight) (r : Reply) (s : State) (cl : ℕ) (rest : List ℕ) (e : ℕ ×
    Arm), s.net[n]? = some f ∧ f.body = Packet.steal r launch todo ∧ mayPerform s n f = true ∧ stGen (getCtx s
    r.ctx).st = r.gen ∧ todo = cl :: rest ∧ (getCluster s cl).rind = some (stRind (getCtx s r.ctx).st) ∧ e ∈
    (getCluster s cl).arms ∧ e.2.onRack = true ∧ e.2.owner = launch) :=
  ⟨⟨5, 3, 4, t1, fst (tr t1), brV (tr t1), ready_of (by decide +kernel), by decide +kernel, by decide +kernel,
    by unfold Sys2Proof.Rules.goodTask; decide +kernel,
    by unfold Sys2Proof.Rules.ownTask; exact ⟨by unfold Sys2Proof.Rules.taskName; decide +kernel, by decide +kernel⟩,
    by decide +kernel⟩,
   ⟨5, 3, 4, t2, fst (tr t2), brV (tr t2), ready_of (by decide +kernel), by decide +kernel, by decide +kernel,
    by unfold Sys2Proof.Rules.goodTask; decide +kernel,
    by unfold Sys2Proof.Rules.ownTask; exact ⟨by unfold Sys2Proof.Rules.taskName; decide +kernel, by decide +kernel⟩,
    by decide +kernel⟩,
   ⟨5, 4, t3, ready_of (by decide +kernel),
    by unfold Sys2Proof.Rules.ownTask; exact ⟨by unfold Sys2Proof.Rules.taskName; decide +kernel, by decide +kernel⟩⟩,
   ⟨5, 3, td, fst td1, fst td2, brV td1, rlL td2, ready_of (by decide +kernel), by decide +kernel,
    by decide +kernel, by unfold Sys2Proof.Rules.goodTask; decide +kernel, by decide +kernel, own_tasks⟩,
   ⟨5, rk, (6, e6), ready_of (by decide +kernel), by decide +kernel⟩,
   ⟨5, t1, ready_of (by decide +kernel)⟩,
   ⟨0, 1, [1, 2], stf [1, 2], {ctx := 0, gen := 0, reg := 5, inTrap := false}, stp [1, 2] rk, 1, [2], (4, e4),
    by decide +kernel⟩⟩

end CountersAndTasks

namespace Commands

def gs (f : List (Nat × Dword)) : State := withCtx s0 (fun c => {c with g := f})
def cm : State := gs [(3, 0x20040), (4, 0x20080), (5, 0x100000010)]
def sbb : State := withMem (gs [(3, 0x20040)]) [0x30000, 64, 64 * 2^32 + 2^48, 0]
def sbbr := blockRead sbb 0 0x20040 64
def sb : State := withMem (gs [(3, 0x20040)]) [0x30000, 64, 64 * 2^32 + 2^48, 1 + 2^16 + 2^25]
def full : State := {sb with streams := (List.range 16).map (fun j => (j, {rdS with ctx := 3, reg := j}))}
def fr := blockRead full 0 0x20040 64
def s15 : State := {sb with streams := (List.range 15).map (fun j => (j, {rdS with ctx := 3, reg := j}))}
def f15 := blockRead s15 0 0x20040 64
def wrC : Stream := {wrS with far := 2, masks := [5], closing := []}
def cc (x : Instr) : Rules.Command := (Rules.command cm x).getD {regs := [], reg := 0, engine := 0, msg := 0, o := 0, sc := 0}
def b1 : State := {withMem (gs [(3, 0x20040)]) [1,2] with clusters := [(0, {rind := some 0, bcache := [(0, [(0x80000000040, 0, 0, 5), (0x80000000080, 0, 0, 6)])]})]}
def bx := translate b1 (ctxReq b1 0) 0x20040 .load
def cq : Queued := {msg := 0, body := 0, launch := some 1, owner := none, ord := sendOrd false false, reply := {ctx := 0, gen := 0, reg := 3, inTrap := false}}
def cpb (tag : Nat) : BitVec 512 := BitVec.ofNat 512 (0x30000 + 0x40000 * 2^64 + 4096 * 2^128 + tag * 2^304)
def cpx (tag : Nat) : Copy := {cmd := cq, block := cpb tag, follow := none, done := [], ending := none, stopping := false}
def b3 : State := {gs [(3, 0x50007)] with clusters := [(0, {rind := some 0, copies := [(0, cpx 7), (1, cpx 8), (5, cpx 7)]})]}
def b4 : State := {gs [(3, 0x50007)] with clusters := [(0, {rind := some 0, press := [(1, {cmds := [{cmd := {cq with msg := pressMessage b3 0 0 0 0 5 1 0x30000 none}, block := BitVec.ofNat 512 (7 * 2^240), phase := .copy 0, stopping := false}]})]})]}
def sC : State := {sStr with streams := [(0, rdS), (1, wrC)]}

theorem wit_CommandsReachTheEngines :
    ∃ (i : Instr) (x : Rules.Command) (s : State), Rules.command s i = some x ∧ WellFormed i ∧ Ready s x.regs :=
  ⟨.cpyc 7 3 4 0 0 0, cc (.cpyc 7 3 4 0 0 0), cm, rfl, rfl, ready_of (by decide +kernel)⟩

theorem wit_BlockCachesAndStops :
    (∃ (d : BitVec 5) (a : BitVec 5) (s : State) (s1 : State) (x : Xl), Ready s [a.toNat, d.toNat] ∧
    Machine.translate s (ctxReq s s.me) ((actor s).readG a.toNat) AccKind.load = (s1, Except.ok x))
    ∧ (∃ (d : BitVec 5) (s : State), Ready s [d.toNat])
    ∧ (∃ (d : BitVec 5) (a : BitVec 5) (l : BitVec 1) (s : State), Ready s [a.toNat, d.toNat] ∧ commandUnderway s s.me
    (8 * (s.me / 2048) + l.toNat) = false ∧ inboxOf s (s.me / 2048) l.toNat = [] ∧ tsorted (getCluster s (s.me /
    2048)).copies = true)
    ∧ (∃ (d : BitVec 5) (a : BitVec 5) (p : BitVec 2) (s : State), Ready s [a.toNat, d.toNat] ∧ commandUnderway s s.me
    (8 * (s.me / 2048) + 2 + p.toNat) = false ∧ inboxOf s (s.me / 2048) (2 + p.toNat) = []) :=
  ⟨⟨5, 3, b1, fst bx, okD noXl bx.2, ready_of (by decide +kernel), by decide +kernel⟩,
   ⟨5, b1, ready_of (by decide +kernel)⟩,
   ⟨5, 3, 0, b3, ready_of (by decide +kernel), by decide +kernel⟩,
   ⟨5, 3, 1, b4, ready_of (by decide +kernel), by decide +kernel⟩⟩

theorem wit_StreamInstructions :
    (∃ (d : BitVec 5) (a : BitVec 5) (b : BitVec 3) (s : State) (s1 : State) (blk : Vec) (j : ℕ), Ready s [a.toNat,
    d.toNat, 56 + b.toNat] ∧ BitVec.toNat ((actor s).readG a.toNat) % 64 = 0 ∧ blockRead s s.me ((actor s).readG
    a.toNat) 64 = (s1, BlockRes.ok blk) ∧ streamBad blk = false ∧ j < 16 ∧ tfind s1.streams (ctxCore s.me * 16 + j)
    = none ∧ (∀ i < j, (tfind s1.streams (ctxCore s.me * 16 + i)).isSome = true) ∧ (pendingOf s1 s.me).isEmpty =
    true)
    ∧ (∃ (d : BitVec 5) (a : BitVec 5) (b : BitVec 3) (s : State) (s1 : State) (blk : Vec), Ready s [a.toNat, d.toNat,
    56 + b.toNat] ∧ BitVec.toNat ((actor s).readG a.toNat) % 64 = 0 ∧ blockRead s s.me ((actor s).readG a.toNat) 64
    = (s1, BlockRes.ok blk) ∧ streamBad blk = true)
    ∧ (∃ (d : BitVec 5) (a : BitVec 5) (b : BitVec 3) (s : State) (s1 : State) (blk : Vec), Ready s [a.toNat, d.toNat,
    56 + b.toNat] ∧ BitVec.toNat ((actor s).readG a.toNat) % 64 = 0 ∧ blockRead s s.me ((actor s).readG a.toNat) 64
    = (s1, BlockRes.ok blk) ∧ streamBad blk = false ∧ ∀ j < 16, (tfind s1.streams (ctxCore s.me * 16 + j)).isSome =
    true)
    ∧ (∃ (d : BitVec 5) (a : BitVec 5) (b : BitVec 3) (s : State) (j : ℕ), Ready s [a.toNat, d.toNat] ∧ stRoam (actor
    s).st = false ∧ (actor s).isEmpty (56 + b.toNat) = false ∧ streamSlot s s.me (24 + b.toNat) = some j)
    ∧ (∃ (d : BitVec 5) (b : BitVec 3) (s : State), Ready s [d.toNat] ∧ stRoam (actor s).st = false ∧ streamSlot s s.me
    (24 + b.toNat) = none)
    ∧ (∃ (d : BitVec 5) (b : BitVec 3) (s : State) (j : ℕ) (x : Machine.Stream), Ready s [d.toNat] ∧ stRoam (actor
    s).st = false ∧ streamSlot s s.me (24 + b.toNat) = some j ∧ tfind s.streams j = some x ∧ x.closing = [] ∧
    (streamWrite x.desc = false ∨ x.owed = none ∧ (x.fail.isSome = true ∨ x.pos = x.far)))
    ∧ (∃ (d : BitVec 5) (b : BitVec 3) (s : State) (j : ℕ) (x : Machine.Stream), Ready s [d.toNat] ∧ stRoam (actor
    s).st = false ∧ streamSlot s s.me (24 + b.toNat) = some j ∧ tfind s.streams j = some x ∧ (x.closing ≠ [] ∨
    streamWrite x.desc = true ∧ (x.owed.isSome = true ∨ x.fail = none ∧ x.pos ≠ x.far)))
    ∧ (∃ (d : BitVec 5) (s : State), Ready s [d.toNat] ∧ stRoam (actor s).st = false) :=
  ⟨⟨5, 3, 2, s15, fst f15, brV f15, 15, ready_of (by decide +kernel), by decide +kernel⟩,
   ⟨5, 3, 2, sbb, fst sbbr, brV sbbr, ready_of (by decide +kernel), by decide +kernel⟩,
   ⟨5, 3, 2, full, fst fr, brV fr, ready_of (by decide +kernel), by decide +kernel⟩,
   ⟨5, 3, 0, sStr, 0, ready_of (by decide +kernel), by decide +kernel⟩,
   ⟨5, 2, sStr, ready_of (by decide +kernel), by decide +kernel⟩,
   ⟨5, 0, sStr, 0, rdS, ready_of (by decide +kernel), by decide +kernel⟩,
   ⟨5, 1, sC, 1, wrC, ready_of (by decide +kernel), by decide +kernel⟩,
   ⟨5, sStr, ready_of (by decide +kernel), by decide +kernel⟩⟩

end Commands

namespace Controllers

def k1 : State := {s0 with mem := dwords 0x10000 [1,2,3,4] ++ dwords 0x40000000 [9], ctls := [(0, {acnt := [(3,9)], ce := 4, ue := 5, hreqBusy := true, q := true, qd := true, pcstage := [(0, 0x202080)], pcmask := [(1,0x300100)]}), (1, {acnt := [(1,1)]})]}
def v1 : State := {s0 with caves := [(0, {twdis := 1, dbdis := 2, rcfg := [(1, 0xF0F000001000)]})]}
def sct (e : Nat) : Sector := {rind := 0, way := 1, valid := 255, validLo := 255, plain := true, col := false, entry := e, used := 3}
def ce1 : CEntry := {rind := 0, rc := 1, hashed := false, hash := 0, slot := none}
def vm : State := {s0 with mem := dwords (1024*8) [1,2,3] ++ dwords (1024 * 9) [1,2,3], rmap := [(0, 0x40)], caves := [(0, {rcfg := [(0, 0x0030000010000000)], sectors := [(8, sct 0), (9, sct 1)], entries := [(0, ce1), (1, ce1)], queue := [8, 9]})]}
def bsl : State := match execCaveHash 0 vm with | .next t => t | _ => vm
def cc9 : State := {k1 with quarantine := [], ctls := [(0, {copying := some 4, rows := [(8,3),(9,2)], chans := 1})]}
def f0 : CEntry := (tfind (getCave bsl 0).entries 0).getD ce1

theorem wit_ControllerAndCaveEvents :
    (∃ (i : ℕ), i < 12)
    ∧ (∃ (i : ℕ) (s : State), i < 12 ∧ (getStack s i).hreqBusy = true ∧ (getStack s i).qd = true)
    ∧ (∃ (d : ℕ) (k : ℕ) (v : Dword) (s : State), d < 4 ∧ k < 12 ∧ Rules.breaksPlan (getCave s d) k v)
    ∧ (∃ (d : ℕ) (k : ℕ) (v : Dword) (s : State), d < 4 ∧ k < 12 ∧ ¬Rules.breaksPlan (getCave s d) k v)
    ∧ (∃ (d : ℕ) (q : ℕ) (rest : List ℕ) (x : Sector) (e : CEntry) (s : State), (getCave s d).queue = q :: rest ∧ tfind
    (getCave s d).sectors q = some x ∧ tfind (getCave s d).entries x.entry = some e ∧ x.whole = true ∧ e.rc = 1 ∧
    e.hashed = false ∧ shareable (getCave s d) q = true ∧ (∀ y ∈ (getCave s d).entries, y.2.bad = []) ∧ bucketOf
    (getCave s d) x.rind (contentHash (sectorDwords s q)) = [])
    ∧ (∃ (d : ℕ) (q : ℕ) (rest : List ℕ) (x : Sector) (e : CEntry) (s : State) (i : ℕ) (f : CEntry) (p : ℕ) (ps : List
    ℕ) (more : List (ℕ × CEntry)), (getCave s d).queue = q :: rest ∧ tfind (getCave s d).sectors q = some x ∧ tfind
    (getCave s d).entries x.entry = some e ∧ x.whole = true ∧ e.rc = 1 ∧ e.hashed = false ∧ shareable (getCave s d)
    q = true ∧ (∀ y ∈ (getCave s d).entries, y.2.bad = []) ∧ bucketOf (getCave s d) x.rind (contentHash
    (sectorDwords s q)) = (i, f) :: more ∧ f.rind = x.rind ∧ f.hash = contentHash (sectorDwords s q) ∧ f.rc < 63 ∧ i
    ≠ x.entry ∧ sharers (getCave s d) i = p :: ps ∧ sectorDwords s p = sectorDwords s q ∧ tfind (getCave s
    d).entries i = some f)
    ∧ (∃ (d : ℕ) (i : ℕ) (s : State), d < 4 ∧ (getCave s d).dbdis.getLsbD (i % 24) = false)
    ∧ (∃ (pa : ℕ) (s : State), pa < 618475290624 ∧ ∀ (h : ℕ), h = pa / 128 * 128 ∨ h = pa / 128 * 128 + 64 → halfBad s
    h = false ∧ halfSoft s h = false)
    ∧ (∃ (i : ℕ) (ch : ℕ) (s : State), (getStack s i).copying = some ch) :=
  ⟨⟨11, by decide +kernel⟩,
   ⟨0, k1, by decide +kernel⟩,
   ⟨0, 0, 0x0020000010001001, v1, by decide +kernel, by decide +kernel,
    by unfold Sys2Proof.Rules.breaksPlan; exact Or.inr (by decide +kernel)⟩,
   ⟨3, 11, 0x0030000010001000, v1, by decide +kernel, by decide +kernel,
    by unfold Rules.breaksPlan; rintro (⟨k, -, -, j, -, -, -, h⟩ | h | h | ⟨j, -, -, h⟩ | ⟨j, -, -, h⟩); exacts [absurd h (by rw [show tget (0 : Dword) (getCave v1 3).rcfg k = 0 from rfl]; simp), absurd h (by decide +kernel), absurd h (by decide +kernel), absurd h (by rw [show (getCave v1 3).twdis = 0 from rfl]; simp), absurd h (by rw [show (getCave v1 3).dbdis = 0 from rfl]; simp)]⟩,
   ⟨0, 8, [9], sct 0, ce1, vm, by decide +kernel⟩,
   ⟨0, 9, [], sct 1, ce1, bsl, 0, f0, 8, [], [], by decide +kernel⟩,
   ⟨3, 13, v1, by decide +kernel⟩,
   ⟨0x10040, k1, by decide +kernel, by intro h _; exact ⟨rfl, rfl⟩⟩,
   ⟨0, 4, cc9, by decide +kernel⟩⟩

end Controllers

namespace Packets

def rp (k reg : Nat) (tr : Bool := false) : Reply := {ctx := k, gen := 0, reg := reg, inTrap := tr}
def fl (p : Packet) : Flight := {owner := none, ord := sendOrd false false, body := p, launch := none}
def ns (p : Packet) (f : Ctx → Ctx := id) : State := {withCtx s0 f with net := [fl (.refill (rp 0 9) none), fl p, fl (.refill (rp 0 8) none)], badReg := [(0, 3), (0, 4)]}
def wt (r : Nat) (c : Ctx) : Ctx := {c with empty := [(r,true)], act := .waiting (.register r)}
def tr (c : Ctx) : Ctx := {c with st := c.st ||| 2}
def dummyE : TrapRec := {code := 5, acc := 1, eaddr := 0x77}
def p63 : Packet := .fill (rp 0 63) (2^512 - 1)
def p1 : Packet := .fill (rp 0 1) (2^512 - 2)
def pe : Packet := .error (rp 0 3) dummyE
def pr : Packet := .refill (rp 0 3) (some dummyE)
def pb : Packet := .refill {rp 0 3 with gen := 255} none
def pa (d : Bool) (e : Option TrapRec) : Packet := .ack 0 0 d e
def ak (c : Ctx) : Ctx := {c with unacked := 4, act := .waiting .acks, deferred := [(3, dummyE)]}
def pd : Packet := .descFill (rp 0 31) 5

theorem wit_PacketsReachTheirContexts :
    (∃ (n : ℕ) (f : Flight) (r : Reply) (s : State) (v : Vec), s.net[n]? = some f ∧ f.body = Packet.fill r v ∧ stGen
    (getCtx s r.ctx).st = r.gen ∧ ¬((r.reg = 1 ∨ r.reg = 2) ∧ stTrap (getCtx s r.ctx).st = true ∧ r.inTrap = false)
    ∧ 1 ≤ r.reg ∧ r.reg < 64 ∧ (32 ≤ r.reg → streamSlot s r.ctx (r.reg - 32) = none) ∧ inSeries s n f = true)
    ∧ (∃ (n : ℕ) (f : Flight) (r : Reply) (s : State) (v : Vec), s.net[n]? = some f ∧ f.body = Packet.fill r v ∧ stGen
    (getCtx s r.ctx).st = r.gen ∧ ((r.reg = 1 ∨ r.reg = 2) ∧ stTrap (getCtx s r.ctx).st = true ∧ r.inTrap = false) ∧
    inSeries s n f = true)
    ∧ (∃ (n : ℕ) (f : Flight) (r : Reply) (s : State) (w : Dword), s.net[n]? = some f ∧ f.body = Packet.descFill r w ∧
    stGen (getCtx s r.ctx).st = r.gen ∧ ¬((r.reg = 1 ∨ r.reg = 2) ∧ stTrap (getCtx s r.ctx).st = true ∧ r.inTrap =
    false) ∧ 1 ≤ r.reg ∧ r.reg < 32 ∧ mayPerform s n f = true)
    ∧ (∃ (n : ℕ) (f : Flight) (r : Reply) (s : State) (e : TrapRec), s.net[n]? = some f ∧ f.body = Packet.error r e ∧
    stGen (getCtx s r.ctx).st = r.gen ∧ ¬((r.reg = 1 ∨ r.reg = 2) ∧ stTrap (getCtx s r.ctx).st = true ∧ r.inTrap =
    false))
    ∧ (∃ (n : ℕ) (f : Flight) (r : Reply) (s : State) (e : Option TrapRec), s.net[n]? = some f ∧ f.body = Packet.refill
    r e ∧ stGen (getCtx s r.ctx).st = r.gen ∧ ¬((r.reg = 1 ∨ r.reg = 2) ∧ stTrap (getCtx s r.ctx).st = true ∧
    r.inTrap = false) ∧ r.reg < 32 ∧ Rules.firstRefusal s n r)
    ∧ (∃ (n : Nat) (f : Flight) (r : Reply) (s : State), s.net[n]? = some f ∧ ((∃ v, f.body = .fill r v) ∨ (∃ e, f.body
    = .error r e) ∨ (∃ e, f.body = .refill r e)) ∧ stGen (getCtx s r.ctx).st ≠ r.gen ∧ inSeries s n f = true ∧
    Rules.firstRefusal s n r)
    ∧ (∃ (n : ℕ) (f : Flight) (k : ℕ) (gen : BitVec 8) (dec : Bool) (e : Option TrapRec) (s : State), s.net[n]? = some
    f ∧ f.body = Packet.ack k gen dec e ∧ stGen (getCtx s k).st = gen) :=
  ⟨⟨1, fl p63, rp 0 63, ns p63 (wt 63), 2^512 - 1, by decide +kernel⟩,
   ⟨1, fl p1, rp 0 1, ns p1 tr, 2^512 - 2, by decide +kernel⟩,
   ⟨1, fl pd, rp 0 31, ns pd, 5, by decide +kernel⟩,
   ⟨1, fl pe, rp 0 3, ns pe (wt 3), dummyE, by decide +kernel⟩,
   ⟨1, fl pr, rp 0 3, ns pr (wt 3), some dummyE, by decide +kernel, four (by decide +kernel)
      (by intro g h x; obtain rfl := List.mem_singleton.1 (show g ∈ [fl (.refill (rp 0 9) none)] from h); exact fun h => nomatch h)⟩,
   ⟨1, fl pb, { rp 0 3 with gen := 255 }, ns pb (wt 3), by decide +kernel, Or.inr (Or.inr ⟨none, rfl⟩),
    by decide +kernel, by decide +kernel,
    by intro g h x; obtain rfl := List.mem_singleton.1 (show g ∈ [fl (.refill (rp 0 9) none)] from h); exact fun h => nomatch h⟩,
   ⟨1, fl (pa true (some dummyE)), 0, 0, true, some dummyE, ns (pa true (some dummyE)) ak, by decide +kernel⟩⟩

end Packets

namespace Arrivals

def mm (kind dk port core : Nat) (sctx : Nat := 0) (aux : Nat := 0) : BitVec 512 := BitVec.ofNat 512 (sctx + aux * 256 + kind * 2^32 + dk * 2^60 + (port + 64 * core) * 2^96 + 0x1122334455 * 2^128 + 7 * 2^448)
def fl (p : Packet) : Flight := {owner := some (0, 0), ord := sendOrd false false, body := p, launch := some 1}
def flH (p : Packet) : Flight := {owner := none, ord := sendOrd false false, body := p, launch := some 1}
def ns (f : Flight) (ports : Tab Port) : State := {s0 with net := [flH (.refill {ctx := 0, gen := 0, reg := 9, inTrap := false} none), f], ports := ports}
def qp : Port := {en := true, cap := 2, queue := [4]}
def rs (k : Nat) := flH (.resend (mm k 0 5 0 255) 1000)
def sm : BitVec 512 := mm 5 0 63 0 255 (2 * 2^8)
def sf : Flight := flH (.resend sm 1000)
def sst : State := setCtx {ns sf [] with launches := [(1, {rind := 0, asid := 7, front := 0, block := BitVec.ofNat 384 (0x8000 * 2^192), starts := 2})]} 2 {Ctx.initial 2 with launch := some 1}
def ww : Watch := {bitmap := none, counter := 3, target := 4, name := 0x8000000000000003, port := 5, rind := 0, fired := some (mm 1 0 5 0 255), sent := false}
def sl : Launch := {rind := 0, asid := 7, front := 0, block := BitVec.ofNat 384 (0x8000 * 2^192), starts := 2}

theorem wit_PacketsReachTheirContexts :
    (∃ (n : ℕ) (f : Flight) (m : BitVec 512) (cn : ℕ) (p : ℕ) (k : ℕ) (gen : BitVec 8) (s : State), s.net[n]? = some
    f ∧ f.body = Packet.message m ∧ f.owner = some (k, gen) ∧ mayPerform s n f = true ∧ Rules.Plain s m cn p)
    ∧ (∃ (n : ℕ) (kind : ℕ) (f : Flight) (m : BitVec 512) (cn : ℕ) (p : ℕ) (after : ℕ) (i : Instr) (s : State), (i =
    Instr.startMessageResend n ∧ kind = 5 ∨ i = Instr.completionResend n ∧ kind = 4 ∨ i = Instr.hardwareResend n ∧
    (kind = 1 ∨ kind = 2 ∨ kind = 3 ∨ kind = 4)) ∧ s.net[n]? = some f ∧ f.body = Packet.resend m after ∧ msgKind m =
    kind ∧ after ≤ s.cycle ∧ mayPerform s n f = true ∧ inSeries s n f = true ∧ Rules.Plain s m cn p)
    ∧ (∃ (n : ℕ) (f : Flight) (m : BitVec 512) (cn : ℕ) (after : ℕ) (k : ℕ) (l : ℕ) (i : ℕ) (x : Launch) (s : State),
    s.net[n]? = some f ∧ f.body = Packet.resend m after ∧ f.owner = none ∧ after ≤ s.cycle ∧ inSeries s n f = true ∧
    msgKind m = 5 ∧ msgDk m = 0 ∧ msgDst m / 2 ^ 17 % 2 ^ 12 = s.node ∧ coreOfField (msgDst m / 64 % 2 ^ 11) = cn ∧
    msgDst m % 64 = 63 ∧ m.toNat % 256 = 255 ∧ msgFmt m = 0 ∧ (getCluster s (cn / 8)).rind = some (msgRind m) ∧ k =
    cn * 256 + m.toNat / 2 ^ 16 % 256 ∧ (getCtx s k).launch = some l ∧ getLaunch s l = some x ∧ Rules.lowestFree s
    cn i)
    ∧ (∃ (core : ℕ) (slot : ℕ) (w : Watch) (m : BitVec 512) (s : State), tfind s.watches (core * 64 + slot) = some w ∧
    w.fired = some m ∧ w.sent = false ∧ w.after ≤ s.cycle) :=
  ⟨⟨1, fl (.message (mm 0 0 61 7)), mm 0 0 61 7, 7, 61, 0, 0,
    ns (fl (.message (mm 0 0 61 7))) [(7*64+61, {en := true, count? := true, count := 65534})],
    four (by decide +kernel)
      (⟨by decide +kernel, by decide +kernel, by decide +kernel, by decide +kernel, by decide +kernel, by decide +kernel, by decide +kernel⟩)⟩,
   ⟨1, 4, rs 4, mm 4 0 5 0 255, 0, 5, 1000, .completionResend 1, ns (rs 4) [(5, qp)], by decide +kernel,
    by decide +kernel, by decide +kernel, four (by decide +kernel)
      (⟨by decide +kernel, by decide +kernel, by decide +kernel, by decide +kernel, by decide +kernel, by decide +kernel, by decide +kernel⟩)⟩,
   ⟨1, sf, sm, 0, 1000, 2, 1, 0, sl, sst, four (by decide +kernel)
      (four (by decide +kernel)
      (four (by decide +kernel)
      (four (by decide +kernel)
      (by unfold Sys2Proof.Rules.lowestFree; exact ⟨by unfold Sys2Proof.Rules.storeFree; decide +kernel, by simp⟩))))⟩,
   ⟨0, 63, ww, mm 1 0 5 0 255, {s0 with watches := [(63, ww)]}, by decide +kernel⟩⟩

end Arrivals

namespace Units

def fl (p : Packet) : Flight := {owner := some (0, 0), ord := sendOrd false false, body := p, launch := some 1}
def ns (f : Flight) : State := {s0 with net := [fl (.refill {ctx := 0, gen := 0, reg := 9, inTrap := false} none), f]}
def rp (k reg : Nat) : Reply := {ctx := k, gen := 0, reg := reg, inTrap := false}
def ac (op : AccOp) (d : Dest) (n : Nat) : Access := {noAccess with op := op, dest := d, n := n, pa := 0x80000000040, va := 0x20040, pkind := 3, size := 3, data := 0x1122}
def am (a : Access) : State := {ns (fl (.access a)) with mem := dwords 0x80000000040 [0x8182838485868788]}
def p1 (a : Access) := performAt (Rules.without (am a) 1) a
def nm (core c : Nat) : Dword := BitVec.ofNat 64 (2^63 + core * 2^37 + c)
def pw (t : Word) : Watch := {bitmap := none, counter := 255, target := t, name := nm 7 255, port := 5, rind := 0, fired := none, sent := false}
def po (a : Word) : Flight := fl (.post (nm 7 255) a 0)
def st (f : Flight) : State := {ns f with counters := [(7*256+255, 0xFFFFFFFF)], watches := [(7*64+3, pw 0x7FFFFFFF)]}
def cr : Flight := fl (.counterRead (nm 7 255) 0 (rp 0 4))
def wr (g : Nat) : Flight := fl (.watch (nm 7 255) (BitVec.ofNat 64 (g + 9 * 2^32)) 0 (rp 0 4))
def bmf : Flight := fl (.bitmap 0x10008 0x30008 6 9 1 0 (rp 0 4) 0)
def bs (d : Nat) : State := {ns bmf with mem := dwords 0x10008 [d], watches := [(64, pw 0)]}
def wrd (s : State) := watchRead (Rules.without s 1) 1 0x10008 (some 1)
def bmc : Flight := fl (.bitmap 0x80000040040 0x30008 6 9 1 0 (rp 0 4) 0)
def tn : Dword := 0x8000000000000005
def df : Flight := fl (.done [tn] 1 9)
def arms (a : Arm) : State := {ns df with clusters := [(0, {rind := some 0, arms := [(5, a)]})]}
def dfp : Flight := fl (.done [tn + 1, tn] 1 9)
def ra : Arm := {state := .armed, owner := 1, count := 2, quota := 3, block := 7}
def words : List Dword := [0x8000, 0xFFFFFFFFFFFFFFFF, 11, 12, 13, 14, 15, 16]
def af : Flight := fl (.arrival 3 1 1 words {moves := 1} (some (rp 0 4)))
def fq (op kind : Nat) (body : Nat) (adr : Nat := 0) : FabricPacket := {hdr := BitVec.ofNat 128 (adr + 0x77 * 2^67 + op * 2^90 + kind * 2^96 + 0 * 2^100 + 5 * 2^104), body := BitVec.ofNat 640 body}
def sp : State := {s0 with rinds := [(0, {started := true, peers := [(3, BitVec.ofNat 64 (2^63 + 5 * 16))]})], rmap := [(0, 0), (1, 1), (256, 0)]}
def st63 (n : Nat) : State := {st (wr 0x7FFFFFFF) with watches := (List.range n).map (fun i => (7*64+i, pw 0))}
def afull (n : Nat) : State := {ns af with ctxs := (List.range n).map (fun i => (3*256+128+i, {c0 with act := .runnable}))}

theorem wit_PacketsAtTheirUnits :
    (∃ (n : ℕ) (f : Flight) (a : Access) (v : Vec) (s : State) (s1 : State), s.net[n]? = some f ∧ f.body =
    Packet.access a ∧ mayPerform s n f = true ∧ isLocal s a.pa = true ∧ performAt (Rules.without s n) a = (s1,
    Performed.ok v) ∧ a.dest = Dest.none)
    ∧ (∃ (n : ℕ) (f : Flight) (a : Access) (reg : ℕ) (v : Vec) (s : State) (s1 : State) (sg : Bool), s.net[n]? = some f
    ∧ f.body = Packet.access a ∧ mayPerform s n f = true ∧ isLocal s a.pa = true ∧ performAt (Rules.without s n) a =
    (s1, Performed.ok v) ∧ a.dest = Dest.g reg sg ∧ (a.n = 1 ∨ a.n = 2 ∨ a.n = 4 ∨ a.n = 8))
    ∧ (∃ (n : ℕ) (f : Flight) (name : Dword) (s : State) (addend : Word) (rind : ℕ), s.net[n]? = some f ∧ mayPerform s
    n f = true ∧ f.body = Packet.post name addend rind ∧ inSeries s n f = true ∧ BitVec.toNat name / 2 ^ 48 % 2 ^ 12
    = s.node ∧ ∀ e ∈ s.watches, e.1 / 64 = (coreOfField (BitVec.toNat name / 2 ^ 37 % 2 ^ 11) * 256 + BitVec.toNat
    name % 256) / 256 → e.2.bitmap = none → e.2.counter = (coreOfField (BitVec.toNat name / 2 ^ 37 % 2 ^ 11) * 256 +
    BitVec.toNat name % 256) % 256 → e.2.fired = none → 2 ^ 31 ≤ BitVec.toNat (tget 0 s.counters (coreOfField
    (BitVec.toNat name / 2 ^ 37 % 2 ^ 11) * 256 + BitVec.toNat name % 256) + addend - e.2.target))
    ∧ (∃ (n : ℕ) (f : Flight) (name : Dword) (s : State) (rind : ℕ) (r : Reply), s.net[n]? = some f ∧ mayPerform s n f
    = true ∧ f.body = Packet.counterRead name rind r)
    ∧ (∃ (n : ℕ) (f : Flight) (name : Dword) (s : State) (arg : Dword) (rind : ℕ) (r : Reply), s.net[n]? = some f ∧
    mayPerform s n f = true ∧ f.body = Packet.watch name arg rind r ∧ BitVec.toNat (tget 0 s.counters (coreOfField
    (BitVec.toNat name / 2 ^ 37 % 2 ^ 11) * 256 + BitVec.toNat name % 256) - BitVec.extractLsb' 0 32 arg) < 2 ^ 31)
    ∧ (∃ (n : ℕ) (f : Flight) (name : Dword) (s : State) (arg : Dword) (rind : ℕ) (r : Reply), s.net[n]? = some f ∧
    mayPerform s n f = true ∧ f.body = Packet.watch name arg rind r ∧ 2 ^ 31 ≤ BitVec.toNat (tget 0 s.counters
    (coreOfField (BitVec.toNat name / 2 ^ 37 % 2 ^ 11) * 256 + BitVec.toNat name % 256) - BitVec.extractLsb' 0 32
    arg) ∧ ∀ (i : ℕ), ¬(i < 64 ∧ tfind s.watches ((coreOfField (BitVec.toNat name / 2 ^ 37 % 2 ^ 11) * 256 +
    BitVec.toNat name % 256) / 256 * 64 + i) = none))
    ∧ (∃ (n : ℕ) (f : Flight) (name : Dword) (s : State) (arg : Dword) (rind : ℕ) (r : Reply) (i : ℕ), s.net[n]? = some
    f ∧ mayPerform s n f = true ∧ f.body = Packet.watch name arg rind r ∧ 2 ^ 31 ≤ BitVec.toNat (tget 0 s.counters
    (coreOfField (BitVec.toNat name / 2 ^ 37 % 2 ^ 11) * 256 + BitVec.toNat name % 256) - BitVec.extractLsb' 0 32
    arg) ∧ (i < 64 ∧ tfind s.watches ((coreOfField (BitVec.toNat name / 2 ^ 37 % 2 ^ 11) * 256 + BitVec.toNat name %
    256) / 256 * 64 + i) = none) ∧ ∀ j < i, ¬(j < 64 ∧ tfind s.watches ((coreOfField (BitVec.toNat name / 2 ^ 37 % 2
    ^ 11) * 256 + BitVec.toNat name % 256) / 256 * 64 + j) = none))
    ∧ (∃ (n : ℕ) (f : Flight) (pa : ℕ) (va : Dword) (mask : Dword) (port : Word) (home : ℕ) (rind : ℕ) (r : Reply) (s :
    State), s.net[n]? = some f ∧ (∃ born, f.body = Packet.bitmap pa va mask port home rind r born) ∧ windowOf pa =
    Window.scratch ∧ scratchCore pa ≠ r.ctx / 256 ∧ windowAdmits s (scratchCore pa) (pa % 2 ^ 18) 8 false = false)
    ∧ (∃ (n : ℕ) (f : Flight) (pa : ℕ) (va : Dword) (mask : Dword) (port : Word) (home : ℕ) (rind : ℕ) (r : Reply) (s :
    State) (s1 : State) (x : Vec) (i : ℕ), s.net[n]? = some f ∧ (∃ born, f.body = Packet.bitmap pa va mask port home
    rind r born) ∧ ¬(windowOf pa = Window.scratch ∧ scratchCore pa ≠ r.ctx / 256 ∧ windowAdmits s (scratchCore pa)
    (pa % 2 ^ 18) 8 false = false) ∧ watchRead (Rules.without s n) home pa f.launch = (s1, some x) ∧ dwordAt s1 home
    pa &&& mask ≠ mask ∧ windowOf pa ≠ Window.host ∧ (i < 64 ∧ tfind s1.watches (home * 64 + i) = none) ∧ ∀ j < i,
    ¬(j < 64 ∧ tfind s1.watches (home * 64 + j) = none))
    ∧ (∃ (n : ℕ) (f : Flight) (name : Dword) (l : ℕ) (b : ℕ) (s : State), s.net[n]? = some f ∧ f.body = Packet.done
    [name] l b ∧ mayPerform s n f = true ∧ tfind s.batches b = none ∧ (Rules.armOf s name).state = ArmState.armed ∧
    (Rules.armOf s name).owner = l ∧ (Rules.armOf s name).quota ≤ (Rules.armOf s name).count + 1 ∧ (Rules.armOf s
    name).count < 65535 ∧ (getCluster s (Rules.taskAt name).1).takers = [])
    ∧ (∃ (n : ℕ) (f : Flight) (cn : ℕ) (src : ℕ) (l : ℕ) (words : List Dword) (trail : Trail) (reply : Option Reply) (s
    : State) (e : ℕ), s.net[n]? = some f ∧ f.body = Packet.arrival cn src l words trail reply ∧ mayPerform s n f =
    true ∧ ((getCore s cn).spilled ≠ [] ∨ ∀ (i : ℕ), ¬(i < 32 ∧ (getCtx s (cn * 256 + 128 + i)).act =
    Activity.dormant)) ∧ (∀ c ∈ s.cores, ∀ x ∈ c.2.spilled, ¬(x.1 = l ∧ x.2.1 = e)) ∧ (∀ e' < e, ¬∀ c ∈ s.cores, ∀ x
    ∈ c.2.spilled, ¬(x.1 = l ∧ x.2.1 = e')) ∧ isLocal (wakeCore (keepRecord (Rules.without s n) cn l) cn)
    (BitVec.toNat (getRec (wakeCore (keepRecord (Rules.without s n) cn l) cn) cn l).spill + 64 * e) = true ∧
    spillShut (wakeCore (keepRecord (Rules.without s n) cn l) cn) cn l (BitVec.toNat (getRec (wakeCore (keepRecord
    (Rules.without s n) cn l) cn) cn l).spill + 64 * e) true = false ∧ words.length = 8)
    ∧ (∃ (n : ℕ) (f : Flight) (cn : ℕ) (src : ℕ) (l : ℕ) (words : List Dword) (trail : Trail) (reply : Option Reply) (s
    : State) (i : ℕ), s.net[n]? = some f ∧ f.body = Packet.arrival cn src l words trail reply ∧ mayPerform s n f =
    true ∧ (getCore s cn).spilled = [] ∧ (i < 32 ∧ (getCtx s (cn * 256 + 128 + i)).act = Activity.dormant) ∧ ∀ j <
    i, ¬(j < 32 ∧ (getCtx s (cn * 256 + 128 + j)).act = Activity.dormant))
    ∧ (∃ (q : FabricPacket) (s : State) (rind : ℕ), s.node < 4096 ∧ (q.hdr.toNat / 2 ^ 90 % 2 ^ 6 = 6 ∨ q.hdr.toNat / 2
    ^ 90 % 2 ^ 6 = 11) ∧ (getCluster s (coreOfField ((BitVec.extractLsb' 0 64 q.body).toNat / 2 ^ 37 % 2 ^ 11) /
    8)).rind = some rind ∧ Rules.noPeer s rind q)
    ∧ (∃ (q : FabricPacket) (s : State) (rind : ℕ), s.node < 4096 ∧ q.hdr.toNat / 2 ^ 90 % 2 ^ 6 = 11 ∧ (getCluster s
    (coreOfField ((BitVec.extractLsb' 0 64 q.body).toNat / 2 ^ 37 % 2 ^ 11) / 8)).rind = some rind ∧ ¬Rules.noPeer s
    rind q ∧ q.hdr.toNat / 2 ^ 96 % 16 = 1 ∧ q.body.toNat / 2 ^ 96 % 2 ^ 32 = 0 ∧ (BitVec.extractLsb' 0 64
    q.body).getLsbD 63 = true ∧ (BitVec.extractLsb' 0 64 q.body).toNat / 2 ^ 60 % 8 = 0 ∧ (BitVec.extractLsb' 0 64
    q.body).toNat / 2 ^ 8 % 2 ^ 29 = 0 ∧ (BitVec.extractLsb' 0 64 q.body).toNat / 2 ^ 48 % 2 ^ 12 = s.node ∧
    s.watches = [])
    ∧ (∃ (q : FabricPacket) (s : State) (rind : ℕ), s.node < 4096 ∧ q.hdr.toNat / 2 ^ 90 % 2 ^ 6 = 12 ∧ (getCluster s
    (Rules.taskAt (BitVec.extractLsb' 0 64 q.body)).1).rind = some rind ∧ Rules.noPeer s rind q)
    ∧ (∃ (q : FabricPacket) (s : State) (rind : ℕ), s.node < 4096 ∧ q.hdr.toNat / 2 ^ 90 % 2 ^ 6 = 13 ∧ q.body.toNat /
    2 ^ 128 % 256 = 0 ∧ (getCluster s (coreOfField ((BitVec.extractLsb' 0 64 q.body).toNat / 2 ^ 37 % 2 ^ 11) /
    8)).rind = some rind ∧ Rules.noPeer s rind q)
    ∧ (∃ (q : FabricPacket) (s : State) (rind : ℕ), s.node < 4096 ∧ q.hdr.toNat / 2 ^ 90 % 2 ^ 6 = 8 ∧ (getCluster s
    (coreOfField (q.body.toNat / 2 ^ 102 % 2 ^ 11) / 8)).rind = some rind ∧ Rules.noPeer s rind q)
    ∧ (∃ (q : FabricPacket) (s : State) (rind : ℕ), s.node < 4096 ∧ q.hdr.toNat / 2 ^ 90 % 2 ^ 6 = 9 ∧ (getCluster s
    (coreOfField (q.body.toNat / 2 ^ 102 % 2 ^ 11) / 8)).rind = some rind ∧ Rules.noPeer s rind q)
    ∧ (∃ (q : FabricPacket) (s : State) (rind : ℕ), s.node < 4096 ∧ q.hdr.toNat / 2 ^ 90 % 2 ^ 6 = 10 ∧ (getCluster s
    (coreOfField (q.body.toNat / 2 ^ 102 % 2 ^ 11) / 8)).rind = some rind ∧ Rules.noPeer s rind q)
    ∧ (∃ (q : FabricPacket) (s : State) (rind : ℕ), s.node < 4096 ∧ q.hdr.toNat / 2 ^ 90 % 2 ^ 6 ≤ 2 ∧ addrRind s
    (q.hdr.toNat % 2 ^ 45) = some rind ∧ Rules.noPeer s rind q)
    ∧ (∃ (q : FabricPacket) (s : State) (rind : ℕ), s.node < 4096 ∧ q.hdr.toNat / 2 ^ 90 % 2 ^ 6 = 13 ∧ q.body.toNat /
    2 ^ 128 % 256 = 1 ∧ addrRind s (q.body.toNat % 2 ^ 45) = some rind ∧ Rules.noPeer s rind q)
    ∧ (∃ (q : FabricPacket) (s : State), s.node < 4096 ∧ tfind s.awaiting (q.hdr.toNat / 2 ^ 67 % 2 ^ 16) = none)
    ∧ (∃ (n : ℕ) (f : Flight) (low : Dword) (high : Dword) (l : ℕ) (b : ℕ) (r : Reply) (s : State), s.net[n]? = some f
    ∧ (f.body = Packet.done [low, high] l b ∨ f.body = Packet.done [high, low] l b) ∧ mayPerform s n f = true ∧
    tfind s.batches b = none ∧ (Rules.taskAt low).1 = (Rules.taskAt high).1 ∧ (Rules.taskAt low).2 < (Rules.taskAt
    high).2 ∧ (∀ (x : Dword), x = low ∨ x = high → (Rules.armOf s x).state = ArmState.armed ∧ (Rules.armOf s
    x).owner = l ∧ (Rules.armOf s x).quota = (Rules.armOf s x).count + 1 ∧ (Rules.armOf s x).count < 65535) ∧ (∀ e ∈
    (getCluster s (Rules.taskAt low).1).arms, e.2.state ≠ ArmState.ready) ∧ tsorted (getCluster s (Rules.taskAt
    low).1).arms = true ∧ (getCluster s (Rules.taskAt low).1).takers = [(r, l)] ∧ stGen (getCtx s r.ctx).st = r.gen) :=
  ⟨⟨1, fl (.access (ac .store .none 8)), ac .store .none 8, vecP (p1 (ac .store .none 8)), am (ac .store .none 8),
    fst (p1 (ac .store .none 8)), by decide +kernel⟩,
   ⟨1, fl (.access (ac .load (.g 3 true) 1)), ac .load (.g 3 true) 1, 3, vecP (p1 (ac .load (.g 3 true) 1)),
    am (ac .load (.g 3 true) 1), fst (p1 (ac .load (.g 3 true) 1)), true, by decide +kernel⟩,
   ⟨1, po 2, nm 7 255, st (po 2), 2, 0, by decide +kernel⟩,
   ⟨1, cr, nm 7 255, st cr, 0, rp 0 4, by decide +kernel⟩,
   ⟨1, wr 0x80000000, nm 7 255, st (wr 0x80000000), BitVec.ofNat 64 (0x80000000 + 9 * 2^32), 0, rp 0 4,
    by decide +kernel⟩,
   ⟨1, wr 0x7FFFFFFF, nm 7 255, st63 64, BitVec.ofNat 64 (0x7FFFFFFF + 9 * 2^32), 0, rp 0 4,
    four (by decide +kernel)
      (by intro i h; obtain ⟨hi, hr⟩ := h; revert hr; revert i; decide +kernel)⟩,
   ⟨1, wr 0x7FFFFFFF, nm 7 255, st63 63, BitVec.ofNat 64 (0x7FFFFFFF + 9 * 2^32), 0, rp 0 4, 63, by decide +kernel⟩,
   ⟨1, bmc, 0x80000040040, 0x30008, 6, 9, 1, 0, rp 0 4, ns bmc, by decide +kernel, ⟨0, rfl⟩, by decide +kernel⟩,
   ⟨1, bmf, 0x10008, 0x30008, 6, 9, 1, 0, rp 0 4, bs 2, (wrd (bs 2)).1, (wrd (bs 2)).2.getD 0, 1,
    by decide +kernel, ⟨0, rfl⟩, by decide +kernel⟩,
   ⟨1, df, tn, 1, 9, arms {state := .armed, owner := 1, count := 65534, quota := 65535}, by decide +kernel⟩,
   ⟨1, af, 3, 1, 1, words, {moves := 1}, some (rp 0 4), afull 32, 0, by decide +kernel, by decide +kernel,
    by decide +kernel, Or.inr (by intro i h; obtain ⟨hi, hr⟩ := h; revert hr; revert i; decide +kernel),
    by decide +kernel⟩,
   ⟨1, af, 3, 1, 1, words, {moves := 1}, some (rp 0 4), afull 31, 31, by decide +kernel⟩,
   ⟨fq 6 0 (nm 7 3).toNat, s0, 0, by decide +kernel, by decide +kernel, by decide +kernel,
    by unfold Sys2Proof.Rules.noPeer; decide +kernel⟩,
   ⟨fq 11 1 ((nm 7 3).toNat + 5 * 2^64), sp, 0, by decide +kernel, by decide +kernel, by decide +kernel,
    fun h => h 3 (by decide) (by decide +kernel), by decide +kernel⟩,
   ⟨fq 12 0 tn.toNat, s0, 0, by decide +kernel, by decide +kernel, by decide +kernel,
    by unfold Sys2Proof.Rules.noPeer; decide +kernel⟩,
   ⟨fq 13 0 (nm 7 3).toNat, s0, 0, four (by decide +kernel)
      (by unfold Sys2Proof.Rules.noPeer; decide +kernel)⟩,
   ⟨fq 8 0 (5 * 2^96), s0, 0, by decide +kernel, by decide +kernel, by decide +kernel,
    by unfold Sys2Proof.Rules.noPeer; decide +kernel⟩,
   ⟨fq 9 0 (5 * 2^96), s0, 0, by decide +kernel, by decide +kernel, by decide +kernel,
    by unfold Sys2Proof.Rules.noPeer; decide +kernel⟩,
   ⟨fq 10 0 (5 * 2^96), s0, 0, by decide +kernel, by decide +kernel, by decide +kernel,
    by unfold Sys2Proof.Rules.noPeer; decide +kernel⟩,
   ⟨fq 2 0 5 0x10000, s0, 0, by decide +kernel, by decide +kernel, by decide +kernel,
    by unfold Sys2Proof.Rules.noPeer; decide +kernel⟩,
   ⟨fq 13 0 (2^128 + 0x10000), s0, 0, four (by decide +kernel)
      (by unfold Sys2Proof.Rules.noPeer; decide +kernel)⟩,
   ⟨fq 13 0 0, s0, by decide +kernel⟩,
   ⟨1, dfp, tn, tn + 1, 1, 9, rp 0 4,
    {ns dfp with clusters := [(0, {rind := some 0, arms := [(5, ra), (6, ra)], takers := [(rp 0 4, 1)]})]},
    by decide +kernel, by decide +kernel, by decide +kernel, by decide +kernel, by decide +kernel,
    by decide +kernel, by rintro x (rfl | rfl) <;> decide +kernel, by decide +kernel⟩⟩

end Units

namespace Patterns

def qp : Port := {en := true, cap := 8, queue := [4, 9]}
def pat (r : List (Nat × Nat)) : Pattern := {refs := r, handler := 0x8000, cmask := 4, prio := 3, owner := some 1}
def pst (i : Nat) (r : List (Nat × Nat)) : State := {setCtx s0 2 {Ctx.initial 2 with launch := some 1, empty := [(9,true)], g := [(9, 5)]} with ports := [(5, qp), (6, {en := true, count? := true, count := 7})], patterns := [(i, pat r)], mem := dwords (Rules.slotAt 0 4) [1,2,3,4,5,6,7,8], slots := [(4,true),(9,true)]}
def x1 : TrapRec := {code := 0x30, eaddr := 0x77, info := 1, frame := [1,2,3,4,5,6,7,8]}
def d1 : State := withCtx s0 (fun c => {c with deferred := [(999, x1), (1000, x1)]})
def roam (st : Dword) : Ctx := {c0 with st := st, act := .waiting .migrate, migrTo := some (9, false), launch := some 1, trail := {moves := 3}}
def mg (adv : Bool) : State := {setCtx s0 128 {roam 0x8000000004 with migrTo := some (9, adv)} with launches := [(1, { rind := 0, asid := 7, front := 0, block := 0, roaming := 2 })]}
def rs : State := setCtx {setCtx s0 128 {roam 0x8000000004 with act := .waiting .seat, pending := some {x1 with resume := 0x1007}} with launches := [(1, { rind := 0, asid := 7, front := 0, block := 0, roaming := 2 })]} 2 {Ctx.initial 2 with launch := some 1, st := 0x500000000}
def cx (p arr : Nat) (hit : Bool) (byp : Nat) : Ctx := {c0 with act := .runnable, st := BitVec.ofNat 64 (p * 32), sel := {arrival := arr, port := 64, hit := hit, bypass := byp}}
def sc (l : List (Nat × Ctx)) : State := {s0 with ctxs := l, cores := [(0, {running := none})]}
def pe (sel quant : Nat) (st : Dword) : State := {setCtx (withCtx s0 (fun c => {c with selected := sel, st := st, frames := [3]})) 5 (cx 2 9 true 0) with cores := [(0, {running := some 0, quant := BitVec.ofNat 32 quant})]}
def tbl : State := {s0 with mem := dwords 0x4000 [0x8001] ++ dwords 0x8000 [0xC001] ++ dwords 0xC000 [0x10001] ++ dwords 0x100A0 [0x200EF, 0, kindOf 0 2 0 % 2^64, kindOf 0 2 0 / 2^64 + (2^32-1) * 2^32]}
def xp : Tlb := {page 6 0 (kindOf 0 2 0 + 2^65) 0xF7 with slot := 0x10000}
def jb (va : Dword) : WalkJob := {id := 3, req := ctxReq tbl 0, va := va, acc := .load, waiters := [0], phase := .reading 3 (ctxReq tbl 0).root false none}
def tw (va : Dword) : State := {withCtx tbl (fun c => {c with asks := [va.toNat / 65536]}) with clusters := [(0, {rind := some 0, walks := [jb va]})]}
def wk (va : Dword) := walkFrom (tw va) (jb va).req ((jb va).req.who.toList ++ (jb va).waiters) va 3 (jb va).req.root none
def wE (va : Dword) : Dword × BitVec 128 × Nat × Nat := match (wk va).2 with | .leaf e c sh sl => (e, c, sh, sl) | _ => (0,0,0,0)
def us (va : Dword) := useLeaf (wk va).1 (jb va).req va .load (wE va).1 (wE va).2.1 (wE va).2.2.1 (wE va).2.2.2
def fe : State := {s0 with tlbs := [(0, [xp])], ctxs := [(0, {c0 with pc := 0x60010})], mem := dwords 0x10010 [0, 2] }
def tf := translateFetch fe (ctxReq fe 0) 0x60010
def rk (tk : List (Reply × Nat)) : State := {s0 with clusters := [(0, {rind := some 0, arms := [(5, {state := .ready, owner := 1, pcls := 3, block := 8, probe := 9}), (6, {state := .ready, owner := 1, pcls := 1, block := 7})], takers := tk})]}

theorem only {i : Nat} {r : List (Nat × Nat)} {j : Nat} {q : Pattern} (h : tfind (pst i r).patterns (0 * 32 + j) = some q) :
    j = i ∧ q = pat r := by
  have e : (pst i r).patterns = [(i, pat r)] := rfl
  rw [e] at h; unfold tfind at h
  by_cases k : i = j
  · subst k; simp at h; exact ⟨rfl, h.symm⟩
  · have k' : ¬ j = i := fun x => k x.symm
    simp_all [tfind]

theorem only_ctx {i : Nat} {r : List (Nat × Nat)} {c : Nat} (h : Rules.startable (pst i r) 0 (pat r) c) : c = 2 := by
  obtain ⟨h1, h2, -⟩ := h
  have : ∀ c < 16, (pat r).cmask.testBit c = true → c = 2 := by show ∀ c < 16, Nat.testBit 4 c = true → c = 2; decide
  exact this c h1 h2

theorem fires_ok {i : Nat} {r : List (Nat × Nat)} (hi : i < 32) (hc : Rules.complete (pst i r) 0 (pat r))
    (hr : Rules.roomForCounts (pst i r) 0 (pat r)) :
    Rules.claimed (pst i r) 0 ∧ (∀ a, windowOf a = .scratch → halfBad (pst i r) a = false) ∧ Rules.mayFire (pst i r) 0 i (pat r)
    ∧ (∀ j q, Rules.mayFire (pst i r) 0 j q → q.prio < (pat r).prio ∨ (q.prio = (pat r).prio ∧ i ≤ j))
    ∧ Rules.startable (pst i r) 0 (pat r) 2 ∧ (∀ c, Rules.startable (pst i r) 0 (pat r) c → 2 ≤ c) := by
  have st : Rules.startable (pst i r) 0 (pat r) 2 := ⟨by decide, show Nat.testBit 4 2 = true by decide, rfl⟩
  refine ⟨?_, fun a _ => rfl, ⟨hi, ?_, hc, hr, 2, st⟩, ?_, st, ?_⟩
  · intro j q c hq h1 h2
    obtain ⟨rfl, rfl⟩ := only hq
    rw [only_ctx (c := c) (i := j) (r := r) ⟨h1, h2, by have := (show ∀ c < 16, Nat.testBit 4 c = true → c = 2 by decide) c h1 h2; subst this; rfl⟩]
    rfl
  · show tfind [(i, pat r)] (0 * 32 + i) = _
    simp [tfind]
  · intro j q h
    obtain ⟨rfl, rfl⟩ := only h.2.1
    exact Or.inr ⟨rfl, Nat.le_refl _⟩
  · intro c h; rw [only_ctx h]

theorem wit_PatternsFire :
    (∃ cn i ci p s, (getCore s cn).off = false ∧ (getCore s cn).takeover = false ∧ Rules.claimed s cn
      ∧ (∀ a, windowOf a = .scratch → halfBad s a = false) ∧ Rules.mayFire s cn i p
      ∧ (∀ j q, Rules.mayFire s cn j q → q.prio < p.prio ∨ (q.prio = p.prio ∧ i ≤ j)) ∧ Rules.startable s cn p ci
      ∧ (∀ c, Rules.startable s cn p c → ci ≤ c) ∧ p.refs ≠ [] ∧ (∀ r ∈ p.refs, 1 ≤ r.2) ∧ (p.refs.map Prod.fst).Nodup
      ∧ p.refs = [(6, 7), (5, 1)])
    ∧ (∃ cn i ci p s port quota, (getCore s cn).off = false ∧ (getCore s cn).takeover = false ∧ Rules.claimed s cn
      ∧ (∀ a, windowOf a = .scratch → halfBad s a = false) ∧ Rules.mayFire s cn i p
      ∧ (∀ j q, Rules.mayFire s cn j q → q.prio < p.prio ∨ (q.prio = p.prio ∧ i ≤ j)) ∧ Rules.startable s cn p ci
      ∧ (∀ c, Rules.startable s cn p c → ci ≤ c) ∧ p.refs = [(port, quota)] ∧ 1 ≤ quota
      ∧ port < 64 ∧ (getPort s cn port).count? = true)
    ∧ (∃ cn i ci p s port sl rest, (getCore s cn).off = false ∧ (getCore s cn).takeover = false ∧ Rules.claimed s cn
      ∧ (∀ a, windowOf a = .scratch → halfBad s a = false) ∧ Rules.mayFire s cn i p
      ∧ (∀ j q, Rules.mayFire s cn j q → q.prio < p.prio ∨ (q.prio = p.prio ∧ i ≤ j)) ∧ Rules.startable s cn p ci
      ∧ (∀ c, Rules.startable s cn p c → ci ≤ c) ∧ p.refs = [(port, 1)]
      ∧ (getPort s cn port).count? = false ∧ (getPort s cn port).queue = sl :: rest)
    ∧ (∃ cn s, Rules.claimed s cn ∧ ∀ i p, ¬ Rules.mayFire s cn i p) := by
  refine ⟨?_, ?_, ?_, 0, s0, fun i p c h => absurd h (by simp [s0, tfind]), fun i p h => absurd h.2.1 (by simp [s0, tfind])⟩
  · obtain ⟨a, b, c, d, e, f⟩ := fires_ok (i := 31) (r := [(6, 7), (5, 1)]) (by decide) (by unfold Rules.complete; decide +kernel)
      (by unfold Rules.roomForCounts; decide +kernel)
    exact ⟨0, 31, 2, _, _, rfl, rfl, a, b, c, d, e, f, by decide, by decide, by decide, rfl⟩
  · obtain ⟨a, b, c, d, e, f⟩ := fires_ok (i := 3) (r := [(6, 7)]) (by decide) (by unfold Rules.complete; decide +kernel)
      (by unfold Rules.roomForCounts; decide +kernel)
    exact ⟨0, 3, 2, _, _, 6, 7, rfl, rfl, a, b, c, d, e, f, rfl, by decide, by decide, rfl⟩
  · obtain ⟨a, b, c, d, e, f⟩ := fires_ok (i := 3) (r := [(5, 1)]) (by decide) (by unfold Rules.complete; decide +kernel)
      (by unfold Rules.roomForCounts; decide +kernel)
    exact ⟨0, 3, 2, _, _, 5, 4, [9], rfl, rfl, a, b, c, d, e, f, rfl, rfl, rfl⟩

theorem wit_PatternAndContextEvents :
    (∃ (cn : ℕ) (k : ℕ) (cy : ℕ) (x : TrapRec) (rest : List (ℕ × TrapRec)) (s : State), (getCore s cn).running = some
    k ∧ k / 256 = cn ∧ (getCtx s k).act = Activity.running ∧ (getCtx s k).hint = none ∧ stTrap (getCtx s k).st =
    false ∧ stRoam (getCtx s k).st = false ∧ (getCtx s k).hoop = 0 ∧ (getCtx s k).pending = none ∧ (getCtx s
    k).deferred = (cy, x) :: rest ∧ cy < s.cycle)
    ∧ (∃ (cn : ℕ) (i : ℕ) (home : ℕ) (adv : Bool) (s : State), i < 256 ∧ (getCtx s (cn * 256 + i)).act =
    Activity.waiting Wait.migrate ∧ (getCtx s (cn * 256 + i)).migrTo = some (home, adv) ∧ home / 2048 = s.node ∧ (∀
    f ∈ s.net, ∀ (e : ℕ × BitVec 8), f.owner = some e → e.1 ≠ cn * 256 + i) ∧ awayOf s (cn * 256 + i) = [] ∧
    harpUnderway s (cn * 256 + i) = false ∧ (getCtx s (cn * 256 + i)).unacked = 0 ∧ (getCtx s (cn * 256 +
    i)).deferred = [] ∧ (getCore s cn).spilled = [] ∧ (getCore s (home % 2048)).off = false)
    ∧ (∃ (cn : ℕ) (i : ℕ) (j : ℕ) (l : ℕ) (x : TrapRec) (s : State), i < 32 ∧ (getCtx s (cn * 256 + (128 + i))).pending
    = some x ∧ (getCtx s (cn * 256 + (128 + i))).act = Activity.waiting Wait.seat ∧ (getCtx s (cn * 256 + (128 +
    i))).launch = some l ∧ (getCtx s (cn * 256 + (128 + i))).unacked = 0 ∧ (∀ (r : ℕ), 1 ≤ r → r ≤ 6 → (getCtx s (cn
    * 256 + (128 + i))).isEmpty r = false) ∧ (getCore s cn).spilled = [] ∧ (j < 16 ∧ (getCtx s (cn * 256 +
    j)).launch = some l) ∧ (getCtx s (cn * 256 + j)).act = Activity.dormant ∧ (∀ m < j, ¬((m < 16 ∧ (getCtx s (cn *
    256 + m)).launch = some l) ∧ (getCtx s (cn * 256 + m)).act = Activity.dormant)) ∧ (getCtx s (cn * 256 + j)).hoop
    = 0)
    ∧ (∃ (cn : ℕ) (s : State), (getCore s cn).off = false ∧ (getCore s cn).takeover = false ∧ (getCore s cn).running =
    none ∧ ∃ e, Rules.waits s cn e)
    ∧ (∃ (cn : ℕ) (k : ℕ) (s : State), (getCore s cn).running = some k ∧ k / 256 = cn ∧ (getCtx s k).act =
    Activity.running ∧ stSys (getCtx s k).st = false ∧ (getCtx s k).hint = none ∧ (∃ e, Rules.waits s cn e ∧
    Rules.rank e.2 < Rules.rank (getCtx s k)) ∧ ((getCore s cn).quant ≠ 0 ∧ BitVec.toNat (getCore s cn).quant ≤
    s.cycle - (getCtx s k).selected ∨ stDem (getCtx s k).st = true))
    ∧ (∃ (cn : ℕ) (at_ : ℕ) (s : State), (getCore s cn).gateState = 1 ∧ (getCore s cn).gateAt = some at_ ∧ at_ <
    s.cycle) :=
  ⟨⟨0, 0, 999, x1, [(1000, x1)], d1, by decide +kernel⟩,
   ⟨0, 128, 9, true, mg true, by decide +kernel⟩,
   ⟨0, 0, 2, 1, {x1 with resume := 0x1007}, rs, by decide +kernel⟩,
   ⟨0, sc [(0, cx 3 5 true 0), (1, cx 2 9 true 0)], by decide +kernel, by decide +kernel, by decide +kernel,
    ⟨(0, cx 3 5 true 0), by unfold Rules.waits; decide +kernel⟩⟩,
   ⟨0, 0, pe 900 100 0xE0, by decide +kernel, by decide +kernel, by decide +kernel, by decide +kernel,
    by decide +kernel, ⟨(5, cx 2 9 true 0), by unfold Rules.waits; decide +kernel⟩, by decide +kernel⟩,
   ⟨0, 999, {s0 with cores := [(0, {gateState := 1, gateAt := some 999})]}, by decide +kernel⟩⟩

theorem wit_WalksScansAndTheRack :
    (∃ (cn : ℕ) (i : ℕ) (lv : ℕ) (tab : ℕ) (va : Dword) (acc : AccKind) (asked : Bool) (ans : Option (ℕ × Vec)) (j :
    WalkJob) (s : State) (e : Dword) (c : BitVec 128) (sh : ℕ) (slot : ℕ) (s1 : State) (s2 : State) (x : Xl),
    List.find? (fun j => BitVec.toNat j.va / 65536 == BitVec.toNat va / 65536 && j.acc == acc && (j.req.who == none
    || j.req.who == some (cn * 256 + i))) (List.take 16 (getCluster s (cn / 8)).walks) = some j ∧ j.phase =
    WalkPhase.reading lv tab asked ans ∧ walkFrom s j.req (j.req.who.toList ++ j.waiters) j.va lv tab ans = (s1,
    Walk.leaf e c sh slot) ∧ useLeaf s1 j.req j.va j.acc e c sh slot = (s2, Except.ok x) ∧ (isLocal s2 slot = true ∨
    homed c = true) ∧ (∀ i < 8, (getCore s2 (8 * (cn / 8) + i)).misses = []) ∧ j.req.core < 2048)
    ∧ (∃ (cn : ℕ) (i : ℕ) (lv : ℕ) (tab : ℕ) (va : Dword) (acc : AccKind) (asked : Bool) (ans : Option (ℕ × Vec)) (j :
    WalkJob) (s : State) (w : Walk) (s1 : State), List.find? (fun j => BitVec.toNat j.va / 65536 == BitVec.toNat va
    / 65536 && j.acc == acc && (j.req.who == none || j.req.who == some (cn * 256 + i))) (List.take 16 (getCluster s
    (cn / 8)).walks) = some j ∧ j.phase = WalkPhase.reading lv tab asked ans ∧ ((∃ code, w = Walk.fault code ∧
    walkFrom s j.req (j.req.who.toList ++ j.waiters) j.va lv tab ans = (s1, w)) ∨ ∃ e c sh slot s2 n, w = Walk.leaf
    e c sh slot ∧ walkFrom s j.req (j.req.who.toList ++ j.waiters) j.va lv tab ans = (s2, w) ∧ useLeaf s2 j.req j.va
    j.acc e c sh slot = (s1, Except.error n)))
    ∧ (∃ (cn : ℕ) (k : ℕ) (va : Dword) (s : State) (s1 : State) (x : Xl), cn < 2048 ∧ (getCore s cn).running = some k ∧
    k / 256 = cn ∧ BitVec.toNat (getCtx s k).pc / 65536 = BitVec.toNat va / 65536 ∧ translateFetch s (ctxReq s k)
    (getCtx s k).pc = (s1, Except.ok x))
    ∧ (∃ (cl : ℕ) (e : ℕ) (a : Arm) (s : State), (rackOf s cl).length < 512 ∧ rackFirst s (rackWaiting s cl) = some (e,
    a) ∧ (getCluster s cl).takers = [])
    ∧ (∃ (cl : ℕ) (e : ℕ) (a : Arm) (s : State) (r : Reply) (more : List (Reply × ℕ)), (rackOf s cl).length < 512 ∧
    rackFirst s (rackWaiting s cl) = some (e, a) ∧ (getCluster s cl).takers = (r, (getArm s cl e).owner) :: more ∧
    stGen (getCtx s r.ctx).st = r.gen) :=
  ⟨⟨0, 0, 3, (jb 0).req.root, 0x50000, .load, false, none, jb 0x50000, tw 0x50000, (wE 0x50000).1,
    (wE 0x50000).2.1, (wE 0x50000).2.2.1, (wE 0x50000).2.2.2, (wk 0x50000).1, (us 0x50000).1,
    okD noXl (us 0x50000).2, by decide +kernel⟩,
   ⟨0, 0, 3, (jb 0).req.root, 0x60000, .load, false, none, jb 0x60000, tw 0x60000, (wk 0x60000).2, (wk 0x60000).1,
    by decide +kernel, by decide +kernel, Or.inl ⟨16, by decide +kernel, by decide +kernel⟩⟩,
   ⟨0, 0, 0x6FFFC, fe, fst tf, okD noXl tf.2, by decide +kernel⟩,
   ⟨0, 6, {state := .ready, owner := 1, pcls := 1, block := 7}, rk [], by decide +kernel⟩,
   ⟨0, 6, {state := .ready, owner := 1, pcls := 1, block := 7},
    rk [({ctx := 0, gen := 0, reg := 4, inTrap := false}, 1)], {ctx := 0, gen := 0, reg := 4, inTrap := false}, [],
    by decide +kernel⟩⟩

end Patterns

namespace Launches

def hp (g : HostPage) : State := {s0 with rinds := [(0, {started := true, page := g})]}
def lm : BitVec 512 := BitVec.ofNat 512 (5 * 2^60 + 6 * 2^32 + 0x1234 * 2^128)
def lpp (n : Nat) : State := {hp {held := [lm, 5], after := 1000} with ports := [(63, {en := true, cap := 2, queue := List.range n})], slots := (List.range n).map (fun i => (i, true))}
def cm : State := {hp {} with mem := dwords 0x40 [7,8]}
def ca (w : Bool) : State × Except Nat Vec := match leafless cm { ctx := engineKey, gen := 0, inTrap := false, op := if w then .store else .load, dest := .none, n := 8, pa := 0x40, va := 0, data := (9 : BitVec 64).setWidth 512, expect := 0, pkind := 0, home := leaflessHome cm 0x40, col := none, nalloc := true, rind := 0, launch := none, size := 3 } with | (s1, .ok x) => (s1, .ok x) | (s1, _) => (s1, .error 0)
def cv (w : Bool) : Vec := match (ca w).2 with | .ok x => x | _ => 0
def lb (n grp xs cs : Nat) : Nat := n * 2^96 + grp * 2^101 + xs * 2^75 + cs * 2^83 + 7 * 2^133 + 0x8000 * 2^192 + 500 * 2^256
def msg (b : Nat) : List Nat := [5*2^60 + 6 * 2^32, 0, b % 2^64, b / 2^64 % 2^64, b / 2^128 % 2^64, b / 2^192 % 2^64, b/2^256 % 2^64, b / 2^320]
def la (b : Nat) : State := {s0 with rinds := [(0, {started := true, spoolCnt := 1, spoolBase := 0x400000})], ports := [(63, {en := true, cap := 16, queue := [4, 5]})], slots := [(4, true), (5,true)], mem := dwords (Rules.slotAt 0 4) (msg b), nextLaunch := 5}
def lbv (b : Nat) : BitVec 384 := msgPayload (slotMessage (la b) 0 4)
def ls0 (b : Nat) : State := {setPort (la b) 0 63 {getPort (la b) 0 63 with queue := [5]} with slots := tput (la b).slots 4 false}
def l1 : Launch := { rind := 0, asid := 7, front := 0, block := BitVec.ofNat 384 (lb 2 1 1 8), energy := 5000, reported := 4096, area := some 0, ebud := 4 }
def le : State := {s0 with launches := [(1, l1)], ctxs := [(0, {c0 with act := .dormant}), (3, {c0 with act := .waiting .park})], rinds := [(0, {started := true, areas := [0, 1]})], ports := [(5, {en := true, owner := some 1})], patterns := [(0, {refs := [], handler := 0, cmask := 0, prio := 0, owner := some 1})]}

theorem wit_HostAndLaunchEvents :
    (∃ (k : ℕ) (s : State), k < 12 ∧ (getRind s k).started = true)
    ∧ (∃ (k : ℕ) (cn : ℕ) (sl : ℕ) (m : BitVec 512) (rest : List (BitVec 512)) (s : State), (getRind s k).page.held = m
    :: rest ∧ (getRind s k).page.after ≤ s.cycle ∧ frontCore s k = some cn ∧ msgDk m = 5 ∧ msgRind m = k ∧ msgFmt m
    = 0 ∧ (getPort s cn 63).en = true ∧ (getPort s cn 63).count? = false ∧ (getPort s cn 63).queue.length < (getPort
    s cn 63).cap ∧ Rules.lowestFree s cn sl)
    ∧ (∃ (k : ℕ) (cn : ℕ) (m : BitVec 512) (rest : List (BitVec 512)) (s : State), (getRind s k).page.held = m :: rest
    ∧ (getRind s k).page.after ≤ s.cycle ∧ frontCore s k = some cn ∧ msgDk m = 5 ∧ msgRind m = k ∧ msgFmt m = 0 ∧
    (getPort s cn 63).en = true ∧ (getPort s cn 63).count? = false ∧ (getPort s cn 63).cap ≤ (getPort s cn
    63).queue.length)
    ∧ (∃ (k : ℕ) (s : State), (getRind s k).started = true ∧ k < 12)
    ∧ (∃ (k : ℕ) (s : State), k < 12 ∧ (getRind s k).started = true)
    ∧ (∃ (k : ℕ) (s : State), k < 12 ∧ (getRind s k).started = true)
    ∧ (∃ (k : ℕ) (addr : ℕ) (la : ℕ) (d : BitVec 64) (w : Bool) (x : Vec) (s : State) (s1 : State), k < 12 ∧ (getRind s
    k).started = true ∧ addr % 8 = 0 ∧ hdmAddr s k addr = some la ∧ leafless s
    { ctx := engineKey, gen := 0, inTrap := false, op := if w = true then AccOp.store else AccOp.load,
        dest := Dest.none, n := 8, pa := s.node * 2 ^ 45 + la, va := 0, data := BitVec.setWidth 512 d,
        expect := 0, pkind := 0, home := leaflessHome s la, col := none, nalloc := true, rind := k,
        launch := none, size := 3 } = (s1, Performed.ok x))
    ∧ (∃ (line : ℕ) (s : State), line < 2 ^ 37 ∧ MemInv s)
    ∧ (∃ (k : ℕ) (cn : ℕ) (sl : ℕ) (rest : List ℕ) (s : State) (code : ℕ), frontCore s k = some cn ∧ (getPort s cn
    63).queue = sl :: rest ∧ admitTest
    { setPort s cn 63 { getPort s cn 63 with queue := rest } with slots := tput s.slots (cn * 256 + sl) false } k
    (msgPayload (slotMessage s cn sl)) = Except.error code)
    ∧ (∃ (k : ℕ) (cn : ℕ) (sl : ℕ) (rest : List ℕ) (s : State) (area : ℕ), frontCore s k = some cn ∧ (getPort s cn
    63).queue = sl :: rest ∧ admitTest
    { setPort s cn 63 { getPort s cn 63 with queue := rest } with slots := tput s.slots (cn * 256 + sl) false } k
    (msgPayload (slotMessage s cn sl)) = Except.ok area)
    ∧ (∃ (l : ℕ) (x : Launch) (s : State), getLaunch s l = some x ∧ x.starts = 0 ∧ launchActive s l x = false)
    ∧ (∃ (l : ℕ) (x : Launch) (s : State), getLaunch s l = some x ∧ x.demoted = false ∧ BitVec.toNat x.ebud ≤
    x.reported / 1024) :=
  ⟨⟨11, {s0 with rinds := [(11, {started := true})]}, by decide +kernel⟩,
   ⟨0, 0, 1, lm, [5], lpp 1, by decide +kernel, four (by decide +kernel)
      (four (by decide +kernel)
      (by unfold Sys2Proof.Rules.lowestFree; exact ⟨by unfold Sys2Proof.Rules.storeFree; decide +kernel, by intro j hj hf; obtain ⟨h1, h2⟩ := hf; revert h2; revert h1; revert j; decide +kernel⟩))⟩,
   ⟨0, 0, lm, [5], lpp 2, by decide +kernel⟩,
   ⟨0, hp {ctl := 3, tail := 10, head := 1}, by decide +kernel⟩,
   ⟨0, hp {ctl := 3, tail := 10, head := 1}, by decide +kernel⟩,
   ⟨0, hp {}, by decide +kernel⟩,
   ⟨0, 0x40, 0x40, 9, true, cv true, cm, (ca true).1, by decide +kernel⟩,
   ⟨2^37 - 1, State.reset, by decide +kernel, ⟨by decide +kernel, by decide +kernel, by decide +kernel⟩⟩,
   ⟨0, 0, 4, [5], la (lb 16 1 1 1), 3, by decide +kernel⟩,
   ⟨0, 0, 4, [5], la (lb 2 1 1 8), 0, by decide +kernel⟩,
   ⟨1, l1, le, by decide +kernel⟩,
   ⟨1, l1, le, by decide +kernel⟩⟩

end Launches

namespace Ladles

def rp (k reg : Nat) : Reply := {ctx := k, gen := 0, reg := reg, inTrap := false}
def cbl (src dst rb rows extra : Nat) : BitVec 512 := BitVec.ofNat 512 (src + dst * 2^64 + rb * 2^128 + rows * 2^160 + 64 * 2^192 + 64 * 2^224 + 7 * 2^304 + extra)
def c5 : State := withCtx s0 (fun c => {c with g := [(3, 0x30100), (4, 0x20080), (5, 0x5)]})
def lmsg (kind : Nat) (x : Dword) (y : Dword) : BitVec 512 := ladleMessage c5 0 kind 0 0 4 0 x y
def qd (kind : Nat) (x : Dword := 0x30100) (y : Dword := 5) : Queued := {msg := lmsg kind x y, body := 0, launch := some 1, owner := some (0,0), ord := sendOrd false false, reply := rp 0 4}
def cpw (b : BitVec 512) : List Nat := (List.range 8).map (fun i => (b.extractLsb' (64 * i) 64).toNat)
def ctlb : Tab (List Tlb) := [(0, [page 2 0x8000000 (kindOf 3 2 0), page 3 1 (kindOf 0 2 0), page 4 2 (kindOf 0 2 1)]), (2048, [page 2 0x8000000 (kindOf 3 2 0), page 3 1 (kindOf 0 2 0), page 4 2 (kindOf 0 2 1), page 5 1 (kindOf 0 2 0) 0xE3])]
def good := cbl 0x30200 0x40000 64 16 0
def ls (b : BitVec 512) (cs : Tab Copy) (q : Queued) : State := {c5 with tlbs := ctlb, mem := dwords 0x10100 (cpw b) ++ dwords 0x10200 [1,2,3,4], clusters := [(0, {rind := some 0, inbox := [(0, [q, qd 1])], copies := cs})]}
def pr (s : State) (q : Queued) (c : Bool) := readParams s 0 0 (ladleReq s 0 q) q c
def prB (s : State) (q : Queued) (c : Bool) : BitVec 512 := match (pr s q c).2 with | .block b => b | _ => 99
def cop (b : BitVec 512) : Copy := {cmd := qd 0, block := b, follow := none, done := [], ending := none, stopping := false, seq := 3}
def qr : Queued := {qd 0 with msg := ladleMessage c5 0 0 2 0 4 0 0x30100 5}
def cor (b : BitVec 512) : Copy := {cop b with cmd := qr}
def mv (b : BitVec 512) (n : Nat) : State × Moved × Copy := let s := ls b [(1, cor b)] qr; movePiece (ladleReq s 0 qr) (cor b) n s
def mvE (b : BitVec 512) (n : Nat) : Ending := match (mv b n).2.1 with | .failed e => e | _ => {status := 0}
def one := cbl 0x30200 0x40000 4 1 0
def unm := cbl 0x30200 0x50000 4 1 0
def dn : Copy := {cop good with done := [0,1]}
def dm : Copy := {dn with cmd := qd 1, block := cbl 0x30200 0x40000 64 16 (0x8000000000000003 * 2^384)}
def e1 : Ending := {status := 3, fva := 0x77, cause := 0x10, prog := 512}
def dS (x : Copy) : State := ls good [(5, x)] (qd 0)
def fm : BitVec 512 := lmsg 0 0x30140 0 ||| BitVec.ofNat 512 (3 * 2^96)
def fo : Copy := {dn with follow := some fm, retry := 1000}
def foF : State := {dS fo with clusters := [(0, {rind := some 0, inbox := [(5, List.replicate 16 (qd 0))], copies := [(5, fo)]})]}
def rX (pos far : Nat) : Stream := {rdS with pos := pos, far := far}
def sr (x : Stream) : State := {s0 with streams := [(2, x)], tlbs := ctlb, mem := dwords 0x10FC0 [7,8,9]}
def ea (x : Stream) : State × EngRes := engAccess (sr x) (streamReq (sr x) x) { op := .load, n := 64, va := streamAddr x.desc x.far }
def eaV (p : State × EngRes) : Vec := match p.2 with | .ok v => v | _ => 0
def rB : Stream := {rX 0 3 with desc := dsc 0 + 0x20000}
def wX (c : List (Nat × Bool)) (pos : Nat) : Stream := {wrS with pos := pos, far := pos - 1, masks := [0xFF00], closing := c}
def sw (x : Stream) : State := {s0 with streams := [(2, x)], tlbs := ctlb, mem := dwords 0x10FC0 [7,8,9] ++ dwords (0x80000001000 + 0xFC0) [0x1122334455667788, 0x99AABBCCDDEEFF00] ++ dwords (0x80000001000 + 0x1FC0) [0x1122334455667788, 0x99AABBCCDDEEFF00]}
def ew (x : Stream) : State × EngRes := engAccess (sw x) (streamReq (sw x) x) { op := .store, n := 64, va := streamAddr x.desc x.far, data := readVec (sw x) (ringAddr (ctxCore x.ctx) x.desc x.far) 64, be := x.masks.headD 0 }
def xfb : BitVec 512 := good ||| BitVec.ofNat 512 (2^256)
def stx : Copy := {cop good with stopping := true, done := [0, 1]}
def stw := stopWords (ladleReq (dS stx) 0 stx.cmd) stx (dS stx)
def pf : State := ls xfb ((List.range 4).map (fun i => (i, {cop xfb with places := (List.range 4).map (fun j => (j, [])), seq := i}))) (qd 0)
def xst : Stream := {rdS with desc := dsc 0 ||| BitVec.ofNat 512 (2^224), far := 3}
def xss : State := {pf with streams := [(2, xst)]}
def wF : Stream := {wX [(3, true), (0, false), (4, false)] 5 with fail := some (4, 0x11, 2, 0x30100)}
def ls3 : State := ls good [(0, cop good), (1, cop good), (2, cop good)] (qd 1)
def pfx : Copy := {cop xfb with places := (List.range 4).map (fun j => (j, [])), seq := 0}
def pmm : BitVec 512 := BitVec.ofNat 512 (2 * 2^60 + 2^96)
def lsF (q : Queued) (w : BitVec 512) : State := {ls good [] q with mem := dwords 0x10100 (cpw good) ++ dwords 0x10140 (cpw w) ++ dwords 0x10200 [1,2,3,4], clusters := [(0, {rind := some 0, inbox := [(0, [q])]})]}
def fr (s : State) (q : Queued) := acceptRead (pr s q false).1 (ladleReq s 0 q) (imgArg q.msg) 5 4

theorem wit_LadleAndStreamEvents :
    (∃ (cl : ℕ) (l : ℕ) (i : ℕ) (q : Queued) (rest : List Queued) (b : BitVec 512) (cached : Bool) (s : State) (s1 :
    State), l < 2 ∧ i < 4 ∧ Rules.waiting s cl l = q :: rest ∧ tfind (getCluster s cl).copies (4 * l + i) = none ∧
    (∀ j < i, (tfind (getCluster s cl).copies (4 * l + j)).isSome = true) ∧ imgKind q.msg ≠ 2 ∧ readParams s cl l
    (ladleReq s cl q) q cached = (s1, Accepted.block b))
    ∧ (∃ (cl : ℕ) (l : ℕ) (p : ℕ) (n : ℕ) (x : Copy) (y : Copy) (s : State) (s1 : State), l < 2 ∧ p < 4 ∧ tfind
    (getCluster s cl).copies (4 * l + p) = some x ∧ x.ending = none ∧ x.stopping = false ∧ n ∉ x.done ∧ firstPiece
    x.block ≤ n ∧ n < endPiece x.block ∧ (pbXform x.block = 1 → blockPermitted s cl l x (n / 8) = true) ∧ movePiece
    (ladleReq s cl x.cmd) x n s = (s1, Moved.done, y) ∧ pbBmap x.block = 0)
    ∧ (∃ (cl : ℕ) (l : ℕ) (p : ℕ) (n : ℕ) (x : Copy) (y : Copy) (s : State) (s1 : State) (e : Ending), l < 2 ∧ p < 4 ∧
    tfind (getCluster s cl).copies (4 * l + p) = some x ∧ x.ending = none ∧ x.stopping = false ∧ n ∉ x.done ∧
    firstPiece x.block ≤ n ∧ n < endPiece x.block ∧ (pbXform x.block = 1 → blockPermitted s cl l x (n / 8) = true) ∧
    movePiece (ladleReq s cl x.cmd) x n s = (s1, Moved.failed e, y) ∧ n = firstPiece x.block ∧ e.status < 8 ∧ x.done
    = [])
    ∧ (∃ (cl : ℕ) (l : ℕ) (p : ℕ) (n : ℕ) (x : Copy) (s : State), tfind (getCluster s cl).copies (4 * l + p) = some x ∧
    pbXform x.block = 1 ∧ blockPermitted s cl l x (n / 8) = false)
    ∧ (∃ (cl : ℕ) (l : ℕ) (p : ℕ) (x : Copy) (e : Ending) (s : State), tfind (getCluster s cl).copies (4 * l + p) =
    some x ∧ (x.ending = some e ∨ x.ending = none ∧ x.stopping = false ∧ allMoved x = true ∧ e =
    { status := 0, prog := BitVec.ofNat 32 (pbLen x.block) }) ∧ e.prog ≠ BitVec.allOnes 32 ∧ (x.follow = none ∨
    e.status ≠ 0))
    ∧ (∃ (cl : ℕ) (l : ℕ) (p : ℕ) (off : ℕ) (x : Copy) (s : State) (s1 : State), tfind (getCluster s cl).copies (4 * l
    + p) = some x ∧ x.ending = none ∧ x.stopping = true ∧ stopWords (ladleReq s cl x.cmd) x s = (s1, off) ∧ off < 2
    ^ 32 - 1)
    ∧ (∃ (cl : ℕ) (l : ℕ) (p : ℕ) (x : Copy) (m : BitVec 512) (s : State), tfind (getCluster s cl).copies (4 * l + p) =
    some x ∧ x.ending = none ∧ x.stopping = false ∧ allMoved x = true ∧ x.follow = some m ∧ x.retry ≠ 0 ∧ x.retry ≤
    s.cycle ∧ msgDst m % 64 < 4 ∧ (Rules.waiting s (coreOfField (msgDst m / 64 % 2 ^ 11) / 8) (2 + msgDst m %
    64)).length < 16)
    ∧ (∃ (cl : ℕ) (l : ℕ) (p : ℕ) (x : Copy) (m : BitVec 512) (s : State), tfind (getCluster s cl).copies (4 * l + p) =
    some x ∧ x.ending = none ∧ x.stopping = false ∧ allMoved x = true ∧ x.follow = some m ∧ x.retry ≠ 0 ∧ x.retry ≤
    s.cycle ∧ msgDst m % 64 < 4 ∧ 16 ≤ (Rules.waiting s (coreOfField (msgDst m / 64 % 2 ^ 11) / 8) (2 + msgDst m %
    64)).length)
    ∧ (∃ (cn : ℕ) (i : ℕ) (x : Machine.Stream) (v : Vec) (s : State) (s1 : State), i < 16 ∧ tfind s.streams (cn * 16 +
    i) = some x ∧ streamWrite x.desc = false ∧ streamXform x.desc = 0 ∧ x.fail = none ∧ x.far + 1 = streamCount
    x.desc ∧ x.far / 64 < x.pos / 64 + streamSlots x.desc ∧ engAccess s (streamReq s x)
    { op := AccOp.load, n := 64, va := streamAddr x.desc x.far } = (s1, EngRes.ok v))
    ∧ (∃ (cn : ℕ) (i : ℕ) (code : ℕ) (x : Machine.Stream) (s : State) (s1 : State), i < 16 ∧ tfind s.streams (cn * 16 +
    i) = some x ∧ streamWrite x.desc = false ∧ streamXform x.desc = 0 ∧ x.fail = none ∧ x.far < streamCount x.desc ∧
    x.far / 64 < x.pos / 64 + streamSlots x.desc ∧ engAccess s (streamReq s x)
    { op := AccOp.load, n := 64, va := streamAddr x.desc x.far } = (s1, EngRes.fault code) ∧ code ≠ 0)
    ∧ (∃ (cn : ℕ) (i : ℕ) (x : Machine.Stream) (s : State), tfind s.streams (cn * 16 + i) = some x ∧ streamXform x.desc
    = 1 ∧ streamWrite x.desc = false ∧ permitFree s (cn / 8) (streamLadle x.desc) = false)
    ∧ (∃ (cn : ℕ) (i : ℕ) (x : Machine.Stream) (v : Vec) (s : State) (s1 : State), i < 16 ∧ tfind s.streams (cn * 16 +
    i) = some x ∧ streamWrite x.desc = true ∧ x.fail = none ∧ x.pos = x.far + 1 ∧ x.far < streamCount x.desc ∧
    scratchGood s (viewAddrs (ringAddr (ctxCore x.ctx) x.desc x.far) 64 false) = true ∧ engAccess s (streamReq s x)
    { op := AccOp.store, n := 64, va := streamAddr x.desc x.far,
        data := readVec s (ringAddr (ctxCore x.ctx) x.desc x.far) 64, be := x.masks.headD 0 } = (s1, EngRes.ok v) ∧
    x.closing = [] ∧ x.bound = true ∧ x.pos % 64 = 0)
    ∧ (∃ (cn : ℕ) (i : ℕ) (x : Machine.Stream) (v : Vec) (s : State) (s1 : State), i < 16 ∧ tfind s.streams (cn * 16 +
    i) = some x ∧ streamWrite x.desc = true ∧ x.fail = none ∧ x.pos = x.far + 1 ∧ x.far < streamCount x.desc ∧
    scratchGood s (viewAddrs (ringAddr (ctxCore x.ctx) x.desc x.far) 64 false) = true ∧ engAccess s (streamReq s x)
    { op := AccOp.store, n := 64, va := streamAddr x.desc x.far,
        data := readVec s (ringAddr (ctxCore x.ctx) x.desc x.far) 64, be := x.masks.headD 0 } = (s1, EngRes.ok v) ∧
    (x.closing ≠ [] ∨ x.bound = false) ∧ x.owed = none)
    ∧ (∃ (cn : ℕ) (i : ℕ) (n : ℕ) (code : ℕ) (acc : ℕ) (ea : Dword) (x : Machine.Stream) (s : State), i < 16 ∧ tfind
    s.streams (cn * 16 + i) = some x ∧ streamWrite x.desc = true ∧ (x.closing ≠ [] ∨ x.bound = false) ∧ x.owed =
    none ∧ x.fail = some (n, code, acc, ea) ∧ code < 256)
    ∧ (∃ (cl : ℕ) (l : ℕ) (i : ℕ) (q : Queued) (rest : List Queued) (b : BitVec 512) (cached : Bool) (s : State) (s1 :
    State) (s2 : State) (m : BitVec 512), l < 2 ∧ i < 4 ∧ Rules.waiting s cl l = q :: rest ∧ tfind (getCluster s
    cl).copies (4 * l + i) = none ∧ (∀ j < i, (tfind (getCluster s cl).copies (4 * l + j)).isSome = true) ∧ imgKind
    q.msg = 2 ∧ readParams s cl l (ladleReq s cl q) q cached = (s1, Accepted.block b) ∧ acceptRead s1 (ladleReq s cl
    q) (imgArg q.msg) 5 4 = (s2, Accepted.block m))
    ∧ (∃ (cl : ℕ) (l : ℕ) (i : ℕ) (q : Queued) (rest : List Queued) (b : BitVec 512) (cached : Bool) (s : State) (s1 :
    State) (s2 : State) (m : BitVec 512), l < 2 ∧ i < 4 ∧ Rules.waiting s cl l = q :: rest ∧ tfind (getCluster s
    cl).copies (4 * l + i) = none ∧ (∀ j < i, (tfind (getCluster s cl).copies (4 * l + j)).isSome = true) ∧ imgKind
    q.msg = 2 ∧ readParams s cl l (ladleReq s cl q) q cached = (s1, Accepted.block b) ∧ acceptRead s1 (ladleReq s cl
    q) (imgArg q.msg) 5 4 = (s2, Accepted.block m))
    ∧ (∃ (cl : ℕ) (l : ℕ) (i : ℕ) (q : Queued) (rest : List Queued) (b : BitVec 512) (cached : Bool) (s : State) (s1 :
    State) (s2 : State) (st : ℕ), l < 2 ∧ i < 4 ∧ Rules.waiting s cl l = q :: rest ∧ tfind (getCluster s cl).copies
    (4 * l + i) = none ∧ (∀ j < i, (tfind (getCluster s cl).copies (4 * l + j)).isSome = true) ∧ imgKind q.msg = 2 ∧
    readParams s cl l (ladleReq s cl q) q cached = (s1, Accepted.block b) ∧ acceptRead s1 (ladleReq s cl q) (imgArg
    q.msg) 5 4 = (s2, Accepted.unusable st)) :=
  ⟨⟨0, 0, 3, qd 1, [qd 1], good, false, ls3, (pr ls3 (qd 1) false).1, by decide +kernel⟩,
   ⟨0, 0, 1, 0, cor one, (mv one 0).2.2, ls one [(1, cor one)] qr, (mv one 0).1, by decide +kernel⟩,
   ⟨0, 0, 1, 0, cor unm, (mv unm 0).2.2, ls unm [(1, cor unm)] qr, (mv unm 0).1, mvE unm 0, by decide +kernel⟩,
   ⟨0, 0, 0, 40, pfx, pf, by decide +kernel, by decide +kernel,
    by rw [blockPermitted, permitFree, copyPermits_eq]; decide +kernel⟩,
   ⟨0, 1, 1, {dm with ending := some e1}, e1, dS {dm with ending := some e1}, by decide +kernel⟩,
   ⟨0, 1, 1, stw.2, stx, dS stx, stw.1, by decide +kernel⟩,
   ⟨0, 1, 1, fo, fm, dS fo, by decide +kernel⟩,
   ⟨0, 1, 1, fo, fm, foF, by decide +kernel⟩,
   ⟨0, 2, rX 0 63, eaV (ea (rX 0 63)), sr (rX 0 63), (ea (rX 0 63)).1, by decide +kernel⟩,
   ⟨0, 2, 0x14, rB, sr rB, (ea rB).1, by decide +kernel⟩,
   ⟨0, 2, xst, xss, by decide +kernel, by decide +kernel, by decide +kernel,
    by rw [permitFree, copyPermits_eq]; decide +kernel⟩,
   ⟨0, 2, wX [] 64, eaV (ew (wX [] 64)), sw (wX [] 64), (ew (wX [] 64)).1, by decide +kernel⟩,
   ⟨0, 2, wX [(3, true)] 5, eaV (ew (wX [(3, true)] 5)), sw (wX [(3, true)] 5), (ew (wX [(3, true)] 5)).1,
    by decide +kernel⟩,
   ⟨0, 2, 4, 0x11, 2, 0x30100, wF, sw wF, by decide +kernel⟩,
   ⟨0, 0, 0, qd 2 0x30100 0x30140, [], good, false, lsF (qd 2 0x30100 0x30140) pmm,
    (pr (lsF (qd 2 0x30100 0x30140) pmm) (qd 2 0x30100 0x30140) false).1,
    (fr (lsF (qd 2 0x30100 0x30140) pmm) (qd 2 0x30100 0x30140)).1, pmm, by decide +kernel⟩,
   ⟨0, 0, 0, qd 2 0x30100 0x30140, [], good, false, lsF (qd 2 0x30100 0x30140) 5,
    (pr (lsF (qd 2 0x30100 0x30140) 5) (qd 2 0x30100 0x30140) false).1,
    (fr (lsF (qd 2 0x30100 0x30140) 5) (qd 2 0x30100 0x30140)).1, 5, by decide +kernel⟩,
   ⟨0, 0, 0, qd 2 0x30100 0x50140, [], good, false, lsF (qd 2 0x30100 0x50140) 5,
    (pr (lsF (qd 2 0x30100 0x50140) 5) (qd 2 0x30100 0x50140) false).1,
    (fr (lsF (qd 2 0x30100 0x50140) 5) (qd 2 0x30100 0x50140)).1, 5, by decide +kernel⟩⟩

end Ladles

namespace Presses

def rp (k reg : Nat) : Reply := {ctx := k, gen := 0, reg := reg, inTrap := false}
def c5 : State := withCtx s0 (fun c => {c with g := [(3, 0x30100), (4, 0x20080), (5, 0x5)]})
def ctlb : Tab (List Tlb) := let l := [page 2 0x8000000 (kindOf 3 2 0), page 3 1 (kindOf 0 2 0), page 4 2 (kindOf 0 2 1)]; [(0, l), (2048, l)]
def pq (kind : Nat) (port : Option Dword := none) : Queued := {msg := pressMessage c5 0 kind 0 0 4 1 0x30100 port, body := 0, launch := some 1, owner := some (0,0), ord := sendOrd false false, reply := rp 0 4}
def cpw (b : BitVec 512) : List Nat := (List.range 8).map (fun i => (b.extractLsb' (64 * i) 64).toNat)
def mmB (ctr : Nat := 0) : BitVec 512 := BitVec.ofNat 512 (0x30200 + 0x40000 * 2^128 + ctr * 2^256 + 4 * 2^384 + 6 * 2^423 + 0x77 * 2^464)
def wlB (ctr : Nat := 0) : BitVec 512 := BitVec.ofNat 512 (0x30200 + 0x80 * 2^64 + 128 * 2^96 + 0x55 * 2^128 + ctr * 2^192)
def ps (q : Queued) (b : BitVec 512) (cs : List PCmd) (rind : Nat := 0) : State := {c5 with tlbs := ctlb, mem := dwords 0x10100 (cpw b) ++ dwords 0x10200 [1,2,3,4], clusters := [(0, {rind := some rind, inbox := [(3, [q, pq 0])], press := [(1, {cmds := cs})]})]}
def other : PCmd := {cmd := pq 0, block := wlB, phase := .copy 0, stopping := false}
def ar (q : Queued) (b : BitVec 512) (cs : List PCmd) := acceptRead (ps q b cs) (pressReq (ps q b cs) 0 q) (imgPbva q.msg) 5 4
def ld : PCmd := {cmd := pq 1, block := mmB, phase := .load, stopping := false}
def img : Tab Byte := [(0, 6), (1, 48), (2, 1), (4, 115), (64, 127), (65, 3), (81, 127), (82, 1), (98, 126), (114, 5)]
def lp' (last : Nat) (b0 b1 : Option Bank) (buf : Tab Byte) : State := {c5 with clusters := [(0, {rind := some 0, press := [(1, {cmds := [ld], last := last, bank0 := b0, bank1 := b1, buf := buf})]})]}
def til : Bank := (loadImage (getPress (lp' 0 none none img) 0 1) 1 0).getD {home := 1, valid := false, off := 0, len := 0, fmt := 0, k := 0, n := 0, cols := []}
def rsm : PCmd := {cmd := pq 3, block := 0, phase := .resume, stopping := false}
def rcd (tag : Nat) : PRec := {block := mmB + BitVec.ofNat 512 ((tag - 0x77) * 2^464), row := 2, kb := 1, asid := 7, launch := some 1}
def tg : Nat := (imgPbva (pq 3).msg).toNat % 2^16
def rmS (l : List PRec) : State := {c5 with clusters := [(0, {rind := some 0, press := [(1, {cmds := [rsm], recs := l})]})]}
def grp0 : Group := {r := 0, kb := 0, first := true, inside := true, ins := some {start := [[0],[0],[0],[0]], rows := List.replicate 4 [(127, List.replicate 16 3), (127, List.replicate 16 3), (127, List.replicate 16 3)]}, acc := [[0x3F800000],[0],[0],[0]]}
def rw_ (kb : Nat) : PCmd := {ld with phase := .rows {grp0 with kb := kb}}
def rS (kb : Nat) : State := {c5 with clusters := [(0, {rind := some 0, press := [(1, {cmds := [{rw_ kb with tile := some til}], bank0 := some til})]})]}
def en (k : Nat) (b : BitVec 512) (e : Ending) (port : Option Dword := none) : PCmd := {cmd := pq k port, block := b, phase := .ends e, stopping := false}
def eS (x : PCmd) : State := {c5 with clusters := [(0, {rind := some 0, press := [(1, {cmds := [x, other]})]})]}
def e1 : Ending := {status := 1, prog := 2 * 2^15 + 3 * 2^12}
def cpc (n : Nat) : PCmd := {cmd := pq 0, block := wlB, phase := .copy n, stopping := false}
def tilo : Bank := {til with off := 0x80 + 64, len := 64}
def cS (n : Nat) : State := {c5 with tlbs := ctlb, mem := dwords 0x10100 (cpw wlB) ++ dwords 0x10200 [1,2,3,4], clusters := [(0, {rind := some 0, press := [(1, {cmds := [cpc n], bank0 := some tilo, bank1 := some {tilo with home := 0}})]})]}
def ce (n : Nat) := engAccess (cS n) (pressReq (cS n) 0 (pq 0)) { op := .load, n := 64, va := wlSrc wlB + BitVec.ofNat 64 n }
def ceV (n : Nat) : Vec := match (ce n).2 with | .ok v => v | _ => 0
def hqd (kind : Nat) (lo : Nat) (opnd arg : Dword) (reg : Nat := 4) : Queued := {msg := harpMessage c5 0 kind 0 0 (reg % 32) lo opnd arg, body := BitVec.ofNat 512 0x3F800000, launch := some 1, owner := some (0,0), ord := sendOrd false false, reply := rp 0 reg}
def desc (upd : Nat) : List Dword := [BitVec.ofNat 64 (2 + 2 * 2^8 + upd * 2^17 + 0x3F800000 * 2^32), 0,0,0,0,0,0,0, BitVec.ofNat 64 (1 * 2^32 + 4 * 2^40), BitVec.ofNat 64 (64 * 2^32), 0x30200, 0x30400, BitVec.ofNat 64 (2 * 2^32 + 4 * 2^40), BitVec.ofNat 64 (64 * 2^32), 0x30300, 0x30500]
def hs (q : Queued) (d : List Dword) (cmds : Tab HCmd := []) : State := {c5 with tlbs := ctlb, mem := dwords 0x10200 [1,2,3,4], clusters := [(0, {rind := some 0, harp := {inbox := [q, hqd 3 0 0 0], slots := [(5, (d, 7, some 1)), (6, (d, 7, some 2))], cmds := cmds}})]}
def bf (q : Queued) (d : List Dword) := translateFactors (harpReq (setInbox (hs q d) 0 6 [hqd 3 0 0 0]) 0 q 7) d (rowDigits d (dsN d) ((hcOpnd q).toNat % 2 ^ 40)) (imgKind q.msg == 2) (List.range (dsN d)) [] (setInbox (hs q d) 0 6 [hqd 3 0 0 0])
def bfx (q : Queued) (d : List Dword) : List (AccKind × Xl) := match (bf q d).2 with | .ok l => l | _ => []
def ld1 : Queued := hqd 1 0 (BitVec.ofNat 64 (15 + 5 * 2^48)) 0 36
def st1 : Queued := hqd 2 0 (BitVec.ofNat 64 (15 + 5 * 2^48)) 0 4
def st2 : Queued := hqd 2 0 (BitVec.ofNat 64 (15 + 9 * 2^48)) 0 4
def hx : HCmd := {cmd := ld1, desc := desc 0, asid := 7, digits := [3, 3], leaves := leavesOf (bfx ld1 (desc 0))}
def hsx (x : HCmd) : State := hs ld1 (desc 0) [(8, x)]
def rdv (k : Nat) := harpReads (hsx hx) (harpReq (hsx hx) 0 ld1 7) hx .load (chainBytes (dsFmt (desc 0) k)) ((List.range (dsQ (desc 0) k * dsQ (desc 0) (k + 1))).map (fun i => sliceAddr (desc 0) k 3 + BitVec.ofNat 64 (i * chainBytes (dsFmt (desc 0) k)))) []
def rdL (k : Nat) : List Vec := match (rdv k).2 with | .ok v => v | _ => []
def hd : HCmd := {hx with slices := [(0, [0x3F800000]), (1, [0x3F800000, 0x40000000])]}
def hu : HCmd := {hx with cmd := st1, updated := [0, 1]}
def hf : HCmd := {hx with fail := some (255, 3)}
def hg : HCmd := {hd with cmd := st1, updated := [1]}

theorem wit_PressAndHarpEvents :
    (∃ (cl : ℕ) (p : ℕ) (q : Queued) (rest : List Queued) (s : State), p < 4 ∧ Rules.waiting s cl (2 + p) = q :: rest
    ∧ (List.map (fun j => (getPress s cl j).cmds.length) (List.filter (fun j => Rules.host s cl j == Rules.host s cl
    p) (List.range 4))).sum < 2 ∧ pressTurn s cl p = true ∧ Rules.inService s cl p ∧ (getCluster s cl).rind ≠ some
    (imgRind q.msg))
    ∧ (∃ (cl : ℕ) (p : ℕ) (q : Queued) (rest : List Queued) (s : State), p < 4 ∧ Rules.waiting s cl (2 + p) = q :: rest
    ∧ (List.map (fun j => (getPress s cl j).cmds.length) (List.filter (fun j => Rules.host s cl j == Rules.host s cl
    p) (List.range 4))).sum < 2 ∧ pressTurn s cl p = true ∧ Rules.inService s cl p ∧ (getCluster s cl).rind = some
    (imgRind q.msg) ∧ pressWorks s cl = true ∧ imgKind q.msg = 3)
    ∧ (∃ (cl : ℕ) (p : ℕ) (q : Queued) (rest : List Queued) (s : State) (b : BitVec 512) (s1 : State), p < 4 ∧
    Rules.waiting s cl (2 + p) = q :: rest ∧ (List.map (fun j => (getPress s cl j).cmds.length) (List.filter (fun j
    => Rules.host s cl j == Rules.host s cl p) (List.range 4))).sum < 2 ∧ pressTurn s cl p = true ∧ Rules.inService
    s cl p ∧ (getCluster s cl).rind = some (imgRind q.msg) ∧ pressWorks s cl = true ∧ imgKind q.msg ≤ 1 ∧ acceptRead
    s (pressReq s cl q) (imgPbva q.msg) 5 4 = (s1, Accepted.block b))
    ∧ (∃ (cl : ℕ) (p : ℕ) (y : PCmd) (s : State) (i : ℕ) (tile : Bank), p < 4 ∧ Rules.host s cl p < 4 ∧ (getPress s cl
    p).cmds = [y] ∧ Rules.oldest s cl p y ∧ Rules.inService s cl p ∧ y.phase = PressPhase.load ∧ validBank (getPress
    s cl (Rules.host s cl p)) p (mmWofs y.block) = some i ∧ bankOf (getPress s cl (Rules.host s cl p)) i = some tile
    ∧ mmBad y.block tile = false ∧ mmRow0 y.block < mmM y.block)
    ∧ (∃ (cl : ℕ) (p : ℕ) (y : PCmd) (s : State) (tile : Bank), p < 4 ∧ Rules.host s cl p < 4 ∧ (getPress s cl p).cmds
    = [y] ∧ Rules.oldest s cl p y ∧ Rules.inService s cl p ∧ y.phase = PressPhase.load ∧ validBank (getPress s cl
    (Rules.host s cl p)) p (mmWofs y.block) = none ∧ loadImage (getPress s cl p) p (mmWofs y.block) = some tile)
    ∧ (∃ (cl : ℕ) (p : ℕ) (y : PCmd) (s : State), p < 4 ∧ Rules.host s cl p < 4 ∧ (getPress s cl p).cmds = [y] ∧
    Rules.oldest s cl p y ∧ Rules.inService s cl p ∧ y.phase = PressPhase.load ∧ validBank (getPress s cl
    (Rules.host s cl p)) p (mmWofs y.block) = none ∧ loadImage (getPress s cl p) p (mmWofs y.block) = none)
    ∧ (∃ (cl : ℕ) (p : ℕ) (y : PCmd) (s : State), p < 4 ∧ Rules.host s cl p < 4 ∧ (getPress s cl p).cmds = [y] ∧
    Rules.oldest s cl p y ∧ Rules.inService s cl p ∧ y.phase = PressPhase.resume ∧ ∀ r ∈ (getPress s cl p).recs,
    ¬(r.asid = imgAsid y.cmd.msg ∧ r.block.toNat / 2 ^ 464 % 2 ^ 16 = BitVec.toNat (imgPbva y.cmd.msg) % 2 ^ 16))
    ∧ (∃ (cl : ℕ) (p : ℕ) (y : PCmd) (s : State) (older : List PRec) (r : PRec) (newer : List PRec), p < 4 ∧ Rules.host
    s cl p < 4 ∧ (getPress s cl p).cmds = [y] ∧ Rules.oldest s cl p y ∧ Rules.inService s cl p ∧ y.phase =
    PressPhase.resume ∧ (getPress s cl p).recs = older ++ r :: newer ∧ (r.asid = imgAsid y.cmd.msg ∧ r.block.toNat /
    2 ^ 464 % 2 ^ 16 = BitVec.toNat (imgPbva y.cmd.msg) % 2 ^ 16) ∧ (∀ r ∈ newer, ¬(r.asid = imgAsid y.cmd.msg ∧
    r.block.toNat / 2 ^ 464 % 2 ^ 16 = BitVec.toNat (imgPbva y.cmd.msg) % 2 ^ 16)) ∧ mmBadEarly s (imgRind
    y.cmd.msg) (resumeBlock r) = false)
    ∧ (∃ (cl : ℕ) (p : ℕ) (y : PCmd) (g : Machine.Group) (ins : GroupIn) (tile : Bank) (s : State), p < 4 ∧ (getPress s
    cl p).cmds = [y] ∧ Rules.oldest s cl p y ∧ Rules.inService s cl p ∧ y.phase = PressPhase.rows g ∧ y.tile = some
    tile ∧ g.ins = some ins ∧ g.inside = true ∧ y.stopping = false ∧ g.kb + 1 < mmNk y.block tile)
    ∧ (∃ (cl : ℕ) (p : ℕ) (y : PCmd) (rest : List PCmd) (e : Ending) (s : State), p < 4 ∧ (getPress s cl p).cmds = y ::
    rest ∧ Rules.oldest s cl p y ∧ y.phase = PressPhase.ends e ∧ e.prog ≠ BitVec.allOnes 32 ∧ imgKind y.cmd.msg ≤ 1)
    ∧ (∃ (cl : ℕ) (p : ℕ) (n : ℕ) (y : PCmd) (v : Vec) (s : State) (s1 : State), p < 4 ∧ (getPress s cl p).cmds = [y] ∧
    Rules.oldest s cl p y ∧ Rules.inService s cl p ∧ y.phase = PressPhase.copy n ∧ y.stopping = false ∧ n < wlLen
    y.block ∧ engAccess s (pressReq s cl y.cmd)
    { op := AccOp.load, n := 64, va := wlSrc y.block + BitVec.ofNat 64 n } = (s1, EngRes.ok v) ∧ (getPress s1 cl
    p).cmds = [y])
    ∧ (∃ (cl : ℕ) (q : Queued) (rest : List Queued) (s : State), Rules.waiting s cl 6 = q :: rest ∧ imgKind q.msg = 3)
    ∧ (∃ (cl : ℕ) (q : Queued) (rest : List Queued) (s : State), Rules.waiting s cl 6 = q :: rest ∧ imgKind q.msg = 0 ∧
    hcOpnd q = 0 ∧ BitVec.toNat (hcArg q) < 64)
    ∧ (∃ (cl : ℕ) (q : Queued) (rest : List Queued) (s : State) (d : List Dword) (asid : ℕ) (s1 : State) (xs : List
    (AccKind × Xl)), Rules.waiting s cl 6 = q :: rest ∧ (imgKind q.msg = 1 ∨ imgKind q.msg = 2) ∧ BitVec.toNat
    (hcOpnd q) / 2 ^ 54 = 0 ∧ tfind (getCluster s cl).harp.slots (BitVec.toNat (hcOpnd q) / 2 ^ 48 % 64) = some (d,
    asid, q.launch) ∧ BitVec.toNat (hcOpnd q) % 2 ^ 40 < dsRows d ∧ hcCol0 d q < dsW d ∧ translateFactors (harpReq
    (setInbox s cl 6 rest) cl q asid) d (rowDigits d (dsN d) (BitVec.toNat (hcOpnd q) % 2 ^ 40)) (imgKind q.msg ==
    2) (List.range (dsN d)) [] (setInbox s cl 6 rest) = (s1, Factors.ok xs))
    ∧ (∃ (cl : ℕ) (q : Queued) (rest : List Queued) (s : State), Rules.waiting s cl 6 = q :: rest ∧ imgKind q.msg = 2 ∧
    BitVec.toNat (hcOpnd q) / 2 ^ 54 = 0 ∧ tfind (getCluster s cl).harp.slots (BitVec.toNat (hcOpnd q) / 2 ^ 48 %
    64) = none)
    ∧ (∃ (cl : ℕ) (n : ℕ) (k : ℕ) (x : HCmd) (vs : List Vec) (s : State) (s1 : State), tfind (getCluster s
    cl).harp.cmds n = some x ∧ k < dsN x.desc ∧ blockedAt s cl n (dsHome x.desc k) x = false ∧ dsSerial x.desc =
    false ∧ tfind x.slices k = none ∧ x.fail = none ∧ harpReads s (harpReq s cl x.cmd x.asid) x AccKind.load
    (chainBytes (dsFmt x.desc k)) (List.map (fun i => sliceAddr x.desc k (x.digits.getD k 0) + BitVec.ofNat 64 (i *
    chainBytes (dsFmt x.desc k))) (List.range (dsQ x.desc k * dsQ x.desc (k + 1)))) [] = (s1, EngList.ok vs))
    ∧ (∃ (cl : ℕ) (n : ℕ) (x : HCmd) (s : State), tfind (getCluster s cl).harp.cmds n = some x ∧ imgKind x.cmd.msg = 1
    ∧ x.fail = none ∧ x.filled = false ∧ ∀ k < dsN x.desc, (tfind x.slices k).isSome = true)
    ∧ (∃ (cl : ℕ) (n : ℕ) (x : HCmd) (s : State), tfind (getCluster s cl).harp.cmds n = some x ∧ imgKind x.cmd.msg = 2
    ∧ x.fail = none ∧ ∀ k < dsN x.desc, k ∈ x.updated)
    ∧ (∃ (cl : ℕ) (n : ℕ) (x : HCmd) (s : State), tfind (getCluster s cl).harp.cmds n = some x ∧ imgKind x.cmd.msg = 2
    ∧ ordRel (imgOrd x.cmd.msg) = false ∧ x.fail = none ∧ x.filled = false ∧ (∀ k < dsN x.desc, (tfind x.slices
    k).isSome = true) ∧ ∃ k < dsN x.desc, k ∉ x.updated)
    ∧ (∃ (cl : ℕ) (n : ℕ) (x : HCmd) (s : State) (k : ℕ) (st : ℕ), tfind (getCluster s cl).harp.cmds n = some x ∧
    imgKind x.cmd.msg = 1 ∧ x.fail = some (k, st) ∧ x.filled = false ∧ x.cmd.reply.reg ≠ 0 ∧ k < 256 ∧ st < 256) :=
  ⟨⟨0, 1, pq 0, [pq 0], ps (pq 0) wlB [] 3, by decide +kernel, by decide +kernel, by decide +kernel,
    by decide +kernel, rfl, by decide +kernel⟩,
   ⟨0, 1, pq 3, [pq 0], ps (pq 3) mmB [other], by decide +kernel, by decide +kernel, by decide +kernel,
    by decide +kernel, rfl, by decide +kernel⟩,
   ⟨0, 1, pq 1, [pq 0], ps (pq 1) mmB [], mmB, (ar (pq 1) mmB []).1, by decide +kernel, by decide +kernel,
    by decide +kernel, by decide +kernel, rfl, by decide +kernel⟩,
   ⟨0, 1, ld, lp' 0 none (some til) img, 1, til, by decide +kernel, by decide +kernel, by decide +kernel,
    by intro i h; obtain ⟨hi, hr⟩ := h; revert hr; revert i; decide +kernel, rfl, by decide +kernel⟩,
   ⟨0, 1, ld, lp' 1 none (some {til with off := 64}) img, til, by decide +kernel, by decide +kernel,
    by decide +kernel, by intro i h; obtain ⟨hi, hr⟩ := h; revert hr; revert i; decide +kernel, rfl,
    by decide +kernel⟩,
   ⟨0, 1, ld, lp' 1 none none [], by decide +kernel, by decide +kernel, by decide +kernel,
    by intro i h; obtain ⟨hi, hr⟩ := h; revert hr; revert i; decide +kernel, rfl, by decide +kernel⟩,
   ⟨0, 1, rsm, rmS [], by decide +kernel, by decide +kernel, by decide +kernel,
    by intro i h; obtain ⟨hi, hr⟩ := h; revert hr; revert i; decide +kernel, rfl, by decide +kernel⟩,
   ⟨0, 1, rsm, rmS [rcd 0x77, rcd tg, rcd 0x78], [rcd 0x77], rcd tg, [rcd 0x78], by decide +kernel,
    by decide +kernel, by decide +kernel, by intro i h; obtain ⟨hi, hr⟩ := h; revert hr; revert i; decide +kernel,
    rfl, by decide +kernel⟩,
   ⟨0, 1, {rw_ 0 with tile := some til}, grp0, grp0.ins.getD ⟨[],[]⟩, til, rS 0, by decide +kernel,
    by decide +kernel, by intro i h; obtain ⟨hi, hr⟩ := h; revert hr; revert i; decide +kernel, rfl,
    by decide +kernel⟩,
   ⟨0, 1, en 1 (mmB 0x8000000000000003) e1 (some 5), [other], e1, eS (en 1 (mmB 0x8000000000000003) e1 (some 5)),
    by decide +kernel, by decide +kernel, by intro i h; obtain ⟨hi, hr⟩ := h; revert hr; revert i; decide +kernel,
    by decide +kernel⟩,
   ⟨0, 1, 64, cpc 64, ceV 64, cS 64, (ce 64).1, by decide +kernel, by decide +kernel,
    by intro i h; obtain ⟨hi, hr⟩ := h; revert hr; revert i; decide +kernel, rfl, by decide +kernel⟩,
   ⟨0, hqd 3 0 0 0, [hqd 3 0 0 0], hs (hqd 3 0 0 0) [], by decide +kernel⟩,
   ⟨0, hqd 0 0 0 63, [hqd 3 0 0 0], hs (hqd 0 0 0 63) [], by decide +kernel⟩,
   ⟨0, st1, [hqd 3 0 0 0], hs st1 (desc 1), desc 1, 7, (bf st1 (desc 1)).1, bfx st1 (desc 1), by decide +kernel⟩,
   ⟨0, st2, [hqd 3 0 0 0], hs st2 (desc 1), by decide +kernel⟩,
   ⟨0, 8, 1, hx, rdL 1, hsx hx, (rdv 1).1, by decide +kernel⟩,
   ⟨0, 8, hd, hsx hd, by decide +kernel⟩,
   ⟨0, 8, hu, hsx hu, by decide +kernel⟩,
   ⟨0, 8, hg, hsx hg, by decide +kernel⟩,
   ⟨0, 8, hf, hsx hf, 255, 3, by decide +kernel⟩⟩

end Presses

namespace Starter

def rp (k reg : Nat) : Reply := {ctx := k, gen := 0, reg := reg, inTrap := false}
def trg : Trigger := {cycle := 5, src := 7, ts := 9, waiters := [rp 0 4, rp 1 0, rp 2 5]}
def ss : State := {s0 with clusters := [(0, {rind := some 0}), (1, {rind := some 1}), (3, {rind := some 3})], rinds := [(0, {started := true, log := {head := 3, tail := 0, ents := [(2, 2^256-1), (0, 5)]}}), (1, {started := true, held := true}), (3, {started := true, trigger := some trg, latches := 6})], ctxs := [(0, c0), (24*256 + 3, {c0 with pc := 0x777, act := .waiting .park}), (24*256 + 15, {c0 with pc := 0x778, act := .dormant})]}
def im : RindImage := {rind := 5, clusters := [7, 255], twin := 2^64-1, hwin := 2^64-1, spoolBase := 2^64-1, spoolCnt := 2^64-1, peers := [2^64-1], regions := [1,2], rcfg := [0x0030000010001000]}
def pg : State := {ss with slotsM := [(1, 5)], rinds := []}
def fa (c : Core) (su : Bool) : State := {ss with cores := [(0, c)], clusters := [(0, {rind := some 0, spareUsed := su})], badReg := [(0, 3), (300, 4)]}
def kp (l : Nat) : State := {ss with kports := [(47, {lanes := l, held := [(3, default, none), (4, default, some 1)]})], routes := [(4096, 2^64-1), (5, 3)]}
def sE : State := {s0 with turn := .issue 0, cores := [(0, {running := some 0, block := some (0x1000, [0x04A63800,0,0,0,0,0,0,0])})]}
def fw := fetchWord {sE with me := 0} 0
def sB : State := {s0 with turn := .issue 0, cores := [(0, {running := some 0, block := some (0x1000, [0,0,0,0,0,0,0,0])})]}
def fwB := fetchWord {sB with me := 0} 0
def sN : State := {s0 with turn := .issue 0, tlbs := [(0, [page 0 0 (kindOf 0 2 0)])]}
def fwN := fetchWord {sN with me := 0} 0
def fwc : Nat × Dword := match fwN.2 with | .error (.fault c e) => (c, e) | _ => (0, 0)
def sDef : State := withCtx {s0 with turn := .issue 0} (fun c => {c with deferred := [(999, {code := 0x30, acc := 0, eaddr := 5})]})
def ready2 : Ctx := {c0 with act := .runnable, st := 64, sel := {arrival := 9, port := 64, hit := true, bypass := 0}}
def sPre : State := {setCtx (withCtx s0 (fun c => {c with selected := 900, st := 0xE0})) 5 ready2 with cores := [(0, {running := some 0, quant := 100})], turn := .issue 0}

theorem wit_StarterAndManagement :
    (∃ (m : BitVec 16) (i : Instr) (n : ℕ), Rules.badMask m ∧ (i = Instr.mgmtSnapshot m ∨ i = Instr.mgmtRelease m ∨ i
    = Instr.rindReset m ∨ i = Instr.eventRead m n))
    ∧ (∃ (m : BitVec 16), ¬Rules.badMask m)
    ∧ (∃ (m : BitVec 16) (k : ℕ), k < 12 ∧ m = BitVec.ofNat 16 (2 ^ k))
    ∧ (∃ (k : ℕ) (x : Trigger) (s : State), k < 12 ∧ (getRind s k).trigger = some x)
    ∧ (∃ (k : ℕ), k < 12)
    ∧ (∃ (ok : Bool) (ds : List (BitVec 512)) (s : State), s.recovery = true ∧ ok = true ∧ ds ≠ [] ∧ s.fuseVersion = 0)
    ∧ (∃ (m : RindImage) (s : State), s.recovery = false ∧ s.slotsM ≠ [] ∧ m.rind < 12 ∧ ∀ c ∈ m.clusters, (getCluster
    s c).rind = none)
    ∧ (∃ (i : ℕ), 1 ≤ i ∧ i ≤ 8)
    ∧ (∃ (i : ℕ) (s : State), 16 ≤ i ∧ i < 28 ∧ s.verified ≠ [])
    ∧ (∃ (d : ℕ) (tenths : ℕ), d < 4 ∧ 1050 < tenths)
    ∧ (∃ (d : ℕ) (tenths : ℕ), d < 4 ∧ tenths < 950)
    ∧ (∃ (m : BitVec 16), Rules.badMask m)
    ∧ (∃ (m : BitVec 16), ¬Rules.badMask m)
    ∧ (∃ (ok : Bool) (ds : List (BitVec 512)) (s : State), s.recovery = false ∨ ok = false ∨ ds = []) :=
  ⟨⟨0x1001, .mgmtSnapshot 0x1001, 0, by unfold Sys2Proof.Rules.badMask; decide +kernel, by decide +kernel⟩,
   ⟨0x801, by unfold Rules.badMask; decide⟩,
   ⟨0x800, 11, by decide +kernel⟩,
   ⟨3, trg, ss, by decide +kernel⟩,
   ⟨11, by decide +kernel⟩,
   ⟨true, [7], {ss with recovery := true}, by decide +kernel⟩,
   ⟨im, pg, by decide +kernel⟩,
   ⟨8, by decide +kernel⟩,
   ⟨0x1B, {ss with verified := [5, 6]}, by decide +kernel⟩,
   ⟨3, 1051, by decide +kernel⟩,
   ⟨3, 949, by decide +kernel⟩,
   ⟨0x1001, by unfold Sys2Proof.Rules.badMask; decide +kernel⟩,
   ⟨0x801, by unfold Rules.badMask; decide⟩,
   ⟨true, [7], ss, by decide +kernel⟩⟩

theorem wit_FailureAndLinkEvents :
    (∃ (cn : ℕ) (checker : Bool) (s : State), cn < 2048 ∧ (getCore s cn).off = false ∧ (∀ j < 8, (getCore s (cn / 8 *
    8 + j)).takeover = false) ∧ (checker = true ∨ 3 ≤ (List.filter (fun c => decide (s.cycle < c + 2 ^ 30)) (getCore
    s cn).regErrs).length))
    ∧ (∃ (cn : ℕ) (s : State), (getCore s cn).takeover = true ∧ (getCore s cn).spilled = [] ∧ (getCluster s (cn /
    8)).failures = [])
    ∧ (∃ (p : ℕ) (s : State), p < 48 ∧ 2 ≤ (tget { } s.kports p).lanes)
    ∧ (∃ (p : ℕ) (n : BitVec 16), p < 48 ∧ n.toNat < 4096)
    ∧ (∃ (p : ℕ) (seq : BitVec 16) (q : FabricPacket) (l : Option ℕ) (pre : List (BitVec 16 × FabricPacket × Option ℕ))
    (post : List (BitVec 16 × FabricPacket × Option ℕ)) (s : State), (tget { } s.kports p).held = pre ++ (seq, q, l)
    :: post ∧ ∀ e ∈ pre, e.1 ≠ seq)
    ∧ (∃ (cn : ℕ) (checker : Bool) (s : State), cn < 2048 ∧ (getCore s cn).off = false ∧ (getCore s cn).takeover =
    false ∧ (∃ j < 8, (getCore s (cn / 8 * 8 + j)).takeover = true) ∧ UnitFailure.core cn ∉ (getCluster s (cn /
    8)).failures ∧ (checker = true ∨ 3 ≤ (List.filter (fun c => decide (s.cycle < c + 2 ^ 30)) (getCore s
    cn).regErrs).length)) :=
  ⟨⟨0, false, fa {running := some 0, regErrs := [1,2,3]} true, by decide +kernel⟩,
   ⟨0, fa {takeover := true} true, by decide +kernel⟩,
   ⟨47, kp 2, by decide +kernel⟩,
   ⟨47, 4095, by decide +kernel⟩,
   ⟨47, 4, default, some 1, [(3, default, none)], [], kp 1, by decide +kernel⟩,
   ⟨0, false, {fa {} false with cores := [(0, {regErrs := [1,2,3]}), (1, {takeover := true})]}, by decide +kernel⟩⟩

theorem wit_DecodeEncode :
    (∃ (i : Instr) (w : Word), WellFormed i ∧ encode i = some w)
    ∧ (∃ (w : Word) (i : Instr), decodeWord w = Except.ok i) :=
  ⟨⟨.add 31 31 31 1, 0x07FFF840, rfl, by decide +kernel⟩,
   ⟨0x04A63800, .add 5 6 7 0, by decide +kernel⟩⟩

theorem wit_StepRunsDecodedInstruction :
    (∃ (s : State) (cn : ℕ) (k : ℕ), s.turn = Turn.issue cn ∧ (getCore s cn).off = false ∧ (getCore s cn).running =
    some k ∧ (getCtx s k).act = Activity.running ∧ (getCtx s k).hint = none ∧ deferredReady s k = true)
    ∧ (∃ (s : State) (cn : ℕ) (k : ℕ), s.turn = Turn.issue cn ∧ (getCore s cn).off = false ∧ (getCore s cn).running =
    some k ∧ (getCtx s k).act = Activity.running ∧ (getCtx s k).hint = none ∧ deferredReady s k = false ∧
    ¬Rules.keepsSlot s cn k)
    ∧ (∃ (s : State) (cn : ℕ) (k : ℕ) (s' : State) (w : Word) (i : Instr), s.turn = Turn.issue cn ∧ (getCore s cn).off
    = false ∧ (getCore s cn).running = some k ∧ (getCtx s k).act = Activity.running ∧ ((getCtx s k).hint ≠ none ∨
    deferredReady s k = false) ∧ Rules.keepsSlot s cn k ∧ fetchWord { s with me := k } k = (s', Except.ok w) ∧
    decodeWord w = Except.ok i)
    ∧ (∃ (s : State) (cn : ℕ) (k : ℕ) (s' : State) (w : Word) (e : Reject), s.turn = Turn.issue cn ∧ (getCore s cn).off
    = false ∧ (getCore s cn).running = some k ∧ (getCtx s k).act = Activity.running ∧ ((getCtx s k).hint ≠ none ∨
    deferredReady s k = false) ∧ Rules.keepsSlot s cn k ∧ fetchWord { s with me := k } k = (s', Except.ok w) ∧
    decodeWord w = Except.error e)
    ∧ (∃ (s : State) (cn : ℕ) (k : ℕ) (s' : State) (code : ℕ) (ea : Dword), s.turn = Turn.issue cn ∧ (getCore s cn).off
    = false ∧ (getCore s cn).running = some k ∧ (getCtx s k).act = Activity.running ∧ ((getCtx s k).hint ≠ none ∨
    deferredReady s k = false) ∧ Rules.keepsSlot s cn k ∧ fetchWord { s with me := k } k = (s', Except.error
    (NoFetch.fault code ea)))
    ∧ (∃ (s : State) (i : Instr), s.turn = Turn.event i ∧ isEvent i = true)
    ∧ (∃ (s : State) (cn : ℕ), s.turn = Turn.issue cn ∧ ((getCore s cn).off = true ∨ (getCore s cn).running = none))
    ∧ (∃ (w : Word) (i : Instr), decodeWord w = Except.ok i) :=
  ⟨⟨sDef, 0, 0, by decide +kernel⟩,
   ⟨sPre, 0, 0, by decide +kernel, by decide +kernel, four (by decide +kernel)
      (by unfold Rules.keepsSlot; rintro (h | h | h | ⟨h | h, -⟩); exacts [h (by decide +kernel), absurd h (by decide +kernel), absurd (h (5, ready2) (by unfold Rules.waits; decide +kernel)) (by decide +kernel), absurd h (by decide +kernel), absurd h (by decide +kernel)])⟩,
   ⟨sE, 0, 0, fst fw, 0x04A63800, .add 5 6 7 0, by decide +kernel, by decide +kernel, by decide +kernel,
    by decide +kernel, by decide +kernel,
    by unfold Sys2Proof.Rules.keepsSlot; exact Or.inr (Or.inr (Or.inl (by intro i h; obtain ⟨hi, hr⟩ := h; revert hr; revert i; decide +kernel))),
    by decide +kernel⟩,
   ⟨sB, 0, 0, fst fwB, 0, .reservedOpcode, by decide +kernel, by decide +kernel, by decide +kernel,
    by decide +kernel, by decide +kernel,
    by unfold Sys2Proof.Rules.keepsSlot; exact Or.inr (Or.inr (Or.inl (by intro i h; obtain ⟨hi, hr⟩ := h; revert hr; revert i; decide +kernel))),
    by decide +kernel⟩,
   ⟨sN, 0, 0, fst fwN, fwc.1, fwc.2, by decide +kernel, by decide +kernel, by decide +kernel, by decide +kernel,
    by decide +kernel,
    by unfold Sys2Proof.Rules.keepsSlot; exact Or.inr (Or.inr (Or.inl (by intro i h; obtain ⟨hi, hr⟩ := h; revert hr; revert i; decide +kernel))),
    by decide +kernel⟩,
   ⟨{s0 with turn := .event (.aclr 3)}, .aclr 3, by decide +kernel⟩,
   ⟨{sE with cores := [(0, {})]}, 0, by decide +kernel⟩,
   ⟨0x04A63800, .add 5 6 7 0, by decide +kernel⟩⟩

end Starter

end Sys2Proof.Tests
end

section
/-!
PROOFS. The control registers: what cold reset leaves in them (O60), and what CWR changes (O26).
-/

namespace Sys2Proof.Machine

/-! ### Fields of a dword (R3) -/

theorem getLsbD_putFld {m n : Nat} (x : BitVec m) (lo : Nat) (v : BitVec n) (j : Nat) :
    (putFld x lo n v).getLsbD j
      = if lo ≤ j ∧ j < lo + n then (decide (j < m) && v.getLsbD (j - lo)) else x.getLsbD j := by
  unfold putFld
  simp only [BitVec.getLsbD_or, BitVec.getLsbD_and, BitVec.getLsbD_not, BitVec.getLsbD_shiftLeft, BitVec.getLsbD_setWidth,
    BitVec.getLsbD_allOnes]
  by_cases hm : j < m
  · by_cases h1 : j < lo
    · simp [hm, h1, show ¬ lo ≤ j by omega]
    · by_cases h2 : j < lo + n
      · simp [hm, h1, show lo ≤ j by omega, h2, show j - lo < n by omega, show j - lo < m by omega]
      · have hv : v.getLsbD (j - lo) = false := BitVec.getLsbD_of_ge _ _ (by omega)
        simp [hm, h1, h2, hv, show ¬ j - lo < n by omega]
  · simp [hm, BitVec.getLsbD_of_ge x j (by omega)]

/-- Bits outside a field that is written are kept. -/
theorem bitAt_putFld_outside {m n : Nat} (x : BitVec m) {lo : Nat} (v : BitVec n) {j : Nat} (h : j < lo ∨ lo + n ≤ j) :
    bitAt (putFld x lo n v) j = bitAt x j := by
  rw [bitAt, getLsbD_putFld, if_neg (by omega), bitAt]

/-- A field that does not meet the one written is kept. -/
theorem fld_putFld_disjoint {m n : Nat} (x : BitVec m) {lo : Nat} (v : BitVec n) {lo' n' : Nat}
    (h : lo' + n' ≤ lo ∨ lo + n ≤ lo') : fld (putFld x lo n v) lo' n' = fld x lo' n' := by
  apply BitVec.eq_of_getLsbD_eq
  intro j hj
  simp only [fld, BitVec.getLsbD_extractLsb']
  rw [getLsbD_putFld, if_neg (by omega)]

/-- st.pcls, bits 7:5, copied from another value, as a mask. -/
theorem putFld_pcls (x v : Dword) : putFld x 5 3 (fld v 5 3) = (x &&& ~~~0xE0#64) ||| (v &&& 0xE0#64) := by
  apply BitVec.eq_of_getLsbD_eq
  intro j hj
  have mask : (0xE0#64).getLsbD j = decide (5 ≤ j ∧ j < 8) := by revert j; decide
  rw [getLsbD_putFld, BitVec.getLsbD_or, BitVec.getLsbD_and, BitVec.getLsbD_and, BitVec.getLsbD_not, mask]
  by_cases h : 5 ≤ j ∧ j < 8
  · simp [h, hj, fld, show j - 5 < 3 by omega, show 5 + (j - 5) = j by omega]
  · simp [h, hj]

/-- The low n bits of a dword, as a mask. -/
theorem setWidth_fld_low (v : Dword) (n : Nat) : (fld v 0 n).setWidth 64 = v &&& (BitVec.allOnes n).setWidth 64 := by
  apply BitVec.eq_of_getLsbD_eq
  intro j hj
  by_cases h : j < n <;> simp [fld, hj, h]

/-! The other fields of st are read through a write of pcls (R38). -/

theorem stRind_putPcls (st : Dword) (x : BitVec 3) : stRind (putFld st 5 3 x) = stRind st := by
  unfold stRind fldN; rw [fld_putFld_disjoint _ _ (.inr (by omega))]
theorem stGen_putPcls (st : Dword) (x : BitVec 3) : stGen (putFld st 5 3 x) = stGen st := by
  unfold stGen; rw [fld_putFld_disjoint _ _ (.inr (by omega))]
theorem stCtx_putPcls (st : Dword) (x : BitVec 3) : stCtx (putFld st 5 3 x) = stCtx st := by
  unfold stCtx fldN; rw [fld_putFld_disjoint _ _ (.inr (by omega))]

/-- A mask of all bits, as simp writes it. -/
theorem and_full (v : Dword) : v &&& 18446744073709551615#64 = v := BitVec.and_allOnes

/-! ### The parts of State after an update -/

@[simp] theorem freshRegs_none (s : State) (k : Nat) : freshRegs s k ([] : List Nat).contains = s := by simp [freshRegs]
@[simp] theorem freshRegs_me (s : State) (k : Nat) (f : Nat → Bool) : (freshRegs s k f).me = s.me := rfl
@[simp] theorem freshRegs_ts (s : State) (k : Nat) (f : Nat → Bool) : (freshRegs s k f).ts = s.ts := rfl
@[simp] theorem freshRegs_skew (s : State) (k : Nat) (f : Nat → Bool) : (freshRegs s k f).skew = s.skew := rfl
@[simp] theorem getCore_freshRegs (s : State) (k : Nat) (f : Nat → Bool) (j : Nat) :
    getCore (freshRegs s k f) j = getCore s j := rfl
@[simp] theorem getCluster_freshRegs (s : State) (k : Nat) (f : Nat → Bool) (j : Nat) :
    getCluster (freshRegs s k f) j = getCluster s j := rfl
@[simp] theorem getRind_freshRegs (s : State) (k : Nat) (f : Nat → Bool) (j : Nat) :
    getRind (freshRegs s k f) j = getRind s j := rfl
@[simp] theorem getLaunch_freshRegs (s : State) (k : Nat) (f : Nat → Bool) (j : Nat) :
    getLaunch (freshRegs s k f) j = getLaunch s j := rfl
@[simp] theorem getRec_freshRegs (s : State) (k : Nat) (f : Nat → Bool) (cn l : Nat) :
    getRec (freshRegs s k f) cn l = getRec s cn l := rfl

@[simp] theorem getRec_modRec_self (s : State) (cn l : Nat) (f : LRec → LRec) :
    getRec (modRec s cn l f) cn l = f (getRec s cn l) := tget_tput_self ..

/-! ### The state after cold reset (R6) -/

@[simp] theorem bit64_false (lo : Nat) : bit64 false lo = 0 := rfl
@[simp] theorem at64_zero (lo : Nat) : at64 0 lo = 0 := by simp [at64]

theorem memInv_reset : MemInv State.reset := ⟨rfl, rfl, rfl⟩

@[simp] theorem getCtx_reset (k : Nat) : getCtx State.reset k = Ctx.initial k := rfl
@[simp] theorem getCore_reset (cn : Nat) : getCore State.reset cn = {} := rfl
@[simp] theorem getCluster_reset (c : Nat) : getCluster State.reset c = {} := rfl
@[simp] theorem getRind_reset (r : Nat) : getRind State.reset r = {} := rfl
@[simp] theorem getCave_reset (d : Nat) : getCave State.reset d = {} := rfl
@[simp] theorem getRec_reset (cn l : Nat) : getRec State.reset cn l = {} := rfl
@[simp] theorem getLaunch_reset (l : Nat) : getLaunch State.reset l = none := rfl
@[simp] theorem dieTs_reset (d : Nat) : dieTs State.reset d = 0 := rfl
@[simp] theorem getStack_reset (i : Nat) : getStack State.reset i = {} := rfl

/-- Only st, which holds the context's index, and ctx.name tell contexts apart after reset. -/
theorem ctlReg_reset {k i : Nat} (h0 : i ≠ 0x000) (h243 : i ≠ 0x243) :
    ctlReg State.reset k i = ctlReg State.reset 0 i := by
  simp [ctlReg, h0, h243, Ctx.initial, Ctx.fmap, Ctx.isEmpty, launchKey]

/-- st after reset: pcls is 7, and every other field beside ctx is 0 (R38). -/
theorem st_reset (k : Nat) : (Ctx.initial k).st &&& 0xF0FFFFFFFFFF00FF = 0xE0 := by
  have all : ∀ x < 256, BitVec.ofNat 64 (x * 256 + 0xE0) &&& 0xF0FFFFFFFFFF00FF#64 = 0xE0#64 := by decide +kernel
  exact all _ (Nat.mod_lt _ (by decide))

/-- Every register is full after reset (R40). -/
theorem isEmpty_initial (k r : Nat) : (Ctx.initial k).isEmpty r = false := by
  unfold Ctx.isEmpty
  split <;> rfl

theorem ctlReg_resetValues (k : Nat) : ∀ e ∈ Rules.resetValues,
    (ctlReg State.reset k e.1).map (fun x => x &&& e.2.1) = some e.2.2 := by
  have own : ∀ e ∈ Rules.resetValues.tail, e.1 ≠ 0x000 ∧ e.1 ≠ 0x243
      ∧ (ctlReg State.reset 0 e.1).map (fun x => x &&& e.2.1) = some e.2.2 := by decide +kernel
  refine List.forall_mem_cons.2 ⟨congrArg some (st_reset k), fun e he => ?_⟩
  obtain ⟨h0, h243, value⟩ := own e he
  rw [ctlReg_reset h0 h243, value]

/-- The hash masks of a controller, in force and staged (R70). -/
theorem ctlRead_pcmask_reset (st : Nat) {j : Nat} (hj : j < 6) :
    ctlRead State.reset (.ctl st (0x40 + 8 * j)) = 0x00100080 <<< j
      ∧ ctlRead State.reset (.ctl st (0x80 + 8 * j)) = 0x00100080 <<< j := by
  interval_cases j <;> exact ⟨rfl, rfl⟩

/-- The access counts of a controller (R72). -/
theorem ctlRead_acnt_reset (st j : Nat) : ctlRead State.reset (.ctl st (0x200 + 8 * j)) = 0 := by
  have far : ¬ 0x200 + 8 * j = 0 ∧ ¬ 0x200 + 8 * j = 8 ∧ ¬ 0x200 + 8 * j = 0x10 ∧ ¬ 0x200 + 8 * j < 0x70
      ∧ ¬ 0x200 + 8 * j < 0xB0 ∧ ¬ 0x200 + 8 * j = 0xC0 := by omega
  simp only [ctlRead, far, if_false]
  rfl

/-- The status registers of a controller (R71, R72, R261). -/
theorem ctlRead_stack_reset (st : Nat) : ∀ o ∈ [0, 8, 0x10, 0xC0], ctlRead State.reset (.ctl st o) = 0 := by
  simp [ctlRead]

/-- The registers of a Cave slice (R143). -/
theorem ctlRead_cave_reset (d k : Nat) :
    ctlRead State.reset (.rcfg d k) = 0 ∧ ctlRead State.reset (.caveStat d) = 0 := by
  simp [ctlRead, rcfgOf]

/-- The registers of a Rind: its event log, host window, spool and peers (R373, R396, R407, R416). -/
theorem ctlRead_rind_reset (k : Nat) : (∀ o ∈ [0, 8, 0x10], ctlRead State.reset (.evReg k o) = 0)
    ∧ ctlRead State.reset (.hwin k) = 0 ∧ ctlRead State.reset (.spoolBase k) = 0 ∧ ctlRead State.reset (.spoolCnt k) = 0
    ∧ ∀ e, ctlRead State.reset (.peer k e) = 0 := by
  simp [ctlRead, zx]

/-- Settles O60: every table is empty after cold reset, so each register reads its default, which is the reset value. -/
theorem resetState : Obligations.ResetState :=
  ⟨memInv_reset, fun k r => ⟨rfl, isEmpty_initial k r⟩, ctlReg_resetValues, fun _ _ => rfl,
    fun st _ hj => ctlRead_pcmask_reset st hj, fun st j _ => ctlRead_acnt_reset st j, ctlRead_stack_reset,
    ctlRead_cave_reset, ctlRead_rind_reset, fun _ _ => ⟨rfl, rfl⟩, rfl, rfl, rfl, rfl⟩

/-! ### What a write of a control register changes (R36, R37) -/

/-- Two contexts that differ in control registers alone. -/
def SameButControls (c' c : Ctx) : Prop :=
  { c' with
    st := c.st, fepol := c.fepol, tsv1 := c.tsv1, tsv2 := c.tsv2, epc := c.epc, tarea := c.tarea, loopCnt := c.loopCnt
    loopEnd := c.loopEnd, loopLen := c.loopLen, cspAddr := c.cspAddr } = c

/-- What the loop test reads of a context beside its pc (R247). -/
def loopRegs (c : Ctx) : Dword × Dword × Dword × Bool := (c.loopCnt, c.loopEnd, c.loopLen, stTrap c.st)

/-- What one write of control register i may change: its context, the record of the context's launch, or its core. -/
inductive ControlWrite (s : State) (k i : Nat) : State → Prop
  | ignored : ControlWrite s k i s
  | ctx (f : Ctx → Ctx) (h : ∀ c, SameButControls (f c) c) (hl : ∀ c, loopRegs (f c) = loopRegs c) :
      ControlWrite s k i (modCtx s k f)
  | loops (f : Ctx → Ctx) (r : Nat → Bool) (hi : 0x220 ≤ i ∧ i ≤ 0x222) (h : ∀ c, SameButControls (f c) c) :
      ControlWrite s k i (freshRegs (modCtx s k f) k r)
  | record (f : LRec → LRec) : ControlWrite s k i (modRec s (ctxCore k) (launchKey (getCtx s k)) f)
  | core (f : Core → Core) : ControlWrite s k i (modCore s (ctxCore k) f)

theorem ControlWrite.ite {s t e : State} {k i : Nat} {c : Prop} [Decidable c] (ht : c → ControlWrite s k i t)
    (he : ControlWrite s k i e) : ControlWrite s k i (if c then t else e) := by
  split
  · exact ht ‹_›
  · exact he

/-- Every write but those of ebud and of the snapshot release is of that form. -/
theorem ctlPut_controlWrite (s : State) (k : Nat) {i : Nat} (v : Dword) (h1 : i ≠ 0x020) (h2 : i ≠ 0x800) :
    ControlWrite s k i (ctlPut s k i v) := by
  have st : ∀ c : Ctx, loopRegs { c with st := putFld c.st 5 3 (fld v 5 3) } = loopRegs c := fun c => by
    have trap : bitAt (putFld c.st 5 3 (fld v 5 3)) 1 = bitAt c.st 1 := bitAt_putFld_outside _ _ (.inl (by decide))
    simp only [loopRegs, stTrap, trap]
  unfold ctlPut
  dsimp only
  rw [if_neg h1, if_neg h2]
  exact .ite (fun _ => .ctx _ (fun _ => rfl) st) <| .ite (fun _ => .ctx _ (fun _ => rfl) fun _ => rfl) <|
    .ite (fun _ => .ctx _ (fun _ => rfl) fun _ => rfl) <| .ite (fun _ => .ctx _ (fun _ => rfl) fun _ => rfl) <|
    .ite (fun _ => .ctx _ (fun _ => rfl) fun _ => rfl) <| .ite (fun _ => .record _) <|
    .ite (fun _ => .ctx _ (fun _ => rfl) fun _ => rfl) <| .ite (fun _ => .core _) <| .ite (fun _ => .record _) <|
    .ite (fun _ => .record _) <| .ite (fun h => .loops _ _ (by omega) fun _ => rfl) <|
    .ite (fun h => .loops _ _ (by omega) fun _ => rfl) <| .ite (fun h => .loops _ _ (by omega) fun _ => rfl) <|
    .ite (fun _ => .ctx _ (fun _ => rfl) fun _ => rfl) <| .ite (fun _ => .record _) <| .ite (fun _ => .record _) <|
    .ite (fun _ => .core _) <| .ite (fun _ => .core _) <| .ite (fun _ => .core _) .ignored

theorem ControlWrite.world {s t : State} {k i : Nat} (h : ControlWrite s k i t) :
    { t with ctxs := s.ctxs, recs := s.recs, cores := s.cores, badReg := s.badReg } = s := by
  cases h <;> rfl

theorem ControlWrite.own {s t : State} {k i : Nat} (h : ControlWrite s k i t) :
    SameButControls (getCtx t k) (getCtx s k) := by
  cases h with
  | ignored => rfl
  | ctx f h _ => rw [getCtx_modCtx_self]; exact h _
  | loops f r _ h => rw [getCtx_freshRegs, getCtx_modCtx_self]; exact h _
  | record f => rfl
  | core f => rfl

/-- Only a write of a loop register changes what the loop test reads. -/
theorem ControlWrite.loopRegs {s t : State} {k i : Nat} (h : ControlWrite s k i t) (hi : ¬ (0x220 ≤ i ∧ i ≤ 0x222)) :
    loopRegs (getCtx t k) = loopRegs (getCtx s k) := by
  cases h with
  | ignored => rfl
  | ctx f _ h => rw [getCtx_modCtx_self]; exact h _
  | loops f r h _ => exact absurd h hi
  | record f => rfl
  | core f => rfl

/-- A register that no field of the table lets CWR write is left as it is (R37). -/
theorem ctlPut_readOnly (s : State) (k : Nat) {i : Nat} (v : Dword) (h1 : i ≠ 0x020) (h2 : i ≠ 0x220) (h3 : i ≠ 0x800)
    (h : ∀ m, (i, m) ∉ Rules.writable) : ctlPut s k i v = s := by
  have off : ∀ e ∈ Rules.writable, i ≠ e.1 := fun e he hi => h e.2 (hi ▸ he)
  simp only [Rules.writable, List.forall_mem_cons] at off
  obtain ⟨n00, n01, n0E, n0F, n10, n14, n17, n100, n101, n102, n103, n200, n201, n221, n222, n230, n240, n250, n251, n253,
    n801, -⟩ := off
  have win : ¬ (0x100 ≤ i ∧ i ≤ 0x103) := by omega
  simp [ctlPut, *]

/-! ### The table of control registers after a write -/

/-- The RW fields of control register i take the bits of v; st keeps its other fields, and any other register has none
(R36, R38). -/
def rwFields (i : Nat) (m v old : Dword) : Dword := (if i = 0 then old &&& ~~~m else 0) ||| (v &&& m)

/-- A table of registers with the value under one index replaced. -/
def withEntry (i : Nat) (f : Dword → Dword) (l : List (Nat × Dword)) : List (Nat × Dword) :=
  l.map (fun e => if e.1 = i then (i, f e.2) else e)

theorem mem_withEntry_self {i : Nat} {f : Dword → Dword} {l : List (Nat × Dword)} {x : Dword} (h : (i, x) ∈ l) :
    (i, f x) ∈ withEntry i f l :=
  List.mem_map.2 ⟨(i, x), h, if_pos rfl⟩

theorem mem_withEntry_other {i j : Nat} {f : Dword → Dword} {l : List (Nat × Dword)} {x : Dword} (hj : j ≠ i)
    (h : (j, x) ∈ l) : (j, x) ∈ withEntry i f l :=
  List.mem_map.2 ⟨(j, x), h, if_neg hj⟩

@[simp] theorem withEntry_append (i : Nat) (f : Dword → Dword) (l m : List (Nat × Dword)) :
    withEntry i f (l ++ m) = withEntry i f l ++ withEntry i f m := List.map_append ..

@[simp] theorem withEntry_cons (i : Nat) (f : Dword → Dword) (e : Nat × Dword) (l : List (Nat × Dword)) :
    withEntry i f (e :: l) = (if e.1 = i then (i, f e.2) else e) :: withEntry i f l := rfl

@[simp] theorem withEntry_nil (i : Nat) (f : Dword → Dword) : withEntry i f [] = [] := rfl

/-- Registers that stand at the indices from lo on, as the latched ones of a snapshot do from 0x810 (R400). -/
theorem withEntry_range (g : Nat → Dword) {i lo : Nat} (n : Nat) (f : Dword → Dword) (hi : i < lo) :
    withEntry i f ((List.range n).map fun j => (lo + j, g j)) = (List.range n).map fun j => (lo + j, g j) := by
  rw [withEntry, List.map_map]
  refine List.map_congr_left fun j _ => ?_
  exact if_neg (by dsimp only; omega)

/-- The end of an instruction changes loop.cnt alone. -/
theorem controls_ended (s : State) (w : Dword) :
    ∃ n, Rules.controls (modCtx s s.me fun c => ended (nextPc c w)) = withEntry 0x220 (fun _ => n) (Rules.controls s) := by
  refine ⟨(nextPc (actor s) w).loopCnt, ?_⟩
  unfold Rules.controls
  simp [withEntry_range, actor, ended, Ctx.fmap, Ctx.isEmpty, ctxName, dieTs]

/-- CWR of a register with RW fields writes them and no other register of the table. -/
theorem controls_ctlPut (s : State) (v : Dword) {i : Nat} {m : Dword} (h : (i, m) ∈ Rules.writable) :
    Rules.controls (ctlPut s s.me i v) = withEntry i (rwFields i m v) (Rules.controls s) := by
  simp only [Rules.writable, List.mem_cons, Prod.mk.injEq, List.not_mem_nil, or_false] at h
  rcases h with ⟨rfl, rfl⟩ | ⟨rfl, rfl⟩ | ⟨rfl, rfl⟩ | ⟨rfl, rfl⟩ | ⟨rfl, rfl⟩ | ⟨rfl, rfl⟩ | ⟨rfl, rfl⟩ | ⟨rfl, rfl⟩ |
    ⟨rfl, rfl⟩ | ⟨rfl, rfl⟩ | ⟨rfl, rfl⟩ | ⟨rfl, rfl⟩ | ⟨rfl, rfl⟩ | ⟨rfl, rfl⟩ | ⟨rfl, rfl⟩ | ⟨rfl, rfl⟩ | ⟨rfl, rfl⟩ |
    ⟨rfl, rfl⟩ | ⟨rfl, rfl⟩ | ⟨rfl, rfl⟩ | ⟨rfl, rfl⟩
  -- The values of the table beside the one written agree, since each is read where the write does not reach. Three
  -- registers are written as fields: st.pcls, sched.bypass and sched.quant.
  all_goals
    unfold Rules.controls
    simp [withEntry_range, ctlPut, rwFields, actor, ctxCore, launchKey, Ctx.fmap, Ctx.isEmpty, ctxName, dieTs, stRind_putPcls,
      stGen_putPcls, stCtx_putPcls, tget_tput, and_full]
  case inl => exact putFld_pcls ..
  · have low : fldN v 0 4 < 16 := (fld v 0 4).isLt
    rw [Nat.mod_eq_of_lt low, fldN, BitVec.ofNat_toNat]
    exact setWidth_fld_low v 4
  · exact setWidth_fld_low v 32

/-! ### The assigned indices (R36) -/

/-- The table lists the same registers in every state. -/
theorem controls_keys (s : State) : (Rules.controls s).map Prod.fst = (Rules.controls State.reset).map Prod.fst := by
  simp only [Rules.controls, List.map_append, List.map_cons, List.map_map, Function.comp_def]

theorem ctlAssigned_of_mem_controls {s : State} {i : Nat} {x : Dword} (h : (i, x) ∈ Rules.controls s) :
    ctlAssigned i = true ∧ i ≠ 0x231 := by
  have keys : ∀ j ∈ (Rules.controls State.reset).map Prod.fst, ctlAssigned j = true ∧ j ≠ 0x231 := by decide +kernel
  exact keys i (controls_keys s ▸ List.mem_map_of_mem (f := Prod.fst) h)

theorem ctlAssigned_of_mem_writable {i : Nat} {m : Dword} (h : (i, m) ∈ Rules.writable) :
    ctlAssigned i = true ∧ i ≠ 0x231 ∧ i ≠ 0x020 ∧ i ≠ 0x220 ∧ i ≠ 0x800 := by
  have rows : ∀ e ∈ Rules.writable,
      ctlAssigned e.1 = true ∧ e.1 ≠ 0x231 ∧ e.1 ≠ 0x020 ∧ e.1 ≠ 0x220 ∧ e.1 ≠ 0x800 := by decide +kernel
  exact rows (i, m) h

/-! ### CWR (R250) -/

/-- The end of a scalar instruction that names no stream and writes no register of R40. -/
theorem retire_scalar {s : State} {k : Nat} {u : Named} (c : Ctx) (pcOf : Ctx → Ctx) (hw : u.writes = []) (hv : u.vec = false)
    (h : ∀ r ∈ u.reads, 32 ≤ r → r < 64 → streamSlot s k (r - 32) = none) :
    retire s k u c pcOf = modCtx s k fun c => ended (pcOf c) := by
  unfold retire
  rw [moveStreams_none (by simpa [hw] using h), hw]
  dsimp only
  rw [freshRegs_none, hv]
  rfl

/-- What CWR a, i names. -/
def cwrNamed (a : BitVec 5) (i : BitVec 12) : Named := { reads := [gr a], ctl := some i.toNat }

/-- CWR of an assigned register other than csp.data, when nothing stops it, puts g[a] in the register. -/
theorem exec_cwr {s : State} {a : BitVec 5} {i : BitVec 12} (h : Ready s [a.toNat]) (hr : stRoam (actor s).st = false)
    (hp : stSys (actor s).st = true ∨ i = 1) (ha : ctlAssigned i.toNat = true) (hi : i.toNat ≠ 0x231) :
    exec (.cwr a i) s = .next (retire (ctlPut s s.me i.toNat ((actor s).readG a.toNat)) s.me (cwrNamed a i) (actor s)
      fun y => nextPc y (actor s).pc) := by
  have hp' : ¬ ((!stSys (actor s).st) = true ∧ i ≠ 1) := by rcases hp with hp | hp <;> simp [hp]
  have hi' : i ≠ 0x231 := fun e => hi (by rw [e]; rfl)
  have run : exec (.cwr a i) s = execCwr a i s := rfl
  rw [run, execCwr]
  show issue s (cwrNamed a i) _ = _
  rw [issue_seated _ h hr (by simp [cwrNamed, gr]) (by simp [cwrNamed]), if_neg (by simp [ha]), if_neg hp', if_neg hi']
  rfl

/-- The state that CWR of register i leaves: v in the register, and the end of the instruction. -/
def afterCwr (s : State) (i : Nat) (v : Dword) : State :=
  modCtx (ctlPut s s.me i v) s.me fun c => ended (nextPc c (actor s).pc)

/-- The same with its end written out, for a write that reaches the context, its launch's record or the core. -/
theorem exec_cwr_afterCwr {s : State} {a : BitVec 5} {i : BitVec 12} (h : Ready s [a.toNat]) (hr : stRoam (actor s).st = false)
    (hp : stSys (actor s).st = true ∨ i = 1) (ha : ctlAssigned i.toNat = true) (hi : i.toNat ≠ 0x231) (h1 : i.toNat ≠ 0x020)
    (h2 : i.toNat ≠ 0x800) :
    exec (.cwr a i) s = .next (afterCwr s i.toNat ((actor s).readG a.toNat)) := by
  have streams : (ctlPut s s.me i.toNat ((actor s).readG a.toNat)).streams = s.streams :=
    (congrArg State.streams (ctlPut_controlWrite s s.me ((actor s).readG a.toNat) h1 h2).world :)
  rw [exec_cwr h hr hp ha hi, retire_scalar _ _ rfl rfl, afterCwr]
  intro r hm h32 h64
  rw [streamSlot_congr streams]
  exact h.plain r hm h32 h64

/-- The loop step is that of any context with the same pc and the same loop registers. -/
theorem LoopStep.congr {c c' : Ctx} {pc cnt : Dword} (h : LoopStep c' pc cnt) (hpc : c'.pc = c.pc)
    (hl : loopRegs c' = loopRegs c) : LoopStep c pc cnt := by
  simp only [loopRegs, Prod.mk.injEq] at hl
  obtain ⟨hcnt, hend, hlen, htrap⟩ := hl
  obtain ⟨again, last, plain⟩ := h
  simp only [EndsBody, hpc, hend, hcnt, hlen, htrap] at again last plain
  exact ⟨again, last, plain⟩

section AfterCwr

variable {s : State} {i : Nat} {v : Dword} (h1 : i ≠ 0x020) (h2 : i ≠ 0x800)
include h1 h2

theorem ctlPut_me : (ctlPut s s.me i v).me = s.me :=
  (congrArg State.me (ctlPut_controlWrite s s.me v h1 h2).world :)

theorem actor_afterCwr : actor (afterCwr s i v) = ended (nextPc (getCtx (ctlPut s s.me i v) s.me) (actor s).pc) := by
  show getCtx (afterCwr s i v) (ctlPut s s.me i v).me = _
  rw [ctlPut_me h1 h2]
  exact getCtx_modCtx_self ..

theorem sameBytes_afterCwr : SameBytes s (afterCwr s i v) := by
  have w := (ctlPut_controlWrite s s.me v h1 h2).world
  exact readByte_congr (congrArg State.mem w :) (congrArg State.cav w :) (congrArg State.top w :)
    (congrArg State.rmap w :) (congrArg State.ctls w :) (congrArg State.cavHeld w :) (congrArg State.topHeld w :)

/-- No register of R34 and R40 changes. -/
theorem regs_afterCwr : (∀ r, (actor (afterCwr s i v)).readG r = (actor s).readG r)
    ∧ (actor (afterCwr s i v)).v = (actor s).v ∧ (actor (afterCwr s i v)).p = (actor s).p
    ∧ ∀ r, (actor (afterCwr s i v)).isEmpty r = (actor s).isEmpty r := by
  have own := (ctlPut_controlWrite s s.me v h1 h2).own
  have hg := (congrArg Ctx.g own :)
  have he := (congrArg Ctx.empty own :)
  have hv := (congrArg Ctx.v own :)
  have hp := (congrArg Ctx.p own :)
  simp only at hg he hv hp
  simp [actor_afterCwr h1 h2, ended, Ctx.readG, Ctx.isEmpty, hg, he, hv, hp]

/-- The loop test reads the loop registers that the write leaves (R247). -/
theorem loopStep_afterCwr : LoopStep (getCtx (ctlPut s s.me i v) s.me) (actor (afterCwr s i v)).pc
    (actor (afterCwr s i v)).loopCnt ∧ (actor (afterCwr s i v)).hint = none := by
  have hpc : (getCtx (ctlPut s s.me i v) s.me).pc = (actor s).pc :=
    (congrArg Ctx.pc (ctlPut_controlWrite s s.me v h1 h2).own :)
  rw [actor_afterCwr h1 h2, ← hpc]
  exact ⟨nextPc_loopStep _, rfl⟩

/-- The table keeps its entries, but for loop.cnt. -/
theorem mem_controls_afterCwr {j : Nat} {x : Dword} (hj : j ≠ 0x220) (h : (j, x) ∈ Rules.controls (ctlPut s s.me i v)) :
    (j, x) ∈ Rules.controls (afterCwr s i v) := by
  obtain ⟨n, e⟩ := controls_ended (ctlPut s s.me i v) (actor s).pc
  rw [ctlPut_me h1 h2] at e
  rw [afterCwr, e]
  exact mem_withEntry_other hj h

end AfterCwr

/-- CWR of a register with RW fields (R36, R37). -/
theorem cwr_writable (a : BitVec 5) (i : BitVec 12) (m : Dword) (s : State) (hm : (i.toNat, m) ∈ Rules.writable)
    (h : Ready s [a.toNat]) (hr : stRoam (actor s).st = false) (hp : stSys (actor s).st = true ∨ i = 1) :
    ∃ t, exec (.cwr a i) s = .next t
      ∧ (∀ old, (i.toNat, old) ∈ Rules.controls s →
          (i.toNat, rwFields i.toNat m ((actor s).readG a.toNat) old) ∈ Rules.controls t)
      ∧ Rules.SameControls s t i.toNat ∧ (i ≠ 0x221 → i ≠ 0x222 → FallsThrough s t)
      ∧ (∀ r, (actor t).readG r = (actor s).readG r) ∧ (actor t).v = (actor s).v ∧ (actor t).p = (actor s).p
      ∧ (∀ r, (actor t).isEmpty r = (actor s).isEmpty r) ∧ SameBytes s t := by
  obtain ⟨ha, h231, h020, h220, h800⟩ := ctlAssigned_of_mem_writable hm
  obtain ⟨hg, hv, hpr, he⟩ := regs_afterCwr (s := s) (v := (actor s).readG a.toNat) h020 h800
  refine ⟨_, exec_cwr_afterCwr h hr hp ha h231 h020 h800, ?_, ?_, ?_, hg, hv, hpr, he, sameBytes_afterCwr h020 h800⟩
  · intro old hold
    apply mem_controls_afterCwr h020 h800 h220
    rw [controls_ctlPut s _ hm]
    exact mem_withEntry_self hold
  · intro j x hj hcnt hx
    apply mem_controls_afterCwr h020 h800 hcnt
    rw [controls_ctlPut s _ hm]
    exact mem_withEntry_other hj hx
  · intro h221 h222
    have hl : ¬ (0x220 ≤ i.toNat ∧ i.toNat ≤ 0x222) := by bv_omega
    obtain ⟨step, hint⟩ := loopStep_afterCwr (s := s) (v := (actor s).readG a.toNat) h020 h800
    have w := ctlPut_controlWrite s s.me ((actor s).readG a.toNat) h020 h800
    exact ⟨step.congr (congrArg Ctx.pc w.own :) (w.loopRegs hl), hint⟩

/-- CWR of loop.cnt (R247). -/
theorem cwr_loopCnt (a : BitVec 5) (s : State) (h : Ready s [a.toNat]) (hr : stRoam (actor s).st = false)
    (hp : stSys (actor s).st = true) :
    ∃ t, exec (.cwr a 0x220) s = .next t
      ∧ LoopStep { actor s with loopCnt := (actor s).readG a.toNat } (actor t).pc (actor t).loopCnt := by
  refine ⟨_, exec_cwr_afterCwr h hr (.inl hp) (by decide +kernel) (by decide) (by decide) (by decide), ?_⟩
  have written : getCtx (ctlPut s s.me 0x220 ((actor s).readG a.toNat)) s.me
      = { actor s with loopCnt := (actor s).readG a.toNat } := by simp [ctlPut]
  have step := (loopStep_afterCwr (s := s) (i := 0x220) (v := (actor s).readG a.toNat) (by decide) (by decide)).1
  rw [written] at step
  exact step

/-- CWR of a register without RW fields (R37). -/
theorem cwr_readOnly (a : BitVec 5) (i : BitVec 12) (x : Dword) (s : State) (hx : (i.toNat, x) ∈ Rules.controls s)
    (hm : ∀ m, (i.toNat, m) ∉ Rules.writable) (h1 : i ≠ 0x020) (h2 : i ≠ 0x220) (h3 : i ≠ 0x800)
    (h : Ready s [a.toNat]) (hr : stRoam (actor s).st = false) (hp : stSys (actor s).st = true) :
    ∃ t, exec (.cwr a i) s = .next t ∧ FallsThrough s t ∧ OnlyRegs s t [] := by
  obtain ⟨ha, h231⟩ := ctlAssigned_of_mem_controls hx
  have same : ctlPut s s.me i.toNat ((actor s).readG a.toNat) = s :=
    ctlPut_readOnly s s.me _ (by bv_omega) (by bv_omega) (by bv_omega) hm
  have run := exec_cwr h hr (.inl hp) ha h231
  rw [same] at run
  obtain ⟨-, own, only⟩ := retire_spec (u := cwrNamed a i) (fun y => nextPc y (actor s).pc) (onlyCtx_self s)
    fun r hm => h.plain r (by simpa [cwrNamed, gr] using hm)
  have frame := onlyRegs_intro (c' := actor s) (pcOf := fun y => nextPc y (actor s).pc) own only (.inl rfl) (fun _ _ _ => rfl)
    (fun _ _ => rfl) (fun _ _ => rfl) rfl
  refine ⟨_, run, ⟨?_, ?_⟩, frame⟩
  · rw [own]
    exact nextPc_loopStep _
  · rw [own]
    rfl

/-- Settles O26: each clause from what a write of one control register can change and from the table of registers after it. -/
theorem controlRegisterWritten : Obligations.ControlRegisterWritten := by
  refine ⟨?_, cwr_loopCnt, cwr_readOnly⟩
  intro a i m s hm h hr hp
  obtain ⟨t, run, fields, rest⟩ := cwr_writable a i m s hm h hr hp
  refine ⟨t, run, fun old hold => ?_, rest⟩
  have zero : i.toNat = 0 ↔ i = 0 := by bv_omega
  simpa only [rwFields, zero] using fields old hold

end Sys2Proof.Machine
end

section
/-!
PROOFS. The answer to a request of another node, where no port leads back to the node (O48).
-/

namespace Sys2Proof.Machine

open Rules

/-! ### Answers that do not leave (R393, R413, R415) -/

/-- A packet for a node that no port leads to does not leave (R415). -/
theorem sendFlit_unreachable {s : State} {q : FabricPacket} (h : portsToward s (fldN q.hdr 116 12) = []) (rind : Nat)
    (launch : Option Nat) : sendFlit s q rind launch = s := by
  simp [sendFlit, h]

/-- With no port up, nothing is answered. -/
theorem fabAnswer_portsDown {s : State} (h : ∀ node, portsToward s node = []) (q : FabricPacket) (op err len : Nat)
    (body : BitVec 640) : fabAnswer s q op err len body = s := sendFlit_unreachable (h _) _ _

/-- The ports that lead toward a node do not depend on a core. -/
@[simp] theorem portsToward_modCore (s : State) (cn : Nat) (f : Core → Core) (node : Nat) :
    portsToward (modCore s cn f) node = portsToward s node := rfl

/-- With no port up, a refusal is counted at the core and no more (R167). -/
theorem refuseFabric_portsDown {s : State} (h : ∀ node, portsToward s node = []) (q : FabricPacket) (cn : Nat) :
    refuseFabric s q cn = modCore s cn (fun c => { c with nack := c.nack + 1 }) :=
  fabAnswer_portsDown (by simpa using h) q 5 2 0 0

/-- A request after which no more packets have left than before has not been answered. -/
theorem not_answersWith_of_fabOut_eq {s t : State} (h : t.fabOut = s.fabOut) (q : FabricPacket) (op err : Nat) : ¬ answersWith s t q op err := by
  rintro ⟨a, sent, -⟩
  simp [h] at sent

/-! ### A counter post that is refused (R173, R416) -/

/-- A Rind admits just the senders that one of its peer entries names. -/
theorem peerOk_eq_false_iff (s : State) (rind : Nat) (q : FabricPacket) : peerOk s rind q = false ↔ noPeer s rind q := by
  have valid : ∀ w : Dword, bitAt w 63 = true ↔ w.toNat / 2 ^ 63 % 2 = 1 := fun w => by
    rw [bitAt, BitVec.getLsbD, Nat.testBit_eq_decide_div_mod_eq, decide_eq_true_iff]
  have field : ∀ {m : Nat} (x : BitVec m) (lo n : Nat), fldN x lo n = x.toNat / 2 ^ lo % 2 ^ n := fun x lo n => by
    rw [fldN, fld, BitVec.extractLsb'_toNat, Nat.shiftRight_eq_div_pow]
  simp only [peerOk, noPeer, List.any_eq_false, List.mem_range, Bool.and_eq_true, beq_iff_eq, valid, field, and_assoc,
    Nat.pow_zero, Nat.div_one]
  rfl

/-- A well-formed counter post of a node that the owner of the counter's core does not admit is refused at that core. -/
theorem exec_counterPost_noPeer {s : State} {q : FabricPacket} {rind : Nat} (op : fabOp q = 11)
    (fits : fabFits q 1 (fabBits 96) = true) (owner : coreRind s (ctrCore (q.body.setWidth 64)) = some rind)
    (peer : noPeer s rind q) :
    exec (.counterPost (.fabric q)) s = .next (refuseFabric s q (ctrCore (q.body.setWidth 64))) := by
  have run : exec (.counterPost (.fabric q)) s = execCounterPost (.fabric q) s := rfl
  rw [run]
  simp [execCounterPost, op, fits, owner, (peerOk_eq_false_iff s rind q).mpr peer]

/-! ### A counter post that comes in when the last port has gone down -/

/-- A package whose ports have all lost a third lane and are down (R393). Rind 0 owns cluster 0 and names no peer. -/
def allPortsDown : State :=
  { clusters := [(0, { rind := some 0 })], kports := (List.range 48).map (fun p => (p, { lanes := 1 })) }

/-- Node 5, Rind 0 posts 1 to counter 0 of core 0 of node 0 (R414). -/
def postOfNode5 : FabricPacket :=
  { hdr := BitVec.ofNat 128 (5 * 2 ^ 104 + 2 ^ 96 + 11 * 2 ^ 90), body := BitVec.ofNat 640 (2 ^ 63 + 2 ^ 64) }

theorem portsToward_allPortsDown (node : Nat) : portsToward allPortsDown node = [] := by
  have down : ∀ p < 48, decide (2 ≤ (tget {} allPortsDown.kports p).lanes) = false := by decide +kernel
  refine List.filter_eq_nil_iff.mpr fun p hp => ?_
  rw [down p (List.mem_range.mp hp), Bool.false_and]
  exact Bool.false_ne_true

theorem noPeer_allPortsDown (q : FabricPacket) : noPeer allPortsDown 0 q := by
  intro e _ w
  have unwritten : w = 0 := rfl
  rintro ⟨valid, -, -⟩
  simp [unwritten] at valid

/-- The post of node 5 is refused, and the answer stays where it is (R415). -/
theorem exec_postOfNode5 : exec (.counterPost (.fabric postOfNode5)) allPortsDown
    = .next (modCore allPortsDown 0 (fun c => { c with nack := c.nack + 1 })) := by
  have core : ctrCore (postOfNode5.body.setWidth 64) = 0 := by decide +kernel
  calc exec (.counterPost (.fabric postOfNode5)) allPortsDown
      = .next (refuseFabric allPortsDown postOfNode5 (ctrCore (postOfNode5.body.setWidth 64))) :=
        exec_counterPost_noPeer (by decide +kernel) (by decide +kernel) (by decide +kernel) (noPeer_allPortsDown _)
    _ = .next (modCore allPortsDown 0 (fun c => { c with nack := c.nack + 1 })) := by
        rw [core, refuseFabric_portsDown portsToward_allPortsDown]

/-- Refutes O48: a request is answered only where a port leads back to its node. With every port down (R393) the counter post of
node 5, whose Rind no peer entry names, is refused, and the answer with error 2 cannot leave (R415). -/
theorem not_packetsAtTheirUnits : ¬ Obligations.PacketsAtTheirUnits := by
  unfold Obligations.PacketsAtTheirUnits
  rintro ⟨-, requests⟩
  obtain ⟨refusedPost, -⟩ := requests postOfNode5 allPortsDown 0 (by decide)
  obtain ⟨t, run, answered, -⟩ := refusedPost (.inr (by decide +kernel)) (by decide +kernel) (noPeer_allPortsDown _)
  have sent : t.fabOut = allPortsDown.fabOut := by
    rw [exec_postOfNode5] at run
    rw [← Host.Outcome.next.inj run]
    rfl
  exact not_answersWith_of_fabOut_eq sent _ _ _ answered

end Sys2Proof.Machine
end

section
/-!
PROOFS. Decoding and encoding agree (O56), and words of the spec decode as it says (O57).

A word is read in three layers. The fields of a word that encoding writes are read back one by one. The groups of the
opcode map are listed by major opcode, so that what holds of a word's rows is said for each group. Each row then reads
back the fields of its instruction, and each row that a word matches names an instruction of that word.
-/

namespace Sys2Proof.Encoding

/-! ### Fields of a written word (R29) -/

/-- A field placed above the bits that a modulus keeps does not count in it. -/
theorem add_place_mod {m l M : Nat} (N : Nat) (x : BitVec m) (h : 2 ^ l % M = 0) : (N + place x l) % M = N % M := by
  obtain ⟨k, hk⟩ := Nat.dvd_of_mod_eq_zero h
  rw [place, hk, Nat.mul_left_comm, Nat.add_mul_mod_self_left]

/-- A field is added to a word by writing it, where the word holds 0 so far. -/
theorem ofNat_add_place {m l N : Nat} (x : BitVec m) (h : N % 2 ^ (l + m) = N % 2 ^ l) :
    BitVec.ofNat 32 (N + place x l) = putFld (BitVec.ofNat 32 N) l m x := by
  have low : N % 2 ^ l < 2 ^ l := Nat.mod_lt _ (by positivity)
  have parts : N = 2 ^ (l + m) * (N / 2 ^ (l + m)) + N % 2 ^ l := by rw [← h, Nat.div_add_mod]
  have field : 2 ^ l * x.toNat + N % 2 ^ l < 2 ^ (l + m) := by
    have := Nat.mul_le_mul_left (2 ^ l) (Nat.succ_le_of_lt x.isLt)
    rw [Nat.mul_succ] at this
    rw [pow_add]
    omega
  have sum : N + place x l = 2 ^ (l + m) * (N / 2 ^ (l + m)) + (2 ^ l * x.toNat + N % 2 ^ l) := by
    rw [place, Nat.mul_comm x.toNat]
    omega
  apply BitVec.eq_of_getLsbD_eq
  intro i hi
  have bitN : N.testBit i = if i < l + m then (N % 2 ^ l).testBit i else (N / 2 ^ (l + m)).testBit (i - (l + m)) := by
    conv_lhs => rw [parts]
    exact Nat.testBit_two_pow_mul_add _ (low.trans_le (Nat.pow_le_pow_right (by omega) (by omega))) _
  rw [Machine.getLsbD_putFld, BitVec.getLsbD_ofNat, BitVec.getLsbD_ofNat, bitN, sum, Nat.testBit_two_pow_mul_add _ field,
    Nat.testBit_two_pow_mul_add _ low]
  by_cases below : i < l
  · simp [below, show i < l + m by omega, show ¬ l ≤ i by omega]
  · by_cases inside : i < l + m
    · simp [below, inside, hi, show l ≤ i by omega, BitVec.getLsbD]
    · simp [inside]

section Reading

variable {w : Word} {l m lo n c : Nat} {x : BitVec m}

/-- A written field is read back, and the bits below and above it are as before. -/
theorem extract_putFld_self (h : l + m ≤ 32) : (putFld w l m x).extractLsb' l m = x := by
  apply BitVec.eq_of_getLsbD_eq
  intro i hi
  rw [BitVec.getLsbD_extractLsb', Machine.getLsbD_putFld]
  simp [hi, show l + i < 32 by omega]

theorem extract_putFld_above (h : lo + n ≤ l) : (putFld w l m x).extractLsb' lo n = w.extractLsb' lo n :=
  Machine.fld_putFld_disjoint w x (.inl h)

theorem extract_putFld_below (h : l + m ≤ lo) : (putFld w l m x).extractLsb' lo n = w.extractLsb' lo n :=
  Machine.fld_putFld_disjoint w x (.inr h)

/-- A field holds a value when its low k bits and the bits above them hold theirs. -/
theorem extract_eq_iff (k : Nat) (hk : k ≤ n) : (w.extractLsb' lo n).toNat = c ↔
    (w.extractLsb' lo k).toNat = c % 2 ^ k ∧ (w.extractLsb' (lo + k) (n - k)).toNat = c / 2 ^ k := by
  obtain ⟨j, rfl⟩ := Nat.exists_eq_add_of_le hk
  have low : w.toNat / 2 ^ lo % 2 ^ k < 2 ^ k := Nat.mod_lt _ (by positivity)
  simp only [BitVec.extractLsb'_toNat, Nat.shiftRight_eq_div_pow, Nat.add_sub_cancel_left]
  rw [pow_add, Nat.mod_mul, pow_add, ← Nat.div_div_eq_div_mul]
  constructor
  · rintro rfl
    rw [Nat.add_mul_mod_self_left, Nat.mod_eq_of_lt low, Nat.add_mul_div_left _ _ (by positivity), Nat.div_eq_of_lt low,
      Nat.zero_add]
    exact ⟨rfl, rfl⟩
  · rintro ⟨e1, e2⟩
    rw [e1, e2, Nat.mod_add_div]

/-- Bits that reach over the low end of a written field are compared in two parts. -/
theorem extract_cut_below (h1 : lo < l) (h2 : l < lo + n) : ((putFld w l m x).extractLsb' lo n).toNat = c ↔
    ((putFld w l m x).extractLsb' lo (l - lo)).toNat = c % 2 ^ (l - lo)
      ∧ ((putFld w l m x).extractLsb' l (lo + n - l)).toNat = c / 2 ^ (l - lo) := by
  rw [extract_eq_iff (l - lo) (by omega), show lo + (l - lo) = l by omega, show n - (l - lo) = lo + n - l by omega]

/-- So are bits that start with a written field and reach over its high end. -/
theorem extract_cut_above (h : m < n) : ((putFld w l m x).extractLsb' l n).toNat = c ↔
    ((putFld w l m x).extractLsb' l m).toNat = c % 2 ^ m
      ∧ ((putFld w l m x).extractLsb' (l + m) (n - m)).toNat = c / 2 ^ m := extract_eq_iff m h.le

end Reading

/-! ### The groups of the opcode map (R28, R54) -/

/-- The groups of the scalar units, of memory accesses and of control transfers, by major opcode. -/
def scalarGroups : List (Nat × (Word → Option Instr)) :=
  [(0x01, rawIntr), (0x0A, rawAddpc), (0x06, rawShi), (0x07, rawLhi), (0x1F, rawMemx), (0x1D, rawAmo), (0x1E, rawFence),
   (0x20, rawBcc), (0x23, rawJr), (0x24, rawLoop),
   (0x02, fun w => some (.addi (fld w 21 5) (fld w 16 5) (fld w 0 16))),
   (0x03, fun w => some (.andi (fld w 21 5) (fld w 16 5) (fld w 0 16))),
   (0x04, fun w => some (.ori (fld w 21 5) (fld w 16 5) (fld w 0 16))),
   (0x05, fun w => some (.xori (fld w 21 5) (fld w 16 5) (fld w 0 16))),
   (0x08, fun w => some (.slti (fld w 21 5) (fld w 16 5) (fld w 0 16))),
   (0x09, fun w => some (.sltin (fld w 21 5) (fld w 16 5) (fld w 0 16))),
   (0x10, fun w => some (.ldb (fld w 21 5) (fld w 16 5) (fld w 14 2) (fld w 12 2) (fld w 0 12))),
   (0x11, fun w => some (.ldbn (fld w 21 5) (fld w 16 5) (fld w 14 2) (fld w 12 2) (fld w 0 12))),
   (0x12, fun w => some (.ldh (fld w 21 5) (fld w 16 5) (fld w 14 2) (fld w 12 2) (fld w 0 12))),
   (0x13, fun w => some (.ldhn (fld w 21 5) (fld w 16 5) (fld w 14 2) (fld w 12 2) (fld w 0 12))),
   (0x14, fun w => some (.ldw (fld w 21 5) (fld w 16 5) (fld w 14 2) (fld w 12 2) (fld w 0 12))),
   (0x15, fun w => some (.ldwn (fld w 21 5) (fld w 16 5) (fld w 14 2) (fld w 12 2) (fld w 0 12))),
   (0x16, fun w => some (.ldd (fld w 21 5) (fld w 16 5) (fld w 14 2) (fld w 12 2) (fld w 0 12))),
   (0x17, fun w => some (.stb (fld w 21 5) (fld w 16 5) (fld w 14 2) (fld w 12 2) (fld w 0 12))),
   (0x18, fun w => some (.sth (fld w 21 5) (fld w 16 5) (fld w 14 2) (fld w 12 2) (fld w 0 12))),
   (0x19, fun w => some (.stw (fld w 21 5) (fld w 16 5) (fld w 14 2) (fld w 12 2) (fld w 0 12))),
   (0x1A, fun w => some (.std (fld w 21 5) (fld w 16 5) (fld w 14 2) (fld w 12 2) (fld w 0 12))),
   (0x1B, fun w => some (.vld (fld w 21 5) (fld w 16 5) (fld w 14 2) (fld w 12 2) (fld w 0 12))),
   (0x1C, fun w => some (.vst (fld w 21 5) (fld w 16 5) (fld w 14 2) (fld w 12 2) (fld w 0 12))),
   (0x21, fun w => some (.jmp (fld w 0 26))), (0x22, fun w => some (.call (fld w 0 26)))]

/-- The groups of the vector unit. -/
def vectorGroups : List (Nat × (Word → Option Instr)) :=
  [(0x25, rawVint), (0x26, rawVflt), (0x27, rawVcvt), (0x28, rawVprm), (0x29, rawVred), (0x2A, rawVsfn), (0x2B, rawVpred)]

/-- The groups of messages, contexts, engines, caches, translation and the system, and the hints. -/
def unitGroups : List (Nat × (Word → Option Instr)) :=
  [(0x2C, rawMsg), (0x2D, rawPort), (0x2E, rawCtx), (0x2F, rawCtr), (0x30, rawTask), (0x31, rawLadle), (0x32, rawStrm),
   (0x33, rawPress), (0x34, rawHarp), (0x35, rawCache), (0x36, rawXlat), (0x37, rawSys), (0x3F, rawHint)]

/-- All groups. -/
def groups : List (Nat × (Word → Option Instr)) := scalarGroups ++ vectorGroups ++ unitGroups

/-- The group of a major opcode, none for a reserved one. -/
def groupOf (k : Nat) : Option (Word → Option Instr) := groups.lookup k

theorem groupOf_of_mem : ∀ e ∈ groups, groupOf e.1 = some e.2 := by
  simp only [groups, scalarGroups, vectorGroups, unitGroups, List.cons_append, List.nil_append, List.forall_mem_cons,
    List.not_mem_nil, false_imp_iff, implies_true, and_true]
  and_intros <;> rfl

theorem row_eq_ok (r : Option Instr) (i : Instr) :
    (match r with | some i => Except.ok i | none => .error .reservedField) = (.ok i : Except Reject Instr) ↔ r = some i := by
  cases r <;> simp

/-- A word is read by the group of its major opcode. -/
theorem rawDecode_eq_ok_iff (w : Word) (i : Instr) :
    rawDecode w = .ok i ↔ (groupOf (fldN w 26 6)).bind (fun rows => rows w) = some i := by
  rw [← row_eq_ok]
  unfold rawDecode
  generalize fldN w 26 6 = k
  split
  case h_52 =>
    have reserved : groupOf k = none := by
      rw [groupOf, List.lookup_eq_none_iff]
      simp only [groups, scalarGroups, vectorGroups, unitGroups, List.cons_append, List.nil_append, List.forall_mem_cons,
        List.not_mem_nil, false_imp_iff, implies_true, and_true, bne_iff_ne]
      and_intros <;> assumption
    simp [reserved]
  all_goals exact Iff.rfl

/-! ### Each instruction is read back from its word -/

/-- The group of its word's major opcode reads an instruction back. -/
theorem groupOf_encode {i : Instr} {n : Nat} (h : encodeNat i = some n) :
    (groupOf (fldN (BitVec.ofNat 32 n) 26 6)).bind (fun rows => rows (BitVec.ofNat 32 n)) = some i := by
  have table := groupOf_of_mem
  simp only [groups, scalarGroups, vectorGroups, unitGroups, List.cons_append, List.nil_append, List.forall_mem_cons,
    List.not_mem_nil, false_imp_iff, implies_true, and_true] at table
  cases i
  all_goals cases h
  all_goals
    simp only [ofNat_add_place, add_place_mod, extract_putFld_self, extract_putFld_above, extract_putFld_below,
      extract_cut_below, extract_cut_above, fldN, fld, table, Option.bind_some, beq_iff_eq, Bool.and_eq_true, false_and,
      and_false, true_and, ↓reduceIte, rawIntr, rawAddpc, rawShi, rawLhi, rawMemx, rawAmo, rawFence, rawBcc, rawJr, rawLoop,
      rawVint, rawVflt, rawVcvt, rawVprm, rawVred, rawVsfn, rawVpred, rawMsg, rawPort, rawCtx, rawCtr, rawTask, rawLadle,
      rawStrm, rawPress, rawHarp, rawCache, rawXlat, rawSys, rawHint, Nat.reduceLeDiff, Nat.reduceAdd, Nat.reduceSub,
      Nat.reducePow, Nat.reduceMod, Nat.reduceDiv, Nat.reduceLT, Nat.reduceEqDiff, BitVec.reduceExtractLsb',
      BitVec.reduceToNat]

/-! ### Each row names the word that it matches -/

/-- The low k bits of a word, as a number. -/
def below (w : Word) (k : Nat) : Int := (w.toNat % 2 ^ k : Nat)

theorem below_zero (w : Word) : below w 0 = 0 := by simp [below, Nat.mod_one]

theorem below_32 (w : Word) : below w 32 = w.toNat := by
  unfold below
  rw [Nat.mod_eq_of_lt w.isLt]

/-- The low bits of a word up to the end of a field are the field and the bits below it. -/
theorem below_add (w : Word) (lo n : Nat) : below w (lo + n) = fldN w lo n * 2 ^ lo + below w lo := by
  unfold below fldN fld
  rw [BitVec.extractLsb'_toNat, Nat.shiftRight_eq_div_pow, pow_add, Nat.mod_mul]
  push_cast
  ring

/-- So a field that encoding puts back where it was read counts for the bits from its low end to its high end. -/
theorem cast_place_fld (w : Word) (lo n : Nat) : (place (fld w lo n) lo : Int) = below w (lo + n) - below w lo := by
  rw [below_add, place, ← fldN]
  push_cast
  ring

/-- And so does a field that holds a fixed value. -/
theorem fldN_eq_iff (w : Word) (lo n c : Nat) : fldN w lo n = c ↔ below w (lo + n) = c * 2 ^ lo + below w lo := by
  rw [below_add, add_left_inj, mul_left_inj' (by positivity), Nat.cast_inj]

/-- What a row reads in a word has that word. -/
structure Names (w : Word) (r : Option Instr) : Prop where
  word : ∀ i, r = some i → encode i = some w

/-- The fixed bits and the fields of an instruction make up a word. -/
def MakesUp (n : Nat) (w : Word) : Prop := (n : Int) = below w 32 - below w 0

theorem encode_of_makesUp {w : Word} {i : Instr} {n : Nat} (hn : encodeNat i = some n) (h : MakesUp n w) : encode i = some w := by
  have e : n = w.toNat := by
    unfold MakesUp at h
    rw [below_zero, below_32] at h
    omega
  rw [encode, hn, e, Option.map_some, BitVec.ofNat_toNat, BitVec.setWidth_eq]

theorem names_none (w : Word) : Names w none := ⟨fun _ h => nomatch h⟩

theorem names_some {w : Word} {i : Instr} {n : Nat} (hn : encodeNat i = some n) (h : MakesUp n w) : Names w (some i) := by
  constructor
  rintro j ⟨⟩
  exact encode_of_makesUp hn h

theorem names_ite {w : Word} {c : Bool} {i : Instr} {n : Nat} {r : Option Instr} (hn : encodeNat i = some n)
    (h : c = true → MakesUp n w) (hr : Names w r) : Names w (if c then some i else r) := by
  cases c
  · exact hr
  · exact names_some hn (h rfl)

/-- Every group names the words of its major opcode. -/
theorem names_groups : ∀ e ∈ groups, ∀ w, fldN w 26 6 = e.1 → Names w (e.2 w) := by
  simp only [groups, scalarGroups, vectorGroups, unitGroups, List.cons_append, List.nil_append, List.forall_mem_cons,
    List.not_mem_nil, false_imp_iff, implies_true, and_true, rawIntr, rawAddpc, rawShi, rawLhi, rawMemx, rawAmo, rawFence,
    rawBcc, rawJr, rawLoop, rawVint, rawVflt, rawVcvt, rawVprm, rawVred, rawVsfn, rawVpred, rawMsg, rawPort, rawCtx, rawCtr,
    rawTask, rawLadle, rawStrm, rawPress, rawHarp, rawCache, rawXlat, rawSys, rawHint]
  and_intros
  all_goals
    intro w major
    simp only [fldN_eq_iff, Nat.reduceAdd, Nat.cast_ofNat] at major
    repeat
      refine names_ite rfl (fun h => ?_) ?_
      · simp only [fldN_eq_iff, beq_iff_eq, Bool.and_eq_true, Nat.reduceAdd, Nat.cast_ofNat] at h
        simp only [MakesUp, Nat.cast_add, cast_place_fld, Nat.reduceAdd, Nat.cast_ofNat]
        omega
  any_goals exact names_none _
  all_goals
    refine names_some rfl ?_
    simp only [MakesUp, Nat.cast_add, cast_place_fld, Nat.reduceAdd, Nat.cast_ofNat]
    omega

/-! ### Decoding and encoding -/

/-- A word's row is that of an instruction exactly when the word is the instruction's. -/
theorem rawDecode_eq_ok_iff_encode (w : Word) (i : Instr) : rawDecode w = .ok i ↔ encode i = some w := by
  rw [rawDecode_eq_ok_iff]
  constructor
  · intro h
    obtain ⟨rows, group, read⟩ := Option.bind_eq_some_iff.mp h
    obtain ⟨before, after, list, -⟩ := List.lookup_eq_some_iff.mp group
    have listed : (fldN w 26 6, rows) ∈ groups := list ▸ List.mem_append_right _ List.mem_cons_self
    exact (names_groups _ listed w rfl).word i read
  · intro h
    obtain ⟨n, code, rfl⟩ := Option.map_eq_some_iff.mp h
    exact groupOf_encode code

theorem decodeWord_eq_ok_iff (w : Word) (i : Instr) : decodeWord w = .ok i ↔ WellFormed i ∧ encode i = some w := by
  rw [← rawDecode_eq_ok_iff_encode, decodeWord, WellFormed]
  cases rawDecode w with
  | error e => simp
  | ok j =>
    by_cases h : j.wf = true
    · simp only [h, if_true, Except.ok.injEq]
      exact ⟨by rintro rfl; exact ⟨h, rfl⟩, And.right⟩
    · simp only [h, if_false, reduceCtorEq, Except.ok.injEq, false_iff, not_and]
      rintro wf rfl
      exact h wf

/-- Settles O56: a word's row and the instruction's word determine each other, and decoding adds the limits of the fields. -/
theorem decodeEncode : Obligations.DecodeEncode :=
  ⟨fun i w wf code => (decodeWord_eq_ok_iff w i).mpr ⟨wf, code⟩, fun w i h => (decodeWord_eq_ok_iff w i).mp h⟩

/-- Settles O57: the listed words, and four that break a rule of the encoding, are decoded. -/
theorem decodeWords : Obligations.DecodeWords := by
  unfold Obligations.DecodeWords
  decide +kernel

end Sys2Proof.Encoding
end

section
/-!
PROOFS. The jumps and calls (R244, R247): every transfer runs through issue_transfer, with or without a link in g31.
-/

namespace Sys2Proof.Machine

/-- The state in which g31 of the acting context holds the address of the next word, when a call links (R244). -/
def linked (s : State) (link : Bool) : State :=
  if link then setCtx s s.me ((actor s).writeG 31 ((actor s).pc + 4)) else s

/-- The registers that a transfer writes. -/
abbrev linkRegs (link : Bool) : List Nat := if link then [31] else []

/-- The acting context of the linked state. -/
def linkedCtx (c : Ctx) (link : Bool) : Ctx := if link then c.writeG 31 (c.pc + 4) else c

theorem onlyCtx_linked (s : State) (link : Bool) : OnlyCtx s (linked s link) (linkedCtx (actor s) link) := by
  cases link
  · exact onlyCtx_self s
  · exact onlyCtx_set s _

/-- Bits 1:0 of an address are zero when it is a multiple of 4 (R26). -/
theorem fldN_two_eq_zero_iff (t : Dword) : fldN t 0 2 = 0 ↔ t.toNat % 4 = 0 := by
  simp [fldN, fld, BitVec.extractLsb'_toNat]

/-- Whether jumpPc ends the active loop: the word stands in the loop's body and the target does not (R247). -/
theorem jumpPc_loopCnt (c : Ctx) (dest : Dword) :
    (c.loopCnt ≠ 0 ∧ stTrap c.st = c.loopLen.getLsbD 10 ∧ Rules.inBody c c.pc ∧ ¬ Rules.inBody c dest →
        (jumpPc c c.pc dest).loopCnt = 0)
      ∧ (¬ (c.loopCnt ≠ 0 ∧ stTrap c.st = c.loopLen.getLsbD 10 ∧ Rules.inBody c c.pc ∧ ¬ Rules.inBody c dest) →
        (jumpPc c c.pc dest).loopCnt = c.loopCnt) := by
  have hl : fldN c.loopLen 0 10 = c.loopLen.toNat % 1024 := by simp [fldN, fld, BitVec.extractLsb'_toNat]
  have hin : ∀ a, Rules.inBody c a ↔ (decide ((c.loopEnd - BitVec.ofNat 64 (4 * fldN c.loopLen 0 10) + 4).toNat ≤ a.toNat)
      && decide (a.toNat ≤ c.loopEnd.toNat)) = true := fun a => by simp [Rules.inBody, hl]
  unfold jumpPc
  simp only [hin, bitAt, Bool.not_eq_true, Bool.not_eq_true']
  split <;> rename_i h
  · exact ⟨fun _ => rfl, fun hc => absurd h hc⟩
  · exact ⟨fun hc => absurd hc h, fun _ => rfl⟩

/-- The loop count after a transfer is that of R247. -/
theorem loopAfter_jumpPc (c : Ctx) (dest : Dword) : Rules.loopAfter c dest (jumpPc c c.pc dest).loopCnt := by
  obtain ⟨hends, hkeeps⟩ := jumpPc_loopCnt c dest
  constructor
  · intro h
    by_cases h0 : c.loopCnt = 0
    · rw [hkeeps (fun hc => hc.1 h0), h0]
    · exact hends ⟨h0, h⟩
  · exact fun h => hkeeps fun hc => h hc.2

/-- A link in g31 does not count for the loop rule. -/
theorem jumpPc_linkedCtx_loopCnt (c : Ctx) (link : Bool) (w dest : Dword) :
    (jumpPc (linkedCtx c link) w dest).loopCnt = (jumpPc c w dest).loopCnt := by
  have jumpPc_loopCnt_congr : ∀ c' : Ctx, c'.loopEnd = c.loopEnd → c'.loopLen = c.loopLen → c'.loopCnt = c.loopCnt →
      c'.st = c.st → (jumpPc c' w dest).loopCnt = (jumpPc c w dest).loopCnt := by
    intro c' h1 h2 h3 h4
    unfold jumpPc
    rw [h1, h2, h3, h4]
    dsimp only
    split
    · rfl
    · rfl
  cases link
  · rfl
  · exact jumpPc_loopCnt_congr (c.writeG 31 (c.pc + 4)) (by simp) (by simp) (by simp) (by simp)

/-- A transfer that nothing stops goes to its target, with the address of the next word in g31 when it links. -/
theorem issue_transfer {s : State} {u : Named} {rs : List Nat} {dest : Dword} (link : Bool)
    (body : State → Ctx → State × Done) (hb : body s (actor s) = (linked s link, .jump dest)) (h : Ready s rs)
    (hu : u.writes = linkRegs link) (hm : ∀ r ∈ u.reads ++ u.writes ++ u.tests ++ u.merges ++ u.names, r ∈ rs)
    (hc : u.ctl = none) (hn : u.noStream = none) :
    ∃ t, issue s u body = .next t ∧ (actor t).pc = dest
      ∧ (link = true → (actor t).readG 31 = (actor s).pc + 4)
      ∧ Rules.loopAfter (actor s) dest (actor t).loopCnt
      ∧ OnlyRegs s t (linkRegs link) := by
  obtain ⟨t, ht, -, ha, hw⟩ := issue_jump body hb (onlyCtx_linked s link) h
    (fun r m => hm r (by simp at m ⊢; tauto)) (classBad_ready h hc hm) (by simp [hn])
  rw [hu] at hw
  have hg : ∀ r, (actor t).readG r = (linkedCtx (actor s) link).readG r := fun r => by
    rw [ha]; exact readG_jumpPc ..
  refine ⟨t, ht, ?_, ?_, ?_, ?_⟩
  · rw [ha]; exact jumpPc_pc ..
  · rintro rfl
    rw [hg]
    exact readG_writeG_self _ _ (by decide)
  · rw [ha, show ∀ c : Ctx, (ended c).loopCnt = c.loopCnt from fun _ => rfl, jumpPc_linkedCtx_loopCnt]
    exact loopAfter_jumpPc ..
  · refine onlyRegs_intro (pcOf := fun y => jumpPc y (actor s).pc dest) ha hw (.inr ⟨dest, rfl⟩) ?_ ?_ ?_ ?_
    · intro r _ hr
      cases link
      · rfl
      · exact readG_writeG_other _ _ (by simpa using hr)
    · intro r _; cases link <;> simp [linkedCtx]
    · intro r _; cases link <;> simp [linkedCtx]
    · cases link <;> rfl

/-- The address of a context's hint, or its pc, is where it resumes (R53). -/
theorem resumeAddr_eq_again (c : Ctx) : resumeAddr c = Rules.again c := rfl

/-- An effect that traps takes its trap and nothing else. -/
theorem issue_trap {s : State} {u : Named} {rs : List Nat} {trap : TrapRec} (body : State → Ctx → State × Done)
    (hb : body s (actor s) = (s, .trap trap)) (h : Ready s rs)
    (hm : ∀ r ∈ u.reads ++ u.writes ++ u.tests ++ u.merges, r ∈ rs) (hc : classBad (actor s) u = none)
    (hn : u.noStream = none) : issue s u body = .next (takeTrap s s.me trap (Rules.again (actor s))) := by
  rw [issue_class body h hm hc (by simp [hn]), hb]
  rfl

theorem jumpTo_aligned (s : State) {t : Dword} (h : t.toNat % 4 = 0) : jumpTo s t = (s, .jump t) :=
  if_pos ((fldN_two_eq_zero_iff t).2 h)

theorem jumpTo_misaligned (s : State) {t : Dword} (h : t.toNat % 4 ≠ 0) : jumpTo s t = (s, .trap (simpleTrap 0x01 t)) :=
  if_neg (mt (fldN_two_eq_zero_iff t).1 h)

/-- A target counted in words is the model's jump target (R244). -/
theorem target_eq_jumpTarget (c : Ctx) (o : BitVec 26) : Rules.target c o.toInt = jumpTarget c o := by
  have hoff : sx o * 4 = BitVec.ofInt 64 (o.toInt * 4) := by
    rw [BitVec.ofInt_mul]; rfl
  rw [jumpTarget, hoff, Rules.target, BitVec.ofInt_add, BitVec.ofInt_natCast, BitVec.ofNat_toNat, BitVec.setWidth_eq]

/-! The five as issues of their effects -/

theorem exec_jmp (o : BitVec 26) (s : State) :
    exec (.jmp o) s = issue s {} (fun s c => (s, .jump (jumpTarget c o))) := rfl
theorem exec_call (o : BitVec 26) (s : State) :
    exec (.call o) s
      = issue s { writes := [31] } (fun s c => (setCtx s s.me (c.writeG 31 (c.pc + 4)), .jump (jumpTarget c o))) := rfl
theorem exec_jr (a : BitVec 5) (s : State) :
    exec (.jr a) s = issue s { reads := [gr a] } (fun s c => jumpTo s (c.readG a.toNat)) := rfl
theorem exec_callr (a : BitVec 5) (s : State) :
    exec (.callr a) s = issue s { reads := [gr a], writes := [31] } (fun s c =>
      let t := c.readG a.toNat
      if fldN t 0 2 = 0 then (setCtx s s.me (c.writeG 31 (c.pc + 4)), .jump t)
      else (s, .trap (simpleTrap 0x01 t))) := rfl
theorem exec_ret (s : State) : exec .ret s = issue s { reads := [31] } (fun s c => jumpTo s (c.readG 31)) := rfl

/-- Settles O3: issue_transfer for each of the five, and the trap of a misaligned register target. -/
theorem jumpsAndCallsTransfer : Obligations.JumpsAndCallsTransfer := by
  constructor
  · intro i rs link dest s hj hd hready
    cases i with
    | jmp o =>
      cases hj
      rw [exec_jmp]
      exact issue_transfer false _ (by rw [target_eq_jumpTarget]; rfl) hready rfl (by simp) rfl rfl
    | call o =>
      cases hj
      rw [exec_call]
      exact issue_transfer true _ (by rw [target_eq_jumpTarget]; rfl) hready rfl (by simp) rfl rfl
    | jr a =>
      cases hj
      rw [exec_jr]
      exact issue_transfer false _ (jumpTo_aligned s (hd.resolve_right (by simp))) hready rfl (by simp [gr]) rfl rfl
    | callr a =>
      cases hj
      rw [exec_callr]
      have ha := (fldN_two_eq_zero_iff _).2 (hd.resolve_right (by simp))
      exact issue_transfer true _ (if_pos ha) hready rfl (by simp [gr]) rfl rfl
    | ret =>
      cases hj
      rw [exec_ret]
      exact issue_transfer false _ (jumpTo_aligned s (hd.resolve_right (by simp))) hready rfl (by simp) rfl rfl
    | _ => exact nomatch hj
  · intro i rs link dest s hj hne hd hready
    cases i with
    | jmp o => cases hj; exact absurd rfl hne
    | call o => cases hj; exact absurd rfl hne
    | jr a =>
      cases hj
      rw [exec_jr]
      exact issue_trap _ (jumpTo_misaligned s hd) hready (by simp [gr]) (classBad_ready hready rfl (by simp [gr])) rfl
    | callr a =>
      cases hj
      rw [exec_callr]
      exact issue_trap _ (if_neg (mt (fldN_two_eq_zero_iff _).1 hd)) hready (by simp [gr])
        (classBad_ready hready rfl (by simp [gr])) rfl
    | ret =>
      cases hj
      rw [exec_ret]
      exact issue_trap _ (jumpTo_misaligned s hd) hready (by simp) (classBad_ready hready rfl (by simp)) rfl
    | _ => exact nomatch hj

end Sys2Proof.Machine
end

section
/-!
PROOFS. The system-only forms in user mode (R37): each tests the mode first in its effect, so issue_trap gives the trap.
-/

namespace Sys2Proof.Machine

/-- The privilege trap of the acting context (R37, R380). -/
abbrev privilegeTrapped (s : State) : State := takeTrap s s.me { code := 0x05, eaddr := 0 } (Rules.again (actor s))

/-- An effect that tests for system mode before anything else takes the privilege trap in user mode. -/
theorem issue_privilege {s : State} {u : Named} {rs : List Nat} (body : State → Ctx → State × Done)
    (hb : body s (actor s) = (s, .trap (simpleTrap 0x05 0))) (h : Ready s rs) (hr : stRoam (actor s).st = false)
    (hm : ∀ r ∈ u.reads ++ u.writes ++ u.tests ++ u.merges, r ∈ rs) (hn : u.noStream = none) :
    issue s u body = .next (privilegeTrapped s) :=
  issue_trap body hb h hm (classBad_seated u hr) hn

theorem cspWrite_user {s : State} (v : Dword) (hu : stSys (actor s).st = false) :
    cspWrite v s (actor s) = (s, .trap (simpleTrap 0x05 0)) :=
  if_pos (by simp [hu])

/-- CWR of any assigned register but fepol, csp.data among them. -/
theorem exec_cwr_user {s : State} {a : BitVec 5} {i : BitVec 12} (hi : i ≠ 1) (ha : ctlAssigned i.toNat = true)
    (h : Ready s [a.toNat]) (hr : stRoam (actor s).st = false) (hu : stSys (actor s).st = false) :
    exec (.cwr a i) s = .next (privilegeTrapped s) := by
  have run : exec (.cwr a i) s = execCwr a i s := rfl
  rw [run, execCwr]
  refine issue_privilege _ ?_ h hr (by simp [gr]) rfl
  dsimp only
  rw [if_neg (by simp [ha]), if_pos ⟨by simp [hu], hi⟩]

/-- INVAL with discard asks for system mode before it reads its address (R156). -/
theorem exec_inval_user {s : State} {d a : BitVec 5} {l u : BitVec 2} (h : Ready s [a.toNat, d.toNat])
    (hr : stRoam (actor s).st = false) (hu : stSys (actor s).st = false) :
    exec (.inval d a 1 l u) s = .next (privilegeTrapped s) := by
  have run : exec (.inval d a 1 l u) s = execInval d a 1 l u s := rfl
  rw [run, execInval]
  dsimp only
  rw [if_pos (by simp [hu])]
  exact issue_privilege _ rfl h hr (by simp [gr]) rfl

/-- Settles O24: the mode is the first thing that each form tests once nothing stops its issue. -/
theorem privilegedFormsTrap : Obligations.PrivilegedFormsTrap := by
  intro i rs s hi h hr hu
  have hmode : (!stSys (actor s).st) = true := by simp [hu]
  have hmode' : (!stSys (actor s).st || !stTrap (actor s).st) = true := by simp [hu]
  cases i with
  | eret =>
    cases hi
    show execEret s = _
    unfold execEret
    exact issue_privilege _ (if_pos hmode') h hr (by simp) rfl
  | snap d =>
    cases hi
    show execSnap d s = _
    unfold execSnap
    exact issue_privilege _ (if_pos hmode) h hr (by simp [gr]) rfl
  | gate =>
    cases hi
    show execGate s = _
    unfold execGate
    exact issue_privilege _ (if_pos hmode) h hr (by simp) rfl
  | cwr a i =>
    obtain ⟨⟨h1, ha⟩, e⟩ := Option.ite_none_right_eq_some.1 hi
    cases e
    exact exec_cwr_user h1 ha h hr hu
  | cspDataWrite a =>
    cases hi
    show execCspDataWrite a s = _
    unfold execCspDataWrite
    exact issue_privilege _ (cspWrite_user _ hu) h hr (by simp [gr]) rfl
  | ebudWrite a =>
    cases hi
    show execEbudWrite a s = _
    unfold execEbudWrite
    exact issue_privilege _ (if_pos hmode) h hr (by simp [gr]) rfl
  | tlbi d a b kind =>
    cases hi
    show execTlbi d a b kind s = _
    unfold execTlbi
    refine issue_privilege _ (if_pos hmode) h hr (fun r => ?_) rfl
    simp only [gr, List.mem_append, List.mem_cons, List.not_mem_nil, or_false]
    tauto
  | inval d a disc l u =>
    obtain ⟨rfl, e⟩ := Option.ite_none_right_eq_some.1 hi
    cases e
    exact exec_inval_user h hr hu
  | _ => exact nomatch hi

end Sys2Proof.Machine
end

section
/-!
PROOFS. NOP, the fences and the hints (R49, R53, R55, R129, R132).
-/

namespace Sys2Proof.Machine

/-- An effect that changes nothing and completes moves on to the next word (R247). -/
theorem issue_next {s : State} {u : Named} {rs : List Nat} (body : State → Ctx → State × Done)
    (hb : body s (actor s) = (s, .next)) (h : Ready s rs) (hm : ∀ r ∈ u.reads ++ u.writes ++ u.tests ++ u.merges, r ∈ rs)
    (hw : u.writes = []) (hc : classBad (actor s) u = none) (hn : u.noStream = none) :
    ∃ t, issue s u body = .next t ∧ FallsThrough s t ∧ OnlyRegs s t [] := by
  obtain ⟨t, ht, -, ha, ho⟩ := issue_own body hb (onlyCtx_self s) h hm hc (by simp [hn])
  rw [hw] at ho
  refine ⟨t, ht, ?_, ?_⟩
  · rw [FallsThrough, ha]
    exact ⟨nextPc_loopStep (actor s), rfl⟩
  · exact onlyRegs_intro (pcOf := fun y => nextPc y (actor s).pc) ha ho (.inl rfl) (fun _ _ _ => rfl) (fun _ _ => rfl)
      (fun _ _ => rfl) rfl

/-- A context that leaves its slot is no longer the one that its core runs. -/
theorem running_leaveSlot (s : State) (k : Nat) (a : Activity) : (getCore (leaveSlot s k a) (ctxCore k)).running ≠ some k := by
  unfold leaveSlot
  rw [getCore_modCore_self]
  split
  · exact fun h => nomatch h
  · rename_i h
    exact fun hr => h (beq_iff_eq.2 hr)

/-- A context that gives its slot away waits, and nothing else changes (R19, R21). -/
theorem waits_yieldSlot (s : State) : Rules.Waits s s (yieldSlot s s.me) where
  ctx := by
    show getCtx (yieldSlot s s.me) s.me = _
    simp only [yieldSlot, leaveSlot, getCtx_modCore, getCtx_modCtx_self]
    rfl
  slot := running_leaveSlot _ s.me _
  others k hk := by simp only [yieldSlot, leaveSlot, getCtx_modCore, getCtx_modCtx, if_neg hk]
  world := rfl

/-- An effect that holds gives the slot away. -/
theorem issue_hold {s : State} {u : Named} {rs : List Nat} (body : State → Ctx → State × Done)
    (hb : body s (actor s) = (s, .hold)) (h : Ready s rs) (hm : ∀ r ∈ u.reads ++ u.writes ++ u.tests ++ u.merges, r ∈ rs)
    (hc : classBad (actor s) u = none) (hn : u.noStream = none) :
    ∃ t, issue s u body = .next t ∧ Rules.Waits s s t := by
  refine ⟨yieldSlot s s.me, ?_, waits_yieldSlot s⟩
  rw [issue_class body h hm hc (by simp [hn]), hb]
  rfl

/-- A fence moves on once the accesses that it waits for are performed, and holds before (R132). -/
theorem issue_fence {s : State} (f : Flight → Bool) (body : State → Ctx → State × Done)
    (hb : body s (actor s) = if (pendingOf s s.me).any f then (s, .hold) else (s, .next)) (h : Ready s []) :
    ((pendingOf s s.me).any f = false → ∃ t, issue s {} body = .next t ∧ FallsThrough s t ∧ OnlyRegs s t [])
      ∧ ((pendingOf s s.me).any f = true → ∃ t, issue s {} body = .next t ∧ Rules.Waits s s t) := by
  have hc : classBad (actor s) {} = none := classBad_ready h rfl (by simp)
  constructor
  · intro hf
    exact issue_next body (by rw [hb, hf]; rfl) h (by simp) rfl hc rfl
  · intro hf
    exact issue_hold body (by rw [hb, hf]; rfl) h (by simp) hc rfl

/-- A hint is kept for the word after it, and the pair resumes at the hint (R49, R53). -/
theorem latchHint_spec (i : Instr) {s : State} (h : Ready s []) :
    ∃ t, latchHint i s = .next t ∧ actor t = { actor s with hint := some ((actor s).pc, i), pc := (actor s).pc + 4 }
      ∧ Rules.again (actor t) = (actor s).pc
      ∧ (∀ k, k ≠ s.me → getCtx t k = getCtx s k) ∧ { t with ctxs := s.ctxs } = s := by
  have ho := onlyCtx_set s { actor s with hint := some ((actor s).pc, i), pc := (actor s).pc + 4 }
  refine ⟨setCtx s s.me { actor s with hint := some ((actor s).pc, i), pc := (actor s).pc + 4 }, ?_, ho.own, ?_,
    ho.others, ho.world⟩
  · unfold latchHint
    rw [issue_ready _ h (by simp) rfl (by simp)]
    rfl
  · rw [show actor (setCtx s s.me _) = _ from ho.own]
    rfl

/-- Settles O27: NOP and the fences run through issue_fence, the hints through latchHint_spec. -/
theorem fencesNopAndHints : Obligations.FencesNopAndHints := by
  constructor
  · intro i f s hi h
    cases i with
    | nop =>
      cases hi
      show (_ → ∃ t, execNop s = _ ∧ _) ∧ (_ → ∃ t, execNop s = _ ∧ _)
      unfold execNop
      exact issue_fence _ _ (if_neg (by simp)).symm h
    | fence o =>
      cases hi
      show (_ → ∃ t, fenceOf 0 s = _ ∧ _) ∧ (_ → ∃ t, fenceOf 0 s = _ ∧ _)
      exact issue_fence _ _ rfl h
    | fenceAcq o =>
      cases hi
      show (_ → ∃ t, fenceOf 1 s = _ ∧ _) ∧ (_ → ∃ t, fenceOf 1 s = _ ∧ _)
      exact issue_fence _ _ rfl h
    | fenceRel o =>
      cases hi
      show (_ → ∃ t, fenceOf 2 s = _ ∧ _) ∧ (_ → ∃ t, fenceOf 2 s = _ ∧ _)
      exact issue_fence _ _ rfl h
    | _ => exact nomatch hi
  · intro i s hi h
    cases i with
    | hImm p => exact latchHint_spec _ h
    | hSched l o => exact latchHint_spec _ h
    | hMod r n => exact latchHint_spec _ h
    | _ => exact nomatch hi

end Sys2Proof.Machine
end

section
/-!
PROOFS. The issue test of R42 for INTR: what lowest finds, what the test then decides, and what issue does with it.
-/

namespace Sys2Proof.Machine

/-- A register of the list that meets the test and is not above any other that does. -/
def LeastOf (l : List Nat) (p : Nat → Prop) (r : Nat) : Prop := r ∈ l ∧ p r ∧ ∀ x ∈ l, p x → r ≤ x

/-- The lower of the least so far and the next, as lowest folds it. -/
def lower (a : Option Nat) (r : Nat) : Option Nat :=
  match a with
  | none => some r
  | some b => some (min b r)

theorem lowest_eq_foldl (l : List Nat) (f : Nat → Bool) : lowest l f = (l.filter f).foldl lower none := rfl

theorem foldl_lower_eq_some {r : Nat} : ∀ (l : List Nat) (acc : Option Nat), r ∈ acc.toList ++ l →
    (∀ x ∈ acc.toList ++ l, r ≤ x) → l.foldl lower acc = some r := by
  intro l
  induction l with
  | nil =>
    intro acc hr _
    simpa using hr
  | cons y l ih =>
    intro acc hr hle
    rw [List.foldl_cons]
    cases acc with
    | none => exact ih (some y) hr hle
    | some b =>
      have hb : r ≤ b := hle b (by simp)
      have hy : r ≤ y := hle y (by simp)
      refine ih (some (min b y)) ?_ ?_
      · simp only [Option.toList_some, List.cons_append, List.nil_append, List.mem_cons] at hr ⊢
        rcases hr with rfl | rfl | hr
        · exact .inl (Nat.min_eq_left hy).symm
        · exact .inl (Nat.min_eq_right hb).symm
        · exact .inr hr
      · simp only [Option.toList_some, List.cons_append, List.nil_append, List.forall_mem_cons] at hle ⊢
        exact ⟨Nat.le_min.2 ⟨hb, hy⟩, hle.2.2⟩

/-- What lowest finds. -/
theorem lowest_eq_some {l : List Nat} {f : Nat → Bool} {r : Nat} (h : LeastOf l (fun x => f x = true) r) :
    lowest l f = some r := by
  obtain ⟨hr, hf, hle⟩ := h
  rw [lowest_eq_foldl]
  refine foldl_lower_eq_some _ _ (List.mem_filter.2 ⟨hr, hf⟩) fun x hx => ?_
  obtain ⟨hx, hfx⟩ := List.mem_filter.1 hx
  exact hle x hx hfx

theorem exists_leastOf {l : List Nat} {p : Nat → Prop} (h : ∃ x ∈ l, p x) : ∃ r, LeastOf l p r := by
  classical
  obtain ⟨hr, hp⟩ := Nat.find_spec h
  exact ⟨Nat.find h, hr, hp, fun x hx hpx => Nat.find_min' h ⟨hx, hpx⟩⟩

/-- No record stands in an empty register. -/
theorem lowest_record_none {c : Ctx} {rs : List Nat}
    (h : ∀ x ∈ rs, c.isEmpty x = true → tfind c.errs x = none) :
    lowest rs (fun r => c.isEmpty r && (tfind c.errs r).isSome) = none := by
  refine lowest_none fun x hx => ?_
  cases hempty : c.isEmpty x
  · rfl
  · rw [h x hx hempty]; rfl

/-! ### The three outcomes of the test (R42) -/

section IssueTest

variable {c : Ctx} {rs : List Nat} (hrs : ∀ r ∈ rs, r < 64)
include hrs

theorem filter_registers : rs.filter (fun r => decide (r < 64)) = rs :=
  List.filter_eq_self.2 fun r hr => decide_eq_true (hrs r hr)

theorem issueTest_record {r : Nat} {e : TrapRec}
    (h : LeastOf rs (fun x => c.isEmpty x = true ∧ (tfind c.errs x).isSome = true) r) (he : tfind c.errs r = some e) :
    issueTest c rs = .trap e := by
  obtain ⟨low, hlow⟩ := exists_leastOf (p := fun x => c.isEmpty x = true) ⟨r, h.1, h.2.1.1⟩
  have hrec : lowest rs (fun r => c.isEmpty r && (tfind c.errs r).isSome) = some r :=
    lowest_eq_some (by simpa only [Bool.and_eq_true] using h)
  unfold issueTest
  simp only [filter_registers hrs, lowest_eq_some hlow, hrec, he, Option.getD_some]

theorem issueTest_trapBit {r : Nat} (hrec : ∀ x ∈ rs, c.isEmpty x = true → tfind c.errs x = none)
    (h : LeastOf rs (fun x => c.isEmpty x = true ∧ c.fepol.getLsbD x = true) r) :
    issueTest c rs = .trap (simpleTrap 0x06 (BitVec.ofNat 64 r)) := by
  obtain ⟨low, hlow⟩ := exists_leastOf (p := fun x => c.isEmpty x = true) ⟨r, h.1, h.2.1.1⟩
  have hbit : lowest rs (fun r => c.isEmpty r && c.fepol.getLsbD r) = some r :=
    lowest_eq_some (by simpa only [Bool.and_eq_true] using h)
  unfold issueTest
  simp only [filter_registers hrs, lowest_eq_some hlow, lowest_record_none hrec, hbit]

theorem issueTest_park {r : Nat} (hrec : ∀ x ∈ rs, c.isEmpty x = true → tfind c.errs x = none ∧ c.fepol.getLsbD x = false)
    (h : LeastOf rs (fun x => c.isEmpty x = true) r) : issueTest c rs = .park r := by
  have hbit : lowest rs (fun r => c.isEmpty r && c.fepol.getLsbD r) = none := by
    refine lowest_none fun x hx => ?_
    cases hempty : c.isEmpty x
    · rfl
    · rw [(hrec x hx hempty).2]; rfl
  unfold issueTest
  simp only [filter_registers hrs, lowest_eq_some h, lowest_record_none (fun x hx he => (hrec x hx he).1), hbit]

end IssueTest

/-! ### What issue does with the outcome -/

/-- No g register is a stream register (R199). -/
theorem streamConflict_scalar {s : State} {k : Nat} {u : Named} (h : ∀ r ∈ u.reads ++ u.writes, r < 32)
    (hn : u.noStream = none) : streamConflict s k u = none := by
  have hpart : ∀ (l : List Nat) (f : Nat → Bool), (∀ r ∈ l, r < 32) → lowest l (fun r => decide (32 ≤ r) && f r) = none :=
    fun l f hl => lowest_none fun r hr => by simp [Nat.not_le.2 (hl r hr)]
  unfold streamConflict
  simp only [hn, Bool.and_assoc]
  rw [hpart _ _ fun r hr => h r (by simp [hr]), hpart _ _ fun r hr => h r (by simp [hr])]
  rfl

theorem issue_testTrap {s : State} {u : Named} {trap : TrapRec} (body : State → Ctx → State × Done)
    (hc : classBad (actor s) u = none) (hs : streamConflict s s.me u = none)
    (ht : issueTest (actor s) (u.reads ++ u.writes ++ u.tests) = .trap trap) :
    issue s u body = .next (takeTrap s s.me trap (Rules.again (actor s))) := by
  unfold issue
  simp only [hc, hs, ht]
  rfl

theorem issue_testPark {s : State} {u : Named} {r : Nat} (body : State → Ctx → State × Done)
    (hc : classBad (actor s) u = none) (hs : streamConflict s s.me u = none)
    (ht : issueTest (actor s) (u.reads ++ u.writes ++ u.tests) = .park r) :
    issue s u body = .next (parkAt s s.me (.register r)) := by
  unfold issue
  simp only [hc, hs, ht]

theorem issue_classTrap {s : State} {u : Named} {r : Nat} (body : State → Ctx → State × Done)
    (hc : classBad (actor s) u = some r) :
    issue s u body
      = .next (takeTrap s s.me { code := 0x03, eaddr := BitVec.ofNat 64 r } (Rules.again (actor s))) := by
  unfold issue
  simp only [hc]
  rfl

/-- A parked context waits for its register at its word, or at the hint before it, and nothing else changes. -/
theorem parkAt_spec (s : State) (w : Wait) :
    actor (parkAt s s.me w) = { actor s with pc := Rules.again (actor s), hint := none, act := .waiting w }
      ∧ (∀ k, k ≠ s.me → getCtx (parkAt s s.me w) k = getCtx s k)
      ∧ (getCore (parkAt s s.me w) (ctxCore s.me)).running ≠ some s.me
      ∧ { parkAt s s.me w with ctxs := s.ctxs, cores := s.cores } = s := by
  refine ⟨?_, fun k hk => ?_, running_leaveSlot _ s.me _, rfl⟩
  · show getCtx (parkAt s s.me w) s.me = _
    simp only [parkAt, leaveSlot, getCtx_modCore, getCtx_modCtx_self]
    rfl
  · simp only [parkAt, leaveSlot, getCtx_modCore, getCtx_modCtx, if_neg hk]

/-! ### INTR -/

/-- What an instruction of INTR on two registers names. -/
def intrNamed (d a b : BitVec 5) : Named := { reads := [gr a, gr b], writes := [gr d] }

/-- A row of the table of INTR whose meaning is aluRR of its registers. -/
theorem intr_row {m : State → Host.Outcome State Fault Refusal} {d a b d' a' b' : BitVec 5} {f f' g : Dword → Dword → Dword}
    (h : some (d', a', b', f') = some (d, a, b, f)) (hm : m = aluRR d' a' b' g) : ∃ g, m = aluRR d a b g := by
  cases h
  exact ⟨g, hm⟩

/-- An instruction of INTR on two registers runs as aluRR does. -/
theorem exec_intr {i : Instr} {d a b : BitVec 5} {f : Dword → Dword → Dword}
    (h : Rules.intr i = some (d, a, b, f)) : ∃ g, exec i = aluRR d a b g := by
  cases i with
  | add d a b w => exact intr_row h (funext fun s => (rfl : execAdd d a b w s = _))
  | sub d a b w => exact intr_row h (funext fun s => (rfl : execSub d a b w s = _))
  | and d a b => exact intr_row h (funext fun s => (rfl : execAnd d a b s = _))
  | or d a b => exact intr_row h (funext fun s => (rfl : execOr d a b s = _))
  | xor d a b => exact intr_row h (funext fun s => (rfl : execXor d a b s = _))
  | andn d a b => exact intr_row h (funext fun s => (rfl : execAndn d a b s = _))
  | shl d a b w => exact intr_row h (funext fun s => (rfl : execShl d a b w s = _))
  | shr d a b w => exact intr_row h (funext fun s => (rfl : execShr d a b w s = _))
  | sar d a b w => exact intr_row h (funext fun s => (rfl : execSar d a b w s = _))
  | slt d a b => exact intr_row h (funext fun s => (rfl : execSlt d a b s = _))
  | sltn d a b => exact intr_row h (funext fun s => (rfl : execSltn d a b s = _))
  | min d a b => exact intr_row h (funext fun s => (rfl : execMin d a b s = _))
  | max d a b => exact intr_row h (funext fun s => (rfl : execMax d a b s = _))
  | minn d a b => exact intr_row h (funext fun s => (rfl : execMinn d a b s = _))
  | maxn d a b => exact intr_row h (funext fun s => (rfl : execMaxn d a b s = _))
  | mul d a b w => exact intr_row h (funext fun s => (rfl : execMul d a b w s = _))
  | mulh d a b => exact intr_row h (funext fun s => (rfl : execMulh d a b s = _))
  | mulhn d a b => exact intr_row h (funext fun s => (rfl : execMulhn d a b s = _))
  | div d a b w => exact intr_row h (funext fun s => (rfl : execDiv d a b w s = _))
  | divn d a b w => exact intr_row h (funext fun s => (rfl : execDivn d a b w s = _))
  | rem d a b w => exact intr_row h (funext fun s => (rfl : execRem d a b w s = _))
  | remn d a b w => exact intr_row h (funext fun s => (rfl : execRemn d a b w s = _))
  | _ => exact nomatch h

theorem aluRR_eq_issue (d a b : BitVec 5) (g : Dword → Dword → Dword) (s : State) :
    aluRR d a b g s
      = issue s (intrNamed d a b) (pureBody (fun c => c.writeG d.toNat (g (c.readG a.toNat) (c.readG b.toNat)))) := rfl

theorem intr_registers (d a b : BitVec 5) : ∀ r ∈ [a.toNat, b.toNat, d.toNat], r < 32 := by
  simp only [List.forall_mem_cons]
  exact ⟨a.isLt, b.isLt, d.isLt, by simp⟩

/-- A roaming context may name g0 to g6 (R35). -/
theorem classBad_intr {c : Ctx} {d a b : BitVec 5}
    (h : stRoam c.st = true → d.toNat ≤ 6 ∧ a.toNat ≤ 6 ∧ b.toNat ≤ 6) : classBad c (intrNamed d a b) = none := by
  by_cases hr : stRoam c.st = true
  · obtain ⟨hd, ha, hb⟩ := h hr
    unfold classBad
    rw [hr]
    exact find?_none_of (by simp [intrNamed, gr, hd, ha, hb])
  · exact classBad_seated _ (by simpa using hr)

/-- A register above g6 is found by the class test of a roaming context (R35). -/
theorem classBad_intr_roaming {c : Ctx} {d a b : BitVec 5} (hr : stRoam c.st = true)
    (h : ¬ (d.toNat ≤ 6 ∧ a.toNat ≤ 6 ∧ b.toNat ≤ 6)) :
    ∃ r, r ∈ [a.toNat, b.toNat, d.toNat] ∧ 6 < r ∧ classBad c (intrNamed d a b) = some r := by
  have hfind : classBad c (intrNamed d a b) = [a.toNat, b.toNat, d.toNat].find? (fun r => decide (6 < r)) := by
    unfold classBad
    rw [hr]
    rfl
  cases hfound : [a.toNat, b.toNat, d.toNat].find? (fun r => decide (6 < r)) with
  | none =>
    have hall := List.find?_eq_none.1 hfound
    simp at hall
    omega
  | some r =>
    exact ⟨r, List.mem_of_find?_eq_some hfound, by simpa using List.find?_some hfound, hfind.trans hfound⟩

/-- Settles O20: the outcome of the test of R42, or of the class test of R35 before it, decides what issue does. -/
theorem emptyRegisterStopsTheIssue : Obligations.EmptyRegisterStopsTheIssue := by
  constructor
  · intro i d a b f s hi hroam
    obtain ⟨g, hexec⟩ := exec_intr hi
    have hc := classBad_intr hroam
    have hs : streamConflict s s.me (intrNamed d a b) = none := streamConflict_scalar (intr_registers d a b) rfl
    have hrs : ∀ r ∈ [a.toNat, b.toNat, d.toNat], r < 64 := fun r hr => by have := intr_registers d a b r hr; omega
    rw [hexec, aluRR_eq_issue]
    refine ⟨fun r e hleast he => ?_, fun r hrec hleast => ?_, fun r hrec hleast => ?_⟩
    · exact issue_testTrap _ hc hs (issueTest_record hrs hleast he)
    · exact issue_testTrap _ hc hs (issueTest_trapBit hrs hrec hleast)
    · exact ⟨_, issue_testPark _ hc hs (issueTest_park hrs hrec hleast), parkAt_spec s _⟩
  · intro i d a b f s hi hr hregs
    obtain ⟨g, hexec⟩ := exec_intr hi
    obtain ⟨r, hmem, hlarge, hbad⟩ := classBad_intr_roaming hr hregs
    rw [hexec, aluRR_eq_issue]
    exact ⟨r, hmem, hlarge, issue_classTrap _ hbad⟩

end Sys2Proof.Machine
end

section
/-!
PROOFS. CRD (R36, R250): the table of control registers agrees with ctlReg, and the value that it gives goes to g[d].
-/

namespace Sys2Proof.Machine

/-! ### The table of control registers and ctlReg -/

/-- A field above a value that it leaves room for: the two add up. -/
theorem at64_or_ofNat {a b n : Nat} (h : b < 2 ^ n) : at64 a n ||| BitVec.ofNat 64 b = BitVec.ofNat 64 (a * 2 ^ n + b) := by
  rw [at64, ← BitVec.ofNat_or, Nat.mul_comm, Nat.two_pow_add_eq_or_of_lt h]

theorem at64_at_zero (b : Nat) : at64 b 0 = BitVec.ofNat 64 b := by rw [at64, pow_zero, Nat.mul_one]

/-- The count of errors of a core lies as R370 gives. -/
theorem coreErrors_layout (ce ue : Nat) (off sp : Bool) :
    at64 (ce % 2 ^ 32) 32 ||| at64 (min ue 65535) 16 ||| bit64 off 1 ||| bit64 sp 0
      = BitVec.ofNat 64 (ce % 2 ^ 32 * 2 ^ 32 + min ue 65535 * 2 ^ 16 + (if off then 2 else 0) + (if sp then 1 else 0)) := by
  have hflags : bit64 off 1 ||| bit64 sp 0 = BitVec.ofNat 64 ((if off then 2 else 0) + (if sp then 1 else 0)) := by
    cases off <;> cases sp <;> rfl
  have hlow : (if off then 2 else 0) + (if sp then 1 else 0) < 2 ^ 16 := by
    cases off <;> cases sp <;> decide
  rw [BitVec.or_assoc, BitVec.or_assoc, hflags, at64_or_ofNat hlow, at64_or_ofNat (by omega)]
  simp only [Nat.add_assoc]

/-- The registers that a snapshot latched (R400). -/
theorem ctlReg_latched (s : State) (k : Nat) {i : Nat} (h1 : 0x810 ≤ i) (h2 : i ≤ 0x84F) :
    ctlReg s k i = some (tget 0 (getCore s (ctxCore k)).snapRegs i) := by
  simp (disch := omega) only [ctlReg, if_neg, if_pos]

/-- Every entry of the table is what ctlReg reads. -/
theorem ctlReg_eq_of_mem_controls {s : State} {i : Nat} {x : Dword} (h : (i, x) ∈ Rules.controls s) :
    ctlReg s s.me i = some x := by
  have rows : ∀ e ∈ Rules.controls s, ctlReg s s.me e.1 = some e.2 := by
    simp only [Rules.controls, List.forall_mem_append, List.forall_mem_cons]
    refine ⟨⟨⟨⟨rfl, rfl, rfl, rfl, rfl, rfl, rfl, rfl, rfl, rfl, rfl, rfl, rfl, rfl, rfl, rfl, rfl, rfl, rfl, rfl, by simp⟩,
      ⟨rfl, rfl, rfl, rfl, rfl, rfl, rfl, rfl, rfl, rfl, rfl, rfl, rfl, rfl, rfl, rfl, rfl, rfl, rfl, rfl, rfl, rfl, by simp⟩⟩,
      ⟨rfl, ?ebud, ?eused, ?gate, ?errors, rfl, rfl, rfl, rfl, ?held, by simp⟩⟩, ?latched⟩
    case ebud =>
      show some (match getLaunch s (launchKey (actor s)) with | some l => l.ebud | none => 0) = _
      rw [launchKey]
      cases getLaunch s ((actor s).launch.getD 0) <;> rfl
    case eused =>
      show some (match getLaunch s (launchKey (actor s)) with | some l => BitVec.ofNat 64 (l.reported / 1024) | none => 0) = _
      rw [launchKey]
      cases getLaunch s ((actor s).launch.getD 0) <;> rfl
    case gate =>
      refine congrArg some ?_
      rw [at64_at_zero, at64_or_ofNat (by omega)]
      rfl
    case errors => exact congrArg some (coreErrors_layout ..)
    case held =>
      show some (bit64 (getCore s (s.me / 256)).held 0) = _
      cases (getCore s (s.me / 256)).held <;> rfl
    case latched =>
      intro e he
      obtain ⟨j, hj, rfl⟩ := List.mem_map.1 he
      exact ctlReg_latched s s.me (by omega) (by have := List.mem_range.1 hj; omega)
  exact rows (i, x) h

/-- An index that the table does not list, other than that of csp.data, is unassigned. -/
theorem ctlReg_eq_none {s : State} {i : Nat} (h : ∀ e ∈ Rules.controls s, e.1 ≠ i) : ctlReg s s.me i = none := by
  simp only [Rules.controls, List.forall_mem_append, List.forall_mem_cons] at h
  obtain ⟨⟨⟨own, shared⟩, named⟩, latched⟩ := h
  have hlatched : ¬ (0x810 ≤ i ∧ i ≤ 0x84F) := fun hi =>
    latched _ (List.mem_map_of_mem (List.mem_range.2 (by omega : i - 0x810 < 64))) (by dsimp only; omega)
  simp (disch := omega) only [ctlReg, if_neg]

/-! ### CRD -/

/-- What CRD d, i names: a read of fmap does not test g[d] (R39). -/
def crdNamed (d : BitVec 5) (i : BitVec 12) : Named :=
  { writes := if i = 2 then [] else [gr d], ctl := some i.toNat, loops := loopOf i.toNat }

/-- The effect of CRD d, i, for any register but csp.data. -/
def crdEffect (s : State) (d : BitVec 5) (i : BitVec 12) : State × Done :=
  match ctlReg s s.me i.toNat with
  | none => (s, .trap (simpleTrap 0x04 (zx i)))
  | some v => (freshRegs (setCtx s s.me ((actor s).writeG d.toNat v)) s.me (fun r => r == d.toNat), .next)

theorem crdNamed_writes (d : BitVec 5) (i : BitVec 12) : ∀ r ∈ (crdNamed d i).writes, r = d.toNat := by
  unfold crdNamed
  split <;> simp [gr]

/-- CRD of a register other than csp.data, when nothing stops it, runs its effect. -/
theorem exec_crd {s : State} {d : BitVec 5} {i : BitVec 12} (h : Ready s [d.toNat]) (hr : stRoam (actor s).st = false)
    (hi : i ≠ 0x231) : exec (.crd d i) s = .next (finish s (crdNamed d i) (crdEffect s d i)) := by
  show execCrd d i s = _
  unfold execCrd
  show issue s (crdNamed d i) _ = _
  rw [issue_seated _ h hr (fun r hm => ?_) (by simp [crdNamed]), if_neg hi]
  · rfl
  · exact List.mem_singleton.2 (crdNamed_writes d i r (by simpa [crdNamed] using hm))

/-- The codes of g[d] made new beside a write of some of g[d] is what a write of g[d] leaves. -/
theorem OnlyActor.of_freshRegs {s t : State} {r : Nat} {ws : List Nat} (hw : ∀ x ∈ ws, x = r)
    (h : OnlyActor (freshRegs s s.me (fun x => x == r)) t ws) : OnlyActor s t [r] where
  ctxs := h.ctxs
  codes e := by
    have hmem : e ∈ (freshRegs s s.me (fun x => x == r)).badReg ↔ e ∈ s.badReg ∧ ¬ (e.1 = s.me ∧ e.2 = r) := by
      simp [freshRegs]
      tauto
    rw [h.codes, hmem, freshRegs_me, List.mem_singleton]
    have := hw e.2
    tauto
  rinds := h.rinds
  launches := h.launches
  bytes := h.bytes
  world := congrArg (fun z : State => { z with badReg := s.badReg }) h.world

/-- A write of g[d] alone at the end of an instruction without a transfer. -/
theorem writesG_of_actor {s t : State} {d : BitVec 5} {x : Dword}
    (ha : actor t = ended (nextPc ((actor s).writeG d.toNat x) (actor s).pc)) (ho : OnlyActor s t [d.toNat]) :
    (actor t).readG d.toNat = (if d = 0 then 0 else x) ∧ FallsThrough s t ∧ OnlyRegs s t [d.toNat] := by
  refine ⟨?_, ?_, ?_⟩
  · have hread : (actor t).readG d.toNat = ((actor s).writeG d.toNat x).readG d.toNat := by
      rw [ha]; exact readG_nextPc ..
    rw [hread, readG_writeG]
    by_cases hd : d = 0
    · simp [hd]
    · rw [if_neg hd, if_pos ⟨rfl, fun e => hd (BitVec.eq_of_toNat_eq (by simpa using e))⟩]
  · obtain ⟨hpc, hcnt⟩ := nextPc_congr (c := actor s) (c' := (actor s).writeG d.toNat x) (actor s).pc (by simp) (by simp)
      (by simp) (by simp)
    have hstep := nextPc_loopStep (actor s)
    rw [← hpc, ← hcnt] at hstep
    rw [FallsThrough, ha]
    exact ⟨hstep, rfl⟩
  · refine onlyRegs_intro (pcOf := fun y => nextPc y (actor s).pc) ha ho (.inl rfl) (fun r _ hr => ?_) (fun r _ => ?_)
      (fun r _ => ?_) ?_
    · exact readG_writeG_other _ _ (by simpa using hr)
    · simp
    · simp
    · unfold Ctx.writeG
      split <;> rfl

/-- Settles O25: the table gives the value that CRD writes, and an index off the table none. -/
theorem controlRegisterRead : Obligations.ControlRegisterRead := by
  constructor
  · intro d i x s hx h hr
    have hi : i ≠ 0x231 := fun e => (ctlAssigned_of_mem_controls hx).2 (by rw [e]; rfl)
    have heffect : crdEffect s d i
        = (freshRegs (setCtx s s.me ((actor s).writeG d.toNat x)) s.me (fun r => r == d.toNat), .next) := by
      rw [crdEffect, ctlReg_eq_of_mem_controls hx]
    obtain ⟨-, ha, ho⟩ := retire_spec (u := crdNamed d i) (fun y => nextPc y (actor s).pc)
      (onlyCtx_set (freshRegs s s.me (fun r => r == d.toNat)) ((actor s).writeG d.toNat x))
      (fun r hm => h.plain r (List.mem_singleton.2 (crdNamed_writes d i r (by simpa [crdNamed] using hm))))
    refine ⟨_, ?_, writesG_of_actor ha (.of_freshRegs (crdNamed_writes d i) ho)⟩
    rw [exec_crd h hr hi, heffect]
    rfl
  · intro d i s hx hi h hr
    have heffect : crdEffect s d i = (s, .trap (simpleTrap 0x04 (zx i))) := by
      rw [crdEffect, ctlReg_eq_none hx]
    rw [exec_crd h hr hi, heffect]
    rfl

end Sys2Proof.Machine
end

section
/-!
PROOFS. The turn of a core (R53, R57, R61, R382, R386): which of its branches a step takes, and what each runs.
-/

namespace Sys2Proof.Machine

/-- A step is what its agent does, with the passing of time after it. -/
theorem step_eq_passes (s : State) : step s = Rules.passes s (agentTurn s) := rfl

/-! ### A pre-emption that is due (R386) -/

theorem ctxClass_eq_rank (c : Ctx) : ctxClass c = Rules.rank c := by
  have hpcls : stPcls c.st = c.st.toNat / 2 ^ 5 % 8 := by
    simp [stPcls, fldN, fld, BitVec.extractLsb'_toNat, Nat.shiftRight_eq_div_pow]
  rw [ctxClass, Rules.rank, hpcls]
  rfl

/-- A runnable record of a lower class waits at the core of k. -/
theorem lowerClass_waits_iff (s : State) (cn k : Nat) :
    (runnableOf s cn).any (fun e => decide (ctxClass e.2 < ctxClass (getCtx s k))) = true
      ↔ ¬ ∀ e, Rules.waits s cn e → Rules.rank (getCtx s k) ≤ Rules.rank e.2 := by
  simp only [List.any_eq_true, runnableOf, List.mem_filter, Bool.and_eq_true, beq_iff_eq, decide_eq_true_eq,
    ctxClass_eq_rank, Rules.waits, ctxCore, not_forall, not_le, exists_prop]

/-- For a running context, a pre-emption is due when nothing keeps its slot. -/
theorem preemptDue_iff {s : State} {cn k : Nat} (hact : (getCtx s k).act = .running) :
    preemptDue s cn k = true ↔ ¬ Rules.keepsSlot s cn k := by
  have hquant : (getCore s cn).quant.toNat = 0 ↔ (getCore s cn).quant = 0 := by
    rw [← BitVec.toNat_inj]; rfl
  unfold preemptDue Rules.keepsSlot
  dsimp only
  simp only [Bool.and_eq_true, Bool.or_eq_true, lowerClass_waits_iff, hact, Bool.not_eq_true', Option.isNone_iff_eq_none,
    bne_iff_ne, decide_eq_true_eq, beq_self_eq_true, ne_eq, hquant]
  rw [not_or, not_or, not_or, not_and_or, not_or, not_not, Bool.not_eq_true, Bool.not_eq_false, not_lt]
  tauto

/-! ### A word that is no instruction (R61) -/

/-- A word's instruction is no event: it has an encoding. -/
theorem isEvent_of_decodeWord {w : Word} {i : Instr} (h : decodeWord w = .ok i) : isEvent i = false := by
  obtain ⟨-, henc⟩ := (Encoding.decodeWord_eq_ok_iff w i).1 h
  rw [encode, Option.map_eq_some_iff] at henc
  obtain ⟨n, hn, -⟩ := henc
  unfold isEvent
  rw [hn]
  exact Bool.false_and _

theorem decodeWord_nop : decodeWord 0xDC000000 = .ok .nop :=
  (Encoding.decodeWord_eq_ok_iff _ _).2 ⟨rfl, rfl⟩

/-- What a stray word does is what some instruction word of the context's own does. -/
theorem strayWord_runs (s : State) :
    ∃ w i, decodeWord w = .ok i ∧ isEvent i = false ∧ loopLength i = none ∧ strayWord s = exec i s := by
  have hnop : ∀ o, o = execNop s →
      ∃ w i, decodeWord w = .ok i ∧ isEvent i = false ∧ loopLength i = none ∧ o = exec i s := by
    rintro _ rfl
    exact ⟨_, _, decodeWord_nop, rfl, rfl, rfl⟩
  cases hw : decodeWord (fld (Config.freeVec 46 s.tick) 0 32) with
  | error e =>
    unfold strayWord
    rw [hw]
    exact hnop _ rfl
  | ok i =>
    have hevent := isEvent_of_decodeWord hw
    unfold strayWord
    rw [hw]
    dsimp only
    by_cases hloop : (loopLength i).isSome = true
    · rw [if_pos hloop]
      exact hnop _ rfl
    · rw [if_neg hloop]
      rw [Option.not_isSome_iff_eq_none] at hloop
      cases i with
      | hImm p => exact hnop _ rfl
      | hSched l o => exact hnop _ rfl
      | hMod r n => exact hnop _ rfl
      | _ => exact ⟨_, _, hw, hevent, hloop, rfl⟩

/-! ### The branches of a core's turn -/

section CoreTurn

variable {s : State} {cn k : Nat} (hturn : s.turn = .issue cn) (hoff : (getCore s cn).off = false)
  (hrun : (getCore s cn).running = some k) (hact : (getCtx s k).act = .running)
include hturn hoff hrun hact

/-- A refusal that is due is taken as its trap at the instruction boundary (R382). -/
theorem step_deferredTrap (hhint : (getCtx s k).hint = none) (hdue : deferredReady s k = true) :
    step s = Rules.passes s (exec (.deferredTrap cn) s) := by
  have hexec : exec (.deferredTrap cn) s = .next (takeDeferred s k) := by
    show execDeferredTrap cn s = _
    unfold execDeferredTrap
    simp only [hrun, hact, hhint, hdue, Option.isNone_none, and_self, if_true]
  rw [step_eq_passes, hexec, agentTurn, hturn]
  unfold coreTurn
  simp only [hoff, hrun, hact, hhint, hdue, Option.isNone_none, Bool.and_self, Bool.false_eq_true, if_false, if_true, ne_eq,
    not_true_eq_false]

/-- A pre-emption that is due comes next (R386). -/
theorem step_preemption (hdue : deferredReady s k = false) (hkeeps : ¬ Rules.keepsSlot s cn k) :
    step s = Rules.passes s (exec (.preemption cn) s) := by
  have hpre := (preemptDue_iff hact).2 hkeeps
  have hexec : exec (.preemption cn) s = .next (yieldCtx s k) := by
    show execPreemption cn s = _
    unfold execPreemption
    simp only [hrun, hpre, if_true]
  rw [step_eq_passes, hexec, agentTurn, hturn]
  unfold coreTurn
  simp only [hoff, hrun, hact, hdue, hpre, Bool.and_false, Bool.false_eq_true, if_false, if_true, ne_eq, not_true_eq_false]

/-- With neither due, the core fetches: what it then does, by what the fetch gives. -/
theorem step_fetch (hdue : (getCtx s k).hint ≠ none ∨ deferredReady s k = false) (hkeeps : Rules.keepsSlot s cn k) :
    (∀ s' w i, fetchWord { s with me := k } k = (s', .ok w) → decodeWord w = .ok i → step s = Rules.passes s (exec i s'))
    ∧ (∀ s' w e, fetchWord { s with me := k } k = (s', .ok w) → decodeWord w = .error e →
        step s = Rules.passes s (strayWord s'))
    ∧ ∀ s' code ea, fetchWord { s with me := k } k = (s', .error (.fault code ea)) →
        step s = Rules.passes s (.next (takeTrap s' k
          { code := code, acc := if causeHasAcc code then accCode .fetch else 0, eaddr := ea } (Rules.again (getCtx s k)))) := by
  have hpre : preemptDue s cn k = false := by
    rw [← Bool.not_eq_true, preemptDue_iff hact, not_not]
    exact hkeeps
  have hdef : ((getCtx s k).hint.isNone && deferredReady s k) = false := by
    rcases hdue with h | h
    · rw [Option.isNone_eq_false_iff.2 (Option.isSome_iff_ne_none.2 h), Bool.false_and]
    · rw [h, Bool.and_false]
  refine ⟨fun s' w i hfetch hdec => ?_, fun s' w e hfetch hdec => ?_, fun s' code ea hfetch => ?_⟩
  all_goals
    rw [step_eq_passes, agentTurn, hturn]
    unfold coreTurn
    simp only [hoff, hrun, hact, hdef, hpre, Bool.false_eq_true, if_false, ne_eq, not_true_eq_false, hfetch]
  · rw [hdec]
  · rw [hdec]
  · rfl

end CoreTurn

/-- A core that is offline, or runs no context, does nothing in its turn. -/
theorem coreTurn_idle {s : State} {cn : Nat} (h : (getCore s cn).off = true ∨ (getCore s cn).running = none) :
    coreTurn s cn = .next s := by
  unfold coreTurn
  split
  · rfl
  · rename_i hoff
    rw [h.resolve_left hoff]

/-! ### A word placed where the core fetches next -/

theorem tput_tput_self {α : Type} (t : Tab α) (j : Nat) (v w : α) : tput (tput t j v) j w = tput t j w := by
  induction t with
  | nil => simp [tput]
  | cons e t ih =>
    obtain ⟨k, x⟩ := e
    rcases Nat.lt_trichotomy j k with h | rfl | h
    · simp [tput, h]
    · simp [tput]
    · simp [tput, Nat.not_lt.2 (Nat.le_of_lt h), Nat.ne_of_gt h, ih]

/-- Context 0 of the state with a placed word: it runs, at its pc, with neither a refusal nor a pre-emption due. -/
def placedCtx (s : State) : Ctx :=
  { getCtx s 0 with
    act := .running, hint := none, deferred := [], selected := s.cycle, st := stBit (getCtx s 0).st 4 false }

/-- The fetch block of core 0 with the placed word. -/
def placedBlock (s : State) (w : Word) : Dword × List Word :=
  ((getCtx s 0).pc &&& ~~~31#64, (List.range 8).map (fun j => if j = fldN (getCtx s 0).pc 2 3 then w else 0))

theorem getCtx_placeWord (s : State) (w : Word) : getCtx (placeWord s w) 0 = placedCtx s := getCtx_setCtx_self ..

theorem getCore_placeWord (s : State) (w : Word) : getCore (placeWord s w) 0
    = { getCore s 0 with running := some 0, off := false, block := some (placedBlock s w), left := none } :=
  getCore_modCore_self (setCtx s 0 (placedCtx s)) 0
    (fun x => { x with running := some 0, off := false, block := some (placedBlock s w), left := none })

theorem placedBlock_word (s : State) (w : Word) : (placedBlock s w).2.getD (fldN (getCtx s 0).pc 2 3) 0 = w := by
  have hi : fldN (getCtx s 0).pc 2 3 < 8 := (fld (getCtx s 0).pc 2 3).isLt
  simp [placedBlock, hi]

/-- The placed word is the one that core 0 fetches next for context 0, and the fetch changes nothing. -/
theorem fetchWord_placeWord (s : State) (w : Word) :
    fetchWord { placeWord s w with me := 0 } 0 = ({ placeWord s w with me := 0 }, .ok w) := by
  have hctx : getCtx { placeWord s w with me := 0 } 0 = placedCtx s := getCtx_placeWord s w
  have hcore : getCore { placeWord s w with me := 0 } (ctxCore 0)
      = { getCore s 0 with running := some 0, off := false, block := some (placedBlock s w), left := none } :=
    getCore_placeWord s w
  have hsame : modCore { placeWord s w with me := 0 } (ctxCore 0) (fun x => { x with left := x.left.map (fun n => n - 1) })
      = { placeWord s w with me := 0 } := by
    unfold modCore
    rw [hcore]
    exact congrArg (fun cores => { placeWord s w with me := 0, cores := cores }) (tput_tput_self ..)
  have hbase : (placedBlock s w).1 = (placedCtx s).pc &&& ~~~31#64 ∧ (none : Option Nat) ≠ some 0 := ⟨rfl, nofun⟩
  unfold fetchWord
  dsimp only
  rw [hctx, hcore]
  dsimp only
  rw [if_pos hbase, hsame]
  exact congrArg _ (congrArg _ (placedBlock_word s w))

theorem stDem_stBit_false (st : Dword) : stDem (stBit st 4 false) = false := by
  rw [stDem, bitAt, stBit, getLsbD_putFld]
  simp

theorem withFetchWord_eq (s : State) (w : Word) : s.withFetchWord 32 w.toNat = placeWord s w := by
  rw [State.withFetchWord, Nat.mod_eq_of_lt w.isLt, BitVec.ofNat_toNat, BitVec.setWidth_eq]

/-- The step of a state with a placed word runs the instruction that it decodes to. -/
theorem step_placeWord (s : State) {w : Word} {i : Instr} (hdec : decodeWord w = .ok i) :
    step (placeWord s w) = Rules.passes (placeWord s w) (exec i { placeWord s w with me := 0 }) := by
  have hctx := getCtx_placeWord s w
  have hcore := getCore_placeWord s w
  have hdue : deferredReady (placeWord s w) 0 = false := by
    unfold deferredReady
    rw [hctx]
    exact Bool.and_false _
  have hkeeps : Rules.keepsSlot (placeWord s w) 0 0 := by
    refine .inr (.inr (.inr ⟨?_, ?_⟩))
    · rw [hctx, hcore]
      have hcycle : (placeWord s w).cycle - (placedCtx s).selected = 0 := Nat.sub_self _
      rw [hcycle]
      rcases Nat.eq_zero_or_pos (getCore s 0).quant.toNat with h | h
      · exact .inl (BitVec.eq_of_toNat_eq h)
      · exact .inr h
    · rw [hctx]
      exact stDem_stBit_false _
  obtain ⟨hok, -⟩ := step_fetch (s := placeWord s w) (cn := 0) (k := 0) rfl (by rw [hcore]) (by rw [hcore]) (by rw [hctx]; rfl)
    (.inr hdue) hkeeps
  exact hok _ w i (fetchWord_placeWord s w) hdec

/-- Settles O58: the branches of a core's turn, and the turns of the other agents. -/
theorem stepRunsDecodedInstruction : Obligations.StepRunsDecodedInstruction := by
  refine ⟨fun s cn k hturn hoff hrun hact => ⟨?_, ?_, ?_⟩, fun s i hturn hevent => ?_, fun s cn hturn hidle => ?_,
    fun s w i hdec => ?_⟩
  · exact step_deferredTrap hturn hoff hrun hact
  · exact fun _ hdue hkeeps => step_preemption hturn hoff hrun hact hdue hkeeps
  · intro hdue hkeeps
    obtain ⟨hok, hstray, hfault⟩ := step_fetch hturn hoff hrun hact hdue hkeeps
    refine ⟨hok, fun s' w e hfetch hdec => ?_, hfault⟩
    obtain ⟨w', i, hdec', hevent, hloop, hrun'⟩ := strayWord_runs s'
    exact ⟨w', i, hdec', hevent, hloop, by rw [hstray s' w e hfetch hdec, hrun']⟩
  · rw [step_eq_passes, agentTurn, hturn]
    dsimp only
    rw [if_pos hevent]
  · have hturn' : agentTurn s = .next s := by
      rw [agentTurn, hturn]
      exact coreTurn_idle hidle
    rw [step_eq_passes, hturn']
    exact congrArg (fun t => Host.Outcome.next (advance t)) (ite_self s)
  · rw [withFetchWord_eq]
    exact step_placeWord s hdec

end Sys2Proof.Machine
end

section
/-!
PROOFS. An error packet for a stream register (R120, R199): the record sets the register empty, so O47 fails.
-/

namespace Sys2Proof.Machine

/-- A read stream on v0 of context 0 whose first element stands in its ring, so that v0 is full (R199). -/
def filledStream : Stream :=
  { ctx := 0, reg := 0, gen := 0, launch := none, rind := 0, sys := false, desc := 0, pos := 0, far := 1, masks := [],
    fail := none }

/-- An error packet for v0 of context 0, register 32 in the numbering of R40. -/
def streamReply : Reply := { ctx := 0, gen := stGen (Ctx.initial 0).st, reg := 32, inTrap := false }
def streamError : Flight := Rules.hardware none (.error streamReply { code := 0x17 })

/-- The machine after reset but for that stream and that packet. -/
def streamErrorState : State := { State.reset with streams := [(0, filledStream)], net := [streamError] }

/-- The state agrees with itself: v0 is full, as its stream has it. -/
theorem streamErrorState_full : streamFull filledStream = true ∧ (getCtx streamErrorState 0).isEmpty 32 = false := by
  decide +kernel

theorem exec_streamError : exec (.fill (.net 0)) streamErrorState
    = .next (applyError { streamErrorState with net := [] } streamReply { code := 0x17 }) := rfl

/-- A stream register with an error record is empty (R120), whatever it was before. -/
theorem isEmpty_after_streamError :
    (getCtx (applyError { streamErrorState with net := [] } streamReply { code := 0x17 }) 0).isEmpty 32 = true := by
  decide +kernel

/-- Refutes O47: its clause on error packets keeps every full/empty bit, but a record against a stream register sets that
register empty, and in streamErrorState it was full. -/
theorem not_packetsReachTheirContexts : ¬ Obligations.PacketsReachTheirContexts := by
  rintro ⟨fills, -⟩
  obtain ⟨-, -, -, errors, -⟩ := fills 0 streamError streamReply streamErrorState rfl
  obtain ⟨t, ht, -, -, hkept⟩ := errors { code := 0x17 } rfl rfl (by decide)
  obtain rfl := Host.Outcome.next.inj (exec_streamError.symm.trans ht)
  obtain ⟨-, hempty⟩ := hkept 32
  have hfull : (getCtx streamErrorState 0).isEmpty 32 = true := hempty.symm.trans isEmpty_after_streamError
  rw [streamErrorState_full.2] at hfull
  exact Bool.false_ne_true hfull

end Sys2Proof.Machine
end

section
/-!
PROOFS. The three tables of bytes that MemInv speaks of (O59). A state is tidy when they are in form; a function keeps that
either because it leaves them alone (SameTabs, lemmas f_tabs) or because its writes do (lemmas tidy_f, tidyNext_f).
-/

namespace Sys2Proof.Machine

/-- The three tables of bytes are in the form that MemInv asks for. -/
structure Canonical (m c t : Tab Byte) : Prop where
  stored : Memory.wf m = true
  cave : tsorted c = true
  top : tsorted t = true

/-- The two states hold the same bytes at every level: in storage, at the Cave slices, and above them. -/
@[simp] abbrev SameTabs (s t : State) : Prop := t.mem = s.mem ∧ t.cav = s.cav ∧ t.top = s.top

/-- The tables of a state are in form; memInv_iff_tidy says that this is MemInv. -/
@[simp] abbrev Tidy (s : State) : Prop := Canonical s.mem s.cav s.top

section
variable {c : Prop} [Decidable c] (s t : State)

@[simp] theorem ite_mem : (if c then s else t).mem = if c then s.mem else t.mem := apply_ite ..
@[simp] theorem ite_cav : (if c then s else t).cav = if c then s.cav else t.cav := apply_ite ..
@[simp] theorem ite_top : (if c then s else t).top = if c then s.top else t.top := apply_ite ..
@[simp] theorem ite_fst {α : Type} (p q : State × α) : (if c then p else q).1 = if c then p.1 else q.1 := apply_ite ..

end

@[simp] theorem foldl_sameTabs {β : Type} {f : State → β → State} (hf : ∀ s x, SameTabs s (f s x)) (l : List β) (s : State) :
    SameTabs s (l.foldl f s) := by
  induction l generalizing s with
  | nil => exact ⟨rfl, rfl, rfl⟩
  | cons x l ih =>
    obtain ⟨hm, hc, ht⟩ := hf s x
    obtain ⟨im, ic, it⟩ := ih (f s x)
    exact ⟨im.trans hm, ic.trans hc, it.trans ht⟩

@[simp] theorem foldl_tidy {β : Type} {f : State → β → State} (hf : ∀ s x, Tidy s → Tidy (f s x)) (l : List β) {s : State}
    (h : Tidy s) : Tidy (l.foldl f s) := by
  induction l generalizing s with
  | nil => exact h
  | cons x l ih => exact ih (hf s x h)

section
variable {m c t : Tab Byte}

@[simp] theorem canonical_ite {p : Prop} [Decidable p] (m m' c c' t t' : Tab Byte) :
    Canonical (if p then m else m') (if p then c else c') (if p then t else t')
      ↔ if p then Canonical m c t else Canonical m' c' t' := by
  split <;> rfl

@[simp] theorem canonical_memPuts (h : Canonical m c t) (a : Nat) (bs : List Byte) : Canonical (memPuts m a bs) c t :=
  ⟨wf_memPuts a bs h.stored, h.cave, h.top⟩

@[simp] theorem canonical_filter (h : Canonical m c t) (f : Nat × Byte → Bool) : Canonical (m.filter f) c t :=
  ⟨wf_filter f h.stored, h.cave, h.top⟩

@[simp] theorem canonical_foldPut {β : Type} (h : Canonical m c t) (f : β → Nat) (g : β → Byte) (l : List β) :
    Canonical (l.foldl (fun m e => memPut m (f e) (g e)) m) c t :=
  ⟨wf_foldPut f g l h.stored, h.cave, h.top⟩

@[simp] theorem canonical_dropCave (h : Canonical m c t) (lo n : Nat) : Canonical m (overDrop c lo n) t :=
  ⟨h.stored, sorted_overDrop lo n h.cave, h.top⟩

@[simp] theorem canonical_dropTop (h : Canonical m c t) (lo n : Nat) : Canonical m c (overDrop t lo n) :=
  ⟨h.stored, h.cave, sorted_overDrop lo n h.top⟩

@[simp] theorem canonical_putCave {β : Type} (h : Canonical m c t) (f : β → Nat) (g : β → Byte) (l : List β) :
    Canonical m (l.foldl (fun c e => tput c (f e) (g e)) c) t :=
  ⟨h.stored, sorted_foldPut f g l h.cave, h.top⟩

@[simp] theorem canonical_putTop {β : Type} (h : Canonical m c t) (f : β → Nat) (g : β → Byte) (l : List β) :
    Canonical m c (l.foldl (fun t e => tput t (f e) (g e)) t) :=
  ⟨h.stored, h.cave, sorted_foldPut f g l h.top⟩

theorem canonical_foldDropTop {β : Type} (h : Canonical m c t) (f : β → Nat) (n : Nat) (l : List β) :
    Canonical m c (l.foldl (fun t e => overDrop t (f e) n) t) := by
  induction l generalizing t with
  | nil => exact h
  | cons e l ih => exact ih (canonical_dropTop h ..)

end

/-- The state of a pair that is known. -/
theorem tidy_fst {α : Type} {p : State × α} {t : State} {a : α} (e : p = (t, a)) (hp : Tidy p.1) : Tidy t := by
  subst e
  exact hp

/-- Every next state that an outcome names is tidy. -/
structure TidyNext (o : Host.Outcome State Fault Refusal) : Prop where
  tidy : ∀ t, o = .next t → Tidy t

@[simp] theorem tidyNext_next (t : State) : TidyNext (.next t) ↔ Tidy t :=
  ⟨fun h => h.tidy t rfl, fun h => ⟨fun _ e => Host.Outcome.next.inj e ▸ h⟩⟩

end Sys2Proof.Machine
end

section
/-!
PROOFS. The updates of contexts, cores, stacks, records and logs leave the tables of bytes as they are.
-/

namespace Sys2Proof.Machine

@[simp] theorem setCtx_tabs (s : State) (k : Nat) (c : Ctx) : SameTabs s (setCtx s k c) := by simp [setCtx]

@[simp] theorem modCtx_tabs (s : State) (k : Nat) (f : Ctx → Ctx) : SameTabs s (modCtx s k f) := by simp [modCtx]

@[simp] theorem modCore_tabs (s : State) (cn : Nat) (f : Core → Core) : SameTabs s (modCore s cn f) := by
  simp [modCore]

@[simp] theorem modCluster_tabs (s : State) (c : Nat) (f : Cluster → Cluster) : SameTabs s (modCluster s c f) := by
  simp [modCluster]

@[simp] theorem modRind_tabs (s : State) (r : Nat) (f : Rind → Rind) : SameTabs s (modRind s r f) := by
  simp [modRind]

@[simp] theorem modCave_tabs (s : State) (d : Nat) (f : Cave → Cave) : SameTabs s (modCave s d f) := by
  simp [modCave]

@[simp] theorem modStack_tabs (s : State) (i : Nat) (f : Stack → Stack) : SameTabs s (modStack s i f) := by
  simp [modStack]

@[simp] theorem modLaunch_tabs (s : State) (l : Nat) (f : Launch → Launch) : SameTabs s (modLaunch s l f) := by
  unfold modLaunch
  split <;> simp

@[simp] theorem setPort_tabs (s : State) (cn p : Nat) (q : Port) : SameTabs s (setPort s cn p q) := by
  simp [setPort]

@[simp] theorem countEnergy_tabs (s : State) (unit e n rind : Nat) (launch : Option Nat) :
    SameTabs s (countEnergy s unit e n rind launch) := by
  unfold countEnergy
  split <;> simp

@[simp] theorem logTo_tabs (s : State) (rind : Nat) (e : BitVec 256) : SameTabs s (logTo s rind e) := by
  simp [logTo]

@[simp] theorem logCore_tabs (s : State) (cn code : Nat) (data : Dword) : SameTabs s (logCore s cn code data) := by
  unfold logCore
  dsimp only
  split <;> simp

@[simp] theorem logUnit_tabs (s : State) (rinds : List Nat) (e : BitVec 256) : SameTabs s (logUnit s rinds e) := by
  simp [logUnit]

end Sys2Proof.Machine
end

section
/-!
PROOFS. The tables of bytes under the memory: caches, Cave, scratchpads and homes (R130, R139, R147).
-/

namespace Sys2Proof.Machine

@[simp] theorem logStack_tabs (s : State) (i code : Nat) (data : Dword) : SameTabs s (logStack s i code data) := by
  simp [logStack]

@[simp] theorem logWhey_tabs (s : State) (ch rind code : Nat) (data : Dword) :
    SameTabs s (logWhey s ch rind code data) := by simp [logWhey]

@[simp] theorem healHalf_tabs (s : State) (h : Nat) : SameTabs s (healHalf s h) := by simp [healHalf]

@[simp] theorem strikeHalf_tabs (s : State) (half : Nat) : SameTabs s (strikeHalf s half) := by simp [strikeHalf]

@[simp] theorem countMemError_tabs (s : State) (i : Nat) (ue : Bool) : SameTabs s (countMemError s i ue) := by
  simp [countMemError]

@[simp] theorem logFrame_tabs (s : State) (pa : Nat) : SameTabs s (logFrame s pa) := by
  unfold logFrame
  dsimp only
  split <;> simp

@[simp] theorem quarantineFrame_tabs (s : State) (pa : Nat) : SameTabs s (quarantineFrame s pa) := by
  simp [quarantineFrame]

@[simp] theorem quarantineAll_tabs (s : State) (addrs : List Nat) : SameTabs s (quarantineAll s addrs) := by
  simp [quarantineAll]

@[simp] theorem startSparing_tabs (s : State) (i : Nat) : SameTabs s (startSparing s i) := by
  unfold startSparing
  dsimp only
  (repeat' split) <;> simp

@[simp] theorem repairRow_tabs (s : State) (i a : Nat) : SameTabs s (repairRow s i a) := by simp [repairRow]

@[simp] theorem meetBad_tabs (s : State) (h : Nat) : SameTabs s (meetBad s h) := by
  unfold meetBad
  split <;> simp

@[simp] theorem meetSoft_tabs (s : State) (h : Nat) : SameTabs s (meetSoft s h) := by
  unfold meetSoft
  dsimp only
  (repeat' split) <;> simp

@[simp] theorem meetHalf_tabs (s : State) (h : Nat) : SameTabs s (meetHalf s h) := by simp [meetHalf]

@[simp] theorem countGranule_tabs (s : State) (a : Nat) (launch : Option Nat) :
    SameTabs s (countGranule s a launch) := by
  unfold countGranule
  split <;> simp

@[simp] theorem countHalves_tabs (s : State) (hs : List Nat) (launch : Option Nat) :
    SameTabs s (countHalves s hs launch) := by simp [countHalves]

@[simp] theorem readHalves_tabs (s : State) (hs : List Nat) (launch : Option Nat) :
    SameTabs s (readHalves s hs launch) := by simp [readHalves]

@[simp] theorem forgetTop_tabs (s : State) (line : Nat) : SameTabs s (forgetTop s line) := by simp [forgetTop]

@[simp] theorem forgetCave_tabs (s : State) (lo n : Nat) : SameTabs s (forgetCave s lo n) := by simp [forgetCave]

@[simp] theorem holdImage_tabs (s : State) (die a : Nat) : SameTabs s (holdImage s die a) := by simp [holdImage]

@[simp] theorem modSector_tabs (s : State) (die sec : Nat) (f : Sector → Sector) :
    SameTabs s (modSector s die sec f) := by simp [modSector]

@[simp] theorem keepBad_tabs (s : State) (die sec : Nat) (f : Nat → Bool) : SameTabs s (keepBad s die sec f) := by
  simp [keepBad]

@[simp] theorem clearLine_tabs (s : State) (die line : Nat) : SameTabs s (clearLine s die line) := by
  simp [clearLine]

@[simp] theorem modL1_tabs (s : State) (cn line : Nat) (f : Line → Line) : SameTabs s (modL1 s cn line f) := by
  unfold modL1
  split <;> simp

@[simp] theorem modL2_tabs (s : State) (cl line : Nat) (f : Line → Line) : SameTabs s (modL2 s cl line f) := by
  unfold modL2
  split <;> simp

@[simp] theorem scrubLine_tabs (s : State) (p : Path) (line : Nat) (addrs : List Nat) :
    SameTabs s (scrubLine s p line addrs) := by
  unfold scrubLine
  dsimp only
  (repeat' split) <;> simp

@[simp] theorem scrub_tabs (s : State) (p : Path) (addrs : List Nat) : SameTabs s (scrub s p addrs) := by
  simp [scrub]

@[simp] theorem rehash_tabs (s : State) (i : Nat) (new : Stack) : SameTabs s (rehash s i new) := by simp [rehash]

section
variable {s : State} (inv : Tidy s)
include inv

@[simp] theorem tidy_putCells (cells : List (Nat × Byte)) : Tidy (putCells s cells) := by
  simp [putCells, inv]

/-- A merge keeps the form when its write does. -/
theorem tidy_mergeHalves (hs : List Nat) {write : State → State} (hw : ∀ s, Tidy s → Tidy (write s)) :
    Tidy (mergeHalves s hs write) := by
  unfold mergeHalves
  dsimp only
  split
  · exact hw _ (by simp [inv])
  · simp [inv]

@[simp] theorem tidy_storeAlias (a : Nat) (launch : Option Nat) : Tidy (storeAlias s a launch) := by
  unfold storeAlias
  dsimp only
  split
  · exact tidy_mergeHalves (by simp [inv]) _ fun _ hs => tidy_putCells hs _
  · exact inv

@[simp] theorem tidy_storeHalf (a : Nat) (whole : Bool) (cells : List (Nat × Byte)) :
    Tidy (storeHalf s a whole cells) := by
  unfold storeHalf
  split
  · simp [inv]
  · exact tidy_mergeHalves inv _ fun _ hs => tidy_putCells hs _

@[simp] theorem tidy_flushLine (die line : Nat) (has : Need) (launch : Option Nat) :
    Tidy (flushLine s die line has launch) := by
  unfold flushLine
  dsimp only
  split
  · exact inv
  split
  · simp [inv]
  split
  · exact canonical_dropCave (foldl_tidy (fun s l hs => by simp [hs]) _ inv) ..
  · simp [inv]
  · simp [inv]

@[simp] theorem tidy_caveFlush (die lo n : Nat) (launch : Option Nat) : Tidy (caveFlush s die lo n launch) :=
  foldl_tidy (fun _ _ hs => tidy_flushLine hs ..) _ inv

@[simp] theorem tidy_evictSector (die sec : Nat) : Tidy (evictSector s die sec) := by simp [evictSector, inv]

theorem tidy_allocEntry (die rind : Nat) (but : Option Nat) : ∀ p ∈ allocEntry s die rind but, Tidy p.1 := by
  unfold allocEntry
  dsimp only
  split
  · simp [inv]
  split
  · simp
  · have evicted := foldl_tidy (fun s q hs => tidy_evictSector (s := s) hs die q)
    simp [inv, evicted]

theorem tidy_tagFor (die sec : Nat) (plain : Bool) : ∀ t ∈ tagFor s die sec plain, Tidy t := by
  unfold tagFor
  dsimp only
  split
  · simp [inv]
  split
  · simp
  · intro t ht
    obtain ⟨p, hp, rfl⟩ := Option.map_eq_some_iff.1 ht
    refine tidy_allocEntry ?_ _ _ _ p hp
    split <;> simp [inv]

@[simp] theorem tidy_caveWrite (die sec : Nat) : Tidy (caveWrite s die sec) := by
  unfold caveWrite
  split
  · exact inv
  split
  · exact inv
  split
  · split
    · next own => exact tidy_allocEntry inv _ _ _ _ own
    · dsimp only
      split
      · simp [inv]
      · exact foldl_tidy (fun _ _ hs => tidy_evictSector hs ..) _ inv
  · simp [inv]

@[simp] theorem tidy_caveFill (die line : Nat) (need : Need) (via : Via) : Tidy (caveFill s die line need via) := by
  unfold caveFill
  split
  · exact inv
  split
  · simp [inv]
  · next tagged =>
    have ht := tidy_tagFor inv _ _ _ _ tagged
    split
    · exact ht
    · simp [ht]

@[simp] theorem tidy_caveStore (die line : Nat) (whole : Need) (cells : List (Nat × Byte)) (via : Via) :
    Tidy (caveStore s die line whole cells via) := by
  unfold caveStore
  extract_lets tagged fresh written valid held full kept stored
  have htagged : Tidy tagged := by
    cases tag : tagFor s die (line / 8) via.plain with
    | none => simp [tagged, tag, inv]
    | some t => simp [tagged, tag, inv, tidy_tagFor inv _ _ _ _ tag]
  have hstored : Tidy stored := by simp [stored, kept, held, valid, written, htagged]
  split
  · simp [hstored]
  · exact tidy_flushLine hstored ..

@[simp] theorem tidy_l1Evict (cn line : Nat) : Tidy (l1Evict s cn line) := by
  unfold l1Evict
  dsimp only
  (repeat' split) <;> simp [inv]

@[simp] theorem tidy_topFlush (cl line : Nat) (via : Via) : Tidy (topFlush s cl line via) := by
  unfold topFlush
  dsimp only
  (repeat' split) <;> simp [inv]

@[simp] theorem tidy_l2Evict (cl line : Nat) (via : Via) : Tidy (l2Evict s cl line via) := by
  unfold l2Evict
  (repeat' split) <;> grind [forgetTop_tabs, tidy_l1Evict, tidy_topFlush]

@[simp] theorem tidy_l2Insert (cl line : Nat) (rep : Option (BitVec 1024)) (need : Need) (via : Via) :
    Tidy (l2Insert s cl line rep need via) := by
  unfold l2Insert
  split <;> simp [inv]

@[simp] theorem tidy_l1Insert (cn line : Nat) (rep : Option (BitVec 1024)) (need : Need) :
    Tidy (l1Insert s cn line rep need) := by
  unfold l1Insert
  split <;> simp [inv]

@[simp] theorem tidy_homeFill (home line : Nat) (need : Need) (via : Via) :
    Tidy (homeFill s home line need via) := by simp [homeFill, inv]

@[simp] theorem tidy_recallSector (home sec : Nat) (via : Via) : Tidy (recallSector s home sec via) :=
  foldl_tidy (fun _ _ hs => tidy_l2Evict hs ..) _ inv

@[simp] theorem tidy_hostEnter (line : Nat) : Tidy (hostEnter s line) := by
  unfold hostEnter
  dsimp only
  split
  · exact inv
  split
  · simp [inv]
  · simp [putCells, inv]

@[simp] theorem tidy_sliceBytes (die : Nat) (addrs : List Nat) (via : Via) :
    Tidy (sliceBytes s die addrs via).1 := foldl_tidy (fun _ _ hs => tidy_caveFill hs ..) _ (by simp [inv])

@[simp] theorem tidy_sliceRead (die : Nat) (addrs : List Nat) (via : Via) : Tidy (sliceRead s die addrs via).1 := by
  simp [sliceRead, inv]

@[simp] theorem tidy_sliceWrite (die : Nat) (cells : List (Nat × Byte)) (via : Via) :
    Tidy (sliceWrite s die cells via) := by
  have filled := foldl_tidy (fun s l hs => tidy_caveFill (s := s) hs die l (needOf (inLine (cells.map (·.1)) l)) via)
    (linesOf (cells.map (·.1))) (s := scrub s (slicePath die) (cells.map (·.1))) (by simp [inv])
  unfold sliceWrite
  dsimp only
  split
  · exact foldl_tidy (fun _ _ hs => tidy_caveStore hs ..) _ filled
  · simp [filled]

@[simp] theorem tidy_toSlice (home a : Nat) (via : Via) : Tidy (toSlice s home a via) := by simp [toSlice, inv]

@[simp] theorem tidy_homeBytes (home a n : Nat) (col : Bool) (via : Via) :
    Tidy (homeBytes s home a n col via).1 := by
  unfold homeBytes
  (repeat' split) <;> grind [tidy_homeFill, scrub_tabs, tidy_hostEnter, tidy_sliceBytes, tidy_toSlice]

@[simp] theorem tidy_homeRead (home a n : Nat) (col : Bool) (via : Via) : Tidy (homeRead s home a n col via).1 := by
  simp [homeRead, inv]

@[simp] theorem tidy_scratchPut (a : Nat) (bs : List Byte) : Tidy (scratchPut s a bs) := by simp [scratchPut, inv]

@[simp] theorem tidy_topWrite (cl line : Nat) (cells : List (Nat × Byte)) : Tidy (topWrite s cl line cells) := by
  unfold topWrite
  split <;> simp [inv]

@[simp] theorem tidy_scratchWrite (cells : List (Nat × Byte)) : Tidy (scratchWrite s cells) := by
  unfold scratchWrite
  dsimp only
  split <;> simp [inv]

@[simp] theorem tidy_homeWrite (home a n : Nat) (data : Vec) (be : BitVec 64) (col : Bool) (via : Via) :
    Tidy (homeWrite s home a n data be col via) := by
  unfold homeWrite
  dsimp only
  (repeat' split) <;> simp [inv]

@[simp] theorem tidy_physRead (addrs : List Nat) (via : Via) : Tidy (physRead s addrs via).1 := by
  unfold physRead
  dsimp only
  split <;> simp [inv]

@[simp] theorem tidy_physWrite (cells : List (Nat × Byte)) (via : Via) : Tidy (physWrite s cells via) := by
  unfold physWrite
  grind [quarantineAll_tabs, scrub_tabs, tidy_sliceWrite, tidy_topWrite]

end

end Sys2Proof.Machine
end

section
/-!
PROOFS. The tables of bytes under translation (R90 to R112).
-/

namespace Sys2Proof.Machine

@[simp] theorem sendFlit_tabs (s : State) (q : FabricPacket) (rind : Nat) (launch : Option Nat) :
    SameTabs s (sendFlit s q rind launch) := by
  unfold sendFlit
  dsimp only
  split <;> simp

@[simp] theorem sendFabric_tabs (s : State) (hdr : Nat → BitVec 128) (body : BitVec 640) (f : Option Flight)
    (rind : Nat) (launch : Option Nat) : SameTabs s (sendFabric s hdr body f rind launch) := by
  unfold sendFabric
  split <;> simp

@[simp] theorem askRemote_tabs (s : State) (pa rind : Nat) (f : Flight) (launch : Option Nat) :
    SameTabs s (askRemote s pa rind f launch) := by simp [askRemote]

@[simp] theorem atomicRemote_tabs (s : State) (pa rind op : Nat) (arg expect : Dword) (f : Option Flight)
    (launch : Option Nat) : SameTabs s (atomicRemote s pa rind op arg expect f launch) := by simp [atomicRemote]

@[simp] theorem setTlb_tabs (s : State) (u : Nat) (t : List Tlb) : SameTabs s (setTlb s u t) := by simp [setTlb]

@[simp] theorem tlbInsert_tabs (s : State) (u : Nat) (t : Tlb) : SameTabs s (tlbInsert s u t) := by simp [tlbInsert]

@[simp] theorem tlbUpdate_tabs (s : State) (r : Req) (slot : Nat) (e : Dword) (c : BitVec 128) :
    SameTabs s (tlbUpdate s r slot e c) := by simp [tlbUpdate]

@[simp] theorem queueWalk_tabs (s : State) (r : Req) (va : Dword) (acc : AccKind) :
    SameTabs s (queueWalk s r va acc) := by
  unfold queueWalk
  split <;> simp

@[simp] theorem takeLeft_tabs (s : State) (r : Req) (va : Dword) : SameTabs s (takeLeft s r va) := by
  unfold takeLeft
  split <;> simp

@[simp] theorem installLeaf_tabs (s : State) (r : Req) (va : Dword) (e : Dword) (c : BitVec 128) (sh slot : Nat) :
    SameTabs s (installLeaf s r va e c sh slot) := by simp [installLeaf]

@[simp] theorem countNack_tabs (s : State) (la : Nat) : SameTabs s (countNack s la) := by simp [countNack]

@[simp] theorem dropCode_tabs (s : State) (r : Req) (h n : Nat) : SameTabs s (dropCode s r h n) := by
  simp [dropCode]

section
variable {s : State} (inv : Tidy s)
include inv

@[simp] theorem tidy_slotRead (r : Req) (ks : List Nat) (lv t slot : Nat) (ans : Option (Nat × Vec)) :
    Tidy (slotRead s r ks lv t slot ans).1 := by
  unfold slotRead
  (repeat' split) <;> grind [tidy_physRead]

@[simp] theorem tidy_walkFrom (r : Req) (ks : List Nat) (va : Dword) (lv t : Nat) (ans : Option (Nat × Vec)) :
    Tidy (walkFrom s r ks va lv t ans).1 := by
  induction lv generalizing s t ans with
  | zero =>
    unfold walkFrom
    (repeat' split) <;> grind [tidy_slotRead]
  | succ lv ih =>
    unfold walkFrom
    (repeat' split) <;> grind [tidy_slotRead]

@[simp] theorem tidy_chosenHome (r : Req) (comp : BitVec 128) (slot : Nat) : Tidy (chosenHome s r comp slot).1 := by
  unfold chosenHome
  (repeat' split) <;> grind [tidy_physRead]

@[simp] theorem tidy_useLeaf (r : Req) (va : Dword) (acc : AccKind) (e : Dword) (c : BitVec 128) (sh slot : Nat) :
    Tidy (useLeaf s r va acc e c sh slot).1 := by
  unfold useLeaf
  (repeat' split) <;> grind [tidy_chosenHome]

@[simp] theorem tidy_touchLeaf (r : Req) (x : Xl) (acc : AccKind) : Tidy (touchLeaf s r x acc) := by
  unfold touchLeaf
  (repeat' split) <;> grind [tidy_physRead, tidy_physWrite, atomicRemote_tabs, tlbUpdate_tabs]

@[simp] theorem tidy_translate (r : Req) (va : Dword) (acc : AccKind) : Tidy (translate s r va acc).1 := by
  unfold translate
  (repeat' split) <;> grind [tidy_useLeaf, queueWalk_tabs, takeLeft_tabs, installLeaf_tabs]

@[simp] theorem tidy_codeHalf (r : Req) (h : Nat) : Tidy (codeHalf s r h).1 := by
  unfold codeHalf
  (repeat' split) <;> grind [modCore_tabs, tidy_physRead, askRemote_tabs, countNack_tabs]

@[simp] theorem tidy_codeHalves (r : Req) (hs : List Nat) : Tidy (codeHalves s r hs).1 := by
  induction hs generalizing s with
  | nil => exact inv
  | cons k hs ih =>
    unfold codeHalves
    (repeat' split) <;> grind [tidy_codeHalf]

@[simp] theorem tidy_markScanned (r : Req) (x : Xl) (now : BitVec 128) : Tidy (markScanned s r x now) := by
  simp [markScanned, inv]

@[simp] theorem tidy_rereadComp (r : Req) (x : Xl) : Tidy (rereadComp s r x).1 := by
  unfold rereadComp
  (repeat' split) <;> grind [tidy_physRead, tidy_codeHalf]

@[simp] theorem tidy_scanPage (r : Req) (x : Xl) (base : Dword) : Tidy (scanPage s r x base).1 := by
  unfold scanPage
  (repeat' split) <;> grind [tidy_codeHalves, dropCode_tabs, tidy_markScanned, tidy_rereadComp]

@[simp] theorem tidy_translateFetch (r : Req) (va : Dword) : Tidy (translateFetch s r va).1 := by
  unfold translateFetch
  (repeat' split) <;> grind [setTlb_tabs, tidy_touchLeaf, tidy_translate, tidy_scanPage]

end

end Sys2Proof.Machine
end

section
/-!
PROOFS. The tables of bytes under the operations that instructions and events share: an issue keeps them when its effect does.
-/

namespace Sys2Proof.Machine

@[simp] theorem launchPacket_tabs (s : State) (owner : Option (Nat × BitVec 8)) (o : Ord) (p : Packet) :
    SameTabs s (launchPacket s owner o p) := by simp [launchPacket]

@[simp] theorem sendFor_tabs (s : State) (launch : Option Nat) (p : Packet) : SameTabs s (sendFor s launch p) := by
  simp [sendFor]

@[simp] theorem sendPacket_tabs (s : State) (p : Packet) : SameTabs s (sendPacket s p) := by simp [sendPacket]

@[simp] theorem putByIssue_tabs (s : State) (k : Nat) (f : Flight) : SameTabs s (putByIssue s k f) := by
  simp [putByIssue]

@[simp] theorem wakeCore_tabs (s : State) (cn : Nat) : SameTabs s (wakeCore s cn) := by simp [wakeCore]

@[simp] theorem makeRunnable_tabs (s : State) (k port : Nat) (hit : Bool) :
    SameTabs s (makeRunnable s k port hit) := by simp [makeRunnable]

@[simp] theorem leaveSlot_tabs (s : State) (k : Nat) (a : Activity) : SameTabs s (leaveSlot s k a) := by
  simp [leaveSlot]

@[simp] theorem wakeOn_tabs (s : State) (k reg : Nat) : SameTabs s (wakeOn s k reg) := by
  unfold wakeOn
  split <;> simp

@[simp] theorem unbindReg_tabs (s : State) (k v : Nat) : SameTabs s (unbindReg s k v) := by simp [unbindReg]

@[simp] theorem closeStreams_tabs (s : State) (k : Nat) : SameTabs s (closeStreams s k) := by simp [closeStreams]

@[simp] theorem wakeReg_tabs (s : State) (k reg : Nat) : SameTabs s (wakeReg s k reg) := by
  unfold wakeReg
  split <;> simp

@[simp] theorem streamBit_tabs (s : State) (slot : Nat) : SameTabs s (streamBit s slot) := by
  unfold streamBit
  split <;> simp

@[simp] theorem streamOwed_tabs (s : State) (k v : Nat) (lanes : Option (BitVec 64)) :
    SameTabs s (streamOwed s k v lanes) := by
  unfold streamOwed
  split
  · simp
  · split <;> simp

@[simp] theorem discard_tabs (s : State) (k : Nat) : SameTabs s (discard s k) := by simp [discard]

@[simp] theorem applyError_tabs (s : State) (r : Reply) (e : TrapRec) : SameTabs s (applyError s r e) := by
  simp [applyError]

@[simp] theorem applyRefill_tabs (s : State) (r : Reply) : SameTabs s (applyRefill s r) := by simp [applyRefill]

@[simp] theorem sendFill_tabs (s : State) (r : Reply) (val : Vec) : SameTabs s (sendFill s r val) := by
  simp [sendFill]

@[simp] theorem sendFillD_tabs (s : State) (r : Reply) (v : Dword) : SameTabs s (sendFillD s r v) := by
  simp [sendFillD]

@[simp] theorem answer_tabs (s : State) (k : Nat) (d : BitVec 5) (v : Dword) : SameTabs s (answer s k d v) := by
  simp [answer]

@[simp] theorem raiseTrigger_tabs (s : State) (rind : Nat) (src : Dword) : SameTabs s (raiseTrigger s rind src) := by
  unfold raiseTrigger
  dsimp only
  split <;> simp

@[simp] theorem freshRegs_tabs (s : State) (k : Nat) (f : Nat → Bool) : SameTabs s (freshRegs s k f) := by
  simp [freshRegs]

@[simp] theorem enterSlot_tabs (s : State) (cn slot launch : Nat) (words : List Dword) (trail : Trail) :
    SameTabs s (enterSlot s cn slot launch words trail) := by simp [enterSlot]

@[simp] theorem keepRecord_tabs (s : State) (cn l : Nat) : SameTabs s (keepRecord s cn l) := by
  unfold keepRecord
  split <;> simp

@[simp] theorem fireBitmap_tabs (s : State) (key : Nat) (w : Watch) : SameTabs s (fireBitmap s key w) := by
  unfold fireBitmap
  split <;> simp

@[simp] theorem fireBitmaps_tabs (s : State) (a n : Nat) (view : Bool) : SameTabs s (fireBitmaps s a n view) := by
  simp [fireBitmaps]

@[simp] theorem freeFrames_tabs (s : State) (k : Nat) : SameTabs s (freeFrames s k) := by simp [freeFrames]

@[simp] theorem clearSeated_tabs (s : State) (k : Nat) : SameTabs s (clearSeated s k) := by simp [clearSeated]

@[simp] theorem returnTrap_tabs (s : State) (k : Nat) : SameTabs s (returnTrap s k) := by simp [returnTrap]

@[simp] theorem loadHeads_tabs (s : State) (k : Nat) (rs : List Nat) : SameTabs s (loadHeads s k rs) := by
  refine foldl_sameTabs (fun s r => ?_) rs s
  split
  · simp
  · split
    · simp
    · split <;> simp

@[simp] theorem countUe_tabs (s : State) (cn : Nat) : SameTabs s (countUe s cn) := by simp [countUe]

@[simp] theorem deferFailure_tabs (s : State) (cl : Nat) (u : UnitFailure) : SameTabs s (deferFailure s cl u) := by
  simp [deferFailure]

@[simp] theorem newLogic_tabs (s : State) (cn : Nat) : SameTabs s (newLogic s cn) := by simp [newLogic]

@[simp] theorem parkAt_tabs (s : State) (k : Nat) (w : Wait) : SameTabs s (parkAt s k w) := by simp [parkAt]

@[simp] theorem yieldSlot_tabs (s : State) (k : Nat) : SameTabs s (yieldSlot s k) := by simp [yieldSlot]

@[simp] theorem pureBody_tabs (f : Ctx → Ctx) (s : State) (x1 : Ctx) : SameTabs s (pureBody f s x1).1 := by
  simp [pureBody]

section
variable {s : State} (inv : Tidy s)
include inv

@[simp] theorem tidy_pushStream (slot : Nat) (val : Vec) (lanes : BitVec 64) :
    Tidy (pushStream s slot val lanes) := by
  unfold pushStream
  split <;> simp [inv]

@[simp] theorem tidy_applyFill (r : Reply) (val : Vec) : Tidy (applyFill s r val) := by
  unfold applyFill
  (repeat' split) <;> grind [modCtx_tabs, wakeCore_tabs, wakeOn_tabs, tidy_pushStream, discard_tabs]

@[simp] theorem tidy_spillArrival (cn launch : Nat) (words : List Dword) (trail : Trail) :
    Tidy (spillArrival s cn launch words trail) := by simp [spillArrival, inv]

@[simp] theorem tidy_placeArrival (cn launch : Nat) (words : List Dword) (trail : Trail) :
    Tidy (placeArrival s cn launch words trail) := by
  unfold placeArrival
  dsimp only
  split <;> simp [inv]

@[simp] theorem tidy_unspill (cn slot : Nat) (l : List (Nat × Nat × Trail)) : Tidy (unspill s cn slot l) := by
  induction l generalizing s with
  | nil => simp [unspill, inv]
  | cons e rest ih =>
    unfold unspill
    (repeat' split) <;> grind [tidy_physRead, modCore_tabs, modLaunch_tabs, askRemote_tabs, enterSlot_tabs]

@[simp] theorem tidy_unspillOne (cn : Nat) : Tidy (unspillOne s cn) := by
  unfold unspillOne
  split <;> simp [inv]

@[simp] theorem tidy_unspillAnswer (cn l : Nat) (trail : Trail) (err : Nat) (v : Vec) :
    Tidy (unspillAnswer s cn l trail err v) := by
  unfold unspillAnswer
  dsimp only
  split <;> simp [inv]

@[simp] theorem tidy_setFused (cl : Nat) (b : Bool) : Tidy (setFused s cl b) := by
  unfold setFused
  split
  · exact inv
  · exact foldl_tidy (fun _ _ hs => tidy_l1Evict hs ..) _ inv

@[simp] theorem tidy_partIdle (cl : Nat) : Tidy (partIdle s cl) := by simp [partIdle, inv]

@[simp] theorem tidy_releaseSlot (k : Nat) : Tidy (releaseSlot s k) := by
  unfold releaseSlot
  grind [setCtx_tabs, modCtx_tabs, modCore_tabs, tidy_unspill, tidy_partIdle]

@[simp] theorem tidy_loseMember (f : Flight) (r : Req) (va : Dword) (m : BitVec 512) (leave : Bool) :
    Tidy (loseMember s f r va m leave) := by
  unfold loseMember
  (repeat' split) <;> grind [tidy_homeRead, tidy_homeWrite, askRemote_tabs, tidy_touchLeaf, tidy_translate,
    countNack_tabs, fireBitmaps_tabs]

@[simp] theorem tidy_memberLost (k reason code : Nat) (leave : Bool) : Tidy (memberLost s k reason code leave) := by
  simp [memberLost, inv]

@[simp] theorem tidy_endCtx (k reason code : Nat) : Tidy (endCtx s k reason code) := by
  unfold endCtx
  (repeat' split) <;> grind [modLaunch_tabs, closeStreams_tabs, tidy_releaseSlot, tidy_memberLost, freeFrames_tabs,
    clearSeated_tabs]

@[simp] theorem tidy_enterTrap (k : Nat) (t : TrapRec) (resume est : Dword) : Tidy (enterTrap s k t resume est) := by
  simp [enterTrap, inv]

@[simp] theorem tidy_takeTrap (k : Nat) (t : TrapRec) (resume : Dword) : Tidy (takeTrap s k t resume) := by
  simp [takeTrap, inv]

@[simp] theorem tidy_takeDeferred (k : Nat) : Tidy (takeDeferred s k) := by
  unfold takeDeferred
  grind [modCtx_tabs, tidy_takeTrap]

@[simp] theorem tidy_returnRoaming (k : Nat) : Tidy (returnRoaming s k) := by simp [returnRoaming, inv]

@[simp] theorem tidy_moveStreams (k : Nat) (u : Named) : Tidy (moveStreams s k u) := by
  refine foldl_tidy (fun s r inv => ?_) _ (foldl_tidy (fun s r inv => ?_) _ inv)
  all_goals (repeat' split) <;> simp [inv]

@[simp] theorem tidy_killCore (cn : Nat) : Tidy (killCore s cn).1 :=
  foldl_tidy (fun _ _ hs => tidy_endCtx hs ..) _ inv

@[simp] theorem tidy_retireCore (core : Nat) : Tidy (retireCore s core) := by simp [retireCore, inv]

@[simp] theorem tidy_failCore (core : Nat) : Tidy (failCore s core) := by simp [failCore, inv]

@[simp] theorem tidy_regError (k : Nat) (t : TrapRec) (resume : Dword) : Tidy (regError s k t resume) := by
  simp [regError, inv]

@[simp] theorem tidy_retire (k : Nat) (u : Named) (c0 : Ctx) (pcOf : Ctx → Ctx) : Tidy (retire s k u c0 pcOf) := by
  simp [retire, inv]

/-- An issue leaves the tables in order when its body does. -/
theorem tidyNext_issue (u : Named) {body : State → Ctx → State × Done} (hb : ∀ s c, Tidy s → Tidy (body s c).1) :
    TidyNext (issue s u body) := by
  have done := hb (loadHeads s s.me u.reads) (getCtx (loadHeads s s.me u.reads) s.me) (by simp [inv])
  unfold issue
  dsimp only
  (repeat' split) <;> grind [tidyNext_next, tidy_takeTrap, tidy_regError, tidy_retire, parkAt_tabs, yieldSlot_tabs]

end

end Sys2Proof.Machine
end

section
/-!
PROOFS. The tables of bytes under an access, at its home or at a replica (R113, R155).
-/

namespace Sys2Proof.Machine

@[simp] theorem setHoop_tabs (s : State) (a : Access) (h : Dword) : SameTabs s (setHoop s a h) := by simp [setHoop]

@[simp] theorem sendHoop_tabs (s : State) (f : Flight) (a : Access) (seen : Option Dword) :
    SameTabs s (sendHoop s f a seen) := by simp [sendHoop]

@[simp] theorem sendRequest_tabs (s : State) (f : Option Flight) (o : Ord) (a : Access) :
    SameTabs s (sendRequest s f o a) := by simp [sendRequest]

@[simp] theorem sendRemoteNode_tabs (s : State) (f : Flight) (a : Access) : SameTabs s (sendRemoteNode s f a) := by
  unfold sendRemoteNode
  split <;> simp

@[simp] theorem sendAccess_tabs (s : State) (a : Access) (o : Ord) : SameTabs s (sendAccess s a o) := by
  simp [sendAccess]

@[simp] theorem stepPredictor_tabs (s : State) (cn i : Nat) (up : Bool) : SameTabs s (stepPredictor s cn i up) := by
  simp [stepPredictor]

@[simp] theorem settlePredictor_tabs (s : State) (k home : Nat) (here : Bool) :
    SameTabs s (settlePredictor s k home here) := by
  unfold settlePredictor
  dsimp only
  (repeat' split) <;> simp

@[simp] theorem startMigration_tabs (s : State) (k dest : Nat) (advance : Bool) :
    SameTabs s (startMigration s k dest advance).1 := by
  unfold startMigration
  dsimp only
  split <;> simp

@[simp] theorem noteRemote_tabs (s : State) (k home : Nat) : SameTabs s (noteRemote s k home) := by
  simp [noteRemote]

section
variable {s : State} (inv : Tidy s)
include inv

@[simp] theorem tidy_checkAccess (k : Nat) (w : Want) : Tidy (checkAccess s k w).1 := by
  unfold checkAccess
  (repeat' split) <;> grind [tidy_translate]

@[simp] theorem tidy_atHome (a : Access) (n : Nat) (f : Vec → Vec × Option (Nat × Vec)) :
    Tidy (atHome s a n f).1 := by
  unfold atHome
  grind [tidy_homeRead, tidy_homeWrite, fireBitmaps_tabs]

@[simp] theorem tidy_performAt (a : Access) : Tidy (performAt s a).1 := by
  unfold performAt
  (repeat' split) <;> grind [modCore_tabs, tidy_homeWrite, fireBitmaps_tabs, tidy_atHome, setHoop_tabs]

@[simp] theorem tidy_replicaReady (k : Nat) (a : Access) : Tidy (replicaReady s k a).1 := by
  unfold replicaReady
  (repeat' split) <;> grind [tidy_codeHalves]

@[simp] theorem tidy_enterReplica (core line : Nat) (own : Bool) (d : BitVec 1024) (a : Access) :
    Tidy (enterReplica s core line own d a) := by simp [enterReplica, inv]

@[simp] theorem tidy_replicaRead (core : Nat) (r : Req) (a : Access) : Tidy (replicaRead s core r a).1 := by
  unfold replicaRead
  (repeat' split) <;> grind [tidy_homeBytes, tidy_homeRead, tidy_codeHalves, dropCode_tabs, tidy_enterReplica]

@[simp] theorem tidy_performHere (k : Nat) (a : Access) (x : Xl) : Tidy (performHere s k a x).1 := by
  unfold performHere
  split <;> simp [inv]

@[simp] theorem tidy_doAccess (k : Nat) (w : Want) : Tidy (doAccess s k w).1 := by
  unfold doAccess
  (repeat' split) <;> grind [modCtx_tabs, tidy_touchLeaf, tidy_checkAccess, tidy_replicaReady, tidy_performHere,
    sendAccess_tabs, settlePredictor_tabs, startMigration_tabs, noteRemote_tabs]

@[simp] theorem tidy_accessBody (w : Want) : Tidy (accessBody s w).1 := by
  unfold accessBody
  split <;> simp [inv]

@[simp] theorem tidy_blockRead (k : Nat) (ea : Dword) (n : Nat) : Tidy (blockRead s k ea n).1 := by
  unfold blockRead
  (repeat' split) <;> grind [tidy_touchLeaf, parkAt_tabs, tidy_checkAccess, tidy_performAt, sendAccess_tabs,
    settlePredictor_tabs, noteRemote_tabs]

@[simp] theorem tidy_readList (k : Nat) (va : Dword) (n : Nat) (acc : List Dword) :
    Tidy (readList s k va n acc).1 := by
  induction n generalizing s acc with
  | zero => exact inv
  | succ n ih =>
    unfold readList
    (repeat' split) <;> grind [tidy_blockRead]

theorem tidy_withList (ea : Dword) (n : Nat) {f : State → List Dword → State × Done}
    (hf : ∀ s ds, Tidy s → Tidy (f s ds).1) : Tidy (withList s ea n f).1 := by
  unfold withList
  split <;> grind [tidy_readList]

theorem tidy_withBlock32 (ea : Dword) {f : State → BitVec 256 → State × Done} (hf : ∀ s b, Tidy s → Tidy (f s b).1) :
    Tidy (withBlock32 s ea f).1 := by
  unfold withBlock32
  split
  · exact inv
  · exact tidy_withList inv _ _ fun _ _ inv => hf _ _ inv

theorem tidy_withBlock (ea : Dword) {f : State → Vec → State × Done} (hf : ∀ s v, Tidy s → Tidy (f s v).1) :
    Tidy (withBlock s ea f).1 := by
  unfold withBlock
  (repeat' split) <;> grind [tidy_blockRead]

end

end Sys2Proof.Machine
end

section
/-!
PROOFS. The tables of bytes under the atomics.
-/

namespace Sys2Proof.Machine

section
variable {s : State} (inv : Tidy s)
include inv

theorem tidyNext_amo (op : Nat) (d a b : BitVec 5) (o sc : BitVec 2) (z : BitVec 1) :
    TidyNext (amo op d a b o sc z s) := by
  unfold amo
  refine tidyNext_issue inv _ fun s c inv => ?_
  simp [inv]

theorem tidyNext_fenceOf (kind : Nat) : TidyNext (fenceOf kind s) := by
  unfold fenceOf
  refine tidyNext_issue inv _ fun s c inv => ?_
  (repeat' split) <;> grind

end

end Sys2Proof.Machine
end

section
/-!
PROOFS. The tables of bytes under the loads, stores, gathers and scatters.
-/

namespace Sys2Proof.Machine

section
variable {s : State} (inv : Tidy s)
include inv

theorem tidyNext_loadG (d a : BitVec 5) (o sc : BitVec 2) (k : BitVec 12) (n size : Nat) (signed : Bool) :
    TidyNext (loadG d a o sc k n size signed s) := tidyNext_issue inv _ fun _ _ inv => by simp [inv]

theorem tidyNext_storeG (d a : BitVec 5) (o sc : BitVec 2) (k : BitVec 12) (n size : Nat) :
    TidyNext (storeG d a o sc k n size s) := tidyNext_issue inv _ fun _ _ inv => by simp [inv]

theorem tidyNext_loadX (d a b : BitVec 5) (o sc : BitVec 2) (z : BitVec 3) (signed : Bool) :
    TidyNext (loadX d a b o sc z signed s) := tidyNext_issue inv _ fun _ _ inv => by simp [inv]

@[simp] theorem tidy_checkAll (k : Nat) (aligned : Bool) (ws : List Want) : Tidy (checkAll s k aligned ws).1 := by
  induction ws generalizing s with
  | nil => exact inv
  | cons w ws ih =>
    unfold checkAll
    (repeat' split) <;> grind [tidy_checkAccess]

@[simp] theorem tidy_runParts (k : Nat) (ps : List Part) (r : Parts) : Tidy (runParts s k ps r).1 := by
  induction ps generalizing s r with
  | nil => exact inv
  | cons p ps ih =>
    unfold runParts
    (repeat' split) <;> grind [tidy_performHere]

@[simp] theorem tidy_partsReady (k : Nat) (ps : List Part) : Tidy (partsReady s k ps).1 := by
  induction ps generalizing s with
  | nil => exact inv
  | cons p ps ih =>
    unfold partsReady
    (repeat' split) <;> grind [tidy_replicaReady]

@[simp] theorem tidy_multiBody (aligned : Bool) (wants : List Want) (load : Bool) (d : Nat) (lanes : BitVec 64)
    (base : Vec) : Tidy (multiBody s aligned wants load d lanes base).1 := by
  unfold multiBody
  dsimp only
  split
  · next e => exact tidy_fst e (tidy_checkAll inv ..)
  · next e =>
    have checked := tidy_fst e (tidy_checkAll inv ..)
    split
    · exact checked
    split
    · next e => exact tidy_fst e (tidy_partsReady checked ..)
    · next e =>
      have ready := tidy_fst e (tidy_partsReady checked ..)
      split
      · next e => exact tidy_fst e (tidy_runParts (foldl_tidy (fun _ _ hs => tidy_touchLeaf hs ..) _ ready) ..)
      · next e =>
        have performed := tidy_fst e (tidy_runParts (foldl_tidy (fun _ _ hs => tidy_touchLeaf hs ..) _ ready) ..)
        split
        · simp [performed]
        · split <;> simp [performed]

theorem tidyNext_execVgath (d a b : BitVec 5) (m : BitVec 3) (z : BitVec 1) (sz : BitVec 3) :
    TidyNext (execVgath d a b m z sz s) := by
  unfold execVgath
  refine tidyNext_issue inv _ fun s c inv => ?_
  simp [inv]

theorem tidyNext_execVscat (d a b : BitVec 5) (m : BitVec 3) (sz : BitVec 3) :
    TidyNext (execVscat d a b m sz s) := by
  unfold execVscat
  refine tidyNext_issue inv _ fun s c inv => ?_
  simp [inv]

end

end Sys2Proof.Machine
end

section
/-!
PROOFS. The tables of bytes under the CACHE instructions and the events of the Cave (R141 to R154).
-/

namespace Sys2Proof.Machine

@[simp] theorem dropCopies_tabs (s : State) (comp : BitVec 128) (first n half : Nat) :
    SameTabs s (dropCopies s comp first n half) := by simp [dropCopies]

@[simp] theorem answerUnit_tabs (s : State) (k : Nat) (d : BitVec 5) (o : Ord) (v : Dword) :
    SameTabs s (answerUnit s k d o v) := by simp [answerUnit]

@[simp] theorem markRow_tabs (s : State) (die i : Nat) : SameTabs s (markRow s die i) := by simp [markRow]

section
variable {s : State} (inv : Tidy s)
include inv

@[simp] theorem tidy_cleanRange (home lo n : Nat) (level : BitVec 2) (via : Via) :
    Tidy (cleanRange s home lo n level via) := by
  have flushed := foldl_tidy (fun _ l hs => tidy_topFlush hs (coreCluster home) l via) (linesIn s.top lo n) inv
  unfold cleanRange
  dsimp only
  split
  · exact tidy_caveFlush flushed ..
  · exact flushed

@[simp] theorem tidy_discardRange (lo n : Nat) (level : BitVec 2) : Tidy (discardRange s lo n level) := by
  unfold discardRange
  split <;> simp [inv]

@[simp] theorem tidy_dropCave (home lo n : Nat) (u : BitVec 2) : Tidy (dropCave s home lo n u) := by
  unfold dropCave
  dsimp only
  split
  · simp [inv]
  · exact foldl_tidy (fun _ _ hs => tidy_evictSector hs ..) _ inv

theorem tidyNext_cacheOp (d a : BitVec 5) (acc : AccKind) (u : BitVec 2) (store : Bool)
    {effect : State → Ctx → Xl → State × Dword} (he : ∀ s c x, Tidy s → Tidy (effect s c x).1) :
    TidyNext (cacheOp d a acc u store effect s) := by
  refine tidyNext_issue inv _ fun s c inv => ?_
  dsimp only
  (repeat' split) <;> grind [tidy_translate, tidy_touchLeaf, answer_tabs, answerUnit_tabs]

theorem tidyNext_execClean (d a : BitVec 5) (l u : BitVec 2) : TidyNext (execClean d a l u s) := by
  refine tidyNext_cacheOp inv _ _ _ _ _ fun s c x inv => ?_
  dsimp only
  split <;> simp [inv]

theorem tidyNext_execInval (d a : BitVec 5) (disc : BitVec 1) (l u : BitVec 2) :
    TidyNext (execInval d a disc l u s) := by
  unfold execInval
  dsimp only
  split
  · exact tidyNext_issue inv _ fun _ _ inv => inv
  · refine tidyNext_cacheOp inv _ _ _ _ _ fun s c x inv => ?_
    (repeat' split) <;> simp [inv]

@[simp] theorem tidy_prefLine (home line : Nat) (t : BitVec 2) (via : Via) : Tidy (prefLine s home line t via) := by
  unfold prefLine
  dsimp only
  split <;> simp [inv]

theorem tidyNext_execPref (a : BitVec 5) (t u : BitVec 2) : TidyNext (execPref a t u s) := by
  refine tidyNext_issue inv _ fun s c inv => ?_
  dsimp only
  split
  · next e => exact tidy_fst e (tidy_translate inv ..)
  · next e => exact tidy_fst e (tidy_translate inv ..)
  · next e =>
    have translated := tidy_fst e (tidy_translate inv ..)
    split
    · exact translated
    · exact foldl_tidy (fun _ _ hs => tidy_prefLine hs ..) _ (tidy_touchLeaf translated ..)

@[simp] theorem tidy_orientColumn (home sec : Nat) (via : Via) : Tidy (orientColumn s home sec via) := by
  have filled := foldl_tidy
    (fun s i hs => tidy_caveFill (s := s) hs (clusterDie (coreCluster home)) (8 * sec + i) {} via) (List.range 8) inv
  simp [orientColumn, filled]

theorem tidyNext_execOrient (d a : BitVec 5) (o : BitVec 1) : TidyNext (execOrient d a o s) := by
  refine tidyNext_cacheOp inv _ _ _ _ _ fun s c x inv => ?_
  (repeat' split) <;> simp [inv]

theorem tidyNext_execDedupqSec (d a : BitVec 5) : TidyNext (execDedupqSec d a s) :=
  tidyNext_cacheOp inv _ _ _ _ _ fun _ _ _ inv => inv

@[simp] theorem tidy_rowError (die line : Nat) : Tidy (rowError s die line) := by
  unfold rowError
  split <;> simp [inv]

@[simp] theorem tidy_sectorErrors (die sec : Nat) : Tidy (sectorErrors s die sec) :=
  foldl_tidy (fun _ _ hs => by simp [hs]) _ inv

@[simp] theorem tidy_hashSector (die sec : Nat) : Tidy (hashSector s die sec) := by
  unfold hashSector
  dsimp only
  split
  · simp [inv]
  split
  · simp [inv]
  split
  · simp [inv]
  · exact foldl_tidy (fun _ _ hs => foldl_tidy (fun _ _ hs => tidy_sectorErrors hs ..) _ hs) _
      (tidy_sectorErrors inv ..)

theorem tidyNext_execCaveHash (die : Nat) : TidyNext (execCaveHash die s) := by
  unfold execCaveHash
  (repeat' split) <;> grind [tidyNext_next, modCave_tabs, tidy_hashSector]

@[simp] theorem tidy_displace (die rind ways banks sec : Nat) : Tidy (displace s die rind ways banks sec) := by
  have lost : Tidy (displace.lost die rind sec s) := tidy_evictSector (by simp [inv]) ..
  unfold displace
  dsimp only
  split
  · exact inv
  split
  · exact inv
  split
  · split
    · exact lost
    split
    · simp [inv]
    split
    · exact lost
    · next own => exact tidy_allocEntry inv _ _ _ _ own
  · simp [inv]

@[simp] theorem tidy_assignCave (die rind : Nat) (v : Dword) : Tidy (assignCave s die rind v) :=
  foldl_tidy (fun _ _ hs => tidy_displace hs ..) _ inv

@[simp] theorem tidy_writeRcfg (die rind : Nat) (v : Dword) : Tidy (writeRcfg s die rind v) := by
  simp [writeRcfg, inv]

theorem tidyNext_execCaveRcfgWrite (die rind : Nat) (v : Dword) : TidyNext (execCaveRcfgWrite die rind v s) := by
  simp [execCaveRcfgWrite, inv]

@[simp] theorem tidy_disableRow (die : Nat) (bank : Bool) (i : Nat) : Tidy (disableRow s die bank i) := by
  unfold disableRow
  (repeat' split) <;> grind [modCave_tabs, logTo_tabs, tidy_assignCave]

theorem tidyNext_execCavePatrol (die : Nat) (bank : Bool) (i : Nat) (found : PatrolFinding) :
    TidyNext (execCavePatrol die bank i found s) := by
  unfold execCavePatrol
  (repeat' split) <;> grind [tidyNext_next, modCave_tabs, tidy_disableRow, markRow_tabs]

end

end Sys2Proof.Machine
end

section
/-!
PROOFS. The tables of bytes under the control space and the events of the controllers (R71, R72, R261).
-/

namespace Sys2Proof.Machine

@[simp] theorem writePcmask_tabs (s : State) (st j : Nat) (v : Dword) (starter : Bool) :
    SameTabs s (writePcmask s st j v starter) := by simp [writePcmask]

@[simp] theorem writeQ_tabs (s : State) (st : Nat) (q : Bool) : SameTabs s (writeQ s st q) := by simp [writeQ]

@[simp] theorem cspRead_tabs (d : BitVec 5) (s : State) (c : Ctx) : SameTabs s (cspRead d s c).1 := by
  unfold cspRead
  split
  · simp
  · split <;> simp

section
variable {s : State} (inv : Tidy s)
include inv

@[simp] theorem tidy_ctlWrite (starter : Bool) (r : CtlReg) (v : Dword) : Tidy (ctlWrite s starter r v) := by
  unfold ctlWrite
  split <;> simp [inv]

@[simp] theorem tidy_cspWrite (v : Dword) (c : Ctx) : Tidy (cspWrite v s c).1 := by
  unfold cspWrite
  (repeat' split) <;> grind [tidy_ctlWrite]

theorem tidyNext_execAclr (stack : Nat) : TidyNext (execAclr stack s) := by simp [execAclr, inv]

theorem tidyNext_execEclr (stack : Nat) : TidyNext (execEclr stack s) := by simp [execEclr, inv]

theorem tidyNext_execGo (stack : Nat) : TidyNext (execGo stack s) := by simp [execGo, inv]

theorem tidyNext_execQuiescence (stack : Nat) (q : Bool) : TidyNext (execQuiescence stack q s) := by
  simp [execQuiescence, inv]

theorem tidyNext_execQuiesced (stack : Nat) : TidyNext (execQuiesced stack s) := by simp [execQuiesced, inv]

theorem tidyNext_execHashChange (stack : Nat) : TidyNext (execHashChange stack s) := by
  unfold execHashChange
  dsimp only
  split <;> simp [inv]

theorem tidyNext_execPcmaskWrite (stack j : Nat) (v : Dword) (starter : Bool) :
    TidyNext (execPcmaskWrite stack j v starter s) := by simp [execPcmaskWrite, inv]

end

end Sys2Proof.Machine
end

section
/-!
PROOFS. The tables of bytes under messages and their arrival.
-/

namespace Sys2Proof.Machine

@[simp] theorem countRefused_tabs (s : State) (cn : Nat) : SameTabs s (countRefused s cn) := by simp [countRefused]

@[simp] theorem takeSnapshot_tabs (s : State) (l : Nat) : SameTabs s (takeSnapshot s l) := by
  unfold takeSnapshot
  split <;> simp

@[simp] theorem spoilPayload_tabs (s : State) (k : Nat) (old : Ctx) (frame : Dword) (rs : List Nat) :
    SameTabs s (spoilPayload s k old frame rs) := by
  induction rs generalizing s with
  | nil => simp [spoilPayload]
  | cons r rs ih => simp [spoilPayload, ih]

@[simp] theorem fabAnswer_tabs (s : State) (q : FabricPacket) (op err len : Nat) (body : BitVec 640) :
    SameTabs s (fabAnswer s q op err len body) := by simp [fabAnswer]

@[simp] theorem settleWatch_tabs (s : State) (m : BitVec 512) (accepted : Bool) :
    SameTabs s (settleWatch s m accepted) := by
  unfold settleWatch
  split <;> simp

@[simp] theorem forwardMessage_tabs (s : State) (f : Flight) (m : BitVec 512) :
    SameTabs s (forwardMessage s f m) := by simp [forwardMessage]

@[simp] theorem setInbox_tabs (s : State) (cl e : Nat) (l : List Queued) : SameTabs s (setInbox s cl e l) := by
  simp [setInbox]

@[simp] theorem placeCommand_tabs (s : State) (unit : Nat) (q : Queued) : SameTabs s (placeCommand s unit q).1 := by
  unfold placeCommand
  dsimp only
  split <;> simp

@[simp] theorem refuseFlight_tabs (s : State) (f : Flight) (r : Reply) (t : TrapRec) :
    SameTabs s (refuseFlight s f r t) := by simp [refuseFlight]

@[simp] theorem queueRefusal_tabs (s : State) (k : Nat) (t : TrapRec) : SameTabs s (queueRefusal s k t) := by
  unfold queueRefusal
  dsimp only
  split <;> simp

@[simp] theorem applyAck_tabs (s : State) (k : Nat) (gen : BitVec 8) (dec : Bool) (t : Option TrapRec) :
    SameTabs s (applyAck s k gen dec t) := by
  unfold applyAck
  dsimp only
  (repeat' split) <;> simp

@[simp] theorem applyRefusal_tabs (s : State) (r : Reply) (t : Option TrapRec) :
    SameTabs s (applyRefusal s r t) := by simp [applyRefusal]

@[simp] theorem sendMessage_tabs (s : State) (k : Nat) (m : BitVec 512) (acq rel : Bool) (scope : Nat) :
    SameTabs s (sendMessage s k m acq rel scope).1 := by
  unfold sendMessage
  dsimp only
  (repeat' split) <;> simp

@[simp] theorem sendChecked_tabs (s : State) (dst rpt : Nat) (rv : Bool) (fmt dk kind : Nat) (payload : BitVec 384)
    (o sc : BitVec 2) : SameTabs s (sendChecked s dst rpt rv fmt dk kind payload o sc).1 := by
  unfold sendChecked
  dsimp only
  (repeat' split) <;> simp

@[simp] theorem sendHeader_tabs (a : BitVec 5) (f : BitVec 3) (sc o : BitVec 2) (payload : Ctx → BitVec 384)
    (s : State) (c : Ctx) : SameTabs s (sendHeader a f sc o payload s c).1 := by
  unfold sendHeader
  dsimp only
  (repeat' split) <;> simp

@[simp] theorem configPort_tabs (s : State) (cn : Nat) (launch : Option Nat) (sys : Bool) (w : Dword) :
    SameTabs s (configPort s cn launch sys w).1 := by
  unfold configPort
  dsimp only
  (repeat' split) <;> simp

@[simp] theorem bindPattern_tabs (s : State) (cn : Nat) (launch : Option Nat) (sys : Bool) (index : Dword)
    (b : BitVec 256) : SameTabs s (bindPattern s cn launch sys index b).1 := by
  unfold bindPattern
  dsimp only
  (repeat' split) <;> simp

section
variable {s : State} (inv : Tidy s)
include inv

@[simp] theorem tidy_fillSlot (cn i : Nat) (m : BitVec 512) : Tidy (fillSlot s cn i m) := by simp [fillSlot, inv]

@[simp] theorem tidy_placeHost (rind : Nat) (m : BitVec 512) : Tidy (placeHost s rind m).1 := by
  unfold placeHost
  dsimp only
  split <;> simp [inv]

@[simp] theorem tidy_linkFrame (cn : Nat) (l : List (Nat × Nat)) : Tidy (linkFrame s cn l) := by
  induction l generalizing s with
  | nil => exact inv
  | cons e rest ih => exact ih (tidy_scratchWrite inv _)

@[simp] theorem tidy_placeStart (cn : Nat) (m : BitVec 512) : Tidy (placeStart s cn m).1 := by
  unfold placeStart
  (repeat' split) <;> grind [modCtx_tabs, modLaunch_tabs, makeRunnable_tabs, freshRegs_tabs, tidy_fillSlot,
    countRefused_tabs, tidy_linkFrame, takeSnapshot_tabs]

@[simp] theorem tidy_putMessage (m : BitVec 512) : Tidy (putMessage s m).1 := by
  unfold putMessage
  grind [setPort_tabs, tidy_fillSlot, countRefused_tabs, tidy_placeHost, tidy_placeStart]

@[simp] theorem tidy_placeMessage (m : BitVec 512) : Tidy (placeMessage s m).1 := by
  unfold placeMessage
  (repeat' split) <;> grind [wakeCore_tabs, tidy_putMessage]

@[simp] theorem tidy_takeRefs (cn : Nat) (refs : List (Nat × Nat)) (i : Nat) : Tidy (takeRefs s cn refs i).1 := by
  induction refs generalizing s i with
  | nil => exact inv
  | cons r rest ih =>
    unfold takeRefs
    (repeat' split) <;> grind [tidy_fillSlot, setPort_tabs]

theorem tidyNext_execPatternFiring (core : Nat) : TidyNext (execPatternFiring core s) := by
  unfold execPatternFiring
  (repeat' split) <;> grind [tidyNext_next, modCtx_tabs, makeRunnable_tabs, freshRegs_tabs, tidy_linkFrame,
    tidy_takeRefs, spoilPayload_tabs]

@[simp] theorem tidy_deliverFlight (n : Nat) : Tidy (deliverFlight s n) := by
  unfold deliverFlight
  (repeat' split) <;> grind [sendFor_tabs, tidy_placeMessage, settleWatch_tabs, forwardMessage_tabs,
    placeCommand_tabs, refuseFlight_tabs]

theorem tidyNext_execMessageArrival (src : PacketRef) : TidyNext (execMessageArrival src s) := by
  unfold execMessageArrival
  (repeat' split) <;> grind [tidyNext_next, tidy_placeMessage, fabAnswer_tabs, tidy_deliverFlight]

@[simp] theorem tidy_resendFlight (n : Nat) (kinds : List Nat) : Tidy (resendFlight s n kinds) := by
  unfold resendFlight
  split <;> simp [inv]

theorem tidyNext_execStartMessageResend (n : Nat) : TidyNext (execStartMessageResend n s) := by
  simp [execStartMessageResend, inv]

theorem tidyNext_execCompletionResend (n : Nat) : TidyNext (execCompletionResend n s) := by
  simp [execCompletionResend, inv]

theorem tidyNext_execHardwareResend (n : Nat) : TidyNext (execHardwareResend n s) := by
  simp [execHardwareResend, inv]

theorem tidyNext_execWatchResend (core slot : Nat) : TidyNext (execWatchResend core slot s) := by
  unfold execWatchResend
  (repeat' split) <;> grind [tidyNext_next, sendPacket_tabs]

theorem tidyNext_execReply (a b : BitVec 5) (f : BitVec 3) (sc o : BitVec 2) :
    TidyNext (execReply a b f sc o s) := by
  unfold execReply
  refine tidyNext_issue inv _ fun s c inv => ?_
  (repeat' split) <;> grind [tidy_withBlock, sendChecked_tabs]

theorem tidyNext_execPmsg (a : BitVec 5) (sc o : BitVec 2) : TidyNext (execPmsg a sc o s) := by
  unfold execPmsg
  refine tidyNext_issue inv _ fun s c inv => ?_
  grind [tidy_withBlock, sendChecked_tabs]

theorem tidyNext_execPbind (d a b : BitVec 5) : TidyNext (execPbind d a b s) := by
  unfold execPbind
  refine tidyNext_issue inv _ fun s c inv => ?_
  grind [modCtx_tabs, launchPacket_tabs, tidy_withBlock32]

end

end Sys2Proof.Machine
end

section
/-!
PROOFS. The tables of bytes under the counters and their watches.
-/

namespace Sys2Proof.Machine

@[simp] theorem updateCounter_tabs (s : State) (core i : Nat) (addend : Word) :
    SameTabs s (updateCounter s core i addend) := by simp [updateCounter]

@[simp] theorem watchAt_tabs (s : State) (rind : Nat) (name arg : Dword) :
    SameTabs s (watchAt s rind name arg).1 := by
  unfold watchAt
  dsimp only
  (repeat' split) <;> simp

@[simp] theorem bitmapWatchAt_tabs (s : State) (rind home : Nat) (pa : Nat) (va mask : Dword) (port : Word) :
    SameTabs s (bitmapWatchAt s rind home pa va mask port).1 := by
  unfold bitmapWatchAt
  dsimp only
  (repeat' split) <;> simp

@[simp] theorem postBody_tabs (name : Dword) (addend : Word) (o sc : BitVec 2) (s : State) (c : Ctx) :
    SameTabs s (postBody name addend o sc s c).1 := by
  unfold postBody
  split <;> simp

@[simp] theorem refuseFabric_tabs (s : State) (q : FabricPacket) (core : Nat) :
    SameTabs s (refuseFabric s q core) := by simp [refuseFabric]

@[simp] theorem performPost_tabs (s : State) (f : Flight) (name : Dword) (addend : Word) (rind : Nat) :
    SameTabs s (performPost s f name addend rind) := by simp [performPost]

section
variable {s : State} (inv : Tidy s)
include inv

theorem tidyNext_execCwatch (d a b : BitVec 5) : TidyNext (execCwatch d a b s) := by
  unfold execCwatch
  refine tidyNext_issue inv _ fun s c inv => ?_
  grind [modCtx_tabs, sendFabric_tabs, launchPacket_tabs]

theorem tidyNext_execSstatBw (d a b : BitVec 5) : TidyNext (execSstatBw d a b s) := by
  unfold execSstatBw
  refine tidyNext_issue inv _ fun s c inv => ?_
  grind [modCtx_tabs, sendFabric_tabs, tidy_touchLeaf, tidy_translate, launchPacket_tabs]

theorem tidyNext_execCounterPost (src : PacketRef) : TidyNext (execCounterPost src s) := by
  unfold execCounterPost
  (repeat' split) <;> grind [tidyNext_next, sendFillD_tabs, fabAnswer_tabs, updateCounter_tabs, refuseFabric_tabs,
    performPost_tabs]

theorem tidyNext_execWatchRequest (src : PacketRef) : TidyNext (execWatchRequest src s) := by
  unfold execWatchRequest
  (repeat' split) <;> grind [tidyNext_next, sendFillD_tabs, fabAnswer_tabs, watchAt_tabs, refuseFabric_tabs]

@[simp] theorem tidy_watchRead (home a : Nat) (launch : Option Nat) : Tidy (watchRead s home a launch).1 := by
  simp [watchRead, inv]

theorem tidyNext_execBitmapWatchRequest (src : PacketRef) : TidyNext (execBitmapWatchRequest src s) := by
  unfold execBitmapWatchRequest
  (repeat' split) <;> grind [tidyNext_next, countNack_tabs, sendPacket_tabs, sendFillD_tabs, fabAnswer_tabs,
    refuseFlight_tabs, bitmapWatchAt_tabs, refuseFabric_tabs, tidy_watchRead]

end

end Sys2Proof.Machine
end

section
/-!
PROOFS. The tables of bytes under the instructions about contexts.
-/

namespace Sys2Proof.Machine

@[simp] theorem yieldCtx_tabs (s : State) (k : Nat) : SameTabs s (yieldCtx s k) := by simp [yieldCtx]

@[simp] theorem sendArrival_tabs (s : State) (owner : Option (Nat × BitVec 8)) (src sctx dest l : Nat)
    (words : List Dword) (trail : Trail) (reply : Option Reply) :
    SameTabs s (sendArrival s owner src sctx dest l words trail reply) := by simp [sendArrival]

@[simp] theorem reown_tabs (s : State) (k j : Nat) : SameTabs s (reown s k j) := by simp [reown]

section
variable {s : State} (inv : Tidy s)
include inv

theorem tidyNext_execSpawn (d a b : BitVec 5) : TidyNext (execSpawn d a b s) := by
  unfold execSpawn
  refine tidyNext_issue inv _ fun s c inv => ?_
  grind [modCtx_tabs, makeRunnable_tabs, answer_tabs, freshRegs_tabs]

@[simp] theorem tidy_spawnTarget (k : Nat) (h : Bool) (va : Dword) : Tidy (spawnTarget s k h va).1 := by
  unfold spawnTarget
  (repeat' split) <;> grind [tidy_touchLeaf, tidy_translate]

theorem tidyNext_execSpawnr (d a b : BitVec 5) (h : BitVec 1) : TidyNext (execSpawnr d a b h s) := by
  unfold execSpawnr
  refine tidyNext_issue inv _ fun s c inv => ?_
  grind [modCtx_tabs, modLaunch_tabs, answer_tabs, tidy_spawnTarget, sendArrival_tabs]

theorem tidyNext_execMigr (a : BitVec 5) : TidyNext (execMigr a s) := by
  unfold execMigr
  refine tidyNext_issue inv _ fun s c inv => ?_
  grind [tidy_touchLeaf, tidy_translate, startMigration_tabs]

@[simp] theorem tidy_hoopBody (d : BitVec 5) (op : AccOp) (ea : Dword) : Tidy (hoopBody s d op ea).1 := by
  unfold hoopBody
  split
  · exact inv
  · exact tidy_doAccess inv ..

theorem tidyNext_execArrivalPacket (src : PacketRef) : TidyNext (execArrivalPacket src s) := by
  unfold execArrivalPacket
  (repeat' split) <;> grind [tidyNext_next, modLaunch_tabs, sendFillD_tabs, tidy_placeArrival, fabAnswer_tabs]

theorem tidyNext_execMigration (core ctx : Nat) : TidyNext (execMigration core ctx s) := by
  unfold execMigration
  grind [tidyNext_next, modCtx_tabs, makeRunnable_tabs, tidy_releaseSlot, sendArrival_tabs]

theorem tidyNext_execRoamingSeat (core slot : Nat) : TidyNext (execRoamingSeat core slot s) := by
  unfold execRoamingSeat
  grind [tidyNext_next, modCtx_tabs, modLaunch_tabs, logCore_tabs, makeRunnable_tabs, freshRegs_tabs,
    tidy_releaseSlot, tidy_endCtx, tidy_enterTrap, reown_tabs]

theorem tidyNext_execSchedulerSelection (core : Nat) : TidyNext (execSchedulerSelection core s) := by
  unfold execSchedulerSelection
  dsimp only
  split
  · simp [inv]
  split
  · simp [inv]
  · rw [tidyNext_next]
    refine foldl_tidy (fun _ _ hs => ?_) _ inv
    split <;> simp [hs]

theorem tidyNext_execPreemption (core : Nat) : TidyNext (execPreemption core s) := by
  unfold execPreemption
  (repeat' split) <;> grind [tidyNext_next, yieldCtx_tabs]

theorem tidyNext_execDeferredTrap (core : Nat) : TidyNext (execDeferredTrap core s) := by
  unfold execDeferredTrap
  (repeat' split) <;> grind [tidyNext_next, tidy_takeDeferred]

theorem tidyNext_execGatedEntry (core : Nat) : TidyNext (execGatedEntry core s) := by
  unfold execGatedEntry
  grind [tidyNext_next, modCore_tabs]

end

end Sys2Proof.Machine
end

section
/-!
PROOFS. The tables of bytes under the tasks.
-/

namespace Sys2Proof.Machine

@[simp] theorem putArm_tabs (s : State) (cl e : Nat) (a : Arm) : SameTabs s (putArm s cl e a) := by simp [putArm]

@[simp] theorem takeEntry_tabs (s : State) (cl e : Nat) (a : Arm) (r : Reply) :
    SameTabs s (takeEntry s cl e a r) := by simp [takeEntry]

@[simp] theorem placeOnRack_tabs (s : State) (cl e : Nat) : SameTabs s (placeOnRack s cl e) := by
  unfold placeOnRack
  dsimp only
  split <;> simp

@[simp] theorem enterRack_tabs (s : State) (cl : Nat) (es : List Nat) : SameTabs s (enterRack s cl es) := by
  simp [enterRack]

@[simp] theorem countDone_tabs (s : State) (cl e launch : Nat) : SameTabs s (countDone s cl e launch).1 := by
  unfold countDone
  dsimp only
  (repeat' split) <;> simp

@[simp] theorem countDones_tabs (cl launch : Nat) (rest : List Nat) (s : State) (es : List Nat) :
    SameTabs s (countDones cl launch rest s es).1 := by
  induction rest generalizing s es with
  | nil => simp [countDones]
  | cons e rest ih => simp [countDones, ih]

@[simp] theorem postDone_tabs (s : State) (names : List Dword) (launch : Nat) :
    SameTabs s (postDone s names launch) := by simp [postDone]

@[simp] theorem armAt_tabs (s : State) (name : Dword) (launch : Nat) (block : Dword) (t : Vec) :
    SameTabs s (armAt s name launch block t).1 := by
  unfold armAt
  dsimp only
  split <;> simp

@[simp] theorem sendDone_tabs (s : State) (k batch : Nat) (launch : Nat) (o sc : BitVec 2) (nss : List (List Dword)) :
    SameTabs s (sendDone s k batch launch o sc nss) := by
  induction nss generalizing s with
  | nil => simp [sendDone]
  | cons ns rest ih => simp [sendDone, ih]

@[simp] theorem settleBatch_tabs (s : State) (b n : Nat) : SameTabs s (settleBatch s b n) := by
  unfold settleBatch
  split <;> simp

@[simp] theorem stealStep_tabs (s : State) (n : Nat) (f : Flight) (r : Reply) (launch : Nat) (todo : List Nat) :
    SameTabs s (stealStep s n f r launch todo) := by
  unfold stealStep
  dsimp only
  (repeat' split) <;> simp

section
variable {s : State} (inv : Tidy s)
include inv

theorem tidyNext_execRackPlacement (cluster : Nat) : TidyNext (execRackPlacement cluster s) := by
  unfold execRackPlacement
  (repeat' split) <;> grind [tidyNext_next, placeOnRack_tabs]

theorem tidyNext_execTarm (d a b : BitVec 5) : TidyNext (execTarm d a b s) := by
  unfold execTarm
  refine tidyNext_issue inv _ fun s c inv => ?_
  grind [answer_tabs, tidy_withBlock, armAt_tabs]

theorem tidyNext_execTdone (d a : BitVec 5) (sc o : BitVec 2) : TidyNext (execTdone d a sc o s) := by
  unfold execTdone
  refine tidyNext_issue inv _ fun s c inv => ?_
  grind [modCtx_tabs, answer_tabs, tidy_withList, tidy_withBlock, sendDone_tabs]

theorem tidyNext_execDonePost (src : PacketRef) : TidyNext (execDonePost src s) := by
  unfold execDonePost
  (repeat' split) <;> grind [tidyNext_next, fabAnswer_tabs, postDone_tabs, settleBatch_tabs]

theorem tidyNext_execTake (d : BitVec 5) (w : BitVec 1) : TidyNext (execTake d w s) := by
  unfold execTake
  refine tidyNext_issue inv _ fun s c inv => ?_
  dsimp only
  split <;> simp [inv]

end

end Sys2Proof.Machine
end

section
/-!
PROOFS. The tables of bytes under the packets of the network.
-/

namespace Sys2Proof.Machine

@[simp] theorem collectPart_tabs (s : State) (a : Access) (off : Nat) (e : PartEnd) :
    SameTabs s (collectPart s a off e) := by
  unfold collectPart
  dsimp only
  (repeat' split) <;> simp

@[simp] theorem answerAccess_tabs (s : State) (f : Flight) (a : Access) (p : Performed) :
    SameTabs s (answerAccess s f a p) := by
  unfold answerAccess
  split <;> simp

@[simp] theorem endRemote_tabs (s : State) (ctx : Nat) (gen : BitVec 8) (r : Option Reply) (acc : AccKind)
    (ea : Dword) (refusal : TrapRec) (err : Nat) : SameTabs s (endRemote s ctx gen r acc ea refusal err) := by
  unfold endRemote
  dsimp only
  (repeat' split) <;> simp

@[simp] theorem refillWalks_tabs (s : State) (cl : Nat) : SameTabs s (refillWalks s cl) := by
  unfold refillWalks
  dsimp only
  (repeat' split) <;> simp

@[simp] theorem endWalk_tabs (s : State) (cl : Nat) (j : WalkJob) (left : Option Walk) :
    SameTabs s (endWalk s cl j left) := by
  unfold endWalk
  split <;> simp

@[simp] theorem setPhase_tabs (s : State) (cl : Nat) (j : WalkJob) (p : WalkPhase) :
    SameTabs s (setPhase s cl j p) := by simp [setPhase]

@[simp] theorem askTouch_tabs (s : State) (cl : Nat) (j : WalkJob) (e : Dword) (c : BitVec 128) (sh slot : Nat) :
    SameTabs s (askTouch s cl j e c sh slot) := by simp [askTouch]

section
variable {s : State} (inv : Tidy s)
include inv

theorem tidyNext_execFill (src : PacketRef) : TidyNext (execFill src s) := by
  unfold execFill
  (repeat' split) <;> grind [tidyNext_next, modCtx_tabs, tidy_applyFill, applyError_tabs, tidy_loseMember,
    fabAnswer_tabs, applyRefusal_tabs, bindPattern_tabs, stealStep_tabs]

@[simp] theorem tidy_outsideScratch (a : Access) : Tidy (outsideScratch s a).1 := by simp [outsideScratch, inv]

@[simp] theorem tidy_fabPerform (a : Access) : Tidy (fabPerform s a).1 := by simp [fabPerform, inv]

@[simp] theorem tidy_leafless (a : Access) : Tidy (leafless s a).1 := by
  unfold leafless
  (repeat' split) <;> grind [tidy_sliceRead, tidy_sliceWrite, fireBitmaps_tabs, tidy_performAt, tidy_outsideScratch]

theorem tidyNext_execRemoteWordAccess (src : PacketRef) : TidyNext (execRemoteWordAccess src s) := by
  unfold execRemoteWordAccess
  (repeat' split) <;> grind [tidyNext_next, tidy_performAt, sendRemoteNode_tabs, fabAnswer_tabs, answerAccess_tabs,
    tidy_fabPerform]

@[simp] theorem tidy_hoopAnswer (f : Flight) (a : Access) (seen : Option Dword) (v : Dword) :
    Tidy (hoopAnswer s f a seen v) := by simp [hoopAnswer, inv]

@[simp] theorem tidy_endAwaited (f : Flight) (q : FabricPacket) : Tidy (endAwaited s f q) := by
  unfold endAwaited
  (repeat' split) <;> grind [modCtx_tabs, modCore_tabs, modCluster_tabs, modLaunch_tabs, makeRunnable_tabs,
    discard_tabs, tidy_applyFill, tidy_placeArrival, tidy_unspillAnswer, sendHoop_tabs, settleWatch_tabs,
    applyAck_tabs, settleBatch_tabs, collectPart_tabs, endRemote_tabs, tidy_hoopAnswer]

theorem tidyNext_execAcknowledgement (src : PacketRef) : TidyNext (execAcknowledgement src s) := by
  unfold execAcknowledgement
  (repeat' split) <;> grind [tidyNext_next, applyAck_tabs, tidy_endAwaited]

@[simp] theorem tidy_walkLeaf (cl : Nat) (j : WalkJob) (e : Dword) (c : BitVec 128) (sh slot : Nat) :
    Tidy (walkLeaf s cl j e c sh slot) := by
  unfold walkLeaf
  (repeat' split) <;> grind [tidy_useLeaf, installLeaf_tabs, endWalk_tabs, askTouch_tabs]

@[simp] theorem tidy_walkStep (cl : Nat) (j : WalkJob) : Tidy (walkStep s cl j) := by
  unfold walkStep
  (repeat' split) <;> grind [askRemote_tabs, tidy_walkFrom, installLeaf_tabs, endWalk_tabs, setPhase_tabs,
    askTouch_tabs, tidy_walkLeaf]

theorem tidyNext_execPageWalk (core ctx : Nat) (va : BitVec 64) (acc : AccKind) :
    TidyNext (execPageWalk core ctx va acc s) := by
  unfold execPageWalk
  dsimp only
  split <;> simp [inv]

theorem tidyNext_execCodePageScan (core : Nat) (va : BitVec 64) : TidyNext (execCodePageScan core va s) := by
  unfold execCodePageScan
  (repeat' split) <;> grind [tidyNext_next, tidy_translateFetch]

end

end Sys2Proof.Machine
end

section
/-!
PROOFS. The tables of bytes under an engine's accesses.
-/

namespace Sys2Proof.Machine

@[simp] theorem sendCommand_tabs (s : State) (k e : Nat) (m : BitVec 512) (body : Vec) (o sc : BitVec 2) (r : Reply) :
    SameTabs s (sendCommand s k e m body o sc r) := by simp [sendCommand]

@[simp] theorem engRemote_tabs (s : State) (r : Req) (x : Xl) (w : EngWant) : SameTabs s (engRemote s r x w).1 := by
  simp [engRemote]

@[simp] theorem keepWalks_tabs (s t : State) (cl : Nat) : SameTabs s (keepWalks s t cl) := by simp [keepWalks]

@[simp] theorem postCounter_tabs (s : State) (name : Dword) (rind : Nat) (launch : Option Nat) (o : Ord) :
    SameTabs s (postCounter s name rind launch o) := by simp [postCounter]

@[simp] theorem asSeries_tabs (s t : State) : SameTabs s (asSeries s t) := by simp [asSeries]

@[simp] theorem postObjects_tabs (s : State) (q : Queued) (e : Ending) (tag : Nat) (port : Option Nat)
    (pbva ctr : Dword) : SameTabs s (postObjects s q e tag port pbva ctr) := by
  unfold postObjects
  split <;> simp

section
variable {s : State} (inv : Tidy s)
include inv

@[simp] theorem tidy_engStoreAt (a : Access) (be : BitVec 64) : Tidy (engStoreAt s a be).1 := by
  unfold engStoreAt
  dsimp only
  split
  · exact inv
  · simp [inv]

@[simp] theorem tidy_engPerform (r : Req) (x : Xl) (w : EngWant) : Tidy (engPerform s r x w).1 := by
  unfold engPerform
  dsimp only
  split
  · simp [inv]
  · split <;> next e => exact tidy_fst e (tidy_performAt inv _)

theorem tidy_engWith {act : State → Req → Xl → EngWant → State × EngRes}
    (ha : ∀ s r x w, Tidy s → Tidy (act s r x w).1) (r : Req) (w : EngWant) : Tidy (engWith act s r w).1 := by
  unfold engWith
  (repeat' split) <;> grind [tidy_translate, tidy_touchLeaf]

@[simp] theorem tidy_engAccess (r : Req) (w : EngWant) : Tidy (engAccess s r w).1 :=
  tidy_engWith inv (fun _ _ _ _ inv => by simp [inv]) ..

@[simp] theorem tidy_engIssue (r : Req) (w : EngWant) : Tidy (engIssue s r w).1 :=
  tidy_engWith inv (fun _ _ _ _ inv => inv) ..

@[simp] theorem tidy_engStore (r : Req) (late : Bool) (w : EngWant) : Tidy (engStore s r late w).1 := by
  simp [engStore, inv]

@[simp] theorem tidy_engAll (r : Req) (ws : List EngWant) (acc : List Vec) : Tidy (engAll s r ws acc).1 := by
  induction ws generalizing s acc with
  | nil => exact inv
  | cons w ws ih =>
    unfold engAll
    split <;> grind [tidy_engAccess]

@[simp] theorem tidy_storeAll (r : Req) (late : Bool) (ws : List EngWant) : Tidy (storeAll s r late ws).1 := by
  induction ws generalizing s with
  | nil => exact inv
  | cons w ws ih =>
    unfold storeAll
    split <;> grind [tidy_engStore]

@[simp] theorem tidy_headerRead (a : Nat) (launch : Option Nat) : Tidy (headerRead s a launch).1 := by
  simp [headerRead, inv]

@[simp] theorem tidy_headerWrite (a : Nat) (h : BitVec 256) (launch : Option Nat) :
    Tidy (headerWrite s a h launch) := by simp [headerWrite, inv]

end

end Sys2Proof.Machine
end

section
/-!
PROOFS. The tables of bytes under the Ladle.
-/

namespace Sys2Proof.Machine

@[simp] theorem copyBody_tabs (kind : Nat) (d a : BitVec 5) (arg : Ctx → Dword) (l : BitVec 1) (sc o : BitVec 2)
    (s : State) (c : Ctx) : SameTabs s (copyBody kind d a arg l sc o s c).1 := by
  unfold copyBody
  dsimp only
  (repeat' split) <;> simp

@[simp] theorem dropBlocks_tabs (s : State) (rind : Nat) (f : Nat → Bool) : SameTabs s (dropBlocks s rind f) := by
  simp [dropBlocks]

@[simp] theorem endQueued_tabs (s : State) (q : Queued) (port : Option Nat) : SameTabs s (endQueued s q port) := by
  simp [endQueued]

@[simp] theorem putCopy_tabs (s : State) (cl key : Nat) (x : Copy) : SameTabs s (putCopy s cl key x) := by
  simp [putCopy]

@[simp] theorem sendFollow_tabs (s : State) (q : Queued) (m : BitVec 512) : SameTabs s (sendFollow s q m).1 := by
  simp [sendFollow]

@[simp] theorem finishCopy_tabs (s : State) (cl key : Nat) (x : Copy) (e : Ending) :
    SameTabs s (finishCopy s cl key x e) := by simp [finishCopy]

@[simp] theorem offerFollow_tabs (s : State) (cl key : Nat) (x : Copy) (e : Ending) (m : BitVec 512) :
    SameTabs s (offerFollow s cl key x e m) := by
  have sent := sendFollow_tabs s x.cmd m
  unfold offerFollow
  split <;> simp_all

section
variable {s : State} (inv : Tidy s)
include inv

theorem tidyNext_execCpbiBlk (d a : BitVec 5) : TidyNext (execCpbiBlk d a s) := by
  unfold execCpbiBlk
  refine tidyNext_issue inv _ fun s c inv => ?_
  grind [tidy_touchLeaf, tidy_translate, answer_tabs, dropBlocks_tabs]

@[simp] theorem tidy_acceptRead (r : Req) (va : Dword) (bad refused : Nat) :
    Tidy (acceptRead s r va bad refused).1 := by
  have read := tidy_engAccess inv r { op := .load, n := 64, va := va }
  unfold acceptRead
  generalize engAccess s r { op := .load, n := 64, va := va } = p at read ⊢
  obtain ⟨t, res⟩ := p
  cases res <;> exact read

@[simp] theorem tidy_readParams (cl ladle : Nat) (r : Req) (q : Queued) (cached : Bool) :
    Tidy (readParams s cl ladle r q cached).1 := by
  unfold readParams
  (repeat' split) <;> grind [modCluster_tabs, tidy_translate, tidy_acceptRead]

@[simp] theorem tidy_acceptCopy (cl ladle : Nat) (q : Queued) (cached : Bool) :
    Tidy (acceptCopy s cl ladle q cached).1 := by
  unfold acceptCopy
  (repeat' split) <;> grind [tidy_acceptRead, tidy_readParams]

theorem tidyNext_execLadleAccept (cluster ladle : Nat) (cached : Bool) :
    TidyNext (execLadleAccept cluster ladle cached s) := by
  unfold execLadleAccept
  (repeat' split) <;> grind [tidyNext_next, modCluster_tabs, setInbox_tabs, tidy_acceptCopy]

@[simp] theorem tidy_moveWords (r : Req) (late : Bool) (b : BitVec 512) (os : List Nat) :
    Tidy (moveWords r late b os s).1 := by
  induction os generalizing s with
  | nil => exact inv
  | cons o os ih =>
    unfold moveWords
    (repeat' split) <;> grind [tidy_engAccess, tidy_engStore]

@[simp] theorem tidy_putWords (r : Req) (late : Bool) (b : BitVec 512) (l : List (Nat × Vec)) :
    Tidy (putWords r late b l s).1 := by
  induction l generalizing s with
  | nil => exact inv
  | cons e rest ih =>
    unfold putWords
    split <;> grind [tidy_engStore]

@[simp] theorem tidy_expandAt (r : Req) (va : Dword) : Tidy (expandAt s r va).1 := by
  unfold expandAt
  dsimp only
  (repeat' split) <;> grind [tidy_translate, tidy_engAll, tidy_headerRead]

@[simp] theorem tidy_expandWords (r : Req) (late : Bool) (x : Copy) (c : Nat) (ts : List Nat) :
    Tidy (expandWords r late x c ts s).1 := by
  unfold expandWords
  grind [tidy_putWords, tidy_expandAt]

@[simp] theorem tidy_compressPiece (r : Req) (b : BitVec 512) (n : Nat) : Tidy (compressPiece r b n s).1 := by
  unfold compressPiece
  dsimp only
  (repeat' split) <;> grind [tidy_translate, tidy_engAll, tidy_headerRead, tidy_headerWrite]

@[simp] theorem tidy_postBits (r : Req) (q : Queued) (b : BitVec 512) (n : Nat) : Tidy (postBits r q b n s).1 := by
  unfold postBits
  (repeat' split) <;> grind [tidy_engAccess]

@[simp] theorem tidy_movePiece (r : Req) (x : Copy) (n : Nat) : Tidy (movePiece r x n s).1 := by
  unfold movePiece
  dsimp only
  split <;> simp [inv]

theorem tidyNext_execChunkComplete (cluster ladle place chunk : Nat) :
    TidyNext (execChunkComplete cluster ladle place chunk s) := by
  unfold execChunkComplete
  grind [tidyNext_next, countEnergy_tabs, keepWalks_tabs, tidy_postBits, putCopy_tabs, tidy_movePiece]

@[simp] theorem tidy_stopWords (r : Req) (x : Copy) : Tidy (stopWords r x s).1 := by
  unfold stopWords
  (repeat' split) <;> grind [tidy_moveWords, tidy_expandWords]

theorem tidyNext_execLadleCompletion (cluster ladle place : Nat) :
    TidyNext (execLadleCompletion cluster ladle place s) := by
  unfold execLadleCompletion
  grind [tidyNext_next, tidy_stopWords, finishCopy_tabs, offerFollow_tabs]

theorem tidyNext_execFollowOnResend (cluster ladle place : Nat) :
    TidyNext (execFollowOnResend cluster ladle place s) := by
  unfold execFollowOnResend
  grind [tidyNext_next, offerFollow_tabs]

end

end Sys2Proof.Machine
end

section
/-!
PROOFS. The tables of bytes under the Harp.
-/

namespace Sys2Proof.Machine

@[simp] theorem sendHarp_tabs (s : State) (kind : Nat) (o sc : BitVec 2) (reg lo : Nat) (opnd arg : Dword)
    (body : Vec) : SameTabs s (sendHarp s kind o sc reg lo opnd arg body).1 := by simp [sendHarp]

@[simp] theorem chainEnd_tabs (s : State) (q : Queued) (factor status : Nat) :
    SameTabs s (chainEnd s q factor status) := by simp [chainEnd]

@[simp] theorem descEnd_tabs (s : State) (q : Queued) (factor status : Nat) :
    SameTabs s (descEnd s q factor status) := by simp [descEnd]

@[simp] theorem countSlice_tabs (s : State) (d : List Dword) (k : Nat) (r : Req) :
    SameTabs s (countSlice s d k r) := by simp [countSlice]

section
variable {s : State} (inv : Tidy s)
include inv

@[simp] theorem tidy_slicePages (r : Req) (acc : AccKind) (vs : List Dword) (xs : List (AccKind × Xl)) :
    Tidy (slicePages s r acc vs xs).1 := by
  induction vs generalizing s xs with
  | nil => exact inv
  | cons va vs ih =>
    unfold slicePages
    (repeat' split) <;> grind [tidy_translate]

@[simp] theorem tidy_harpAccess (r : Req) (x : HCmd) (w : EngWant) (acc : AccKind) :
    Tidy (harpAccess s r x w acc).1 := by
  unfold harpAccess
  (repeat' split) <;> grind [tidy_useLeaf, tidy_engPerform]

@[simp] theorem tidy_harpReads (r : Req) (x : HCmd) (acc : AccKind) (n : Nat) (vas : List Dword) (vs : List Nat) :
    Tidy (harpReads s r x acc n vas vs).1 := by
  induction vas generalizing s vs with
  | nil => exact inv
  | cons va vas ih =>
    unfold harpReads
    split <;> grind [tidy_harpAccess]

@[simp] theorem tidy_harpWrites (r : Req) (x : HCmd) (n : Nat) (l : List (Dword × Nat)) :
    Tidy (harpWrites s r x n l).1 := by
  induction l generalizing s with
  | nil => exact inv
  | cons e rest ih =>
    unfold harpWrites
    split <;> grind [tidy_harpAccess]

@[simp] theorem tidy_readDesc (r : Req) (va : Dword) (n k : Nat) (acc : List Dword) :
    Tidy (readDesc s r va n k acc).1 := by
  induction n generalizing s k acc with
  | zero => exact inv
  | succ n ih =>
    unfold readDesc
    split <;> grind [tidy_engAccess]

@[simp] theorem tidy_acceptDesc (cl : Nat) (q : Queued) : Tidy (acceptDesc s cl q).1 := by
  unfold acceptDesc
  (repeat' split) <;> grind [modCluster_tabs, tidy_engAccess, tidy_readDesc, descEnd_tabs]

@[simp] theorem tidy_factorPages (r : Req) (d : List Dword) (digits : List Nat) (store : Bool) (k : Nat)
    (xs : List (AccKind × Xl)) : Tidy (factorPages s r d digits store k xs).1 := by
  unfold factorPages
  (repeat' split) <;> grind [tidy_slicePages]

@[simp] theorem tidy_translateFactors (r : Req) (d : List Dword) (digits : List Nat) (store : Bool) (ks : List Nat)
    (xs : List (AccKind × Xl)) : Tidy (translateFactors r d digits store ks xs s).1 := by
  induction ks generalizing s xs with
  | nil => exact inv
  | cons k ks ih =>
    unfold translateFactors
    split <;> grind [tidy_factorPages]

@[simp] theorem tidy_acceptChain (cl : Nat) (q : Queued) : Tidy (acceptChain s cl q).1 := by
  unfold acceptChain
  dsimp only
  split
  · simp [inv]
  split
  · simp [inv]
  split
  · simp [inv]
  split
  · simp [inv]
  split
  · next e => exact tidy_fst e (tidy_translateFactors inv ..)
  · next e => simpa using tidy_fst e (tidy_translateFactors inv ..)
  · next e => exact foldl_tidy (fun _ _ hs => tidy_touchLeaf hs ..) _ (tidy_fst e (tidy_translateFactors inv ..))

@[simp] theorem tidy_acceptHarp (cl : Nat) (q : Queued) : Tidy (acceptHarp s cl q).1 := by
  unfold acceptHarp
  split <;> simp [inv]

theorem tidyNext_execHarpAccept (cluster : Nat) : TidyNext (execHarpAccept cluster s) := by
  unfold execHarpAccept
  (repeat' split) <;> grind [tidyNext_next, setInbox_tabs, keepWalks_tabs, tidy_acceptHarp]

theorem tidy_readSlice (r : Req) (x : HCmd) (k : Nat) {p : State × HCmd} (e : readSlice s r x k = some p) :
    Tidy p.1 := by
  unfold readSlice at e
  grind [tidy_harpReads, countSlice_tabs]

theorem tidy_updateSlice (r : Req) (x : HCmd) (k : Nat) {p : State × HCmd} (e : updateSlice s r x k = some p) :
    Tidy p.1 := by
  unfold updateSlice at e
  grind [tidy_harpReads, tidy_harpWrites, countSlice_tabs]

/-- Steps that keep the form keep it along a list of factors. -/
theorem tidy_eachFactor {f : State → HCmd → Nat → Option (State × HCmd)}
    (hf : ∀ {s}, Tidy s → ∀ x k {p : State × HCmd}, f s x k = some p → Tidy p.1) (ks : List Nat) (x : HCmd)
    {p : State × HCmd} (e : eachFactor f ks (s, x) = some p) : Tidy p.1 := by
  induction ks generalizing s x with
  | nil =>
    obtain rfl := Option.some.inj e
    exact inv
  | cons k ks ih =>
    unfold eachFactor at e
    split at e
    · simp at e
    · next q step => exact ih (hf inv _ _ step) q.2 e

theorem tidy_serialStep (r : Req) (x : HCmd) {p : State × HCmd} (e : serialStep s r x = some p) : Tidy p.1 := by
  unfold serialStep at e
  dsimp only at e
  split at e
  · simp at e
  · next read =>
    have hread := tidy_eachFactor inv (fun inv _ _ _ e => tidy_readSlice inv _ _ _ e) _ _ read
    split at e
    · obtain rfl := Option.some.inj e
      exact hread
    · exact tidy_eachFactor hread (fun inv _ _ _ e => tidy_updateSlice inv _ _ _ e) _ _ e

theorem tidy_sliceStep (r : Req) (x : HCmd) (k : Nat) {p : State × HCmd} (e : sliceStep s r x k = some p) :
    Tidy p.1 := by
  unfold sliceStep at e
  grind [tidy_serialStep, tidy_readSlice, tidy_updateSlice]

theorem tidyNext_execSliceRequest (cluster cmd factor : Nat) : TidyNext (execSliceRequest cluster cmd factor s) := by
  unfold execSliceRequest
  split
  · simp [inv]
  split
  · simp [inv]
  split
  · simp [inv]
  · next step => simpa using tidy_sliceStep inv _ _ _ step

theorem tidyNext_execHarpCompletion (cluster cmd : Nat) : TidyNext (execHarpCompletion cluster cmd s) := by
  unfold execHarpCompletion
  (repeat' split) <;> grind [tidyNext_next, modCluster_tabs, sendFill_tabs, chainEnd_tabs]

end

end Sys2Proof.Machine
end

section
/-!
PROOFS. The tables of bytes under the system forms.
-/

namespace Sys2Proof.Machine

@[simp] theorem releaseSnapshot_tabs (s : State) (rind : Nat) : SameTabs s (releaseSnapshot s rind) := by
  simp [releaseSnapshot]

@[simp] theorem setDemoted_tabs (s : State) (l : Nat) (b : Bool) : SameTabs s (setDemoted s l b) := by
  simp [setDemoted]

@[simp] theorem writeEbud_tabs (s : State) (l : Nat) (v : Dword) : SameTabs s (writeEbud s l v) := by
  unfold writeEbud
  dsimp only
  split <;> simp

@[simp] theorem ctlPut_tabs (s : State) (k i : Nat) (v : Dword) : SameTabs s (ctlPut s k i v) := by simp [ctlPut]

section
variable {s : State} (inv : Tidy s)
include inv

theorem tidyNext_execCrd (d : BitVec 5) (i : BitVec 12) : TidyNext (execCrd d i s) := by
  unfold execCrd
  refine tidyNext_issue inv _ fun s c inv => ?_
  (repeat' split) <;> grind [setCtx_tabs, freshRegs_tabs, cspRead_tabs]

theorem tidyNext_execErd (d a : BitVec 5) : TidyNext (execErd d a s) := by
  unfold execErd
  refine tidyNext_issue inv _ fun s c inv => ?_
  dsimp only
  split <;> simp [inv]

theorem tidyNext_latchHint (h : Instr) : TidyNext (latchHint h s) := tidyNext_issue inv _ fun _ _ inv => inv

end

end Sys2Proof.Machine
end

section
/-!
PROOFS. The tables of bytes under the events of a launch.
-/

namespace Sys2Proof.Machine

@[simp] theorem claimSeats_tabs (s : State) (l n cn : Nat) : SameTabs s (claimSeats s l n cn) := by
  simp [claimSeats]

@[simp] theorem releaseSeat_tabs (s : State) (k : Nat) : SameTabs s (releaseSeat s k) := by simp [releaseSeat]

@[simp] theorem clearPort_tabs (s : State) (key : Nat) : SameTabs s (clearPort s key) := by simp [clearPort]

section
variable {s : State} (inv : Tidy s)
include inv

@[simp] theorem tidy_admitLaunch (rind front area : Nat) (b : BitVec 384) :
    Tidy (admitLaunch s rind front area b) := by
  have fused := foldl_tidy (f := fun s cl => if clusterIdle s cl then setFused s cl (bitAt b 91) else s)
    (fun _ _ hs => by split <;> simp [hs]) ((chosenCores b).map coreCluster).eraseDups inv
  simp [admitLaunch, fused]

theorem tidyNext_execLaunchAdmission (rind : Nat) : TidyNext (execLaunchAdmission rind s) := by
  unfold execLaunchAdmission
  (repeat' split) <;> grind [tidyNext_next, setPort_tabs, sendPacket_tabs, tidy_admitLaunch]

@[simp] theorem tidy_endLaunch (l : Nat) (x : Launch) : Tidy (endLaunch s l x) := by
  unfold endLaunch
  extract_lets mine dropped cleared unbound ks released forgotten freed cls idle
  have hidle : Tidy idle :=
    foldl_tidy (fun _ _ hs => tidy_partIdle hs ..) _ (by simp [freed, forgotten, released, unbound, cleared, inv])
  simp [hidle]

theorem tidyNext_execLaunchEnd (launch : Nat) : TidyNext (execLaunchEnd launch s) := by
  unfold execLaunchEnd
  (repeat' split) <;> grind [tidyNext_next, tidy_endLaunch]

theorem tidyNext_execEnergyReport (launch : Nat) : TidyNext (execEnergyReport launch s) := by
  simp [execEnergyReport, inv]

theorem tidyNext_execDemotion (launch : Nat) : TidyNext (execDemotion launch s) := by
  unfold execDemotion
  (repeat' split) <;> grind [tidyNext_next, setDemoted_tabs]

end

end Sys2Proof.Machine
end

section
/-!
PROOFS. The tables of bytes under what the host and the Starter do.
-/

namespace Sys2Proof.Machine

@[simp] theorem modPage_tabs (s : State) (rind : Nat) (f : HostPage → HostPage) : SameTabs s (modPage s rind f) := by
  simp [modPage]

@[simp] theorem hostPageRead_tabs (s : State) (rind off : Nat) : SameTabs s (hostPageRead s rind off) := by
  simp [hostPageRead]

@[simp] theorem starterControl_tabs (s : State) (a : Nat) : SameTabs s (starterControl s a) := by
  unfold starterControl
  split <;> simp

section
variable {s : State} (inv : Tidy s)
include inv

theorem tidyNext_execLaunchWrite (rind : Nat) (block : BitVec 512) : TidyNext (execLaunchWrite rind block s) := by
  unfold execLaunchWrite
  split <;> simp [inv]

theorem tidyNext_execLaunchRetry (rind : Nat) : TidyNext (execLaunchRetry rind s) := by
  unfold execLaunchRetry
  grind [tidyNext_next, tidy_placeMessage, modPage_tabs]

theorem tidyNext_execHeadWrite (rind : Nat) (value : BitVec 32) : TidyNext (execHeadWrite rind value s) := by
  simp [execHeadWrite, inv]

theorem tidyNext_execRegisterWrite (reg : StarterReg) (value : BitVec 64) :
    TidyNext (execRegisterWrite reg value s) := by
  unfold execRegisterWrite
  (repeat' split) <;> grind [tidyNext_next, modRind_tabs, tidy_ctlWrite, modPage_tabs]

@[simp] theorem tidy_outsideAccess (rind la : Nat) (write : Bool) (data : BitVec 64) :
    Tidy (outsideAccess s rind la write data).1 := by simp [outsideAccess, inv]

theorem tidyNext_execCxlMemAccess (rind : Nat) (write : Bool) (addr : Nat) (data : BitVec 64) :
    TidyNext (execCxlMemAccess rind write addr data s) := by
  unfold execCxlMemAccess
  (repeat' split) <;> grind [tidyNext_next, quarantineFrame_tabs, tidy_outsideAccess]

@[simp] theorem tidy_starterMem (write : Bool) (la : Nat) (data : BitVec 64) :
    Tidy (starterMem s write la data) := by
  unfold starterMem
  extract_lets out owner go
  have hout (t : State) (v : BitVec 64) : SameTabs t (out t v) := by dsimp only [out]; split <;> simp
  have hgo : Tidy go := by
    dsimp only [go]
    split
    · simp [hout, inv]
    · split <;> (next e => simp [hout, tidy_fst e (tidy_outsideAccess inv ..)])
  (repeat' split) <;> assumption

theorem tidyNext_execCxlCacheSnoop (line : Nat) (inval : Bool) (data : Option (BitVec 1024)) :
    TidyNext (execCxlCacheSnoop line inval data s) := by
  unfold execCxlCacheSnoop
  split
  · simp [inv]
  · dsimp only
    have written := canonical_dropTop (canonical_foldPut inv Prod.fst Prod.snd (overIn s.top (hostLineAddr line) 128))
      (hostLineAddr line) 128
    (repeat' split) <;> simp [written]

theorem tidyNext_execHostLinkRecovery : TidyNext (execHostLinkRecovery s) := by simp [execHostLinkRecovery, inv]

end

end Sys2Proof.Machine
end

section
/-!
PROOFS. The tables of bytes under the Press; a series of reads keeps them as each read does.
-/

namespace Sys2Proof.Machine

@[simp] theorem modPress_tabs (s : State) (cl p : Nat) (f : Press → Press) : SameTabs s (modPress s cl p f) := by
  simp [modPress]

@[simp] theorem pressBody_tabs (kind : Nat) (d a b : BitVec 5) (p sc o : BitVec 2) (s : State) (c : Ctx) :
    SameTabs s (pressBody kind d a b p sc o s c).1 := by
  unfold pressBody
  dsimp only
  (repeat' split) <;> simp

@[simp] theorem takeRecord_tabs (s : State) (cl p i : Nat) (y : PCmd) : SameTabs s (takeRecord s cl p i y) := by
  unfold takeRecord
  dsimp only
  split <;> simp

@[simp] theorem logPress_tabs (s : State) (cl y code : Nat) (data : Dword) :
    SameTabs s (logPress s cl y code data) := by simp [logPress]

@[simp] theorem countMism_tabs (s : State) (cl p n : Nat) : SameTabs s (countMism s cl p n) := by simp [countMism]

@[simp] theorem retirePress_tabs (s : State) (cl y : Nat) : SameTabs s (retirePress s cl y) := by
  unfold retirePress
  dsimp only
  split <;> simp

@[simp] theorem failPress_tabs (s : State) (cl y : Nat) : SameTabs s (failPress s cl y) := by simp [failPress]

@[simp] theorem countRows_tabs (s : State) (cl y : Nat) (r : Req) (cycles n : Nat) :
    SameTabs s (countRows s cl y r cycles n) := by simp [countRows]

@[simp] theorem checkKBlock_tabs (s : State) (cl p : Nat) (r : Req) (cycles : Nat) (d : PressDefect) :
    SameTabs s (checkKBlock s cl p r cycles d).1 := by
  unfold checkKBlock
  dsimp only
  (repeat' split) <;> simp

@[simp] theorem putPhase_tabs (s : State) (cl p i : Nat) (y : PCmd) (ph : PressPhase) :
    SameTabs s (putPhase s cl p i y ph) := by simp [putPhase]

@[simp] theorem writeBuffer_tabs (s : State) (cl p a : Nat) (bs : List Byte) :
    SameTabs s (writeBuffer s cl p a bs) := by simp [writeBuffer]

section
variable {s : State} (inv : Tidy s)
include inv

@[simp] theorem tidy_acceptPress (cl : Nat) (q : Queued) : Tidy (acceptPress s cl q).1 := by
  unfold acceptPress
  (repeat' split) <;> grind [tidy_acceptRead]

theorem tidyNext_execPressAccept (cluster press : Nat) : TidyNext (execPressAccept cluster press s) := by
  unfold execPressAccept
  (repeat' split) <;> grind [tidyNext_next, modCluster_tabs, setInbox_tabs, modPress_tabs, tidy_acceptPress]

theorem tidyNext_execBankLoad (cluster press : Nat) : TidyNext (execBankLoad cluster press s) := by
  unfold execBankLoad
  grind [tidyNext_next, modPress_tabs, takeRecord_tabs]

@[simp] theorem tidy_saveGroup (r : Req) (ws : List EngWant) : Tidy (saveGroup s r ws).1 := by
  unfold saveGroup
  (repeat' split) <;> grind [tidy_engAccess, tidy_engAll]

@[simp] theorem tidy_afterKBlock (r : Req) (q : Queued) (b : BitVec 512) (t : Bank) (g : Group) (stopping : Bool) :
    Tidy (afterKBlock s r q b t g stopping).1 := by
  unfold afterKBlock
  (repeat' split) <;> grind [tidy_storeAll, tidy_saveGroup]

/-- The state that a series of reads leaves. -/
def Reads.state {α : Type} : Reads α → State
  | .ok s _ => s
  | .fail s _ => s
  | .hold s => s

theorem tidy_readBytesAt (r : Req) (va : Dword) (n : Nat) (prog : Word) :
    Tidy (readBytesAt s r va n prog).state := by
  unfold readBytesAt
  split <;> grind [tidy_engAll, Reads.state]

theorem tidy_readRowFrom (r : Req) (b : BitVec 512) (t : Bank) (i : Nat) (prog : Word) (n f : Nat)
    (acc : List (Nat × List Int)) : Tidy (readRowFrom r b t i prog n f acc s).state := by
  induction n generalizing f acc s with
  | zero => exact inv
  | succ n ih =>
    unfold readRowFrom
    grind [tidy_readBytesAt, Reads.state]

theorem tidy_readRows (r : Req) (b : BitVec 512) (t : Bank) (f0 : Nat) (prog : Word) (is : List Nat)
    (acc : List (List (Nat × List Int))) : Tidy (readRows r b t f0 prog is acc s).state := by
  induction is generalizing acc s with
  | nil => exact inv
  | cons i is ih =>
    unfold readRows
    split <;> grind [tidy_readRowFrom, Reads.state]

theorem tidy_readStart (r : Req) (b : BitVec 512) (t : Bank) (g : Group) (prog : Word) :
    Tidy (readStart s r b t g prog).state := by
  unfold readStart
  (repeat' split) <;> grind [tidy_engAll, Reads.state]

theorem tidy_groupIn (r : Req) (b : BitVec 512) (t : Bank) (g : Group) : Tidy (groupIn s r b t g).state := by
  unfold groupIn readGroup
  (repeat' split) <;> grind [tidy_readStart, tidy_readRows, Reads.state]

theorem tidy_stepPmma (cl p : Nat) (defect : PressDefect) (i : Nat) (y : PCmd) (g : Group) (t : Bank) (only : Bool) :
    Tidy (stepPmma s cl p defect i y g t only) := by
  unfold stepPmma
  have read := tidy_groupIn inv (pressReq s cl y.cmd) y.block t g
  (repeat' split) <;> grind [keepWalks_tabs, putPhase_tabs, countRows_tabs, checkKBlock_tabs, tidy_afterKBlock,
    Reads.state]

theorem tidyNext_execKBlock (cluster press : Nat) (defect : PressDefect) :
    TidyNext (execKBlock cluster press defect s) := by
  unfold execKBlock
  (repeat' split) <;> grind [tidyNext_next, tidy_stepPmma]

@[simp] theorem tidy_copyWeights (cl p i : Nat) (y : PCmd) (n : Nat) : Tidy (copyWeights s cl p i y n) := by
  unfold copyWeights
  (repeat' split) <;> grind [tidy_engAccess, modPress_tabs, writeBuffer_tabs]

theorem tidyNext_execPressCompletion (cluster press : Nat) : TidyNext (execPressCompletion cluster press s) := by
  unfold execPressCompletion
  dsimp only
  (repeat' split) <;> grind [tidyNext_next, postObjects_tabs, modPress_tabs, tidy_copyWeights]

end

end Sys2Proof.Machine
end

section
/-!
PROOFS. The tables of bytes under the snapshot events.
-/

namespace Sys2Proof.Machine

@[simp] theorem latchCore_tabs (s : State) (t : Trigger) (seq : Word) (cn : Nat) :
    SameTabs s (latchCore s t seq cn) := by simp [latchCore]

@[simp] theorem latchRind_tabs (s : State) (rind : Nat) (t : Trigger) : SameTabs s (latchRind s rind t) := by
  unfold latchRind
  dsimp only
  split <;> simp

@[simp] theorem latchDue_tabs (s : State) (n : Nat) : SameTabs s (latchDue s n) := by
  refine foldl_sameTabs (fun s e => ?_) _ s
  split <;> simp

@[simp] theorem raiseAll_tabs (s : State) (src : Dword) (rinds : List Nat) : SameTabs s (raiseAll s src rinds) := by
  simp [raiseAll]

section
variable {s : State} (inv : Tidy s)
include inv

theorem tidyNext_execSnapshotLatch (rind : Nat) : TidyNext (execSnapshotLatch rind s) := by
  unfold execSnapshotLatch
  split <;> simp [inv]

theorem tidyNext_execSnapshotPin : TidyNext (execSnapshotPin s) := by simp [execSnapshotPin, inv]

theorem tidyNext_execSnapshotRequest (mask : BitVec 16) : TidyNext (execSnapshotRequest mask s) := by
  simp [execSnapshotRequest, inv]

theorem tidyNext_execSnapshotRelease (rind : Nat) : TidyNext (execSnapshotRelease rind s) := by
  unfold execSnapshotRelease
  split <;> simp [inv]

end

end Sys2Proof.Machine
end

section
/-!
PROOFS. The tables of bytes under cold reset, bring-up and management; a wiped cluster only loses bytes.
-/

namespace Sys2Proof.Machine

@[simp] theorem respond_tabs (s : State) (ws : List (BitVec 64)) : SameTabs s (respond s ws) := by simp [respond]

@[simp] theorem giveRegion_tabs (s : State) (rind r : Nat) : SameTabs s (giveRegion s rind r) := by
  simp [giveRegion]

@[simp] theorem openLauncher_tabs (s : State) (rind : Nat) : SameTabs s (openLauncher s rind) := by
  unfold openLauncher
  split <;> simp

@[simp] theorem spareChannel_tabs (s : State) (i ch : Nat) : SameTabs s (spareChannel s i ch) := by
  simp [spareChannel]

@[simp] theorem trainStack_tabs (s : State) (i : Nat) : SameTabs s (trainStack s i) := by simp [trainStack]

@[simp] theorem hardRepair_tabs (s : State) : SameTabs s (hardRepair s) := by simp [hardRepair]

section
variable {s : State} (inv : Tidy s)
include inv

@[simp] theorem tidy_coldState : Tidy (coldState s) := ⟨wf_filter _ inv.stored, rfl, rfl⟩

theorem tidyNext_execColdReset (ok : Bool) (digests : List (BitVec 512)) :
    TidyNext (execColdReset ok digests s) := by
  have := tidy_coldState inv
  simp [execColdReset, this]

theorem tidyNext_execPldmFirmwareUpdate (ok : Bool) (digests : List (BitVec 512)) :
    TidyNext (execPldmFirmwareUpdate ok digests s) := by
  unfold execPldmFirmwareUpdate
  split <;> simp [inv]

theorem tidyNext_execAttestation (index : Nat) : TidyNext (execAttestation index s) := by
  unfold execAttestation
  (repeat' split) <;> simp [inv]

@[simp] theorem tidy_wipeCluster (cl : Nat) : Tidy (wipeCluster s cl) := by
  unfold wipeCluster
  extract_lets mine gone freed spilled ks ended lines pads
  have hended : Tidy ended := foldl_tidy (fun _ _ hs => tidy_endCtx hs ..) _ (by simp [spilled, freed, inv])
  exact canonical_foldDropTop (canonical_filter hended _) ..

@[simp] theorem tidy_giveCluster (rind cl : Nat) : Tidy (giveCluster s rind cl) := by
  unfold giveCluster
  extract_lets old wiped named
  have hwiped : Tidy wiped := by dsimp only [wiped]; split <;> simp [inv]
  simp [named, hwiped]

@[simp] theorem tidy_assignRind (m : RindImage) : Tidy (assignRind s m) := by
  unfold assignRind
  split
  · exact inv
  · extract_lets k given regions caves peers set opened
    have hgiven : Tidy given := foldl_tidy (fun _ _ hs => tidy_giveCluster hs ..) _ inv
    have hcaves : Tidy caves :=
      foldl_tidy (fun _ _ hs => by split <;> simp [hs]) _ (by simp [regions, hgiven])
    have hpeers : Tidy peers := foldl_tidy (fun _ _ hs => by split <;> simp [hs]) _ hcaves
    have hset : Tidy set := tidy_ctlWrite (tidy_ctlWrite (tidy_ctlWrite hpeers ..) ..) ..
    simp [opened, hset]

theorem tidyNext_execPowerGood (image : List RindImage) : TidyNext (execPowerGood image s) := by
  unfold execPowerGood
  split
  · simp [inv]
  · exact (tidyNext_next _).2 (foldl_tidy (fun _ _ hs => tidy_assignRind hs ..) _ (by simp [inv]))

@[simp] theorem tidy_mgmtCommand (mask : BitVec 16) {f : State → State × List (BitVec 64)} (hf : Tidy (f s).1) :
    Tidy (mgmtCommand s mask f) := by
  unfold mgmtCommand
  split <;> simp [inv, hf]

theorem tidyNext_execEventRead (mask : BitVec 16) (n : Nat) : TidyNext (execEventRead mask n s) := by
  simp [execEventRead, inv]

theorem tidyNext_execMgmtSnapshot (mask : BitVec 16) : TidyNext (execMgmtSnapshot mask s) := by
  simp [execMgmtSnapshot, inv]

theorem tidyNext_execMgmtRelease (mask : BitVec 16) : TidyNext (execMgmtRelease mask s) := by
  simp [execMgmtRelease, inv]

@[simp] theorem tidy_powerQuery (mask : BitVec 16) : Tidy (powerQuery s mask) := by simp [powerQuery, inv]

theorem tidyNext_execPowerQuery : TidyNext (execPowerQuery s) := by simp [execPowerQuery, inv]

@[simp] theorem tidy_resetRind (rind : Nat) : Tidy (resetRind s rind) := by
  unfold resetRind
  extract_lets ended wiped
  have hended : Tidy ended := foldl_tidy (fun _ _ hs => by split <;> simp [hs]) _ inv
  have hwiped : Tidy wiped := foldl_tidy (fun _ _ hs => tidy_wipeCluster hs ..) _ hended
  split <;> simp [hwiped]

theorem tidyNext_execRindReset (mask : BitVec 16) : TidyNext (execRindReset mask s) := by
  have reset := foldl_tidy (f := resetRind) (fun _ _ hs => tidy_resetRind hs ..) (maskRinds mask) inv
  simp [execRindReset, inv, reset]

theorem tidyNext_execPldmMonitoring : TidyNext (execPldmMonitoring s) := by simp [execPldmMonitoring, inv]

end

end Sys2Proof.Machine
end

section
/-!
PROOFS. The tables of bytes under the branches, jumps and loops.
-/

namespace Sys2Proof.Machine

@[simp] theorem jumpTo_tabs (s : State) (t : Dword) : SameTabs s (jumpTo s t).1 := by
  unfold jumpTo
  split <;> simp

@[simp] theorem startLoop_tabs (s : State) (c : Ctx) (n : Dword) (L : BitVec 10) :
    SameTabs s (startLoop s c n L).1 := by
  unfold startLoop
  split
  · simp
  · split <;> simp

section
variable {s : State} (inv : Tidy s)
include inv

theorem tidyNext_branchOn (a : BitVec 5) (o : BitVec 16) (test : Dword → Bool) : TidyNext (branchOn a o test s) :=
  tidyNext_issue inv _ fun _ _ inv => inv

theorem tidyNext_branchFull (a : BitVec 5) (o : BitVec 16) (want : Bool) : TidyNext (branchFull a o want s) := by
  unfold branchFull
  extract_lets c
  split
  · simp [inv]
  · exact tidyNext_issue inv _ fun _ _ inv => inv

theorem tidyNext_execReps (a : BitVec 5) (L : BitVec 10) : TidyNext (execReps a L s) := by
  unfold execReps
  refine tidyNext_issue inv _ fun s c inv => ?_
  (repeat' split) <;> grind [startLoop_tabs]

end

end Sys2Proof.Machine
end

section
/-!
PROOFS. The tables of bytes under failures and take-over.
-/

namespace Sys2Proof.Machine

@[simp] theorem patrolHalf_tabs (s : State) (h : Nat) : SameTabs s (patrolHalf s h) := by simp [patrolHalf]

@[simp] theorem patrolAdds_tabs (s : State) (a : Nat) (found : PatrolFinding) :
    SameTabs s (patrolAdds s a found) := by
  unfold patrolAdds
  split <;> simp

@[simp] theorem receiveFlit_tabs (s : State) (port : Nat) (hdr : BitVec 128) :
    SameTabs s (receiveFlit s port hdr) := by
  unfold receiveFlit
  dsimp only
  split <;> exact ⟨rfl, rfl, rfl⟩

section
variable {s : State} (inv : Tidy s)
include inv

theorem tidyNext_execPatrolScrub (pa : Nat) (found : PatrolFinding) : TidyNext (execPatrolScrub pa found s) := by
  unfold execPatrolScrub
  dsimp only
  split <;> simp [inv]

theorem tidyNext_execChannelCopyComplete (stack : Nat) : TidyNext (execChannelCopyComplete stack s) := by
  unfold execChannelCopyComplete
  split <;> simp [inv]

theorem tidyNext_execCoreRetirement (core : Nat) (checker : Bool) :
    TidyNext (execCoreRetirement core checker s) := by
  unfold execCoreRetirement
  dsimp only
  split <;> simp [inv]

@[simp] theorem tidy_takeFailures (cl : Nat) : Tidy (takeFailures s cl) :=
  foldl_tidy (fun _ _ hs => by (repeat' split) <;> simp [hs]) _ (by simp [inv])

theorem tidyNext_execSpareRun (core : Nat) : TidyNext (execSpareRun core s) := by
  unfold execSpareRun
  extract_lets x free filled
  split
  · simp [inv]
  · have hfilled : Tidy filled := foldl_tidy (fun _ _ hs => tidy_unspillOne hs ..) _ (by simp [free, inv])
    simp [hfilled]

theorem tidyNext_execLaneDrop (port : Nat) : TidyNext (execLaneDrop port s) := by
  unfold execLaneDrop
  dsimp only
  split
  · exact (tidyNext_next _).2 inv
  · split <;> simp only [tidyNext_next, logUnit_tabs, Tidy] <;> exact inv

theorem tidyNext_execTimestamp (ts : BitVec 64) : TidyNext (execTimestamp ts s) := by simp [execTimestamp, inv]

theorem tidyNext_execRouteUpdate (port : Nat) (node : BitVec 16) (ports : BitVec 64) :
    TidyNext (execRouteUpdate port node ports s) := by
  unfold execRouteUpdate
  split <;> exact (tidyNext_next _).2 inv

theorem tidyNext_execFlitReplay (port : Nat) (seq : BitVec 16) : TidyNext (execFlitReplay port seq s) := by
  unfold execFlitReplay
  dsimp only
  split <;> simp [inv]

theorem tidyNext_receiveManagement (port : Nat) (q : FabricPacket) : TidyNext (receiveManagement s port q) := by
  unfold receiveManagement
  (repeat' split) <;> grind [tidyNext_next, fabAnswer_tabs, tidyNext_execSnapshotRequest, tidyNext_execTimestamp,
    tidyNext_execRouteUpdate]

theorem tidyNext_execThermalThrottle (die : Nat) (tenths : Nat) : TidyNext (execThermalThrottle die tenths s) := by
  unfold execThermalThrottle
  (repeat' split) <;> grind [tidyNext_next, modCave_tabs]

theorem tidyNext_execOutside (a : Outside) : TidyNext (execOutside a s) := by
  cases a with
  | management port hdr body => exact tidyNext_receiveManagement inv ..
  | _ => simp [execOutside, inv]

end

end Sys2Proof.Machine
end

section
/-!
PROOFS. The tables of bytes under the integer instructions: the three forms that all of them have.
-/

namespace Sys2Proof.Machine

section
variable {s : State} (inv : Tidy s)
include inv

theorem tidyNext_aluRR (d a b : BitVec 5) (f : Dword → Dword → Dword) : TidyNext (aluRR d a b f s) :=
  tidyNext_issue inv _ fun _ _ inv => inv

theorem tidyNext_aluR (d a : BitVec 5) (f : Dword → Dword) : TidyNext (aluR d a f s) :=
  tidyNext_issue inv _ fun _ _ inv => inv

theorem tidyNext_aluRI (d a : BitVec 5) (imm : Ctx → Dword) (f : Dword → Dword → Dword) :
    TidyNext (aluRI d a imm f s) := tidyNext_issue inv _ fun _ _ inv => inv

end

end Sys2Proof.Machine
end

section
/-!
PROOFS. The tables of bytes under the vector instructions: the forms that they have.
-/

namespace Sys2Proof.Machine

section
variable {s : State} (inv : Tidy s)
include inv

theorem tidyNext_vecOp (d : BitVec 5) (m : BitVec 3) (z : Bool) (n : Nat) (reads : List Nat) (f : Ctx → List Nat) :
    TidyNext (vecOp d m z n reads f s) := by
  unfold vecOp
  refine tidyNext_issue inv _ fun s c inv => ?_
  simp [inv]

theorem tidyNext_vint2 (d a b : BitVec 5) (t m : BitVec 3) (z : BitVec 1) (f : Nat → Nat → Nat → Nat) :
    TidyNext (vint2 d a b t m z f s) := by
  unfold vint2
  exact tidyNext_vecOp inv ..

theorem tidyNext_vintI (d a b : BitVec 5) (t m : BitVec 3) (z : BitVec 1) (f : Int → Int → Int) :
    TidyNext (vintI d a b t m z f s) := by
  unfold vintI
  exact tidyNext_vint2 inv ..

theorem tidyNext_execVabs (d a : BitVec 5) (t m : BitVec 3) (z : BitVec 1) : TidyNext (execVabs d a t m z s) := by
  unfold execVabs
  exact tidyNext_vecOp inv ..

theorem tidyNext_execVsplat (d a : BitVec 5) (t m : BitVec 3) (z : BitVec 1) :
    TidyNext (execVsplat d a t m z s) := by
  unfold execVsplat
  exact tidyNext_vecOp inv ..

theorem tidyNext_vflt2 (d a b : BitVec 5) (t m : BitVec 3) (z : BitVec 1) (f : Fmt → Rm → Nat → Nat → Nat) :
    TidyNext (vflt2 d a b t m z f s) := by
  unfold vflt2
  exact tidyNext_vecOp inv ..

theorem tidyNext_vflt1 (d a : BitVec 5) (t m : BitVec 3) (z : BitVec 1) (f : Fmt → Rm → Nat → Nat) :
    TidyNext (vflt1 d a t m z f s) := by
  unfold vflt1
  exact tidyNext_vecOp inv ..

theorem tidyNext_execVfma (d a b : BitVec 5) (t m : BitVec 3) (z : BitVec 1) :
    TidyNext (execVfma d a b t m z s) := by
  unfold execVfma
  exact tidyNext_vecOp inv ..

theorem tidyNext_execVcvt (d a : BitVec 5) (k : BitVec 5) (q : BitVec 2) (m : BitVec 3) (z : BitVec 1) :
    TidyNext (execVcvt d a k q m z s) := by
  unfold execVcvt
  refine tidyNext_issue inv _ fun s c inv => ?_
  simp [inv]

theorem tidyNext_execVperm (d a b : BitVec 5) (w m : BitVec 3) (z : BitVec 1) :
    TidyNext (execVperm d a b w m z s) := by
  unfold execVperm
  exact tidyNext_vecOp inv ..

theorem tidyNext_execVcmprs (d a : BitVec 5) (w m : BitVec 3) : TidyNext (execVcmprs d a w m s) := by
  unfold execVcmprs
  refine tidyNext_issue inv _ fun s c inv => ?_
  simp [inv]

theorem tidyNext_execVexpnd (d a : BitVec 5) (w m : BitVec 3) (z : BitVec 1) :
    TidyNext (execVexpnd d a w m z s) := by
  unfold execVexpnd
  exact tidyNext_vecOp inv ..

theorem tidyNext_vprmG (d a b : BitVec 5) (w m : BitVec 3) (z : BitVec 1) (f : (Nat → Nat) → Nat → Nat → Nat → Nat) :
    TidyNext (vprmG d a b w m z f s) := by
  unfold vprmG
  exact tidyNext_vecOp inv ..

theorem tidyNext_execVext (d a b : BitVec 5) (w : BitVec 3) : TidyNext (execVext d a b w s) := by
  unfold execVext
  refine tidyNext_issue inv _ fun s c inv => ?_
  simp [inv]

theorem tidyNext_execVins (d a b : BitVec 5) (w : BitVec 3) : TidyNext (execVins d a b w s) := by
  unfold execVins
  refine tidyNext_issue inv _ fun s c inv => ?_
  simp [inv]

theorem tidyNext_execViota (d : BitVec 5) (w m : BitVec 3) (z : BitVec 1) : TidyNext (execViota d w m z s) :=
  tidyNext_vecOp inv ..

theorem tidyNext_vred (d a : BitVec 5) (m : BitVec 3) (n : Nat) (f : List (Option Nat) → Nat) :
    TidyNext (vred d a m n f s) := tidyNext_issue inv _ fun _ _ inv => inv

theorem tidyNext_vredInt (d a : BitVec 5) (t m : BitVec 3) (f : Int → Int → Int) (ident : Int) :
    TidyNext (vredInt d a t m f ident s) := tidyNext_vred inv ..

theorem tidyNext_vredTree (d a : BitVec 5) (t m : BitVec 3) (f : Nat → Nat) : TidyNext (vredTree d a t m f s) :=
  tidyNext_vred inv ..

theorem tidyNext_vredExt (d a : BitVec 5) (t m : BitVec 3) (f : Nat → Nat → Nat) (ident : Nat) :
    TidyNext (vredExt d a t m f ident s) := tidyNext_vred inv ..

theorem tidyNext_vcmp (code : Nat) (d a b : BitVec 5) (t : BitVec 4) (m : BitVec 3) (z : BitVec 1) :
    TidyNext (vcmp code d a b t m z s) := by
  unfold vcmp
  refine tidyNext_issue inv _ fun s c inv => ?_
  simp [inv]

theorem tidyNext_predOp (d : BitVec 5) (reads : List Nat) (f : Ctx → Dword) : TidyNext (predOp d reads f s) :=
  tidyNext_issue inv _ fun _ _ inv => inv

theorem tidyNext_predToG (d a : BitVec 5) (f : Dword → Dword) : TidyNext (predToG d a f s) :=
  tidyNext_issue inv _ fun _ _ inv => inv

theorem tidyNext_vxsect (n : Nat) (d a b : BitVec 5) (m : BitVec 3) : TidyNext (vxsect n d a b m s) :=
  tidyNext_issue inv _ fun _ _ inv => inv

end

end Sys2Proof.Machine
end

section
/-!
PROOFS. The tables of bytes under the special functions and the pair merges.
-/

namespace Sys2Proof.Machine

section
variable {s : State} (inv : Tidy s)
include inv

theorem tidyNext_vsfn (op : Nat) (d a : BitVec 5) (t : BitVec 1) (m : BitVec 3) (z : BitVec 1) :
    TidyNext (vsfn op d a t m z s) := by
  unfold vsfn
  exact tidyNext_vecOp inv ..

theorem tidyNext_vpmerge (rescale : Bool) (d a b : BitVec 5) (m : BitVec 3) (z : BitVec 1) :
    TidyNext (vpmerge rescale d a b m z s) := tidyNext_vecOp inv ..

end

end Sys2Proof.Machine
end

section
/-!
PROOFS. The tables of bytes under the streams.
-/

namespace Sys2Proof.Machine

@[simp] theorem bindStream_tabs (s : State) (k key reg : Nat) (d : BitVec 512) :
    SameTabs s (bindStream s k key reg d) := by simp [bindStream]

@[simp] theorem endStream_tabs (s : State) (key : Nat) (t : Stream) : SameTabs s (endStream s key t) := by
  simp [endStream]

@[simp] theorem countElements_tabs (s : State) (t : Stream) (r : Req) (n : Nat) :
    SameTabs s (countElements s t r n) := by simp [countElements]

@[simp] theorem drainDone_tabs (s : State) (key : Nat) (t : Stream) : SameTabs s (drainDone s key t) := by
  simp [drainDone]

section
variable {s : State} (inv : Tidy s)
include inv

theorem tidyNext_execScfg (d a : BitVec 5) (b : BitVec 3) : TidyNext (execScfg d a b s) := by
  unfold execScfg
  refine tidyNext_issue inv _ fun s c inv => ?_
  extract_lets k
  split
  · simp [inv]
  · refine tidy_withBlock inv _ fun s _ inv => ?_
    (repeat' split) <;> simp [inv]

theorem tidyNext_execSclose (d : BitVec 5) (b : BitVec 3) : TidyNext (execSclose d b s) := by
  unfold execSclose
  refine tidyNext_issue inv _ fun s c inv => ?_
  dsimp only
  (repeat' split) <;> simp [inv]

theorem tidyNext_execSstat (d : BitVec 5) (b : BitVec 3) : TidyNext (execSstat d b s) :=
  tidyNext_issue inv _ fun _ _ inv => by simp [inv]

theorem tidy_putRing (t : Stream) (n : Nat) (bs : List Byte) : Tidy (putRing s t n bs) := tidy_scratchPut inv ..

omit inv in
/-- The first of the elements that are read; the equation lemmas of the definition are too deep for Lean. -/
theorem readElements_succ (r : Req) (t : Stream) (m n : Nat) : readElements s r t (m + 1) n =
    match engAccess s r { op := .load, n := 64, va := streamAddr t.desc n, col := streamXform t.desc == 3 } with
    | (s, .ok v) => readElements (putRing s t n (bytesOf v 64)) r { t with far := n + 1 } m (n + 1)
    | (s, .hold) => (s, t)
    | (s, e) => (s, { t with far := n, fail := some (n, streamCause e, 1, streamAddr t.desc n) }) := rfl

theorem tidy_readElements (r : Req) (t : Stream) (m n : Nat) : Tidy (readElements s r t m n).1 := by
  induction m generalizing t n s with
  | zero => exact inv
  | succ m ih =>
    rw [readElements_succ]
    have read := tidy_engAccess inv r
      { op := .load, n := 64, va := streamAddr t.desc n, col := streamXform t.desc == 3 }
    generalize engAccess s r _ = p at read ⊢
    obtain ⟨u, e⟩ := p
    cases e with
    | ok v => exact ih (tidy_putRing read ..) ..
    | _ => exact read

theorem tidy_readBlock (r : Req) (t : Stream) (n : Nat) : Tidy (readBlock s r t n).1 := by
  unfold readBlock
  dsimp only
  split <;> grind [tidy_expandAt, tidy_putRing]

theorem tidyNext_execStreamRefill (core slot : Nat) : TidyNext (execStreamRefill core slot s) := by
  unfold execStreamRefill
  grind [tidyNext_next, tidy_readBlock, tidy_readElements, countElements_tabs, streamBit_tabs]

omit inv in
/-- The first of the elements that are written; the equation lemmas of the definition are too deep for Lean. -/
theorem writeElements_succ (r : Req) (t : Stream) (m : Nat) : writeElements s r t (m + 1) =
    let n := t.far
    let va := streamAddr t.desc n
    let wrote := fun (s : State) => writeElements s r { t with far := n + 1, masks := t.masks.drop 1 } m
    if streamCount t.desc ≤ n then wrote s
    else if !scratchGood s (viewAddrs (ringAddr (ctxCore t.ctx) t.desc n) 64 false) then
      (s, { t with fail := some (n, 0x0E, 2, va) })
    else match engAccess s r { op := .store, n := 64, va := va, be := t.masks.headD 0
                               data := readVec s (ringAddr (ctxCore t.ctx) t.desc n) 64 } with
    | (s, .ok _) => wrote s
    | (s, .hold) => (s, t)
    | (s, e) => (s, { t with fail := some (n, streamCause e, 2, va) }) := rfl

theorem tidy_writeElements (r : Req) (t : Stream) (m : Nat) : Tidy (writeElements s r t m).1 := by
  induction m generalizing t s with
  | zero => exact inv
  | succ m ih =>
    rw [writeElements_succ]
    extract_lets n va wrote
    split
    · exact ih inv _
    · split
      · exact inv
      · have written := tidy_engAccess inv r
          { op := .store, n := 64, va := va, be := t.masks.headD 0
            data := readVec s (ringAddr (ctxCore t.ctx) t.desc n) 64 }
        generalize engAccess s r _ = p at written ⊢
        obtain ⟨u, e⟩ := p
        cases e with
        | ok v => exact ih written _
        | _ => exact written

theorem tidyNext_execStreamDrain (core slot : Nat) : TidyNext (execStreamDrain core slot s) := by
  unfold execStreamDrain
  grind [tidyNext_next, tidy_writeElements, countElements_tabs, streamBit_tabs, drainDone_tabs]

end

end Sys2Proof.Machine
end

section
/-!
PROOFS. The tables of bytes under the XLAT instructions.
-/

namespace Sys2Proof.Machine

@[simp] theorem shootDown_tabs (s : State) (rind kind mask asid : Nat) (va : Dword) :
    SameTabs s (shootDown s rind kind mask asid va) := by simp [shootDown]

@[simp] theorem flipTable_tabs (s : State) (rind : Nat) (m : BitVec 256) : SameTabs s (flipTable s rind m) := by
  simp [flipTable]

section
variable {s : State} (inv : Tidy s)
include inv

theorem tidyNext_execTlbi (d a b : BitVec 5) (kind : BitVec 2) : TidyNext (execTlbi d a b kind s) := by
  unfold execTlbi
  refine tidyNext_issue inv _ fun s c inv => ?_
  dsimp only
  (repeat' split) <;> simp [inv]

theorem tidy_withMask (c : Ctx) (a : BitVec 5) {f : State → BitVec 256 → State × Done}
    (hf : ∀ t m, Tidy t → Tidy (f t m).1) : Tidy (withMask s c a f).1 := by
  unfold withMask
  dsimp only
  split
  · exact inv
  · split
    · exact inv
    · exact tidy_withBlock32 inv _ hf

theorem tidyNext_execVflip (d a : BitVec 5) : TidyNext (execVflip d a s) :=
  tidyNext_issue inv _ fun _ _ inv => tidy_withMask inv _ _ fun _ _ inv => by simp [inv]

theorem tidyNext_execVflipc (d a b : BitVec 5) : TidyNext (execVflipc d a b s) := by
  unfold execVflipc
  refine tidyNext_issue inv _ fun s c inv => ?_
  refine tidy_withMask inv _ _ fun s m inv => ?_
  refine tidy_withBlock32 inv _ fun s blk inv => ?_
  dsimp only
  split
  · exact inv
  · split
    · simp [inv]
    · refine tidy_withList inv _ _ fun s ds inv => ?_
      split <;> simp [inv]

theorem tidyNext_execVpin (d a : BitVec 5) : TidyNext (execVpin d a s) :=
  tidyNext_issue inv _ fun _ _ inv => tidy_withMask inv _ _ fun _ _ inv => by simp [inv]

theorem tidyNext_execVrd (d : BitVec 5) (src : BitVec 1) (w : BitVec 2) : TidyNext (execVrd d src w s) :=
  tidyNext_issue inv _ fun _ _ inv => by simp [inv]

end

end Sys2Proof.Machine
end

section
/-!
PROOFS. The tables of bytes under every row of the opcode table.
-/

namespace Sys2Proof.Machine

section
variable {s : State} (inv : Tidy s)
include inv

theorem tidyNext_exec (i : Instr) : TidyNext (exec i s) := by
  unfold exec
  cases i with
  | add | sub | and | or | xor | andn | shl | shr | sar | slt | sltn | min | max | minn | maxn | mul | mulh |
    mulhn | div | divn | rem | remn =>
      exact tidyNext_aluRR inv ..
  | clz | ctz | popc | shli | shri | sari | shliW | shriW | sariW => exact tidyNext_aluR inv ..
  | addi | andi | ori | xori | slti | sltin => exact tidyNext_aluRI inv ..
  | addpc | lhi | br | jmp | call | ppeek | park | steal | cld | cldG | cstg | cstgG | nop =>
      exact tidyNext_issue inv _ fun _ _ inv => inv
  | ldb | ldbn | ldh | ldhn | ldw | ldwn | ldd => exact tidyNext_loadG inv ..
  | stb | sth | stw | std => exact tidyNext_storeG inv ..
  | vld | vst | stx | vldu | vstu | jr | callr | ret | rep | send | sendv | pcfg | punbind | exit | yield | hoopin
    | hoopout | kill | cinc | cadd | crdc | tdisarm | cpy | cpym | cpyc | cpbiAll | cstat | cstatStop | sstatBt |
    pwld | pmma | pstop | pres | pstat | pstatHl | cdesc | cfnc | dedupqCnt | trap | eret | cwr | snap | gate |
    cspDataRead | cspDataWrite | ebudWrite =>
      exact tidyNext_issue inv _ fun _ _ inv => by simp [inv]
  | ldx | ldxn => exact tidyNext_loadX inv ..
  | vgath => exact tidyNext_execVgath inv ..
  | vscat => exact tidyNext_execVscat inv ..
  | amoSwap | amoCas | amoAdd | amoAnd | amoOr | amoXor | amoSmin | amoSmax | amoUmin | amoUmax | amoFadd =>
      exact tidyNext_amo inv ..
  | fence | fenceAcq | fenceRel => exact tidyNext_fenceOf inv ..
  | beqz | bnez | bltz | bgez | bgtz | blez | bodd | bevn => exact tidyNext_branchOn inv ..
  | bemp | bful => exact tidyNext_branchFull inv ..
  | reps => exact tidyNext_execReps inv ..
  | vadd | vsub | vadds | vsubs | vmul | vmulh | vmin | vmax => exact tidyNext_vintI inv ..
  | vand | vor | vxor | vandn | vshl | vshr => exact tidyNext_vint2 inv ..
  | vabs => exact tidyNext_execVabs inv ..
  | vsplat => exact tidyNext_execVsplat inv ..
  | vaddFp | vsubFp | vmulFp | vdiv | vminFp | vmaxFp => exact tidyNext_vflt2 inv ..
  | vfma => exact tidyNext_execVfma inv ..
  | vsqrt | vabsFp | vneg => exact tidyNext_vflt1 inv ..
  | vcvt => exact tidyNext_execVcvt inv ..
  | vperm => exact tidyNext_execVperm inv ..
  | vcmprs => exact tidyNext_execVcmprs inv ..
  | vexpnd => exact tidyNext_execVexpnd inv ..
  | vslup | vsldn | vbcst => exact tidyNext_vprmG inv ..
  | vext => exact tidyNext_execVext inv ..
  | vins => exact tidyNext_execVins inv ..
  | viota => exact tidyNext_execViota inv ..
  | vraddInt | vrminInt | vrmaxInt => exact tidyNext_vredInt inv ..
  | vraddFp | vrssq => exact tidyNext_vredTree inv ..
  | vrminFp | vrmaxFp => exact tidyNext_vredExt inv ..
  | vrcp | vrsqrt | vexp2 | vlog2 | vexp | vlog | vtanh | vsigm => exact tidyNext_vsfn inv ..
  | vpmrg | vpmrge => exact tidyNext_vpmerge inv ..
  | vcmpeq | vcmpne | vcmplt | vcmple | vcmpgt | vcmpge => exact tidyNext_vcmp inv ..
  | pand | por | pxor | pandn | pnot | pmovgp => exact tidyNext_predOp inv ..
  | pmovpg | vpcnt8 | vpcnt16 | vpcnt32 | vpcnt64 => exact tidyNext_predToG inv ..
  | vxsectN32 | vxsectN64 => exact tidyNext_vxsect inv ..
  | reply => exact tidyNext_execReply inv ..
  | pmsg => exact tidyNext_execPmsg inv ..
  | pbind => exact tidyNext_execPbind inv ..
  | spawn => exact tidyNext_execSpawn inv ..
  | spawnr => exact tidyNext_execSpawnr inv ..
  | migr => exact tidyNext_execMigr inv ..
  | cwatch => exact tidyNext_execCwatch inv ..
  | tarm => exact tidyNext_execTarm inv ..
  | tdone => exact tidyNext_execTdone inv ..
  | take => exact tidyNext_execTake inv ..
  | cpbiBlk => exact tidyNext_execCpbiBlk inv ..
  | scfg => exact tidyNext_execScfg inv ..
  | sclose => exact tidyNext_execSclose inv ..
  | sstat => exact tidyNext_execSstat inv ..
  | sstatBw => exact tidyNext_execSstatBw inv ..
  | clean => exact tidyNext_execClean inv ..
  | inval => exact tidyNext_execInval inv ..
  | pref => exact tidyNext_execPref inv ..
  | orient => exact tidyNext_execOrient inv ..
  | dedupqSec => exact tidyNext_execDedupqSec inv ..
  | tlbi => exact tidyNext_execTlbi inv ..
  | vflip => exact tidyNext_execVflip inv ..
  | vflipc => exact tidyNext_execVflipc inv ..
  | vpin => exact tidyNext_execVpin inv ..
  | vrd => exact tidyNext_execVrd inv ..
  | crd => exact tidyNext_execCrd inv ..
  | erd => exact tidyNext_execErd inv ..
  | hImm | hSched | hMod => exact tidyNext_latchHint inv ..
  | aclr => exact tidyNext_execAclr inv ..
  | eclr => exact tidyNext_execEclr inv ..
  | go => exact tidyNext_execGo inv ..
  | quiescence => exact tidyNext_execQuiescence inv ..
  | quiesced => exact tidyNext_execQuiesced inv ..
  | hashChange => exact tidyNext_execHashChange inv ..
  | pcmaskWrite => exact tidyNext_execPcmaskWrite inv ..
  | caveRcfgWrite => exact tidyNext_execCaveRcfgWrite inv ..
  | snapshotRelease => exact tidyNext_execSnapshotRelease inv ..
  | launchWrite => exact tidyNext_execLaunchWrite inv ..
  | headWrite => exact tidyNext_execHeadWrite inv ..
  | registerWrite => exact tidyNext_execRegisterWrite inv ..
  | coldReset => exact tidyNext_execColdReset inv ..
  | powerGood => exact tidyNext_execPowerGood inv ..
  | snapshotPin => exact tidyNext_execSnapshotPin inv ..
  | snapshotLatch => exact tidyNext_execSnapshotLatch inv ..
  | thermalThrottle => exact tidyNext_execThermalThrottle inv ..
  | cxlMemAccess => exact tidyNext_execCxlMemAccess inv ..
  | launchRetry => exact tidyNext_execLaunchRetry inv ..
  | launchAdmission => exact tidyNext_execLaunchAdmission inv ..
  | startMessageResend => exact tidyNext_execStartMessageResend inv ..
  | launchEnd => exact tidyNext_execLaunchEnd inv ..
  | completionResend => exact tidyNext_execCompletionResend inv ..
  | messageArrival => exact tidyNext_execMessageArrival inv ..
  | patternFiring => exact tidyNext_execPatternFiring inv ..
  | fill => exact tidyNext_execFill inv ..
  | acknowledgement => exact tidyNext_execAcknowledgement inv ..
  | deferredTrap => exact tidyNext_execDeferredTrap inv ..
  | remoteWordAccess => exact tidyNext_execRemoteWordAccess inv ..
  | pageWalk => exact tidyNext_execPageWalk inv ..
  | codePageScan => exact tidyNext_execCodePageScan inv ..
  | arrivalPacket => exact tidyNext_execArrivalPacket inv ..
  | migration => exact tidyNext_execMigration inv ..
  | roamingSeat => exact tidyNext_execRoamingSeat inv ..
  | schedulerSelection => exact tidyNext_execSchedulerSelection inv ..
  | preemption => exact tidyNext_execPreemption inv ..
  | energyReport => exact tidyNext_execEnergyReport inv ..
  | demotion => exact tidyNext_execDemotion inv ..
  | gatedEntry => exact tidyNext_execGatedEntry inv ..
  | counterPost => exact tidyNext_execCounterPost inv ..
  | watchRequest => exact tidyNext_execWatchRequest inv ..
  | bitmapWatchRequest => exact tidyNext_execBitmapWatchRequest inv ..
  | watchResend => exact tidyNext_execWatchResend inv ..
  | hardwareResend => exact tidyNext_execHardwareResend inv ..
  | donePost => exact tidyNext_execDonePost inv ..
  | rackPlacement => exact tidyNext_execRackPlacement inv ..
  | ladleAccept => exact tidyNext_execLadleAccept inv ..
  | chunkComplete => exact tidyNext_execChunkComplete inv ..
  | ladleCompletion => exact tidyNext_execLadleCompletion inv ..
  | followOnResend => exact tidyNext_execFollowOnResend inv ..
  | streamRefill => exact tidyNext_execStreamRefill inv ..
  | streamDrain => exact tidyNext_execStreamDrain inv ..
  | pressAccept => exact tidyNext_execPressAccept inv ..
  | bankLoad => exact tidyNext_execBankLoad inv ..
  | kBlock => exact tidyNext_execKBlock inv ..
  | pressCompletion => exact tidyNext_execPressCompletion inv ..
  | harpAccept => exact tidyNext_execHarpAccept inv ..
  | sliceRequest => exact tidyNext_execSliceRequest inv ..
  | harpCompletion => exact tidyNext_execHarpCompletion inv ..
  | caveHash => exact tidyNext_execCaveHash inv ..
  | patrolScrub => exact tidyNext_execPatrolScrub inv ..
  | channelCopyComplete => exact tidyNext_execChannelCopyComplete inv ..
  | cavePatrol => exact tidyNext_execCavePatrol inv ..
  | laneDrop => exact tidyNext_execLaneDrop inv ..
  | coreRetirement => exact tidyNext_execCoreRetirement inv ..
  | spareRun => exact tidyNext_execSpareRun inv ..
  | snapshotRequest => exact tidyNext_execSnapshotRequest inv ..
  | timestamp => exact tidyNext_execTimestamp inv ..
  | routeUpdate => exact tidyNext_execRouteUpdate inv ..
  | eventRead => exact tidyNext_execEventRead inv ..
  | mgmtSnapshot => exact tidyNext_execMgmtSnapshot inv ..
  | mgmtRelease => exact tidyNext_execMgmtRelease inv ..
  | powerQuery => exact tidyNext_execPowerQuery inv ..
  | rindReset => exact tidyNext_execRindReset inv ..
  | attestation => exact tidyNext_execAttestation inv ..
  | flitReplay => exact tidyNext_execFlitReplay inv ..
  | cxlCacheSnoop => exact tidyNext_execCxlCacheSnoop inv ..
  | hostLinkRecovery => exact tidyNext_execHostLinkRecovery inv ..
  | pldmFirmwareUpdate => exact tidyNext_execPldmFirmwareUpdate inv ..
  | pldmMonitoring => exact tidyNext_execPldmMonitoring inv ..

end

end Sys2Proof.Machine
end

section
/-!
PROOFS. The tables of bytes under fetching, the turn of a core and the passing of time.
-/

namespace Sys2Proof.Machine

@[simp] theorem l1iInsert_tabs (s : State) (cn line : Nat) (d : BitVec 1024) :
    SameTabs s (l1iInsert s cn line d) := by simp [l1iInsert]

@[simp] theorem applyStrike_tabs (s : State) (d : Strike) : SameTabs s (applyStrike s d) := by
  unfold applyStrike
  dsimp only
  (repeat' split) <;> simp

@[simp] theorem chargeCycles_tabs (s : State) (n : Nat) : SameTabs s (chargeCycles s n) := by
  refine foldl_sameTabs (fun s e => foldl_sameTabs (fun s i => ?_) _ s) _ s
  dsimp only
  split
  · simp
  · split <;> simp

@[simp] theorem advance_tabs (s : State) : SameTabs s (advance s) := by simp [advance]

section
variable {s : State} (inv : Tidy s)
include inv

@[simp] theorem tidy_homeCode (r : Req) (x : Xl) : Tidy (homeCode s r x).1 := by
  unfold homeCode
  (repeat' split) <;> grind [tidy_homeBytes, countNack_tabs, tidy_codeHalves, dropCode_tabs]

@[simp] theorem tidy_codeLine (r : Req) (x : Xl) : Tidy (codeLine s r x).1 := by
  unfold codeLine
  (repeat' split) <;> grind [tidy_l2Insert, l1iInsert_tabs, tidy_homeCode]

@[simp] theorem tidy_fetchBlock (k : Nat) : Tidy (fetchBlock s k).1 := by
  unfold fetchBlock
  grind [tidy_translateFetch, tidy_codeLine]

@[simp] theorem tidy_fetchWord (k : Nat) : Tidy (fetchWord s k).1 := by
  unfold fetchWord
  (repeat' split) <;> grind [modCore_tabs, tidy_fetchBlock]

theorem tidyNext_strayWord : TidyNext (strayWord s) := by
  unfold strayWord
  extract_lets nop
  have hnop : TidyNext nop := tidyNext_issue inv _ fun _ _ inv => inv
  (repeat' split) <;> grind [tidyNext_exec]

theorem tidyNext_coreTurn (cn : Nat) : TidyNext (coreTurn s cn) := by
  unfold coreTurn
  (repeat' split) <;> grind [tidyNext_next, tidy_takeTrap, tidy_takeDeferred, yieldSlot_tabs, yieldCtx_tabs,
    tidyNext_exec, tidy_fetchWord, tidyNext_strayWord]

theorem tidyNext_agentTurn : TidyNext (agentTurn s) := by
  unfold agentTurn
  (repeat' split) <;> grind [tidyNext_next, tidyNext_execOutside, tidyNext_exec, tidyNext_coreTurn,
    applyStrike_tabs]

end

end Sys2Proof.Machine
end

section
/-!
PROOFS. The tables of bytes under a step of the package (O59).
-/

namespace Sys2Proof.Machine

section
variable {s : State} (inv : Tidy s)
include inv

theorem tidyNext_step : TidyNext (step s) := by
  unfold step
  (repeat' split) <;> grind [tidyNext_next, advance_tabs, tidyNext_agentTurn]

end

theorem memInv_iff_tidy (s : State) : MemInv s ↔ Tidy s :=
  ⟨fun ⟨stored, cave, top⟩ => ⟨stored, cave, top⟩, fun ⟨stored, cave, top⟩ => ⟨stored, cave, top⟩⟩

/-- Settles O59: every instruction, event, strike and fetch keeps the three tables in form. -/
theorem stepKeepsMemInv : Obligations.StepKeepsMemInv := by
  intro s t hs hstep
  exact (memInv_iff_tidy t).2 ((tidyNext_step ((memInv_iff_tidy s).1 hs)).tidy t hstep)

end Sys2Proof.Machine
end


section
/-!
PROOFS. A patrol read of a struck row of a Cave data bank (R141, R392): the row is uncorrectable whatever the patrol is said to
find, so O46 fails.
-/

namespace Sys2Proof.Machine

/-- A data entry with a row that no longer corrects, as a strike on the slice leaves it (R141). -/
def struckEntry : CEntry := { rind := 0, rc := 1, hashed := false, hash := 0, slot := none, bad := [0] }

/-- The machine after reset but for that entry, in slice 0. -/
def struckSliceState : State := { State.reset with caves := [(0, { entries := [(0, struckEntry)] })] }

/-- The mark of the row decides, not the finding: the bank of the row is disabled (R392). -/
theorem exec_cavePatrol_struckRow : exec (.cavePatrol 0 true 0 .corrected) struckSliceState
    = .next (disableRow (markRow struckSliceState 0 0) 0 true 0) := rfl

theorem dbdis_after_cavePatrol_struckRow :
    (getCave (disableRow (markRow struckSliceState 0 0) 0 true 0) 0).dbdis = 1 := by
  decide +kernel

/-- Refutes O46: its clause on the Cave patrol says that a row first found corrected changes nothing but the patrol's own
table, but in struckSliceState the row bears the mark of a strike, and bank 0 is disabled. -/
theorem not_controllerAndCaveEvents : ¬ Obligations.ControllerAndCaveEvents := by
  rintro ⟨-, -, -, patrol, -⟩
  obtain ⟨bank, -⟩ := patrol 0 0 struckSliceState (by decide)
  obtain ⟨-, corrected⟩ := bank rfl
  obtain ⟨t, ht, -, kept, -⟩ := corrected rfl
  obtain rfl := Host.Outcome.next.inj (exec_cavePatrol_struckRow.symm.trans ht)
  have dbdis_kept := congrArg Cave.dbdis kept
  exact absurd (dbdis_after_cavePatrol_struckRow.symm.trans dbdis_kept) (by decide)

end Sys2Proof.Machine
end

section
/-!
PROOFS. A scan whose reading of the companion word quarantines the frame of its own page (R59, R89, R141): the page is accepted,
and no TLB holds it, so O50 fails.
-/

namespace Sys2Proof.Machine

theorem eq_pair_of_snd {α β : Type} {p : α × β} {b : β} (h : p.2 = b) : p = (p.1, b) := Prod.ext rfl h

/-- The leaf of a code page at 0x60000 in frame 513, as both TLBs of core 0 hold it: no fetch has used it there. -/
def codePage : Tlb :=
  { rind := 0, asid := 7, shift := 16, vpage := 6, entry := 0x020100F7
    comp := BitVec.ofNat 128 (2 ^ 65 + 2 ^ 91 + 2 ^ 96), fetched := false, slot := 0x10000 }

/-- A line of that page in the Cave slice of die 0, written and not yet in memory, a row of which a strike has hit (R141). It
stands in the Rind's only way, in the set of the sector of the leaf's slot. -/
def struckCodeCave : Cave :=
  { rcfg := [(0, 0x0010000010000000)]
    sectors := [(0x8041, { rind := 0, way := 0, valid := 255, validLo := 255, col := false, entry := 0, used := 0, plain := true })]
    entries := [(0, { rind := 0, rc := 1, hashed := false, hash := 0, slot := none, bad := [0] })] }

/-- Context 0 fetches from the page for the first time. The companion word in memory, at 0x10010, has its scanned bit set:
another core has scanned the page. -/
def struckCodeState : State :=
  { State.reset with
    ctxs := [(0, { Ctx.initial 0 with act := .running, pc := 0x60010, launch := some 1 })]
    cores := [(0, { running := some 0 })]
    clusters := [(0, { rind := some 0 })]
    recs := [(2048, { asid := 7 })]
    rmap := [(0, 0)]
    tlbs := [(0, [codePage]), (2048, [codePage])]
    mem := [(0x10018, 2)]
    cav := [(0x2010400, 7)]
    caves := [(0, struckCodeCave)] }

/-- The translation that the scanner makes of it. -/
def struckCodeFetch : State × Except NoFetch Xl :=
  translateFetch struckCodeState (ctxReq struckCodeState 0) (getCtx struckCodeState 0).pc

/-- The page is accepted. -/
theorem struckCodeFetch_accepted : struckCodeFetch.2 = .ok
    { pa := 0x2010010, va := 0x60010, entry := 0x020100F7, comp := BitVec.ofNat 128 (2 ^ 65 + 2 ^ 91 + 2 ^ 96), shift := 16,
      slot := 0x10000 } := by
  decide +kernel

/-- The sector of the slot takes the way of the struck line, whose write-back quarantines frame 513 (R89, R141): every entry
that maps the frame leaves the TLBs (R100). -/
theorem struckCodeFetch_tlbs : struckCodeFetch.1.quarantine = [513] ∧ tget [] struckCodeFetch.1.tlbs 0 = [] := by
  decide +kernel

/-- Refutes O50: its clause on the scanner says that the TLB of the core holds each page that a scan accepts, but in
struckCodeState the scan's own read of the companion word evicts a struck line of the page and so removes the entry. -/
theorem not_walksScansAndTheRack : ¬ Obligations.WalksScansAndTheRack := by
  rintro ⟨-, scans, -⟩
  obtain ⟨-, y, hy, -⟩ := scans 0 0 0x60010 struckCodeState struckCodeFetch.1 _ (by decide) rfl rfl rfl
    (eq_pair_of_snd struckCodeFetch_accepted)
  rw [struckCodeFetch_tlbs.2] at hy
  exact List.not_mem_nil hy

end Sys2Proof.Machine
end

section
/-!
PROOFS. A CXL.mem write to a quarantined region (R68, R408): the address is a hole, and the write changes nothing (log 89), so
O51 fails.
-/

namespace Sys2Proof.Machine

/-- The host's link is open for Rind 0, whose one plain HBM region, region 0, has its q bit set (R67, R89). -/
def quarantinedRegionState : State := { State.reset with rinds := [(0, { started := true })], rmap := [(0, 0x80000000000000)] }

/-- The first dword of the region lies in the range of the Rind's HDM decoder, and is a hole for it (R68). -/
theorem quarantinedRegion_hole : hdmAddr quarantinedRegionState 0 0 = some 0 ∧ isHole quarantinedRegionState 0 0 = true := by
  decide +kernel

theorem exec_cxlMemWrite_quarantined :
    exec (.cxlMemAccess 0 true 0 1) quarantinedRegionState = .next quarantinedRegionState := by
  obtain ⟨mapped, hole⟩ := quarantinedRegion_hole
  show execCxlMemAccess 0 true 0 1 quarantinedRegionState = _
  unfold execCxlMemAccess
  rw [if_neg (by decide), mapped]
  exact if_pos hole

/-- The write of a dword at local address 0 as a leafless access performs it, which tests no hole. -/
def leaflessWrite : Access :=
  { ctx := engineKey, gen := 0, inTrap := false, op := .store, dest := .none, n := 8
    pa := quarantinedRegionState.node * 2 ^ 45 + 0, va := 0, data := (1 : BitVec 64).setWidth 512, expect := 0, pkind := 0
    home := leaflessHome quarantinedRegionState 0, col := none, nalloc := true, rind := 0, launch := none, size := 3 }

theorem leaflessWrite_performed : (leafless quarantinedRegionState leaflessWrite).2 = .ok 0 := by
  unfold leafless
  rfl

theorem leaflessWrite_mem : (leafless quarantinedRegionState leaflessWrite).1.mem = [(0, 1)] := by
  decide +kernel

/-- Refutes O51: its clause on CXL.mem gives every write in the decoder's range the effect of the leafless access, but in
quarantinedRegionState the address is a hole: the write leaves memory as it is, where the leafless access stores a byte. -/
theorem not_hostAndLaunchEvents : ¬ Obligations.HostAndLaunchEvents := by
  rintro ⟨⟨-, -, -, -, -, cxlMem, -⟩, -⟩
  have written := cxlMem 0 0 0 1 true 0 quarantinedRegionState _ (by decide) rfl rfl quarantinedRegion_hole.1
    (eq_pair_of_snd leaflessWrite_performed)
  have same := Host.Outcome.next.inj (exec_cxlMemWrite_quarantined.symm.trans written)
  have empty : quarantinedRegionState.mem = [(0, 1)] := (congrArg State.mem same).trans leaflessWrite_mem
  exact absurd empty (by decide)

end Sys2Proof.Machine
end

section
/-!
PROOFS. Reads of memory and translations leave every context as it is, with the number of the acting one and of the node
(SameCtxs, lemmas f_sameCtxs): the caches, the Cave, the controllers and the TLBs are no part of a context.
-/

namespace Sys2Proof.Machine

/-- The two states hold the same contexts, act for the same one, and are of the same node. -/
@[simp] abbrev SameCtxs (s t : State) : Prop := t.me = s.me ∧ t.node = s.node ∧ t.ctxs = s.ctxs

section
variable {c : Prop} [Decidable c] (s t : State)

@[simp] theorem ite_me : (if c then s else t).me = if c then s.me else t.me := apply_ite ..
@[simp] theorem ite_node : (if c then s else t).node = if c then s.node else t.node := apply_ite ..
@[simp] theorem ite_ctxs : (if c then s else t).ctxs = if c then s.ctxs else t.ctxs := apply_ite ..

end

theorem SameCtxs.trans {s t u : State} (h : SameCtxs s t) (k : SameCtxs t u) : SameCtxs s u := by
  obtain ⟨hm, hn, hc⟩ := h
  obtain ⟨km, kn, kc⟩ := k
  exact ⟨km.trans hm, kn.trans hn, kc.trans hc⟩

@[simp] theorem foldl_sameCtxs {β : Type} {f : State → β → State} (hf : ∀ s x, SameCtxs s (f s x)) (l : List β) (s : State) :
    SameCtxs s (l.foldl f s) := by
  induction l generalizing s with
  | nil => exact ⟨rfl, rfl, rfl⟩
  | cons x l ih => exact (hf s x).trans (ih (f s x))

@[simp] theorem countEnergy_sameCtxs (s : State) (unit e n rind : Nat) (launch : Option Nat) :
    SameCtxs s (countEnergy s unit e n rind launch) := by
  unfold countEnergy
  split <;> simp

@[simp] theorem logCore_sameCtxs (s : State) (cn code : Nat) (data : Dword) : SameCtxs s (logCore s cn code data) := by
  unfold logCore
  dsimp only
  split <;> simp [logTo]

@[simp] theorem logUnit_sameCtxs (s : State) (rinds : List Nat) (e : BitVec 256) : SameCtxs s (logUnit s rinds e) := by
  simp [logUnit, logTo]

@[simp] theorem logStack_sameCtxs (s : State) (i code : Nat) (data : Dword) : SameCtxs s (logStack s i code data) := by
  simp [logStack]

@[simp] theorem logWhey_sameCtxs (s : State) (ch rind code : Nat) (data : Dword) :
    SameCtxs s (logWhey s ch rind code data) := by simp [logWhey]

@[simp] theorem logFrame_sameCtxs (s : State) (pa : Nat) : SameCtxs s (logFrame s pa) := by
  unfold logFrame
  dsimp only
  split <;> simp

@[simp] theorem quarantineFrame_sameCtxs (s : State) (pa : Nat) : SameCtxs s (quarantineFrame s pa) := by
  simp [quarantineFrame]

@[simp] theorem quarantineAll_sameCtxs (s : State) (addrs : List Nat) : SameCtxs s (quarantineAll s addrs) := by
  simp [quarantineAll]

@[simp] theorem startSparing_sameCtxs (s : State) (i : Nat) : SameCtxs s (startSparing s i) := by
  unfold startSparing
  dsimp only
  (repeat' split) <;> simp

@[simp] theorem repairRow_sameCtxs (s : State) (i a : Nat) : SameCtxs s (repairRow s i a) := by simp [repairRow]

@[simp] theorem meetBad_sameCtxs (s : State) (h : Nat) : SameCtxs s (meetBad s h) := by
  unfold meetBad
  split <;> simp [countMemError]

@[simp] theorem meetSoft_sameCtxs (s : State) (h : Nat) : SameCtxs s (meetSoft s h) := by
  unfold meetSoft
  dsimp only
  (repeat' split) <;> simp [countMemError]

@[simp] theorem meetHalf_sameCtxs (s : State) (h : Nat) : SameCtxs s (meetHalf s h) := by simp [meetHalf]

@[simp] theorem countGranule_sameCtxs (s : State) (a : Nat) (launch : Option Nat) :
    SameCtxs s (countGranule s a launch) := by
  unfold countGranule
  split <;> simp

@[simp] theorem countHalves_sameCtxs (s : State) (hs : List Nat) (launch : Option Nat) :
    SameCtxs s (countHalves s hs launch) := by simp [countHalves]

@[simp] theorem readHalves_sameCtxs (s : State) (hs : List Nat) (launch : Option Nat) :
    SameCtxs s (readHalves s hs launch) := by simp [readHalves]

@[simp] theorem holdImage_sameCtxs (s : State) (die a : Nat) : SameCtxs s (holdImage s die a) := by simp [holdImage]

@[simp] theorem clearLine_sameCtxs (s : State) (die line : Nat) : SameCtxs s (clearLine s die line) := by
  simp [clearLine, forgetCave, modSector]

@[simp] theorem modL1_sameCtxs (s : State) (cn line : Nat) (f : Line → Line) : SameCtxs s (modL1 s cn line f) := by
  unfold modL1
  split <;> simp

@[simp] theorem modL2_sameCtxs (s : State) (cl line : Nat) (f : Line → Line) : SameCtxs s (modL2 s cl line f) := by
  unfold modL2
  split <;> simp

@[simp] theorem scrubLine_sameCtxs (s : State) (p : Path) (line : Nat) (addrs : List Nat) :
    SameCtxs s (scrubLine s p line addrs) := by
  unfold scrubLine
  dsimp only
  (repeat' split) <;> simp [forgetTop]

@[simp] theorem scrub_sameCtxs (s : State) (p : Path) (addrs : List Nat) : SameCtxs s (scrub s p addrs) := by
  simp [scrub]

/-- A merge leaves the contexts when its write does. -/
theorem mergeHalves_sameCtxs (s : State) (hs : List Nat) {write : State → State} (hw : ∀ s, SameCtxs s (write s)) :
    SameCtxs s (mergeHalves s hs write) := by
  have met := foldl_sameCtxs (f := meetHalf) (by simp) hs s
  unfold mergeHalves
  dsimp only
  split
  · exact met.trans (hw _)
  · exact met.trans (quarantineAll_sameCtxs ..)

@[simp] theorem storeAlias_sameCtxs (s : State) (a : Nat) (launch : Option Nat) : SameCtxs s (storeAlias s a launch) := by
  unfold storeAlias
  dsimp only
  split
  · exact (countHalves_sameCtxs ..).trans (mergeHalves_sameCtxs _ _ fun _ => ⟨rfl, rfl, rfl⟩)
  · simp

@[simp] theorem storeHalf_sameCtxs (s : State) (h : Nat) (whole : Bool) (cells : List (Nat × Byte)) :
    SameCtxs s (storeHalf s h whole cells) := by
  unfold storeHalf
  split
  · exact ⟨rfl, rfl, rfl⟩
  · exact mergeHalves_sameCtxs _ _ fun _ => ⟨rfl, rfl, rfl⟩

@[simp] theorem flushLine_sameCtxs (s : State) (die line : Nat) (has : Need) (launch : Option Nat) :
    SameCtxs s (flushLine s die line has launch) := by
  unfold flushLine
  dsimp only
  (repeat' split) <;> simp [healHalf]

@[simp] theorem caveFlush_sameCtxs (s : State) (die lo n : Nat) (launch : Option Nat) :
    SameCtxs s (caveFlush s die lo n launch) := by simp [caveFlush]

@[simp] theorem evictSector_sameCtxs (s : State) (die sec : Nat) : SameCtxs s (evictSector s die sec) := by
  simp [evictSector, forgetCave]

theorem allocEntry_sameCtxs (s : State) (die rind : Nat) (but : Option Nat) :
    ∀ p ∈ allocEntry s die rind but, SameCtxs s p.1 := by
  unfold allocEntry
  dsimp only
  split
  · simp
  split <;> simp

theorem tagFor_sameCtxs (s : State) (die sec : Nat) (plain : Bool) : ∀ t ∈ tagFor s die sec plain, SameCtxs s t := by
  unfold tagFor
  dsimp only
  split
  · simp
  split
  · simp
  · intro t ht
    obtain ⟨p, hp, rfl⟩ := Option.map_eq_some_iff.1 ht
    refine SameCtxs.trans ?_ (allocEntry_sameCtxs _ _ _ _ p hp)
    split <;> simp

@[simp] theorem caveWrite_sameCtxs (s : State) (die sec : Nat) : SameCtxs s (caveWrite s die sec) := by
  unfold caveWrite
  split
  · simp
  split
  · simp
  split
  · split
    · next own => simpa using allocEntry_sameCtxs _ _ _ _ _ own
    · simp
  · simp

@[simp] theorem caveFill_sameCtxs (s : State) (die line : Nat) (need : Need) (via : Via) :
    SameCtxs s (caveFill s die line need via) := by
  unfold caveFill
  split
  · simp
  split
  · simp
  · next tagged =>
    refine (tagFor_sameCtxs _ _ _ _ _ tagged).trans ?_
    split <;> simp [keepBad, modSector]

@[simp] theorem caveStore_sameCtxs (s : State) (die line : Nat) (whole : Need) (cells : List (Nat × Byte)) (via : Via) :
    SameCtxs s (caveStore s die line whole cells via) := by
  unfold caveStore
  extract_lets tagged fresh written valid held full kept stored
  have htagged : SameCtxs s tagged := by
    cases tag : tagFor s die (line / 8) via.plain with
    | none => simp [tagged, tag]
    | some t =>
      have ht := tagFor_sameCtxs _ _ _ _ _ tag
      simp only [tagged, tag, Option.getD_some]
      split
      · exact ht
      · simp
  refine htagged.trans ?_
  split <;> simp [stored, kept, held, valid, written, keepBad, modSector]

@[simp] theorem l1Evict_sameCtxs (s : State) (cn line : Nat) : SameCtxs s (l1Evict s cn line) := by
  unfold l1Evict
  dsimp only
  (repeat' split) <;> simp

@[simp] theorem topFlush_sameCtxs (s : State) (cl line : Nat) (via : Via) : SameCtxs s (topFlush s cl line via) := by
  unfold topFlush
  dsimp only
  (repeat' split) <;> simp

@[simp] theorem l2Evict_sameCtxs (s : State) (cl line : Nat) (via : Via) : SameCtxs s (l2Evict s cl line via) := by
  unfold l2Evict
  (repeat' split) <;> simp [forgetTop]

@[simp] theorem l2Insert_sameCtxs (s : State) (cl line : Nat) (rep : Option (BitVec 1024)) (need : Need) (via : Via) :
    SameCtxs s (l2Insert s cl line rep need via) := by
  unfold l2Insert
  split <;> simp

@[simp] theorem l1Insert_sameCtxs (s : State) (cn line : Nat) (rep : Option (BitVec 1024)) (need : Need) :
    SameCtxs s (l1Insert s cn line rep need) := by
  unfold l1Insert
  split <;> simp

@[simp] theorem homeFill_sameCtxs (s : State) (home line : Nat) (need : Need) (via : Via) :
    SameCtxs s (homeFill s home line need via) := by simp [homeFill]

@[simp] theorem hostEnter_sameCtxs (s : State) (line : Nat) : SameCtxs s (hostEnter s line) := by
  simp [hostEnter, putCells]

@[simp] theorem sliceBytes_sameCtxs (s : State) (die : Nat) (addrs : List Nat) (via : Via) :
    SameCtxs s (sliceBytes s die addrs via).1 := by simp [sliceBytes]

@[simp] theorem sliceWrite_sameCtxs (s : State) (die : Nat) (cells : List (Nat × Byte)) (via : Via) :
    SameCtxs s (sliceWrite s die cells via) := by
  unfold sliceWrite
  dsimp only
  split <;> simp

@[simp] theorem toSlice_sameCtxs (s : State) (home a : Nat) (via : Via) : SameCtxs s (toSlice s home a via) := by
  simp [toSlice, recallSector]

@[simp] theorem homeBytes_sameCtxs (s : State) (home a n : Nat) (col : Bool) (via : Via) :
    SameCtxs s (homeBytes s home a n col via).1 := by
  unfold homeBytes
  (repeat' split) <;> simp

@[simp] theorem homeRead_sameCtxs (s : State) (home a n : Nat) (col : Bool) (via : Via) :
    SameCtxs s (homeRead s home a n col via).1 := by simp [homeRead]

@[simp] theorem topWrite_sameCtxs (s : State) (cl line : Nat) (cells : List (Nat × Byte)) :
    SameCtxs s (topWrite s cl line cells) := by
  unfold topWrite
  split <;> simp

@[simp] theorem physRead_sameCtxs (s : State) (addrs : List Nat) (via : Via) : SameCtxs s (physRead s addrs via).1 := by
  unfold physRead
  dsimp only
  split <;> simp

@[simp] theorem physWrite_sameCtxs (s : State) (cells : List (Nat × Byte)) (via : Via) :
    SameCtxs s (physWrite s cells via) := by
  unfold physWrite
  dsimp only
  (repeat' split) <;> simp

@[simp] theorem sendFlit_sameCtxs (s : State) (q : FabricPacket) (rind : Nat) (launch : Option Nat) :
    SameCtxs s (sendFlit s q rind launch) := by
  unfold sendFlit
  dsimp only
  split <;> simp

@[simp] theorem sendFabric_sameCtxs (s : State) (hdr : Nat → BitVec 128) (body : BitVec 640) (f : Option Flight)
    (rind : Nat) (launch : Option Nat) : SameCtxs s (sendFabric s hdr body f rind launch) := by
  unfold sendFabric
  split <;> simp

@[simp] theorem tlbInsert_sameCtxs (s : State) (u : Nat) (t : Tlb) : SameCtxs s (tlbInsert s u t) := by simp [tlbInsert]

@[simp] theorem tlbUpdate_sameCtxs (s : State) (r : Req) (slot : Nat) (e : Dword) (c : BitVec 128) :
    SameCtxs s (tlbUpdate s r slot e c) := by simp [tlbUpdate]

@[simp] theorem installLeaf_sameCtxs (s : State) (r : Req) (va : Dword) (e : Dword) (c : BitVec 128) (sh slot : Nat) :
    SameCtxs s (installLeaf s r va e c sh slot) := by simp [installLeaf]

@[simp] theorem takeLeft_sameCtxs (s : State) (r : Req) (va : Dword) : SameCtxs s (takeLeft s r va) := by
  unfold takeLeft
  split <;> simp

@[simp] theorem chosenHome_sameCtxs (s : State) (r : Req) (comp : BitVec 128) (slot : Nat) :
    SameCtxs s (chosenHome s r comp slot).1 := by
  unfold chosenHome
  (repeat' split) <;> grind [physRead_sameCtxs]

@[simp] theorem useLeaf_sameCtxs (s : State) (r : Req) (va : Dword) (acc : AccKind) (e : Dword) (c : BitVec 128) (sh slot : Nat) :
    SameCtxs s (useLeaf s r va acc e c sh slot).1 := by
  unfold useLeaf
  (repeat' split) <;> grind [chosenHome_sameCtxs]

@[simp] theorem touchLeaf_sameCtxs (s : State) (r : Req) (x : Xl) (acc : AccKind) : SameCtxs s (touchLeaf s r x acc) := by
  unfold touchLeaf atomicRemote
  (repeat' split) <;> grind [physRead_sameCtxs, physWrite_sameCtxs, sendFabric_sameCtxs, tlbUpdate_sameCtxs]

/-- A translation that succeeds leaves every context as it is; one that must walk is asked for in its context (R102). -/
theorem translate_sameCtxs {s t : State} {r : Req} {va : Dword} {acc : AccKind} {x : Xl}
    (h : translate s r va acc = (t, .ok x)) : SameCtxs s t := by
  unfold translate at h
  (repeat' split at h) <;> grind [useLeaf_sameCtxs, takeLeft_sameCtxs, installLeaf_sameCtxs]

end Sys2Proof.Machine
end

section
/-!
PROOFS. The reading of a block (R107, R167): the contexts stay as they are but for the trails that a roaming access leaves
(R118), and the four dwords read are the block.
-/

namespace Sys2Proof.Machine

/-- The two states act for the same context on the same node, and differ in no context but for what travels with it (R118). -/
structure SameButTrail (s t : State) : Prop where
  me : t.me = s.me
  node : t.node = s.node
  ctx : ∀ k, { getCtx t k with trail := (getCtx s k).trail } = getCtx s k

theorem SameCtxs.butTrail {s t : State} (h : SameCtxs s t) : SameButTrail s t := by
  obtain ⟨hme, hnode, hctxs⟩ := h
  exact ⟨hme, hnode, fun k => by rw [getCtx_congr hctxs]⟩

theorem SameButTrail.trans {s t u : State} (h : SameButTrail s t) (k : SameButTrail t u) : SameButTrail s u :=
  ⟨k.me.trans h.me, k.node.trans h.node,
    fun j => (congrArg (fun c : Ctx => { c with trail := (getCtx s j).trail }) (k.ctx j)).trans (h.ctx j)⟩

theorem modTrail_sameButTrail (s : State) (k : Nat) (f : Ctx → Trail) :
    SameButTrail s (modCtx s k fun c => { c with trail := f c }) where
  me := rfl
  node := rfl
  ctx j := by
    rw [getCtx_modCtx]
    split
    · next e => rw [e]
    · rfl

theorem settlePredictor_sameButTrail (s : State) (k home : Nat) (here : Bool) :
    SameButTrail s (settlePredictor s k home here) := by
  unfold settlePredictor
  split
  · exact SameCtxs.butTrail ⟨rfl, rfl, rfl⟩
  · refine SameButTrail.trans (SameCtxs.butTrail ?_) (modTrail_sameButTrail ..)
    split <;> simp [stepPredictor]

theorem noteRemote_sameButTrail (s : State) (k home : Nat) : SameButTrail s (noteRemote s k home) := by
  unfold noteRemote
  dsimp only
  split
  · exact modTrail_sameButTrail ..
  · exact SameCtxs.butTrail ⟨rfl, rfl, rfl⟩

/-- An access that passes its checks is the one asked for. -/
theorem checkAccess_ok {s t : State} {k : Nat} {w : Want} {a : Access} {x : Xl} {here : Bool}
    (h : checkAccess s k w = (t, .ok (a, x, here))) : SameCtxs s t ∧ a.op = w.op := by
  unfold checkAccess at h
  (repeat' split at h) <;> grind [translate_sameCtxs]

/-- A load performed at its home changes no context. -/
theorem performAt_load_sameCtxs (s : State) {a : Access} (h : a.op = .load) : SameCtxs s (performAt s a).1 := by
  unfold performAt atHome
  rw [h]
  dsimp only
  split
  · simp
  · have read := homeRead_sameCtxs s a.home (paLocal a.pa) a.n (accessView s a) (accessVia a)
    split <;> grind

theorem blockRead_sameButTrail {s t : State} {k : Nat} {ea : Dword} {n : Nat} {v : Vec}
    (h : blockRead s k ea n = (t, .ok v)) : SameButTrail s t := by
  unfold blockRead at h
  generalize hw : ({ op := .load, n := n, ea := ea, dest := .block, size := if n = 8 then 3 else 4 } : Want) = w at h
  dsimp only at h
  split at h
  · exact nomatch (Prod.mk.inj h).2
  · exact nomatch (Prod.mk.inj h).2
  next s1 a x here checked =>
  replace hw : w.op = .load := hw ▸ rfl
  obtain ⟨same, load⟩ := checkAccess_ok checked
  refine same.butTrail.trans ?_
  split at h
  · obtain rfl := (Prod.mk.inj h).1
    exact SameCtxs.butTrail ⟨rfl, rfl, rfl⟩
  split at h
  · exact nomatch (Prod.mk.inj h).2
  refine (touchLeaf_sameCtxs s1 (ctxReq s1 k) x .load).butTrail.trans ?_
  generalize touchLeaf s1 (ctxReq s1 k) x .load = s2 at h ⊢
  have settled : SameButTrail s2 (if here then settlePredictor s2 k (homeKey a.pa a.home) true
      else noteRemote (settlePredictor s2 k (homeKey a.pa a.home) false) k (homeKey a.pa a.home)) := by
    split
    · exact settlePredictor_sameButTrail ..
    · exact (settlePredictor_sameButTrail ..).trans (noteRemote_sameButTrail ..)
  refine settled.trans ?_
  beta_reduce at h
  generalize (if here then settlePredictor s2 k (homeKey a.pa a.home) true
    else noteRemote (settlePredictor s2 k (homeKey a.pa a.home) false) k (homeKey a.pa a.home)) = s3 at h ⊢
  split at h
  · exact nomatch (Prod.mk.inj h).2
  have performed := performAt_load_sameCtxs s3 (load.trans hw)
  split at h
  · next e =>
    rw [e] at performed
    exact (Prod.mk.inj h).1 ▸ performed.butTrail
  · exact nomatch (Prod.mk.inj h).2
  · exact nomatch (Prod.mk.inj h).2

/-- A list of n dwords read on from others adds n to them. -/
theorem readList_ok {s t : State} {k : Nat} {va : Dword} {n : Nat} {acc ds : List Dword}
    (h : readList s k va n acc = (t, .ok ds)) : SameButTrail s t ∧ ds.length = acc.length + n := by
  induction n generalizing s acc with
  | zero =>
    obtain ⟨rfl, e⟩ := Prod.mk.inj h
    cases e
    exact ⟨SameCtxs.butTrail ⟨rfl, rfl, rfl⟩, rfl⟩
  | succ n ih =>
    unfold readList at h
    split at h
    · exact nomatch (Prod.mk.inj h).2
    · exact nomatch (Prod.mk.inj h).2
    · exact nomatch (Prod.mk.inj h).2
    next read =>
    obtain ⟨same, len⟩ := ih h
    refine ⟨(blockRead_sameButTrail read).trans same, ?_⟩
    rw [len, List.length_append, List.length_singleton]
    omega

/-- The block that dwords make up (R1). -/
def blockOf (ds : List Dword) : BitVec 256 := BitVec.ofNat 256 (packElems 64 (ds.map BitVec.toNat))

theorem block32_blockOf {ds : List Dword} (hl : ds.length = 4) : Rules.block32 ds (blockOf ds) := by
  match ds, hl with
  | [a, b, c, d], _ =>
    intro i hi
    apply BitVec.eq_of_toNat_eq
    rw [BitVec.extractLsb'_toNat, Nat.shiftRight_eq_div_pow]
    have := a.isLt
    have := b.isLt
    have := c.isLt
    have := d.isLt
    interval_cases i <;> simp [blockOf, packElems] <;> omega

/-- A block is known by its four dwords. -/
theorem block32_unique {ds : List Dword} {m n : BitVec 256} (hm : Rules.block32 ds m) (hn : Rules.block32 ds n) : m = n := by
  apply BitVec.eq_of_getLsbD_eq
  intro i hi
  have word := congrArg (fun x : Dword => x.getLsbD (i % 64)) ((hm (i / 64) (by omega)).trans (hn (i / 64) (by omega)).symm)
  have inside : i % 64 < 64 := Nat.mod_lt _ (by decide)
  simpa [inside, Nat.div_add_mod] using word

theorem withBlock32_ok {s t : State} {ea : Dword} {ds : List Dword} (ha : ea.toNat % 32 = 0)
    (hr : readList s s.me ea 4 [] = (t, .ok ds)) (f : State → BitVec 256 → State × Done) :
    withBlock32 s ea f = f t (blockOf ds) := by
  unfold withBlock32 withList
  rw [if_neg (by simp [ha]), hr]
  rfl

/-- A mask at an aligned address is read at once when no earlier access is on its way (R107). -/
theorem withMask_ok {s t : State} {a : BitVec 5} {ds : List Dword} {m : BitVec 256}
    (ha : ((actor s).readG a.toNat).toNat % 32 = 0) (hp : (pendingOf s s.me).isEmpty = true)
    (hr : readList s s.me ((actor s).readG a.toNat) 4 [] = (t, .ok ds)) (hm : Rules.block32 ds m)
    (f : State → BitVec 256 → State × Done) : withMask s (actor s) a f = f t m := by
  unfold withMask
  dsimp only
  rw [if_neg (by simp [ha]), if_neg (by simp [hp]), withBlock32_ok ha hr, block32_unique (block32_blockOf (readList_ok hr).2) hm]

end Sys2Proof.Machine
end

section
/-!
PROOFS. The end of an instruction that names g registers alone: one that answers through a fill of g[d] (R41) leaves the state
that its effect left, with g[d] empty and the fill in flight.
-/

namespace Sys2Proof.Machine

/-- The end of a scalar instruction whose registers are all g registers. -/
theorem retire_gRegs {s : State} {k : Nat} {u : Named} (c : Ctx) (pcOf : Ctx → Ctx) (hu : ∀ r ∈ u.reads ++ u.writes, r < 32)
    (hv : u.vec = false) :
    retire s k u c pcOf = modCtx (freshRegs s k u.writes.contains) k fun x => ended (pcOf x) := by
  unfold retire
  rw [moveStreams_none fun r hr h32 => absurd (hu r hr) (by omega), hv]
  rfl

/-- An instruction of g registers alone, when nothing stops it. -/
theorem issue_gRegs {s w : State} {u : Named} {rs : List Nat} (body : State → Ctx → State × Done)
    (hb : body s (actor s) = (w, .next)) (h : Ready s rs)
    (hm : ∀ r ∈ u.reads ++ u.writes ++ u.tests ++ u.merges ++ u.names, r ∈ rs) (hc : u.ctl = none) (hn : u.noStream = none)
    (hu : ∀ r ∈ u.reads ++ u.writes, r < 32) (hv : u.vec = false) :
    issue s u body
      = .next (modCtx (freshRegs w s.me u.writes.contains) s.me fun y => ended (nextPc y (actor s).pc)) := by
  rw [issue_ready body h hm hc (by simp [hn]), hb]
  exact congrArg _ (retire_gRegs (actor s) (fun y => nextPc y (actor s).pc) hu hv)

theorem answer_world (s : State) (k : Nat) (d : BitVec 5) (x : Dword) :
    { answer s k d x with ctxs := s.ctxs, net := s.net } = s := by
  unfold answer sendFillD sendFill
  split <;> rfl

theorem answer_ctxs (s : State) (k : Nat) (d : BitVec 5) (x : Dword) :
    (answer s k d x).ctxs = (modCtx s k fun c => c.setEmpty d.toNat true).ctxs := by
  unfold answer sendFillD sendFill
  split <;> rfl

/-- A context keeps its registers, st and loop registers where only trails differ. -/
theorem SameButTrail.proj {α : Type} {s t : State} (h : SameButTrail s t) (k : Nat) (F : Ctx → α)
    (hF : ∀ (c : Ctx) (x : Trail), F { c with trail := x } = F c) : F (getCtx t k) = F (getCtx s k) :=
  (hF _ _).symm.trans (congrArg F (h.ctx k))

theorem answer_net {s w : State} (h : SameButTrail s w) (d : BitVec 5) (x : Dword) :
    (answer w s.me d x).net = w.net ++ Rules.fillOf s d x := by
  have st : (getCtx w s.me).st = (actor s).st := h.proj s.me Ctx.st fun _ _ => rfl
  unfold answer sendFillD sendFill replyOf Rules.fillOf
  dsimp only
  rw [st]
  by_cases hd : d = 0
  · subst hd
    simp
  · rw [if_neg hd, if_neg (by simpa [← BitVec.toNat_inj] using hd)]
    rfl

/-- The next pc of a context that differs from another in nothing that R247 consults. -/
theorem loopStep_nextPc {c c' : Ctx} (hend : c'.loopEnd = c.loopEnd) (hcnt : c'.loopCnt = c.loopCnt) (hst : c'.st = c.st)
    (hlen : c'.loopLen = c.loopLen) : LoopStep c (nextPc c' c.pc).pc (nextPc c' c.pc).loopCnt := by
  obtain ⟨hpc, hloop⟩ := nextPc_congr c.pc hend hcnt hst hlen
  rw [hpc, hloop]
  exact nextPc_loopStep c

/-- An instruction whose effect leaves w and answers with x, when nothing stops it. -/
theorem issue_answers {s w : State} {u : Named} {rs : List Nat} {d : BitVec 5} {x : Dword} (body : State → Ctx → State × Done)
    (hb : body s (actor s) = (answer w s.me d x, .next)) (hw : SameButTrail s w) (h : Ready s rs)
    (hm : ∀ r ∈ u.reads ++ u.writes ++ u.tests ++ u.merges ++ u.names, r ∈ rs) (hc : u.ctl = none) (hn : u.noStream = none)
    (hu : ∀ r ∈ u.reads ++ u.writes, r < 32) (hd : u.writes = [d.toNat]) (hv : u.vec = false) :
    ∃ t, issue s u body = .next t ∧ Rules.Answers s w t d x := by
  refine ⟨_, issue_gRegs body hb h hm hc hn hu hv, ?_⟩
  generalize ht : modCtx (freshRegs (answer w s.me d x) s.me u.writes.contains) s.me (fun y => ended (nextPc y (actor s).pc)) = t
  have answered := answer_world w s.me d x
  have world : { t with ctxs := w.ctxs, badReg := w.badReg, net := w.net } = w := by
    subst ht
    exact (congrArg (fun z : State => { z with badReg := w.badReg }) answered :)
  have wme : t.me = w.me := (congrArg State.me world :)
  have me : t.me = s.me := wme.trans hw.me
  have ctx : ∀ k, getCtx t k = if k = s.me then ended (nextPc ((getCtx w s.me).setEmpty d.toNat true) (actor s).pc)
      else getCtx w k := by
    intro k
    subst ht
    rw [getCtx_modCtx, getCtx_freshRegs, getCtx_freshRegs, getCtx_congr (answer_ctxs ..), getCtx_modCtx_self,
      getCtx_congr (answer_ctxs ..), getCtx_modCtx]
    split <;> rfl
  have own : actor t = ended (nextPc ((actor w).setEmpty d.toNat true) (actor s).pc) := by
    show getCtx t t.me = ended (nextPc ((getCtx w w.me).setEmpty d.toNat true) (actor s).pc)
    rw [me, hw.me, ctx, if_pos rfl]
  have kept : ∀ {α : Type} (F : Ctx → α), (∀ (c : Ctx) (y : Trail), F { c with trail := y } = F c) → F (actor w) = F (actor s) := by
    intro α F hF
    show F (getCtx w w.me) = _
    rw [hw.me]
    exact hw.proj s.me F hF
  constructor
  case net =>
    subst ht
    exact answer_net hw d x
  case empty =>
    intro r
    rw [own]
    show (nextPc _ _).isEmpty r = _
    rw [isEmpty_nextPc, isEmpty_setEmpty]
    refine if_congr ⟨fun ⟨e, h0⟩ => ⟨e ▸ h0, e⟩, fun ⟨h0, e⟩ => ⟨e, e ▸ h0⟩⟩ rfl rfl
  case rest =>
    rw [own]
    simp [ended]
  case pc =>
    rw [FallsThrough, own]
    exact ⟨loopStep_nextPc ((setEmpty_loopEnd ..).trans (kept Ctx.loopEnd fun _ _ => rfl))
      ((setEmpty_loopCnt ..).trans (kept Ctx.loopCnt fun _ _ => rfl)) ((setEmpty_st ..).trans (kept Ctx.st fun _ _ => rfl))
      ((setEmpty_loopLen ..).trans (kept Ctx.loopLen fun _ _ => rfl)), rfl⟩
  case others =>
    intro k hk
    rw [ctx, if_neg hk]
  case codes =>
    intro e
    have bad : t.badReg = w.badReg.filter fun e => !(e.1 == s.me && u.writes.contains e.2) := by
      subst ht
      show List.filter _ (answer w s.me d x).badReg = _
      rw [show (answer w s.me d x).badReg = w.badReg from (congrArg State.badReg answered :)]
    rw [bad, List.mem_filter, hd]
    simp
    tauto
  case world => exact world

end Sys2Proof.Machine
end

section
/-!
PROOFS. The XLAT instructions (R103, R106 to R110).
-/

namespace Sys2Proof

/-- A table whose entries are changed one by one, each under its key. -/
theorem tfind_map {α β : Type} (f : Nat × α → β) (t : Tab α) (j : Nat) :
    tfind (t.map fun e => (e.1, f e)) j = (tfind t j).map fun v => f (j, v) := by
  induction t with
  | nil => rfl
  | cons e t ih =>
    obtain ⟨k, v⟩ := e
    simp only [List.map_cons, tfind]
    split
    · next h => rw [h]; rfl
    · exact ih

namespace Machine

/-! ### The removal of translations (R106) -/

/-- A shootdown changes of a context only what its walks have told it. -/
theorem shootDown_ctx (s : State) (rind kind mask asid : Nat) (va : Dword) (k : Nat) :
    { getCtx (shootDown s rind kind mask asid va) k with walked := (getCtx s k).walked } = getCtx s k := by
  unfold getCtx shootDown tget
  rw [tfind_map]
  cases tfind s.ctxs k with
  | none => rfl
  | some c =>
    dsimp only [Option.map_some, Option.getD_some]
    split <;> rfl

theorem shootDown_tlb (s : State) (rind kind mask asid : Nat) (va : Dword) (u : Nat) :
    tget [] (shootDown s rind kind mask asid va).tlbs u =
      if tlbiReaches s rind mask u then (tget [] s.tlbs u).filter fun e => !tlbiHits kind rind asid va e else tget [] s.tlbs u := by
  unfold shootDown tget
  rw [tfind_map]
  cases tfind s.tlbs u with
  | none => simp
  | some ts => rfl

theorem tlbiHits_iff {kind : BitVec 2} (h : kind ≤ 2) (rind asid : Nat) (va : Dword) (e : Tlb) :
    tlbiHits kind.toNat rind asid va e = true ↔ e.rind = rind ∧ (kind ≠ 2 → e.asid = asid)
      ∧ (kind = 0 → canonical va = true ∧ e.vpage = va.toNat / 2 ^ e.shift) := by
  have kinds : kind = 0 ∨ kind = 1 ∨ kind = 2 := by
    revert h
    revert kind
    decide
  unfold tlbiHits
  rcases kinds with rfl | rfl | rfl
  · simp [and_assoc]
  · simp
  · simp

/-! ### A fill that waits (R41, R106) -/

/-- g[d] is emptied, and a packet goes out that is to fill it; nothing for g0. -/
def awaiting (s : State) (k : Nat) (d : BitVec 5) (p : Reply → Packet) : State :=
  if d = 0 then s else sendPacket (modCtx s k fun c => c.setEmpty d.toNat true) (p (replyOf s k d.toNat))

theorem awaiting_world (s : State) (k : Nat) (d : BitVec 5) (p : Reply → Packet) :
    { awaiting s k d p with ctxs := s.ctxs, net := s.net } = s := by
  unfold awaiting
  split <;> rfl

theorem awaiting_net (s : State) (k : Nat) (d : BitVec 5) (p : Reply → Packet) :
    (awaiting s k d p).net = s.net ++ if d = 0 then [] else
      [{ owner := none, launch := none, ord := sendOrd false false, body := p (replyOf s k d.toNat) }] := by
  unfold awaiting
  split
  · exact (List.append_nil _).symm
  · rfl

theorem awaiting_ctx (s : State) (k : Nat) (d : BitVec 5) (p : Reply → Packet) :
    getCtx (awaiting s k d p) k = (getCtx s k).setEmpty d.toNat true := by
  unfold awaiting
  split
  · next h => subst h; rfl
  · exact getCtx_modCtx_self s k fun c => c.setEmpty d.toNat true

/-- What TLBI with these registers does at once. -/
def shot (s : State) (a b : BitVec 5) (kind : BitVec 2) : State :=
  shootDown s (stRind (actor s).st) kind.toNat (fldN ((actor s).readG b.toNat) 32 32) (fldN ((actor s).readG b.toNat) 0 16)
    ((actor s).readG a.toNat)

/-- A context keeps across TLBI all but what its walks have told it. -/
theorem shot_proj {α : Type} (s : State) (a b : BitVec 5) (kind : BitVec 2) (F : Ctx → α)
    (hF : ∀ (c : Ctx) (x : List (Nat × Walk)), F { c with walked := x } = F c) :
    F (getCtx (shot s a b kind) s.me) = F (actor s) :=
  (hF _ _).symm.trans (congrArg F (shootDown_ctx ..))

theorem mem_shot_tlb {s : State} (a b : BitVec 5) {kind : BitVec 2} (h : kind ≤ 2) (u : Nat) (e : Tlb) :
    let sel := ((actor s).readG b.toNat).toNat
    let va := (actor s).readG a.toNat
    e ∈ tget [] (shot s a b kind).tlbs u ↔ e ∈ tget [] s.tlbs u ∧
      ¬ ((getCluster s (if u < 2048 then u / 8 else u - 2048)).rind = some (stRind (actor s).st)
        ∧ (sel / 2 ^ 32 % 2 ^ 32).testBit ((if u < 2048 then u / 8 else u - 2048) / 8) = true
        ∧ e.rind = stRind (actor s).st ∧ (kind ≠ 2 → e.asid = sel % 2 ^ 16)
        ∧ (kind = 0 → canonical va = true ∧ e.vpage = va.toNat / 2 ^ e.shift)) := by
  intro sel va
  have mask : fldN ((actor s).readG b.toNat) 32 32 = sel / 2 ^ 32 % 2 ^ 32 := by
    rw [fldN, fld, BitVec.extractLsb'_toNat, Nat.shiftRight_eq_div_pow]
  have asid : fldN ((actor s).readG b.toNat) 0 16 = sel % 2 ^ 16 := by
    rw [fldN, fld, BitVec.extractLsb'_toNat, Nat.shiftRight_zero]
  have reach : tlbiReaches s (stRind (actor s).st) (sel / 2 ^ 32 % 2 ^ 32) u = true ↔
      (getCluster s (if u < 2048 then u / 8 else u - 2048)).rind = some (stRind (actor s).st)
        ∧ (sel / 2 ^ 32 % 2 ^ 32).testBit ((if u < 2048 then u / 8 else u - 2048) / 8) = true := by
    unfold tlbiReaches
    rw [Bool.and_eq_true, beq_iff_eq]
    exact Iff.rfl
  have hit := tlbiHits_iff h (stRind (actor s).st) (sel % 2 ^ 16) va e
  unfold shot
  rw [shootDown_tlb, mask, asid, ← and_assoc, ← reach, ← hit]
  split
  · next near => rw [List.mem_filter, Bool.not_eq_true', ← Bool.not_eq_true, and_iff_right near]
  · next far => exact (and_iff_left fun ⟨near, _⟩ => far near).symm

/-- The end of TLBI in system mode: the removal, and the empty register that a packet is to fill. -/
theorem execTlbi_next {s : State} {d a b : BitVec 5} {kind : BitVec 2} (h : Ready s [b.toNat, a.toNat, d.toNat])
    (hs : stSys (actor s).st = true) :
    ∃ t, execTlbi d a b kind s = .next t
      ∧ actor t = ended (nextPc ((getCtx (shot s a b kind) s.me).setEmpty d.toNat true) (actor s).pc)
      ∧ { t with ctxs := s.ctxs, badReg := s.badReg, net := s.net, tlbs := s.tlbs, l1i := s.l1i, clusters := s.clusters,
                 cores := s.cores } = s
      ∧ t.tlbs = (shot s a b kind).tlbs
      ∧ t.net = s.net ++ (
          let me : Reply := { ctx := s.me, gen := stGen (actor s).st, reg := d.toNat, inTrap := stTrap (actor s).st }
          if d = 0 then [] else
            [{ owner := none, launch := none, ord := sendOrd false false, body := .shoot me (stRind (actor s).st) s.tick }]) := by
  generalize hw : awaiting (shot s a b kind) s.me d (fun r => .shoot r (stRind (actor s).st) s.tick) = w
  have world : { w with ctxs := (shot s a b kind).ctxs, net := (shot s a b kind).net } = shot s a b kind :=
    hw ▸ awaiting_world ..
  have own : getCtx w s.me = (getCtx (shot s a b kind) s.me).setEmpty d.toNat true := hw ▸ awaiting_ctx ..
  have reply : replyOf (shot s a b kind) s.me d.toNat
      = { ctx := s.me, gen := stGen (actor s).st, reg := d.toNat, inTrap := stTrap (actor s).st } := by
    unfold replyOf
    dsimp only
    rw [shot_proj s a b kind Ctx.st fun _ _ => rfl]
  have net := awaiting_net (shot s a b kind) s.me d (fun r => .shoot r (stRind (actor s).st) s.tick)
  rw [hw, reply] at net
  refine ⟨modCtx (freshRegs w s.me (gr d :: []).contains) s.me fun x => ended (nextPc x (actor s).pc), ?_, ?_, ?_, ?_, net⟩
  · unfold execTlbi
    refine issue_gRegs _ ?_ h ?_ rfl rfl ?_ rfl
    · dsimp only
      rw [if_neg (by simp [hs]), ← hw]
      unfold awaiting
      by_cases hd : d = 0
      · rw [if_pos hd, if_pos hd]
        rfl
      · rw [if_neg hd, if_neg hd]
        rfl
    · intro r hr
      split at hr <;> simp [gr] at hr ⊢ <;> tauto
    · intro r hr
      split at hr <;> simp [gr] at hr <;> omega
  · have me : w.me = s.me := (congrArg State.me world :)
    show getCtx _ w.me = _
    rw [me, getCtx_modCtx_self, getCtx_freshRegs, own]
  · exact (congrArg (fun z : State => { z with ctxs := s.ctxs, badReg := s.badReg, net := s.net, tlbs := s.tlbs, l1i := s.l1i,
                                               clusters := s.clusters, cores := s.cores }) world :)
  · exact (congrArg State.tlbs world :)

theorem tlbi_removes {d a b : BitVec 5} {kind : BitVec 2} {s : State} (wf : WellFormed (.tlbi d a b kind))
    (h : Ready s [b.toNat, a.toNat, d.toNat]) (hs : stSys (actor s).st = true) :
    let sel := ((actor s).readG b.toNat).toNat
    let va := (actor s).readG a.toNat
    let goes := fun (u : Nat) (e : Tlb) =>
      (getCluster s (if u < 2048 then u / 8 else u - 2048)).rind = some (stRind (actor s).st)
        ∧ (sel / 2 ^ 32 % 2 ^ 32).testBit ((if u < 2048 then u / 8 else u - 2048) / 8) = true
        ∧ e.rind = stRind (actor s).st ∧ (kind ≠ 2 → e.asid = sel % 2 ^ 16)
        ∧ (kind = 0 → canonical va = true ∧ e.vpage = va.toNat / 2 ^ e.shift)
    let me : Reply := { ctx := s.me, gen := stGen (actor s).st, reg := d.toNat, inTrap := stTrap (actor s).st }
    ∃ t, execTlbi d a b kind s = .next t ∧ FallsThrough s t
      ∧ (∀ r, (actor t).isEmpty r = if r ≠ 0 ∧ r = d.toNat then true else (actor s).isEmpty r)
      ∧ t.net = s.net ++ (if d = 0 then [] else
          [{ owner := none, launch := none, ord := sendOrd false false, body := .shoot me (stRind (actor s).st) s.tick }])
      ∧ SameBytes s t
      ∧ ∀ u e, e ∈ tget [] t.tlbs u ↔ e ∈ tget [] s.tlbs u ∧ ¬ goes u e := by
  intro sel va goes me
  obtain ⟨t, run, own, world, tlbs, net⟩ := execTlbi_next (a := a) (kind := kind) h hs
  have low : kind ≤ 2 := by
    have w : (decide (kind ≤ 2) && (kind == 0 || a == 0)) = true := wf
    simp at w
    exact w.1
  refine ⟨t, run, ?_, ?_, net, ?_, ?_⟩
  · rw [FallsThrough, own]
    refine ⟨loopStep_nextPc ?_ ?_ ?_ ?_, rfl⟩
    · exact (setEmpty_loopEnd ..).trans (shot_proj s a b kind Ctx.loopEnd fun _ _ => rfl)
    · exact (setEmpty_loopCnt ..).trans (shot_proj s a b kind Ctx.loopCnt fun _ _ => rfl)
    · exact (setEmpty_st ..).trans (shot_proj s a b kind Ctx.st fun _ _ => rfl)
    · exact (setEmpty_loopLen ..).trans (shot_proj s a b kind Ctx.loopLen fun _ _ => rfl)
  · intro r
    have kept := shot_proj s a b kind (fun c => c.isEmpty r) fun _ _ => rfl
    rw [own]
    show (nextPc _ _).isEmpty r = _
    rw [isEmpty_nextPc, isEmpty_setEmpty]
    exact if_congr ⟨fun ⟨e, h0⟩ => ⟨e ▸ h0, e⟩, fun ⟨h0, e⟩ => ⟨e, e ▸ h0⟩⟩ rfl kept
  · exact readByte_congr (congrArg State.mem world :) (congrArg State.cav world :) (congrArg State.top world :)
      (congrArg State.rmap world :) (congrArg State.ctls world :) (congrArg State.cavHeld world :)
      (congrArg State.topHeld world :)
  · intro u e
    rw [tlbs]
    exact mem_shot_tlb a b low u e

/-- TLBI's fill waits for the accesses of its Rind issued before it. -/
theorem shoot_fills {n rind before : Nat} {f : Flight} {r : Reply} {s : State} (hn : s.net[n]? = some f)
    (hb : f.body = .shoot r rind before) :
    execFill (.net n) s = .next (if accessBefore s rind before then s
      else applyFill { s with net := dropNth s.net n } r 0) := by
  unfold execFill
  simp only [hn, hb]

/-! ### The live tables and the snapshots (R107 to R110) -/

theorem flipTable_eq (s : State) (rind : Nat) (m : BitVec 256) : flipTable s rind m = Rules.flipped s rind m := rfl

theorem flipped_sameCtxs (s : State) (rind : Nat) (m : BitVec 256) : SameCtxs s (Rules.flipped s rind m) := ⟨rfl, rfl, rfl⟩

/-- The launch's snapshot takes the live bits that the mask selects (R109). -/
def pinned (s : State) (l rind : Nat) (m : BitVec 256) : State :=
  modLaunch s l fun x => { x with snap := (x.snap &&& ~~~m) ||| ((getRind s rind).live &&& m) }

theorem pinned_sameCtxs (s : State) (l rind : Nat) (m : BitVec 256) : SameCtxs s (pinned s l rind m) := by
  simp [pinned]

section Masked

variable {d a b : BitVec 5} {ds : List Dword} {m : BitVec 256} {s s1 : State}

theorem vflip_flips (h : Ready s [a.toNat, d.toNat]) (ha : ((actor s).readG a.toNat).toNat % 32 = 0)
    (hp : (pendingOf s s.me).isEmpty = true) (hr : readList s s.me ((actor s).readG a.toNat) 4 [] = (s1, .ok ds))
    (hm : Rules.block32 ds m) :
    ∃ t, execVflip d a s = .next t ∧ Rules.Answers s (Rules.flipped s1 (stRind (actor s).st) m) t d 0 := by
  have same := (readList_ok hr).1
  refine issue_answers _ ?_ (same.trans (flipped_sameCtxs s1 _ m).butTrail) h ?_ rfl rfl ?_ rfl rfl
  · rw [withMask_ok ha hp hr hm, flipTable_eq, ← same.me]
  · intro r hr
    simpa [gr] using hr
  · intro r hr
    simp [gr] at hr
    omega

theorem vpin_pins (h : Ready s [a.toNat, d.toNat]) (ha : ((actor s).readG a.toNat).toNat % 32 = 0)
    (hp : (pendingOf s s.me).isEmpty = true) (hr : readList s s.me ((actor s).readG a.toNat) 4 [] = (s1, .ok ds))
    (hm : Rules.block32 ds m) :
    ∃ t, execVpin d a s = .next t
      ∧ Rules.Answers s (pinned s1 ((actor s).launch.getD 0) (stRind (actor s).st) m) t d 0 := by
  have same := (readList_ok hr).1
  have pin := pinned_sameCtxs s1 ((actor s).launch.getD 0) (stRind (actor s).st) m
  refine issue_answers _ ?_ (same.trans pin.butTrail) h ?_ rfl rfl ?_ rfl rfl
  · rw [withMask_ok ha hp hr hm, ← same.me, ← pin.1]
    rfl
  · intro r hr
    simpa [gr] using hr
  · intro r hr
    simp [gr] at hr
    omega

end Masked

theorem reached_iff (v t : Word) : reached v t = true ↔ 0 ≤ (v - t).toInt := by
  unfold reached
  rw [decide_eq_true_iff, BitVec.toInt_eq_toNat_cond]
  split <;> omega

/-- A word of a block is the low half of the dword that it opens. -/
theorem block32_word {es : List Dword} {m : BitVec 256} (h : Rules.block32 es m) :
    fld m 64 32 = (es.getD 1 0).setWidth 32 := by
  rw [← h 1 (by decide)]
  ext i hi
  simp [fld]
  omega

/-- VFLIPC on a counter that its Rind may use flips when the counter has reached the target. -/
theorem flipTest_eq {s : State} {rind : Nat} {es : List Dword} {m : BitVec 256} (h : Rules.block32 es m)
    (hc : ctrMalformed (es.getD 0 0) = false) (hn : ctrNode (es.getD 0 0) = s.node)
    (hr : coreRind s (ctrCore (es.getD 0 0)) = some rind) :
    flipTest s rind m = if 0 ≤ (getCounter s (ctrCore (es.getD 0 0)) (ctrIndex (es.getD 0 0)) - (es.getD 1 0).setWidth 32).toInt
      then none else some 1 := by
  have counter : (fld m 0 64 : Dword) = es.getD 0 0 := h 0 (by decide)
  unfold flipTest
  dsimp only
  rw [counter, block32_word h, hc, hn, hr, if_neg (by simp), ← ite_not]
  exact if_congr (by rw [← reached_iff]; simp) rfl rfl

theorem vflipc_tests {d a b : BitVec 5} {ds es : List Dword} {m : BitVec 256} {s s1 s2 : State}
    (h : Ready s [a.toNat, b.toNat, d.toNat]) (ha : ((actor s).readG a.toNat).toNat % 32 = 0)
    (hb : ((actor s).readG b.toNat).toNat % 32 = 0) (hp : (pendingOf s s.me).isEmpty = true)
    (hr : readList s s.me ((actor s).readG a.toNat) 4 [] = (s1, .ok ds)) (hm : Rules.block32 ds m)
    (hr' : readList s1 s.me ((actor s).readG b.toNat) 4 [] = (s2, .ok es)) (flag : es.getD 2 0 = 0)
    (hc : ctrMalformed (es.getD 0 0) = false) (hn : ctrNode (es.getD 0 0) = s.node)
    (hk : coreRind s2 (ctrCore (es.getD 0 0)) = some (stRind (actor s).st)) :
    let now := getCounter s2 (ctrCore (es.getD 0 0)) (ctrIndex (es.getD 0 0))
    let target : Word := (es.getD 1 0).setWidth 32
    ∃ t, execVflipc d a b s = .next t
      ∧ (0 ≤ (now - target).toInt → Rules.Answers s (Rules.flipped s2 (stRind (actor s).st) m) t d 0)
      ∧ ((now - target).toInt < 0 → Rules.Answers s s2 t d 1) := by
  intro now target
  have same1 := (readList_ok hr).1
  obtain ⟨same2, len⟩ := readList_ok hr'
  have same := same1.trans same2
  have block : Rules.block32 es (blockOf es) := block32_blockOf len
  have noFlag : (fld (blockOf es) 128 64 : Dword) = 0 := (block 2 (by decide)).trans flag
  have test : flipTest s2 (stRind (actor s).st) (blockOf es) = if 0 ≤ (now - target).toInt then none else some 1 :=
    flipTest_eq block hc (hn.trans same.node.symm) hk
  rw [← same1.me] at hr'
  have answers : ∃ t, execVflipc d a b s = .next t
      ∧ Rules.Answers s (if 0 ≤ (now - target).toInt then Rules.flipped s2 (stRind (actor s).st) m else s2) t d
          (if 0 ≤ (now - target).toInt then 0 else 1) := by
    refine issue_answers _ ?_ ?_ h ?_ rfl rfl ?_ rfl rfl
    · rw [withMask_ok ha hp hr hm, withBlock32_ok hb hr', noFlag, test]
      by_cases e : 0 ≤ (now - target).toInt
      · rw [if_pos e, if_pos e, if_pos e]
        rfl
      · rw [if_neg e, if_neg e, if_neg e]
        rfl
    · split
      · exact same.trans (flipped_sameCtxs s2 _ m).butTrail
      · exact same
    · intro r hr
      simpa [gr] using hr
    · intro r hr
      simp [gr] at hr
      omega
  obtain ⟨t, run, ans⟩ := answers
  refine ⟨t, run, fun e => ?_, fun e => ?_⟩
  · rwa [if_pos e, if_pos e] at ans
  · rwa [if_neg (not_le.mpr e), if_neg (not_le.mpr e)] at ans

theorem vrd_reads {d : BitVec 5} {src : BitVec 1} {w : BitVec 2} {s : State} (h : Ready s [d.toNat]) :
    let table : BitVec 256 := if src = 0 then (getRind s (stRind (actor s).st)).live
      else (((actor s).launch.bind (getLaunch s)).map (fun l => l.snap)).getD 0
    ∃ t, execVrd d src w s = .next t ∧ FallsThrough s t ∧ OnlyRegs s t [d.toNat]
      ∧ (actor t).readG d.toNat = if d = 0 then 0 else table.extractLsb' (64 * w.toNat) 64 := by
  intro table
  have named : ∀ r ∈ [] ++ [gr d] ++ [] ++ [] ++ [], r ∈ [d.toNat] := by simp [gr]
  obtain ⟨t, run, read, falls, only⟩ := issue_writeG (u := { writes := [gr d] }) d (fun _ => fld table (64 * w.toNat) 64) h rfl
    named rfl rfl
  refine ⟨t, ?_, falls, only, read⟩
  rw [← run]
  unfold execVrd
  rw [issue_ready _ h named rfl (by simp), issue_ready _ h named rfl (by simp)]
  refine congrArg (fun x => Host.Outcome.next (finish s _ x)) ?_
  dsimp only [pureBody, table]
  split
  · rfl
  · cases (actor s).launch.bind (getLaunch s) <;> rfl

/-- Settles O32: TLBI by what a shootdown leaves in the TLBs, VFLIP, VPIN and VFLIPC by the block reads that change no context but
for its trail, VRD by the register it writes. -/
theorem translationInstructions : Obligations.TranslationInstructions := by
  unfold Obligations.TranslationInstructions
  refine ⟨fun d a b kind s wf h hs => ?_, fun n rind before f r s hn hb => ?_, fun d a ds m s s1 h ha hp hr hm => ⟨?_, ?_⟩,
    fun d a b ds es m s s1 s2 h ha hb hp hr hm hr' flag hc hn hk => ?_, fun d src w s h => ?_⟩
  · exact tlbi_removes wf h hs
  · exact shoot_fills hn hb
  · exact vflip_flips h ha hp hr hm
  · exact vpin_pins h ha hp hr hm
  · exact vflipc_tests h ha hb hp hr hm hr' flag hc hn hk
  · exact vrd_reads h

end Machine
end Sys2Proof
end

section
/-!
PROOFS. The queries (R162, R191, R252, R260, R299): each fills g[d] with the value that its unit holds at the issue, and has no
other effect.
-/

namespace Sys2Proof.Machine

/-- A field of a value as a number, by division. -/
theorem fldN_eq_div_mod {m : Nat} (x : BitVec m) (lo n : Nat) : fldN x lo n = x.toNat / 2 ^ lo % 2 ^ n := by
  rw [fldN, fld, BitVec.extractLsb'_toNat, Nat.shiftRight_eq_div_pow]

/-- The cluster of a context, by its key (R38). -/
theorem coreCluster_ctxCore (k : Nat) : coreCluster (ctxCore k) = k / 2048 := Nat.div_div_eq_div_mul ..

/-- A seated context may name every control register (R35), so that naming one changes nothing in its issue. -/
theorem issue_ctl_seated {s : State} (u : Named) (body : State → Ctx → State × Done) (h : stRoam (actor s).st = false) :
    issue s u body = issue s { u with ctl := none } body := by
  unfold issue
  dsimp only
  rw [classBad_seated u h, classBad_seated _ h]
  rfl

/-- The health word is laid out as R299 gives. -/
theorem healthWord_layout (s : State) (cl p : Nat) :
    healthWord s cl p = BitVec.ofNat 64 ((getPress s cl p).mism.toNat * 2 ^ 32 + (getPress s cl p).host.getD p % 4 * 2 ^ 8
      + (if (getPress s cl p).ret then 16 else 0) + (getPress s cl p).spares % 8) := by
  unfold healthWord
  dsimp only
  generalize getPress s cl p = x
  have ret : bit64 x.ret 4 = at64 (if x.ret then 1 else 0) 4 := by cases x.ret <;> rfl
  have low : (if x.ret then 1 else 0) * 2 ^ 4 = if x.ret then 16 else 0 := by cases x.ret <;> rfl
  have bound : (if x.ret then 16 else 0) ≤ 16 := by cases x.ret <;> decide
  have above (a b n : Nat) (h : b < 2 ^ n) := at64_or_ofNat (a := a) h
  rw [ret, at64_at_zero, BitVec.or_assoc, BitVec.or_assoc, above _ _ 4 (by omega), low, above _ _ 8 (by omega),
    above _ _ 32 (by omega), Nat.add_assoc, Nat.add_assoc]

/-- The register that csp.addr names is reached in system mode by a core of a Rind that it admits (R66, R260). -/
theorem cspTarget_admitted {s : State} {c : Ctx} {r : CtlReg} (sys : stSys c.st = true)
    (named : ctlAt c.cspAddr.toNat = some r) (admits : ctlAdmits s (stRind c.st) r = true) : cspTarget s c = some r := by
  unfold cspTarget
  rw [sys, named]
  exact Option.filter_some_pos admits

/-- An instruction on g registers that fills g[d] with a value read at its issue, and has no other effect (R41). -/
theorem issue_query {s : State} {d : BitVec 5} {x : Dword} (rs : List Nat) (body : State → Ctx → State × Done)
    (hb : body s (actor s) = (answer s s.me d x, .next)) (h : Ready s (d.toNat :: rs)) (low : ∀ r ∈ rs, r < 32) :
    ∃ t, issue s { reads := rs, writes := [gr d] } body = .next t ∧ Rules.Answers s s t d x := by
  refine issue_answers body hb (SameCtxs.butTrail ⟨rfl, rfl, rfl⟩) h ?_ rfl rfl ?_ rfl rfl
  · intro r hr
    simpa [gr, or_comm] using hr
  · intro r hr
    rcases List.mem_append.1 hr with hr | hr
    · exact low r hr
    · exact List.mem_singleton.1 hr ▸ d.isLt

section
variable {s : State} {d a : BitVec 5}

theorem gr_lt_of_mem_singleton (a : BitVec 5) : ∀ r ∈ [gr a], r < 32 := fun _ hr => List.mem_singleton.1 hr ▸ a.isLt

theorem erd_answers {u : Nat} (unit : energyUnit s (stRind (actor s).st) ((actor s).readG a.toNat) = some u)
    (h : Ready s [d.toNat, a.toNat]) : ∃ t, execErd d a s = .next t
      ∧ Rules.Answers s s t d (BitVec.ofNat 64 (tget 0 (getRind s (stRind (actor s).st)).energy u / 1024)) := by
  refine issue_query [gr a] _ ?_ h (gr_lt_of_mem_singleton a)
  dsimp only
  rw [unit]

theorem cspDataRead_answers {r : CtlReg} (sys : stSys (actor s).st = true) (seated : stRoam (actor s).st = false)
    (named : ctlAt (actor s).cspAddr.toNat = some r) (admits : ctlAdmits s (stRind (actor s).st) r = true)
    (idle : (pendingOf s s.me).isEmpty = true) (h : Ready s [d.toNat]) :
    ∃ t, execCspDataRead d s = .next t ∧ Rules.Answers s s t d (ctlRead s r) := by
  unfold execCspDataRead
  rw [issue_ctl_seated _ _ seated]
  refine issue_query [] _ ?_ h (by simp)
  unfold cspRead
  rw [idle, cspTarget_admitted sys named admits]
  rfl

theorem dedupqCnt_answers (h : Ready s [d.toNat, a.toNat]) : ∃ t, execDedupqCnt d a s = .next t
      ∧ Rules.Answers s s t d (BitVec.ofNat 64 (caveCounter (getCave s (((actor s).readG a.toNat).toNat / 256 % 4))
          (stRind (actor s).st) (((actor s).readG a.toNat).toNat % 16))) := by
  refine issue_query [gr a] _ ?_ h (gr_lt_of_mem_singleton a)
  dsimp only
  rw [fldN_eq_div_mod, fldN_eq_div_mod, pow_zero, Nat.div_one]
  rfl

theorem cstat_answers {l : BitVec 1} (past : commandUnderway s s.me (8 * (s.me / 2048) + l.toNat) = false)
    (h : Ready s [d.toNat, a.toNat]) : ∃ t, execCstat d a l s = .next t
      ∧ Rules.Answers s s t d
          (copyState s (s.me / 2048) l.toNat (actor s) (((actor s).readG a.toNat).toNat % 2 ^ 16)) := by
  refine issue_query [gr a] _ ?_ h (gr_lt_of_mem_singleton a)
  dsimp only
  rw [coreCluster_ctxCore, past, fldN_eq_div_mod, pow_zero, Nat.div_one]
  rfl

theorem pstat_answers {p : BitVec 2} (past : commandUnderway s s.me (8 * (s.me / 2048) + 2 + p.toNat) = false)
    (h : Ready s [d.toNat, a.toNat]) : ∃ t, execPstat d a p s = .next t
      ∧ Rules.Answers s s t d
          (pressState s (s.me / 2048) p.toNat (ctxAsid s s.me) (((actor s).readG a.toNat).toNat % 2 ^ 16)) := by
  refine issue_query [gr a] _ ?_ h (gr_lt_of_mem_singleton a)
  dsimp only
  rw [coreCluster_ctxCore, pressUnit, past, fldN_eq_div_mod, pow_zero, Nat.div_one]
  rfl

theorem pstatHl_answers {p : BitVec 2} (h : Ready s [d.toNat]) : ∃ t, execPstatHl d p s = .next t
      ∧ Rules.Answers s s t d (healthWord s (s.me / 2048) p.toNat) := by
  refine issue_query [] _ ?_ h (by simp)
  rw [coreCluster_ctxCore]

end

/-- Settles O29: each query answers with the value that its unit holds at the issue. -/
theorem queriesAreFilled : Obligations.QueriesAreFilled := by
  intro i rs d x s asked h
  unfold Rules.query at asked
  split at asked
  case h_1 d' a =>
    obtain ⟨u, unit, e⟩ := Option.map_eq_some_iff.1 asked
    cases e
    exact erd_answers unit h
  case h_2 d' =>
    split at asked
    case isFalse => contradiction
    next mode =>
    rw [Bool.and_eq_true, Bool.not_eq_true'] at mode
    obtain ⟨r, named, asked⟩ := Option.bind_eq_some_iff.1 asked
    split at asked
    case isFalse => contradiction
    next reached =>
    rw [Bool.and_eq_true] at reached
    cases asked
    exact cspDataRead_answers mode.1 mode.2 named reached.1 reached.2 h
  case h_3 d' a =>
    cases asked
    exact dedupqCnt_answers h
  case h_4 d' a l =>
    split at asked
    case isTrue => contradiction
    next past =>
    cases asked
    exact cstat_answers (Bool.eq_false_iff.2 past) h
  case h_5 d' a p =>
    split at asked
    case isTrue => contradiction
    next past =>
    cases asked
    exact pstat_answers (Bool.eq_false_iff.2 past) h
  case h_6 d' p =>
    cases asked
    rw [← healthWord_layout]
    exact pstatHl_answers h
  case h_7 => contradiction

end Sys2Proof.Machine
end

section
/-!
PROOFS. CLEAN of a line of HBM of which an L2 holds one half alone (R79, R141, R158): the byte written to it is lost, so O35
fails.
-/

namespace Sys2Proof.Machine

/-- The leaf of a page at 0x30000 in frame 1, homed at core 0, as both TLBs of core 0 hold it, with its accessed and dirty bits
set. -/
def dataPage : Tlb :=
  { rind := 0, asid := 0, shift := 16, vpage := 3, entry := 0x000100EF, comp := BitVec.ofNat 128 (2 ^ 91 + 2 ^ 96)
    fetched := false, slot := 0x20000 }

/-- The Cave slice of die 0 holds a tag for the sector of the page's first line, with the line invalid: struckEntry's marked row is
what it left there (R141). -/
def clearedLineCave : Cave :=
  { sectors := [(0x40, { rind := 0, way := 0, valid := 0, validLo := 0, col := false, entry := 0, used := 0, plain := true })]
    entries := [(0, struckEntry)] }

/-- The L2 of cluster 0 holds the high half of that line, with its first byte written. R79 gives halves to the lines of the split
window alone, so no run builds this state; it meets every premise of O35. -/
def halfLineState : State :=
  { State.reset with
    ctxs := [(0, { Ctx.initial 0 with g := [(3, 0x30000)] })]
    clusters := [(0, { rind := some 0 })]
    rmap := [(0, 0)]
    tlbs := [(0, [dataPage]), (2048, [dataPage])]
    l2 := [(l2Key 0 0x200, { replica := none, lo := false, dirty := true })]
    top := [(0x10000, 7)]
    caves := [(0, clearedLineCave)] }

def halfLineXl : Xl :=
  { pa := 0x10000, va := 0x30000, entry := 0x000100EF, comp := BitVec.ofNat 128 (2 ^ 91 + 2 ^ 96), shift := 16, slot := 0x20000 }

theorem ready_halfLineState : Ready halfLineState [3, 4] where
  roams h := absurd h (by decide)
  full := by decide +kernel
  plain r hr h32 _ := absurd hr (by simp; omega)
  sound _ _ := rfl
  loops _ _ := rfl

/-- g3 names the page's first byte, and the translation changes nothing. -/
theorem translate_halfLineState :
    translate halfLineState (ctxReq halfLineState halfLineState.me) ((actor halfLineState).readG 3) .load
      = (halfLineState, .ok halfLineXl) := by
  decide +kernel

/-- The bits of the leaf are set already, so that the walker writes nothing (R100). -/
theorem marked_halfLineState : Rules.marked halfLineState halfLineXl .load = halfLineState := by
  decide +kernel

theorem settled_halfLineState : Rules.Settled halfLineState halfLineXl where
  window := .inl (by decide +kernel)
  sound := by decide +kernel
  images _ _ := ⟨rfl, rfl⟩
  tag := ⟨_, struckEntry, rfl, rfl, by decide⟩

/-- CLEAN of the line to the Cave. -/
def halfLineCleaned : State := cleanRange halfLineState halfLineXl.home 0x10000 128 1 (Rules.via halfLineState halfLineXl)

/-- With one half valid the line is not whole at the slice, so that its written byte goes on to memory; but now the marked row
counts, and the byte is dropped (R141). -/
theorem readByte_halfLineCleaned : readByte halfLineState 0x10000 = 7 ∧ readByte halfLineCleaned 0x10000 = 0 := by
  decide +kernel

/-- Refutes O35: its clause on the bytes after CLEAN covers a line of HBM of which the L2 holds one half alone, and in
halfLineState CLEAN of such a line loses the byte that was written to it. -/
theorem not_cacheInstructions : ¬ Obligations.CacheInstructions := by
  rintro ⟨cleans, -⟩
  obtain ⟨-, -, bytes, -⟩ := cleans 4 3 1 0 halfLineState halfLineState halfLineXl rfl ready_halfLineState
    translate_halfLineState (by decide) (by decide)
  rw [marked_halfLineState] at bytes
  obtain ⟨kept, -⟩ := bytes rfl settled_halfLineState ⟨rfl, rfl, rfl⟩ halfLineCleaned (.inl rfl) 0x10000 (by decide)
  obtain ⟨before, after⟩ := readByte_halfLineCleaned
  rw [before, after] at kept
  exact absurd kept (by decide)

end Sys2Proof.Machine
end

section
/-!
PROOFS. The end of an instruction that sends a packet (R41, R330): one whose register the packet will fill leaves the state that its
effect left, with the register empty and the packet in flight; a post changes no register.
-/

namespace Sys2Proof.Machine

/-- An instruction that meets no stream register, when nothing stops it. -/
theorem issue_scalar {s w : State} {u : Named} {rs : List Nat} (body : State → Ctx → State × Done)
    (hb : body s (actor s) = (w, .next)) (hw : w.streams = s.streams) (h : Ready s rs)
    (hm : ∀ r ∈ u.reads ++ u.writes ++ u.tests ++ u.merges ++ u.names, r ∈ rs) (hc : u.ctl = none)
    (hn : ∀ r, u.noStream = some r → r ∈ rs ∧ r < 64) (hv : u.vec = false) :
    issue s u body
      = .next (modCtx (freshRegs w s.me u.writes.contains) s.me fun y => ended (nextPc y (actor s).pc)) := by
  have plain : ∀ r ∈ u.reads ++ u.writes, 32 ≤ r → r < 64 → streamSlot w s.me (r - 32) = none := by
    intro r hr h32 h64
    rw [streamSlot_congr hw]
    exact h.plain r (hm r (by simp at hr ⊢; tauto)) h32 h64
  rw [issue_ready body h hm hc hn, hb]
  simp only [finish, retire, moveStreams_none plain, hv]
  rfl

/-- A register set empty and packets put in flight, as the effect of an instruction leaves them that awaits an answer. -/
def asked (w : State) (k d : Nat) (f : List Flight) : State :=
  { modCtx w k (fun c => c.setEmpty d true) with net := w.net ++ f }

theorem asked_world (w : State) (k d : Nat) (f : List Flight) : { asked w k d f with ctxs := w.ctxs, net := w.net } = w := rfl

@[simp] theorem getCtx_asked (w : State) (k d : Nat) (f : List Flight) (j : Nat) :
    getCtx (asked w k d f) j = if j = k then (getCtx w k).setEmpty d true else getCtx w j :=
  getCtx_modCtx w k j fun c => c.setEmpty d true

/-- A packet of the acting context goes on its way after its register has been set empty. -/
theorem launchPacket_setEmpty {s w : State} (hw : SameButTrail s w) (ht : w.tick = s.tick) (d : Nat) (o : Ord) (p : Packet) :
    launchPacket (modCtx w s.me fun c => c.setEmpty d true) (some (s.me, stGen (actor s).st)) o p
      = asked w s.me d [Rules.flight s o p] := by
  have launch : (getCtx w s.me).launch = (actor s).launch := hw.proj s.me Ctx.launch fun _ _ => rfl
  simp [launchPacket, asked, Rules.flight, Ord.issued, ht, launch]

theorem loopStep_butTrail {s w : State} (hw : SameButTrail s w) {c : Ctx} (hend : c.loopEnd = (getCtx w s.me).loopEnd)
    (hcnt : c.loopCnt = (getCtx w s.me).loopCnt) (hst : c.st = (getCtx w s.me).st) (hlen : c.loopLen = (getCtx w s.me).loopLen) :
    LoopStep (actor s) (nextPc c (actor s).pc).pc (nextPc c (actor s).pc).loopCnt :=
  loopStep_nextPc (hend.trans (hw.proj s.me Ctx.loopEnd fun _ _ => rfl)) (hcnt.trans (hw.proj s.me Ctx.loopCnt fun _ _ => rfl))
    (hst.trans (hw.proj s.me Ctx.st fun _ _ => rfl)) (hlen.trans (hw.proj s.me Ctx.loopLen fun _ _ => rfl))

/-- What the end of an instruction leaves that awaits an answer. -/
theorem awaits_asked {s w : State} (hw : SameButTrail s w) (d : Nat) (f : List Flight) (written : Nat → Bool) :
    Rules.Awaits s w
      (modCtx (freshRegs (asked w s.me d f) s.me written) s.me fun y => ended (nextPc y (actor s).pc)) d f := by
  generalize ht : modCtx (freshRegs (asked w s.me d f) s.me written) s.me (fun y => ended (nextPc y (actor s).pc)) = t
  have ctx : ∀ k, getCtx t k = if k = s.me then ended (nextPc ((getCtx w s.me).setEmpty d true) (actor s).pc)
      else getCtx w k := by
    intro k
    subst ht
    rw [getCtx_modCtx, getCtx_freshRegs, getCtx_freshRegs, getCtx_asked, getCtx_asked, if_pos rfl]
    split <;> rfl
  have me : t.me = s.me := by
    subst ht
    exact hw.me
  have own : actor t = ended (nextPc ((actor w).setEmpty d true) (actor s).pc) := by
    show getCtx t t.me = ended (nextPc ((getCtx w w.me).setEmpty d true) (actor s).pc)
    rw [me, hw.me, ctx, if_pos rfl]
  constructor
  case net =>
    subst ht
    rfl
  case empty =>
    intro r
    rw [own]
    show (nextPc _ _).isEmpty r = _
    rw [isEmpty_nextPc, isEmpty_setEmpty]
    exact if_congr ⟨fun ⟨e, h0⟩ => ⟨e ▸ h0, e⟩, fun ⟨h0, e⟩ => ⟨e, e ▸ h0⟩⟩ rfl rfl
  case rest =>
    rw [own]
    simp [ended]
  case pc =>
    rw [FallsThrough, own]
    refine ⟨?_, rfl⟩
    show LoopStep _ (nextPc ((getCtx w w.me).setEmpty d true) _).pc (nextPc ((getCtx w w.me).setEmpty d true) _).loopCnt
    rw [hw.me]
    exact loopStep_butTrail hw (setEmpty_loopEnd ..) (setEmpty_loopCnt ..) (setEmpty_st ..) (setEmpty_loopLen ..)
  case others =>
    intro k hk
    rw [ctx, if_neg hk]
  case world =>
    subst ht
    exact (congrArg (fun z : State => { z with badReg := w.badReg }) (asked_world w s.me d f) :)

/-- What the end of an instruction leaves whose effect left w and which writes no register. -/
theorem moves_of_effect {s w : State} (hw : SameButTrail s w) :
    Rules.Moves s w (modCtx (freshRegs w s.me ([] : List Nat).contains) s.me fun y => ended (nextPc y (actor s).pc)) := by
  generalize ht : modCtx (freshRegs w s.me ([] : List Nat).contains) s.me (fun y => ended (nextPc y (actor s).pc)) = t
  have ctx : ∀ k, getCtx t k = if k = s.me then ended (nextPc (getCtx w s.me) (actor s).pc) else getCtx w k := by
    intro k
    subst ht
    rw [getCtx_modCtx, getCtx_freshRegs, getCtx_freshRegs]
  have me : t.me = s.me := by
    subst ht
    exact hw.me
  have own : actor t = ended (nextPc (actor w) (actor s).pc) := by
    show getCtx t t.me = ended (nextPc (getCtx w w.me) (actor s).pc)
    rw [me, hw.me, ctx, if_pos rfl]
  constructor
  case pc =>
    rw [FallsThrough, own]
    refine ⟨?_, rfl⟩
    show LoopStep _ (nextPc (getCtx w w.me) _).pc (nextPc (getCtx w w.me) _).loopCnt
    rw [hw.me]
    exact loopStep_butTrail hw rfl rfl rfl rfl
  case rest =>
    rw [own]
    simp [ended]
  case others =>
    intro k hk
    rw [ctx, if_neg hk]
  case world =>
    subst ht
    simp [freshRegs]

end Sys2Proof.Machine
end

section
/-!
PROOFS. The commands to the engines (R178, R287, R307, R310 to R315): each issues as one message on its way to an inbox of its
cluster, with its reply register empty.
-/

namespace Sys2Proof.Machine

/-- A command sent by the acting context. -/
theorem sendCommand_eq_asked (s : State) (x : Rules.Command) :
    sendCommand s s.me x.engine x.msg x.body x.o x.sc (replyOf s s.me x.reg) = asked s s.me x.reg [Rules.commandFlight s x] := by
  unfold sendCommand
  rw [coreCluster_ctxCore]
  exact launchPacket_setEmpty (SameCtxs.butTrail ⟨rfl, rfl, rfl⟩) rfl ..

/-- An instruction that sends a command, when nothing stops it. -/
theorem issue_command {s : State} {u : Named} (x : Rules.Command) (body : State → Ctx → State × Done)
    (hb : body s (actor s) = (sendCommand s s.me x.engine x.msg x.body x.o x.sc (replyOf s s.me x.reg), .next))
    (h : Ready s x.regs) (hm : ∀ r ∈ u.reads ++ u.writes ++ u.tests ++ u.merges ++ u.names, r ∈ x.regs) (hc : u.ctl = none)
    (hn : ∀ r, u.noStream = some r → r ∈ x.regs ∧ r < 64) (hv : u.vec = false) :
    ∃ t, issue s u body = .next t ∧ Rules.Awaits s s t x.reg [Rules.commandFlight s x] := by
  rw [sendCommand_eq_asked] at hb
  exact ⟨_, issue_scalar body hb rfl h hm hc hn hv, awaits_asked (SameCtxs.butTrail ⟨rfl, rfl, rfl⟩) ..⟩

/-- The same for a command that names g registers alone: two sources, or one, and the reply register. -/
theorem issue_command_gRegs {s : State} (x : Rules.Command) {reads : List Nat} {d : BitVec 5} (body : State → Ctx → State × Done)
    (hb : body s (actor s) = (sendCommand s s.me x.engine x.msg x.body x.o x.sc (replyOf s s.me x.reg), .next))
    (h : Ready s x.regs) (regs : x.regs = reads ++ [d.toNat]) :
    ∃ t, issue s { reads := reads, writes := [gr d] } body = .next t ∧ Rules.Awaits s s t x.reg [Rules.commandFlight s x] := by
  refine issue_command x body hb h ?_ rfl (fun _ e => nomatch e) rfl
  rw [regs]
  intro r hr
  simpa [gr] using hr

/-- The low bits of a register as a number. -/
theorem zx_fld_low (x : Dword) (n : Nat) : zx (fld x 0 n) = BitVec.ofNat 64 (x.toNat % 2 ^ n) := by
  apply BitVec.eq_of_toNat_eq
  simp [zx, fld]

/-- CPY, CPYM and CPYC, of a block that is aligned, and a follow-on block too (R178, R190). -/
theorem copyBody_aligned {kind : Nat} {d a : BitVec 5} {arg : Ctx → Dword} {l : BitVec 1} {sc o : BitVec 2} {s : State}
    (block : ((actor s).readG a.toNat).toNat % 64 = 0) (follow : kind = 2 → (arg (actor s)).toNat % 64 = 0) :
    copyBody kind d a arg l sc o s (actor s) = (sendCommand s s.me l.toNat
      (ladleMessage s s.me kind o sc d.toNat l.toNat ((actor s).readG a.toNat) (arg (actor s))) 0 o sc
      (replyOf s s.me d.toNat), .next) := by
  unfold copyBody
  dsimp only
  rw [if_neg (by simp [block]), if_neg (by simpa using follow)]

/-- PWLD, PMMA and PRES, of a block that is aligned and a port that has no reserved bit (R287). -/
theorem pressBody_good {kind : Nat} {d a b : BitVec 5} {p sc o : BitVec 2} {s : State} {pb : Dword}
    (block : kind ≠ 3 → ((actor s).readG a.toNat).toNat % 64 = 0) (port : ((actor s).readG b.toNat).toNat / 2 ^ 29 % 8 = 0)
    (hpb : pb = if kind = 3 then BitVec.ofNat 64 (((actor s).readG a.toNat).toNat % 2 ^ 16) else (actor s).readG a.toNat) :
    pressBody kind d a b p sc o s (actor s) = (sendCommand s s.me (2 + p.toNat)
      (pressMessage s s.me kind o sc d.toNat p.toNat pb (if b = 0 then none else some ((actor s).readG b.toNat))) 0 o sc
      (replyOf s s.me d.toNat), .next) := by
  unfold pressBody
  dsimp only
  rw [if_neg (by simpa using block), if_neg (by rw [fldN_eq_div_mod]; exact fun h => h.2 port), zx_fld_low, hpb]

theorem sendHarp_eq {s : State} (kind : Nat) (o sc : BitVec 2) (reg lo : Nat) (opnd arg : Dword) (body : Vec) {d : BitVec 5}
    (hd : reg % 32 = d.toNat) : sendHarp s kind o sc reg lo opnd arg body
      = (sendCommand s s.me 6 (harpMessage s s.me kind o sc d.toNat lo opnd arg) body o sc (replyOf s s.me reg), .next) := by
  unfold sendHarp
  rw [hd]

/-- Settles O43: each command issues as its message on its way to the engine. -/
theorem commandsReachTheEngines : Obligations.CommandsReachTheEngines := by
  intro i x s hx _ h
  have low (r : BitVec 5) : r.toNat % 32 = r.toNat := Nat.mod_eq_of_lt r.isLt
  cases i with
  | cpy d a l sc o =>
    obtain ⟨block, e⟩ := Option.ite_none_right_eq_some.1 hx
    cases e
    exact issue_command_gRegs _ _ (copyBody_aligned block (by simp)) h rfl
  | cpym d a b l sc o =>
    obtain ⟨block, e⟩ := Option.ite_none_right_eq_some.1 hx
    cases e
    exact issue_command_gRegs _ _ (copyBody_aligned block (by simp)) h rfl
  | cpyc d a b l sc o =>
    obtain ⟨⟨block, follow⟩, e⟩ := Option.ite_none_right_eq_some.1 hx
    cases e
    exact issue_command_gRegs _ _ (copyBody_aligned block fun _ => follow) h rfl
  | pwld d a b p sc o =>
    obtain ⟨⟨block, port⟩, e⟩ := Option.ite_none_right_eq_some.1 hx
    cases e
    exact issue_command_gRegs _ _ (pressBody_good (fun _ => block) port rfl) h rfl
  | pmma d a b p sc o =>
    obtain ⟨⟨block, port⟩, e⟩ := Option.ite_none_right_eq_some.1 hx
    cases e
    exact issue_command_gRegs _ _ (pressBody_good (fun _ => block) port rfl) h rfl
  | pres d a b p sc o =>
    obtain ⟨port, e⟩ := Option.ite_none_right_eq_some.1 hx
    cases e
    exact issue_command_gRegs _ _ (pressBody_good (fun other => absurd rfl other) port rfl) h rfl
  | cdesc d a b =>
    obtain ⟨block, e⟩ := Option.ite_none_right_eq_some.1 hx
    cases e
    show ∃ t, execCdesc d a b s = .next t ∧ _
    refine issue_command_gRegs (reads := [gr a, gr b]) (d := d) _ _ ?_ h rfl
    exact (if_neg (not_not_intro block)).trans (sendHarp_eq _ _ _ _ _ _ _ _ (low d))
  | cld d a sc o =>
    cases hx
    have wide : vr d % 32 = d.toNat ∧ vr d < 64 := by
      have := d.isLt
      simp only [vr]
      omega
    show ∃ t, execCld d a sc o s = .next t ∧ _
    refine issue_command _ _ (sendHarp_eq _ _ _ _ _ _ _ _ wide.1) h (by simp [gr, vr]) rfl ?_ rfl
    rintro r ⟨rfl⟩
    exact ⟨by simp [vr], wide.2⟩
  | cldG d a sc o =>
    cases hx
    show ∃ t, execCldG d a sc o s = .next t ∧ _
    exact issue_command_gRegs (reads := [gr a]) _ _ (sendHarp_eq _ _ _ _ _ _ _ _ (low d)) h rfl
  | cstg d a b sc o =>
    cases hx
    show ∃ t, execCstg d a b sc o s = .next t ∧ _
    exact issue_command_gRegs (reads := [gr a, vr b]) _ _ (sendHarp_eq _ _ _ _ _ _ _ _ (low d)) h rfl
  | cstgG d a b sc o =>
    cases hx
    show ∃ t, execCstgG d a b sc o s = .next t ∧ _
    refine issue_command_gRegs (reads := [gr a, gr b]) (d := d) _ _ ?_ h rfl
    dsimp only [Rules.command.g]
    rw [← zx_fld_low]
    exact sendHarp_eq _ _ _ _ _ _ _ _ (low d)
  | cfnc d sc =>
    obtain ⟨⟨idle, past⟩, e⟩ := Option.ite_none_right_eq_some.1 hx
    cases e
    show ∃ t, execCfnc d sc s = .next t ∧ _
    refine issue_command_gRegs (reads := []) (d := d) _ _ ?_ h rfl
    exact (if_neg (by simp [idle, past])).trans (sendHarp_eq _ _ _ _ _ _ _ _ (low d))
  | _ => exact nomatch hx

end Sys2Proof.Machine
end

section
/-!
PROOFS. Reads of memory and translations take no time: the step counter stays (lemmas f_tick), so that what an instruction issues
after them carries the time of its own issue.
-/

namespace Sys2Proof.Machine

@[simp] theorem ite_tick {c : Prop} [Decidable c] (s t : State) : (if c then s else t).tick = if c then s.tick else t.tick :=
  apply_ite ..

@[simp] theorem foldl_tick {β : Type} {f : State → β → State} (hf : ∀ s x, (f s x).tick = s.tick) (l : List β) (s : State) :
    (l.foldl f s).tick = s.tick := by
  induction l generalizing s with
  | nil => rfl
  | cons x l ih => exact (ih (f s x)).trans (hf s x)

@[simp] theorem countEnergy_tick (s : State) (unit e n rind : Nat) (launch : Option Nat) :
    (countEnergy s unit e n rind launch).tick = s.tick :=
  (congrArg State.tick (countEnergy_world s unit e n rind launch) :)

@[simp] theorem logUnit_tick (s : State) (rinds : List Nat) (e : BitVec 256) : (logUnit s rinds e).tick = s.tick := by
  unfold logUnit
  split
  · rfl
  · exact foldl_tick (f := fun s r => logTo s r e) (fun _ _ => rfl) _ s

@[simp] theorem logCore_tick (s : State) (cn code : Nat) (data : Dword) : (logCore s cn code data).tick = s.tick := by
  unfold logCore
  dsimp only
  split <;> simp [logTo]

@[simp] theorem logStack_tick (s : State) (i code : Nat) (data : Dword) : (logStack s i code data).tick = s.tick := by
  simp [logStack]

@[simp] theorem logWhey_tick (s : State) (ch rind code : Nat) (data : Dword) : (logWhey s ch rind code data).tick = s.tick := by
  simp [logWhey]

@[simp] theorem logFrame_tick (s : State) (pa : Nat) : (logFrame s pa).tick = s.tick := by
  unfold logFrame
  dsimp only
  split <;> simp

@[simp] theorem quarantineFrame_tick (s : State) (pa : Nat) : (quarantineFrame s pa).tick = s.tick := by
  simp [quarantineFrame]

@[simp] theorem quarantineAll_tick (s : State) (addrs : List Nat) : (quarantineAll s addrs).tick = s.tick := by
  simp [quarantineAll]

@[simp] theorem startSparing_tick (s : State) (i : Nat) : (startSparing s i).tick = s.tick := by
  unfold startSparing
  dsimp only
  (repeat' split) <;> simp

@[simp] theorem repairRow_tick (s : State) (i a : Nat) : (repairRow s i a).tick = s.tick := by
  simp [repairRow]

@[simp] theorem meetBad_tick (s : State) (h : Nat) : (meetBad s h).tick = s.tick := by
  unfold meetBad
  split <;> simp [countMemError]

@[simp] theorem meetSoft_tick (s : State) (h : Nat) : (meetSoft s h).tick = s.tick := by
  unfold meetSoft
  dsimp only
  (repeat' split) <;> simp [countMemError]

@[simp] theorem meetHalf_tick (s : State) (h : Nat) : (meetHalf s h).tick = s.tick := by simp [meetHalf]

@[simp] theorem countGranule_tick (s : State) (a : Nat) (launch : Option Nat) : (countGranule s a launch).tick = s.tick := by
  unfold countGranule
  split <;> simp

@[simp] theorem countHalves_tick (s : State) (hs : List Nat) (launch : Option Nat) :
    (countHalves s hs launch).tick = s.tick := by simp [countHalves]

@[simp] theorem readHalves_tick (s : State) (hs : List Nat) (launch : Option Nat) :
    (readHalves s hs launch).tick = s.tick := by simp [readHalves]

@[simp] theorem clearLine_tick (s : State) (die line : Nat) : (clearLine s die line).tick = s.tick := by
  simp [clearLine, forgetCave, modSector]

@[simp] theorem modL1_tick (s : State) (cn line : Nat) (f : Line → Line) : (modL1 s cn line f).tick = s.tick := by
  unfold modL1
  split <;> rfl

@[simp] theorem modL2_tick (s : State) (cl line : Nat) (f : Line → Line) : (modL2 s cl line f).tick = s.tick := by
  unfold modL2
  split <;> rfl

@[simp] theorem scrub_tick (s : State) (p : Path) (addrs : List Nat) : (scrub s p addrs).tick = s.tick := by
  refine foldl_tick (fun s line => ?_) _ s
  unfold scrubLine
  dsimp only
  (repeat' split) <;> simp [forgetTop]

/-- A merge takes no time when its write takes none. -/
theorem mergeHalves_tick (s : State) (hs : List Nat) {write : State → State} (hw : ∀ s, (write s).tick = s.tick) :
    (mergeHalves s hs write).tick = s.tick := by
  unfold mergeHalves
  dsimp only
  split <;> simp [hw]

@[simp] theorem storeAlias_tick (s : State) (a : Nat) (launch : Option Nat) : (storeAlias s a launch).tick = s.tick := by
  unfold storeAlias
  dsimp only
  split
  · refine (mergeHalves_tick _ _ ?_).trans (countHalves_tick ..)
    exact fun _ => rfl
  · simp

@[simp] theorem storeHalf_tick (s : State) (h : Nat) (whole : Bool) (cells : List (Nat × Byte)) :
    (storeHalf s h whole cells).tick = s.tick := by
  unfold storeHalf
  split
  · rfl
  · exact mergeHalves_tick _ _ fun _ => rfl

@[simp] theorem flushLine_tick (s : State) (die line : Nat) (has : Need) (launch : Option Nat) :
    (flushLine s die line has launch).tick = s.tick := by
  unfold flushLine
  dsimp only
  (repeat' split) <;> simp [healHalf, holdImage]

@[simp] theorem evictSector_tick (s : State) (die sec : Nat) : (evictSector s die sec).tick = s.tick := by
  simp [evictSector, forgetCave, caveFlush]

theorem allocEntry_tick (s : State) (die rind : Nat) (but : Option Nat) : ∀ p ∈ allocEntry s die rind but, p.1.tick = s.tick := by
  unfold allocEntry
  dsimp only
  split
  · simp
  split <;> simp

theorem tagFor_tick (s : State) (die sec : Nat) (plain : Bool) : ∀ t ∈ tagFor s die sec plain, t.tick = s.tick := by
  unfold tagFor
  dsimp only
  split
  · simp
  split
  · simp
  · intro t ht
    obtain ⟨p, hp, rfl⟩ := Option.map_eq_some_iff.1 ht
    refine (allocEntry_tick _ _ _ _ p hp).trans ?_
    split <;> simp

@[simp] theorem caveWrite_tick (s : State) (die sec : Nat) : (caveWrite s die sec).tick = s.tick := by
  unfold caveWrite
  split
  · rfl
  split
  · rfl
  split
  · split
    · next own => simpa using allocEntry_tick _ _ _ _ _ own
    · simp
  · simp

@[simp] theorem caveFill_tick (s : State) (die line : Nat) (need : Need) (via : Via) :
    (caveFill s die line need via).tick = s.tick := by
  unfold caveFill
  split
  · rfl
  split
  · simp
  · next tagged =>
    refine Eq.trans ?_ (tagFor_tick _ _ _ _ _ tagged)
    split <;> simp [keepBad, modSector]

@[simp] theorem caveStore_tick (s : State) (die line : Nat) (whole : Need) (cells : List (Nat × Byte)) (via : Via) :
    (caveStore s die line whole cells via).tick = s.tick := by
  unfold caveStore
  extract_lets tagged fresh written valid held full kept stored
  have htagged : tagged.tick = s.tick := by
    cases tag : tagFor s die (line / 8) via.plain with
    | none => simp [tagged, tag]
    | some t =>
      have ht := tagFor_tick _ _ _ _ _ tag
      simp only [tagged, tag, Option.getD_some, ite_tick, ht, ite_self]
  refine Eq.trans ?_ htagged
  split <;> simp [stored, kept, held, valid, written, keepBad, modSector]

@[simp] theorem sliceBytes_tick (s : State) (die : Nat) (addrs : List Nat) (via : Via) :
    (sliceBytes s die addrs via).1.tick = s.tick := by simp [sliceBytes]

@[simp] theorem sliceWrite_tick (s : State) (die : Nat) (cells : List (Nat × Byte)) (via : Via) :
    (sliceWrite s die cells via).tick = s.tick := by
  unfold sliceWrite
  dsimp only
  split <;> simp

@[simp] theorem topWrite_tick (s : State) (cl line : Nat) (cells : List (Nat × Byte)) :
    (topWrite s cl line cells).tick = s.tick := by
  unfold topWrite
  split <;> simp

@[simp] theorem physRead_tick (s : State) (addrs : List Nat) (via : Via) : (physRead s addrs via).1.tick = s.tick := by
  unfold physRead
  dsimp only
  split <;> simp

@[simp] theorem physWrite_tick (s : State) (cells : List (Nat × Byte)) (via : Via) : (physWrite s cells via).tick = s.tick := by
  unfold physWrite
  dsimp only
  (repeat' split) <;> simp

@[simp] theorem sendFabric_tick (s : State) (hdr : Nat → BitVec 128) (body : BitVec 640) (f : Option Flight)
    (rind : Nat) (launch : Option Nat) : (sendFabric s hdr body f rind launch).tick = s.tick := by
  unfold sendFabric sendFlit
  dsimp only
  (repeat' split) <;> simp

@[simp] theorem tlbUpdate_tick (s : State) (r : Req) (slot : Nat) (e : Dword) (c : BitVec 128) :
    (tlbUpdate s r slot e c).tick = s.tick := by simp [tlbUpdate]

@[simp] theorem installLeaf_tick (s : State) (r : Req) (va : Dword) (e : Dword) (c : BitVec 128) (sh slot : Nat) :
    (installLeaf s r va e c sh slot).tick = s.tick := by simp [installLeaf, tlbInsert]

@[simp] theorem takeLeft_tick (s : State) (r : Req) (va : Dword) : (takeLeft s r va).tick = s.tick := by
  unfold takeLeft
  split <;> simp

@[simp] theorem chosenHome_tick (s : State) (r : Req) (comp : BitVec 128) (slot : Nat) :
    (chosenHome s r comp slot).1.tick = s.tick := by
  unfold chosenHome
  (repeat' split) <;> grind [physRead_tick]

@[simp] theorem useLeaf_tick (s : State) (r : Req) (va : Dword) (acc : AccKind) (e : Dword) (c : BitVec 128) (sh slot : Nat) :
    (useLeaf s r va acc e c sh slot).1.tick = s.tick := by
  unfold useLeaf
  (repeat' split) <;> grind [chosenHome_tick]

@[simp] theorem touchLeaf_tick (s : State) (r : Req) (x : Xl) (acc : AccKind) : (touchLeaf s r x acc).tick = s.tick := by
  unfold touchLeaf atomicRemote
  (repeat' split) <;> grind [physRead_tick, physWrite_tick, sendFabric_tick, tlbUpdate_tick]

/-- A translation that succeeds takes no time; one that must walk is asked for (R102). -/
theorem translate_tick {s t : State} {r : Req} {va : Dword} {acc : AccKind} {x : Xl}
    (h : translate s r va acc = (t, .ok x)) : t.tick = s.tick := by
  unfold translate at h
  (repeat' split at h) <;> grind [useLeaf_tick, takeLeft_tick, installLeaf_tick]

end Sys2Proof.Machine
end

section
/-!
PROOFS. The counter instructions and the bitmap watch (R172 to R175, R218, R219).
-/

namespace Sys2Proof.Machine

/-- A name that is well formed names the core of its Rind on this node (R169); its fields, by division. -/
theorem ctrNode_eq (n : Dword) : ctrNode n = n.toNat / 2 ^ 48 % 2 ^ 12 := fldN_eq_div_mod ..
theorem ctrCore_eq (n : Dword) : ctrCore n = coreOfField (n.toNat / 2 ^ 37 % 2 ^ 11) := by
  rw [ctrCore, fldN_eq_div_mod]
theorem ctrIndex_eq (n : Dword) : ctrIndex n = n.toNat % 256 := by
  rw [ctrIndex, fldN_eq_div_mod, pow_zero, Nat.div_one]
  rfl

theorem fld_low {m : Nat} (x : BitVec m) (n : Nat) : fld x 0 n = x.setWidth n := by
  ext i
  simp [fld]

/-- The post of a counter by the acting context (R173). -/
theorem postBody_good {s : State} {name : Dword} (addend : Word) (o sc : BitVec 2)
    (good : ctrBad s (stRind (actor s).st) name = false) :
    postBody name addend o sc s (actor s) = ({ s with net := s.net ++ [Rules.flight s (Rules.counterOrd name false o sc)
      (.post name addend (stRind (actor s).st))] }, .next) := if_neg (Bool.eq_false_iff.1 good)

/-- An instruction that posts to a counter, when nothing stops it. -/
theorem issue_post {s : State} {name : Dword} (addend : Word) (o sc : BitVec 2) (rs : List Nat) (body : State → Ctx → State × Done)
    (hb : body s (actor s) = postBody name addend o sc s (actor s)) (good : ctrBad s (stRind (actor s).st) name = false)
    (h : Ready s rs) : ∃ t, issue s { reads := rs } body = .next t
      ∧ Rules.Moves s { s with net := s.net ++ [Rules.flight s (Rules.counterOrd name false o sc)
          (.post name addend (stRind (actor s).st))] } t := by
  rw [postBody_good addend o sc good] at hb
  exact ⟨_, issue_scalar body hb rfl h (by simp) rfl (fun _ e => nomatch e) rfl,
    moves_of_effect (SameCtxs.butTrail ⟨rfl, rfl, rfl⟩)⟩

/-- An instruction on g registers whose effect leaves g[d] empty and packets in flight, when nothing stops it. -/
theorem issue_asks {s w : State} {rs ws : List Nat} {d : BitVec 5} {f : List Flight} (body : State → Ctx → State × Done)
    (hb : body s (actor s) = (asked w s.me d.toNat f, .next)) (hw : SameButTrail s w) (h : Ready s ws)
    (regs : ∀ r ∈ rs ++ [d.toNat], r ∈ ws) (low : ∀ r ∈ rs, r < 32) :
    ∃ t, issue s { reads := rs, writes := [gr d] } body = .next t ∧ Rules.Awaits s w t d.toNat f := by
  refine ⟨_, issue_gRegs body hb h (by simpa [gr] using regs) rfl rfl (fun r hr => ?_) rfl, awaits_asked hw ..⟩
  rcases List.mem_append.1 hr with hr | hr
  · exact low r hr
  · exact List.mem_singleton.1 hr ▸ d.isLt

section
variable {s : State} {d a b : BitVec 5}

/-- A counter of the issuing core is read at once (R174). -/
theorem crdc_here {sc o : BitVec 2} (good : ctrBad s (stRind (actor s).st) ((actor s).readG a.toNat) = false)
    (node : ctrNode ((actor s).readG a.toNat) = s.node) (core : ctrCore ((actor s).readG a.toNat) = ctxCore s.me)
    (idle : (pendingOf s s.me).isEmpty = true) (h : Ready s [a.toNat, d.toNat]) :
    ∃ t, execCrdc d a sc o s = .next t ∧ FallsThrough s t ∧ OnlyRegs s t [d.toNat]
      ∧ (actor t).readG d.toNat
        = if d = 0 then 0 else (getCounter s (ctxCore s.me) (((actor s).readG a.toNat).toNat % 256)).setWidth 64 := by
  have free (x : Ord) : mustWait s s.me x = false := by
    rw [mustWait, List.isEmpty_iff.1 idle]
    rfl
  obtain ⟨t, ht, hd, hpc, hregs⟩ := issue_writeG (u := { reads := [gr a], writes := [gr d] }) d
    (fun c => zx (getCounter s (ctrCore (c.readG a.toNat)) (ctrIndex (c.readG a.toNat)))) h rfl (by simp [gr]) rfl rfl
  rw [core, ctrIndex_eq] at hd
  refine ⟨t, Eq.trans ?_ ht, hpc, hregs, hd⟩
  unfold execCrdc
  rw [issue_ready _ h (by simp [gr]) rfl (by simp), issue_ready _ h (by simp [gr]) rfl (by simp)]
  dsimp only
  rw [if_neg (Bool.eq_false_iff.1 good), if_pos node, if_pos core, free, if_neg Bool.false_ne_true]
  rfl

/-- The reading of another core's counter is sent (R174). -/
theorem crdc_sent {sc o : BitVec 2} (good : ctrBad s (stRind (actor s).st) ((actor s).readG a.toNat) = false)
    (node : ctrNode ((actor s).readG a.toNat) = s.node) (core : ctrCore ((actor s).readG a.toNat) ≠ ctxCore s.me)
    (h : Ready s [a.toNat, d.toNat]) :
    ∃ t, execCrdc d a sc o s = .next t ∧ Rules.Awaits s s t d.toNat
      [Rules.flight s (Rules.counterOrd ((actor s).readG a.toNat) true o sc)
        (.counterRead ((actor s).readG a.toNat) (stRind (actor s).st) (Rules.mine s d.toNat))] := by
  refine issue_asks (rs := [gr a]) _ ?_ (SameCtxs.butTrail ⟨rfl, rfl, rfl⟩) h (by simp [gr]) (gr_lt_of_mem_singleton a)
  dsimp only
  rw [if_neg (Bool.eq_false_iff.1 good), if_pos node, if_neg core]
  rfl

/-- The watch of a counter of this node is sent (R175). -/
theorem cwatch_sent (good : ctrBad s (stRind (actor s).st) ((actor s).readG a.toNat) = false)
    (node : ctrNode ((actor s).readG a.toNat) = s.node) (arg : ((actor s).readG b.toNat).toNat / 2 ^ 61 = 0)
    (h : Ready s [a.toNat, b.toNat, d.toNat]) :
    ∃ t, execCwatch d a b s = .next t ∧ Rules.Awaits s s t d.toNat
      [Rules.plainFlight s (.watch ((actor s).readG a.toNat) ((actor s).readG b.toNat) (stRind (actor s).st)
        (Rules.mine s d.toNat))] := by
  have port : fldN ((actor s).readG b.toNat) 61 3 = 0 := by
    rw [fldN_eq_div_mod, arg]
    rfl
  refine issue_asks (rs := [gr a, gr b]) _ ?_ (SameCtxs.butTrail ⟨rfl, rfl, rfl⟩) h (by simp [gr]) ?_
  · dsimp only
    rw [if_neg (Bool.eq_false_iff.1 good), if_neg (not_not_intro port)]
    refine (if_pos node).trans ?_
    exact congrArg (·, Done.next) (launchPacket_setEmpty (SameCtxs.butTrail ⟨rfl, rfl, rfl⟩) rfl ..)
  · simp [gr, a.isLt, b.isLt]

/-- The watch of a dword of this node is sent, once its address is translated and its leaf marked (R219). -/
theorem sstatBw_sent {s1 : State} {x : Xl} (aligned : ((actor s).readG a.toNat).toNat % 8 = 0)
    (translated : translate s (ctxReq s s.me) ((actor s).readG a.toNat) .load = (s1, .ok x))
    (port : (((actor s).readG d.toNat).setWidth 32).toNat < 2 ^ 29) (here : isLocal s1 x.pa = true)
    (h : Ready s [a.toNat, b.toNat, d.toNat]) :
    ∃ t, execSstatBw d a b s = .next t ∧ Rules.Awaits s (Rules.marked s1 x .load) t d.toNat
      [Rules.plainFlight s (.bitmap (paLocal x.pa) ((actor s).readG a.toNat) ((actor s).readG b.toNat)
        (((actor s).readG d.toNat).setWidth 32) x.home (stRind (actor s).st) (Rules.mine s d.toNat) s.tick)] := by
  have same := translate_sameCtxs translated
  have ⟨me, node, ctxs⟩ := same
  have reply : replyOf s1 s.me d.toNat = Rules.mine s d.toNat := by
    unfold replyOf
    rw [getCtx_congr ctxs]
    rfl
  have marked : Rules.marked s1 x .load = touchLeaf s1 (ctxReq s1 s.me) x .load := by rw [Rules.marked, me]
  have touched := same.trans (touchLeaf_sameCtxs s1 (ctxReq s1 s.me) x .load)
  have tick := (touchLeaf_tick s1 (ctxReq s1 s.me) x .load).trans (translate_tick translated)
  have still : isLocal (touchLeaf s1 (ctxReq s1 s.me) x .load) x.pa = true := by
    obtain ⟨-, node', -⟩ := touched
    rw [← here, isLocal, isLocal, node', node]
  have reserved : fldN (fld ((actor s).readG d.toNat) 0 32) 29 3 = 0 := by
    rw [fld_low, fldN_eq_div_mod, Nat.div_eq_of_lt port]
    rfl
  rw [marked]
  unfold execSstatBw
  refine issue_asks (rs := [gr a, gr b, gr d]) _ ?_ touched.butTrail h (by simp [gr]) ?_
  · dsimp only
    rw [if_neg (not_not_intro aligned), translated]
    dsimp only
    rw [if_neg (not_not_intro reserved)]
    refine (if_pos still).trans ?_
    rw [fld_low, translate_tick translated, reply]
    exact congrArg (·, Done.next) (launchPacket_setEmpty touched.butTrail tick ..)
  · simp [gr, a.isLt, b.isLt, d.isLt]

end

/-- Settles O41: the posts go out, a counter of the issuing core is read at once, and the other readings and the watches are sent. -/
theorem counterInstructions : Obligations.CounterInstructions := by
  refine ⟨?_, ?_, ?_, ?_⟩
  · rintro i rs a addend sc o s (⟨rfl, rfl, rfl⟩ | ⟨b, rfl, rfl, rfl⟩) h good
    · show ∃ t, execCinc a sc o s = .next t ∧ _
      exact issue_post 1 o sc [gr a] _ rfl good h
    · show ∃ t, execCadd a b sc o s = .next t ∧ _
      exact issue_post _ o sc [gr a, gr b] _ (by rw [fld_low]) good h
  · intro d a sc o s h name good node
    rw [← ctrNode_eq] at node
    rw [← ctrCore_eq]
    exact ⟨fun core idle => crdc_here good node core idle h, fun core => crdc_sent good node core h⟩
  · intro d a b s h name arg good node harg
    exact cwatch_sent good ((ctrNode_eq _).trans node) harg h
  · intro d a b s s1 x h va port aligned translated hport here
    exact sstatBw_sent aligned translated hport here h

end Sys2Proof.Machine
end

section
/-!
PROOFS. CPBI, and the stop forms of CSTAT and PSTOP (R186, R192, R297).
-/

namespace Sys2Proof

/-! ### Entries of a table -/

theorem mem_of_tfind {α : Type} {t : Tab α} {j : Nat} {v : α} (h : tfind t j = some v) : (j, v) ∈ t := by
  induction t with
  | nil => exact nomatch h
  | cons e t ih =>
    obtain ⟨k, w⟩ := e
    simp only [tfind] at h
    split at h
    · next e =>
      cases h
      exact e ▸ List.mem_cons_self ..
    · exact List.mem_cons_of_mem _ (ih h)

/-- With rising keys an entry is what its key reads as. -/
theorem tfind_of_mem {α : Type} {t : Tab α} (ht : tsorted t = true) {e : Nat × α} (he : e ∈ t) : tfind t e.1 = some e.2 := by
  induction t with
  | nil => exact nomatch he
  | cons x t ih =>
    obtain ⟨k, w⟩ := x
    obtain ⟨above, rising⟩ := tsorted_cons.1 ht
    rcases List.mem_cons.1 he with rfl | he
    · exact if_pos rfl
    · exact (if_neg (Nat.ne_of_lt (above e he))).trans (ih rising he)

/-- Entries put one after another, of which those at one key agree. -/
theorem tfind_foldl_tput {α β : Type} (key : β → Nat) (val : β → α) (l : List β) (t : Tab α) (k : Nat) {v : α}
    (agree : ∀ e ∈ l, key e = k → val e = v) :
    tfind (l.foldl (fun t e => tput t (key e) (val e)) t) k = if k ∈ l.map key then some v else tfind t k := by
  induction l generalizing t with
  | nil => rfl
  | cons e l ih =>
    rw [List.foldl_cons, ih _ fun x hx => agree x (List.mem_cons_of_mem _ hx), tfind_tput]
    by_cases hk : key e = k
    · simp [hk, agree e (List.mem_cons_self ..) hk]
    · simp [Ne.symm hk]

namespace Machine

/-! ### Clusters changed one after another -/

/-- Changes of clusters leave the rest of the machine. -/
theorem foldl_modCluster_world {β : Type} (cl : β → Nat) (f : β → Cluster → Cluster) (l : List β) (s : State) :
    { l.foldl (fun s e => modCluster s (cl e) (f e)) s with clusters := s.clusters } = s := by
  induction l generalizing s with
  | nil => rfl
  | cons e l ih => exact congrArg (fun z : State => { z with clusters := s.clusters }) (ih (modCluster s (cl e) (f e)))

theorem foldl_modCluster_butTrail {β : Type} (cl : β → Nat) (f : β → Cluster → Cluster) (l : List β) (s : State) :
    SameButTrail s (l.foldl (fun s e => modCluster s (cl e) (f e)) s) := by
  have world := foldl_modCluster_world cl f l s
  exact SameCtxs.butTrail ⟨(congrArg State.me world :), (congrArg State.node world :), (congrArg State.ctxs world :)⟩

/-- An instruction on g registers whose effect leaves w and answers with x, when nothing stops it (R41). -/
theorem issue_fills {s w : State} {rs ws : List Nat} {d : BitVec 5} {x : Dword} (body : State → Ctx → State × Done)
    (hb : body s (actor s) = (answer w s.me d x, .next)) (hw : SameButTrail s w) (h : Ready s ws)
    (regs : ∀ r ∈ rs ++ [d.toNat], r ∈ ws) (low : ∀ r ∈ rs, r < 32) :
    ∃ t, issue s { reads := rs, writes := [gr d] } body = .next t ∧ Rules.Answers s w t d x := by
  refine issue_answers body hb hw h (by simpa [gr] using regs) rfl rfl (fun r hr => ?_) rfl rfl
  rcases List.mem_append.1 hr with hr | hr
  · exact low r hr
  · exact List.mem_singleton.1 hr ▸ d.isLt

/-! ### CPBI (R186) -/

/-- Block caches without the entries that a test names. -/
def withoutBlocks (f : Nat → Bool) (c : Cluster) : Cluster :=
  { c with bcache := List.map (fun (e : Nat × List (Nat × Nat × BitVec 16 × BitVec 512)) => (e.1, e.2.filter (fun x => !f x.1))) c.bcache }

theorem dropBlocks_world (s : State) (rind : Nat) (f : Nat → Bool) :
    { dropBlocks s rind f with clusters := s.clusters } = s := foldl_modCluster_world _ (fun _ => withoutBlocks f) _ s

theorem dropBlocks_butTrail (s : State) (rind : Nat) (f : Nat → Bool) : SameButTrail s (dropBlocks s rind f) :=
  foldl_modCluster_butTrail _ (fun _ => withoutBlocks f) _ s

theorem withoutBlocks_all (c : Cluster) (l : Nat) : tget [] (withoutBlocks (fun _ => true) c).bcache l = [] := by
  show (tfind (List.map (fun e => (e.1, e.2.filter fun _ => false)) c.bcache) l).getD [] = []
  rw [tfind_map (fun e : Nat × List (Nat × Nat × BitVec 16 × BitVec 512) => e.2.filter fun _ => false)]
  cases tfind c.bcache l <;> simp

/-- A cluster whose block caches are emptied, or are empty, has empty ones after other clusters are emptied too. -/
theorem foldl_withoutBlocks_all {cl : Nat} (cs : List Nat) (s : State)
    (h : cl ∈ cs ∨ ∀ l, tget [] (getCluster s cl).bcache l = []) (l : Nat) :
    tget [] (getCluster (cs.foldl (fun s c => modCluster s c (withoutBlocks fun _ => true)) s) cl).bcache l = [] := by
  induction cs generalizing s with
  | nil => exact (h.resolve_left (List.not_mem_nil)) l
  | cons c cs ih =>
    refine ih _ ?_
    by_cases hc : cl = c
    · right
      intro l
      rw [getCluster_modCluster, if_pos hc]
      exact withoutBlocks_all _ l
    · rw [getCluster_modCluster, if_neg hc]
      exact h.imp_left fun hm => (List.mem_cons.1 hm).resolve_left hc

/-- Every block cache of the Rind is empty after all its entries are dropped. -/
theorem dropBlocks_all (s : State) {rind cl : Nat} (hr : (getCluster s cl).rind = some rind) (l : Nat) :
    tget [] (getCluster (dropBlocks s rind fun _ => true) cl).bcache l = [] := by
  refine foldl_withoutBlocks_all _ s (.inl ?_) l
  cases found : tfind s.clusters cl with
  | none =>
    rw [getCluster, tget, found] at hr
    exact nomatch hr
  | some c =>
    rw [getCluster, tget, found] at hr
    exact List.mem_map.2 ⟨(cl, c), List.mem_filter.2 ⟨mem_of_tfind found, beq_iff_eq.2 hr⟩, rfl⟩

section
variable {s : State} {d a : BitVec 5}

theorem cpbiBlk_answers {s1 : State} {x : Xl} (translated : translate s (ctxReq s s.me) ((actor s).readG a.toNat) .load = (s1, .ok x))
    (h : Ready s [a.toNat, d.toNat]) : ∃ t, execCpbiBlk d a s = .next t ∧ Rules.Answers s
      (dropBlocks (Rules.marked s1 x .load) (stRind (actor s).st) (fun pa => pa == x.pa / 64 * 64)) t d 0 := by
  have same := translate_sameCtxs translated
  have ⟨me, _, _⟩ := same
  have marked : Rules.marked s1 x .load = touchLeaf s1 (ctxReq s1 s.me) x .load := by rw [Rules.marked, me]
  rw [marked]
  refine issue_fills (rs := [gr a]) _ ?_ ((same.trans (touchLeaf_sameCtxs ..)).butTrail.trans
    (dropBlocks_butTrail ..)) h (by simp [gr]) (gr_lt_of_mem_singleton a)
  dsimp only
  rw [translated]

/-- What CPBI of every block leaves: a new generation, and empty block caches. -/
def blocksDropped (s : State) (rind : Nat) : State :=
  dropBlocks (modRind s rind fun r => { r with blkGen := r.blkGen + 1 }) rind fun _ => true

theorem blocksDropped_butTrail (s : State) (rind : Nat) : SameButTrail s (blocksDropped s rind) :=
  (SameCtxs.butTrail ⟨rfl, rfl, rfl⟩ : SameButTrail s (modRind s rind _)).trans (dropBlocks_butTrail ..)

theorem cpbiAll_answers (h : Ready s [d.toNat]) :
    ∃ t, execCpbiAll d s = .next t ∧ Rules.Answers s (blocksDropped s (stRind (actor s).st)) t d 0 :=
  issue_fills (rs := []) _ rfl (blocksDropped_butTrail ..) h (by simp) (by simp)

theorem getRind_blocksDropped (s : State) (rind : Nat) :
    (getRind (blocksDropped s rind) rind).blkGen = (getRind s rind).blkGen + 1 := by
  have rinds := (congrArg State.rinds (dropBlocks_world (modRind s rind fun r => { r with blkGen := r.blkGen + 1 }) rind
    fun _ => true) :)
  rw [getRind, blocksDropped, rinds, ← getRind, getRind_modRind, if_pos rfl]

theorem bcache_blocksDropped {rind cl : Nat} (hr : (getCluster s cl).rind = some rind) (l : Nat) :
    tget [] (getCluster (blocksDropped s rind) cl).bcache l = [] := dropBlocks_all (modRind s rind _) hr l

/-! ### CSTAT, stop form (R192) -/

/-- The copies that a stop by launch and tag reaches. -/
def stopReaches (c : Ctx) (l tag : Nat) (e : Nat × Copy) : Bool :=
  e.1 / 4 == l && sameLaunch c e.2.cmd && e.2.known && pbTag e.2.block == tag && stoppable e.2

/-- A cluster with a copy marked as stopping. -/
def withStopping (e : Nat × Copy) (x : Cluster) : Cluster :=
  { x with copies := tput x.copies e.1 { e.2 with stopping := true } }

/-- Copies of a cluster marked as stopping. -/
def markStopping (s : State) (cl : Nat) (act : List (Nat × Copy)) : State :=
  act.foldl (fun s e => modCluster s cl (withStopping e)) s

theorem markStopping_butTrail (s : State) (cl : Nat) (act : List (Nat × Copy)) : SameButTrail s (markStopping s cl act) :=
  foldl_modCluster_butTrail _ withStopping act s

theorem copies_markStopping (s : State) (cl : Nat) (act : List (Nat × Copy)) : (getCluster (markStopping s cl act) cl).copies
    = act.foldl (fun t e => tput t e.1 { e.2 with stopping := true }) (getCluster s cl).copies := by
  induction act generalizing s with
  | nil => rfl
  | cons e act ih =>
    refine (ih _).trans ?_
    rw [getCluster_modCluster, if_pos rfl]
    rfl

/-- What a stop of the copies of a Ladle leaves, with nothing waiting in its inbox. -/
def copiesStopped (s : State) (cl l : Nat) (f : Nat × Copy → Bool) : State :=
  markStopping (setInbox s cl l []) cl ((getCluster s cl).copies.filter f)

theorem copiesStopped_butTrail (s : State) (cl l : Nat) (f : Nat × Copy → Bool) : SameButTrail s (copiesStopped s cl l f) :=
  (SameCtxs.butTrail ⟨rfl, rfl, rfl⟩ : SameButTrail s (setInbox s cl l [])).trans (markStopping_butTrail ..)

/-- Of copies in the order of their places, those that a test names are marked. -/
theorem tfind_copiesStopped {s : State} {cl k : Nat} {x : Copy} (l : Nat) (f : Nat × Copy → Bool)
    (rising : tsorted (getCluster s cl).copies = true) (hx : tfind (getCluster s cl).copies k = some x) :
    tfind (getCluster (copiesStopped s cl l f) cl).copies k
      = some (if f (k, x) = true then { x with stopping := true } else x) := by
  have only : ∀ e ∈ (getCluster s cl).copies, e.1 = k → e = (k, x) := fun e he hk =>
    Prod.ext hk (Option.some.inj ((tfind_of_mem rising he).symm.trans (hk ▸ hx)))
  have put := tfind_foldl_tput (fun e : Nat × Copy => e.1) (fun e => { e.2 with stopping := true })
    ((getCluster s cl).copies.filter f) (getCluster s cl).copies k (v := { x with stopping := true })
    fun e he hk => by rw [only e (List.mem_of_mem_filter he) hk]
  have inbox : (getCluster (setInbox s cl l []) cl).copies = (getCluster s cl).copies := by
    rw [setInbox, getCluster_modCluster_self]
    split <;> rfl
  rw [copiesStopped, copies_markStopping, inbox]
  refine put.trans ?_
  have member : k ∈ ((getCluster s cl).copies.filter f).map (fun e => e.1) ↔ f (k, x) = true := by
    rw [List.mem_map]
    constructor
    · rintro ⟨e, he, hk⟩
      obtain ⟨mem, named⟩ := List.mem_filter.1 he
      exact only e mem hk ▸ named
    · exact fun named => ⟨(k, x), List.mem_filter.2 ⟨mem_of_tfind hx, named⟩, rfl⟩
  rw [if_congr member rfl hx]
  split <;> rfl

theorem cstatStop_answers {l : BitVec 1} (past : commandUnderway s s.me (8 * (s.me / 2048) + l.toNat) = false)
    (inbox : inboxOf s (s.me / 2048) l.toNat = []) (h : Ready s [a.toNat, d.toNat]) :
    ∃ t, execCstatStop d a l s = .next t ∧ Rules.Answers s
      (copiesStopped s (s.me / 2048) l.toNat (stopReaches (actor s) l.toNat (((actor s).readG a.toNat).toNat % 2 ^ 16))) t d
      (BitVec.ofNat 64 ((getCluster s (s.me / 2048)).copies.countP
        (stopReaches (actor s) l.toNat (((actor s).readG a.toNat).toNat % 2 ^ 16)))) := by
  refine issue_fills (rs := [gr a]) _ ?_ (copiesStopped_butTrail ..) h (by simp [gr])
    (gr_lt_of_mem_singleton a)
  dsimp only
  rw [coreCluster_ctxCore, past, if_neg Bool.false_ne_true, inbox, fldN_eq_div_mod, pow_zero, Nat.div_one,
    List.countP_eq_length_filter]
  dsimp only [List.filter_nil, List.foldl_nil, List.length_nil]
  rw [Nat.zero_add]
  rfl

/-! ### PSTOP (R297) -/

/-- The commands of a Press that a stop by ASID and tag reaches. -/
def pstopReaches (asid tag : Nat) (x : PCmd) : Bool := runningMatch asid tag x && !pcmdThrough x && !x.stopping

/-- What a stop of the commands of a Press leaves, with nothing waiting in its inbox. -/
def pcmdsStopped (s : State) (cl p : Nat) (f : PCmd → Bool) : State :=
  modPress (setInbox s cl (2 + p) []) cl p fun x =>
    { x with cmds := x.cmds.map fun y => if f y then { y with stopping := true } else y }

theorem cmds_pcmdsStopped (s : State) (cl p : Nat) (f : PCmd → Bool) : (getPress (pcmdsStopped s cl p f) cl p).cmds
    = (getPress s cl p).cmds.map fun y => if f y then { y with stopping := true } else y := by
  have press : (getCluster (setInbox s cl (2 + p) []) cl).press = (getCluster s cl).press := by
    rw [setInbox, getCluster_modCluster, if_pos rfl]
    split <;> rfl
  rw [getPress, pcmdsStopped, modPress, getCluster_modCluster, if_pos rfl, tget_tput_self, press]
  rfl

theorem pstop_answers {p : BitVec 2} (past : commandUnderway s s.me (8 * (s.me / 2048) + 2 + p.toNat) = false)
    (inbox : inboxOf s (s.me / 2048) (2 + p.toNat) = []) (h : Ready s [a.toNat, d.toNat]) :
    ∃ t, execPstop d a p s = .next t ∧ Rules.Answers s
      (pcmdsStopped s (s.me / 2048) p.toNat (pstopReaches (ctxAsid s s.me) (((actor s).readG a.toNat).toNat % 2 ^ 16))) t d
      (BitVec.ofNat 64 ((getPress s (s.me / 2048) p.toNat).cmds.countP
        (pstopReaches (ctxAsid s s.me) (((actor s).readG a.toNat).toNat % 2 ^ 16)))) := by
  refine issue_fills (rs := [gr a]) _ ?_ (SameCtxs.butTrail ⟨rfl, rfl, rfl⟩) h (by simp [gr]) (gr_lt_of_mem_singleton a)
  dsimp only
  rw [coreCluster_ctxCore, ← Nat.add_assoc, past, if_neg Bool.false_ne_true, inbox, fldN_eq_div_mod, pow_zero, Nat.div_one,
    List.countP_eq_length_filter]
  dsimp only [List.filter_nil, List.foldl_nil, List.length_nil]
  rw [Nat.zero_add]
  rfl

end

/-- Settles O44: CPBI by what dropBlocks leaves in the block caches, the two stops by the commands that they mark. -/
theorem blockCachesAndStops : Obligations.BlockCachesAndStops := by
  refine ⟨fun d a s s1 x h translated => cpbiBlk_answers translated h, ?_, ?_, ?_⟩
  · intro d s h
    obtain ⟨t, ht, answers⟩ := cpbiAll_answers h
    exact ⟨t, _, ht, answers, getRind_blocksDropped .., fun cl l hr => bcache_blocksDropped hr l⟩
  · intro d a l s h cl tag past inbox rising go
    have reaches (e : Nat × Copy) : stopReaches (actor s) l.toNat tag e = decide (go e) := by
      rw [Bool.eq_iff_iff, decide_eq_true_eq]
      simp [stopReaches, go, sameLaunch, stoppable, pbTag, fldN, fld, and_assoc]
    obtain ⟨t, ht, answers⟩ := cstatStop_answers past inbox h
    refine ⟨t, copiesStopped s cl l.toNat (stopReaches (actor s) l.toNat tag), ht, ?_, ?_⟩
    · rw [← funext reaches]
      exact answers
    · intro k x hx
      rw [tfind_copiesStopped l.toNat _ rising hx, if_congr (by rw [reaches, decide_eq_true_eq]) rfl rfl]
  · intro d a p s h cl tag past inbox go
    have reaches (x : PCmd) : pstopReaches (ctxAsid s s.me) tag x = decide (go x) := by
      rw [Bool.eq_iff_iff, decide_eq_true_eq]
      simp [pstopReaches, go, runningMatch, and_assoc]
    obtain ⟨t, ht, answers⟩ := pstop_answers past inbox h
    refine ⟨t, pcmdsStopped s cl p.toNat (pstopReaches (ctxAsid s s.me) tag), ht, ?_, ?_⟩
    · rw [← funext reaches]
      exact answers
    · rw [cmds_pcmdsStopped]
      simp only [reaches, decide_eq_true_eq]

end Machine
end Sys2Proof
end

section
/-!
PROOFS. The events of a Ladle (R176, R181 to R185, R187, R190, R192, R211, R216, R217): the acceptance of a command, the movement of
a chunk, the end of a copy, and the resending of a refused follow-on.
-/

namespace Sys2Proof.Machine

/-! ### Inboxes -/

theorem inboxOf_setInbox_self (s : State) (cl e : Nat) (l : List Queued) : inboxOf (setInbox s cl e l) cl e = l := by
  unfold inboxOf setInbox
  rw [getCluster_modCluster_self]
  split
  · rfl
  · exact tget_tput_self ..

/-- A change of a cluster that keeps its inboxes. -/
theorem inboxOf_modCluster {f : Cluster → Cluster} (hi : ∀ c, (f c).inbox = c.inbox) (hh : ∀ c, (f c).harp = c.harp)
    (s : State) (cl cl' e : Nat) : inboxOf (modCluster s cl f) cl' e = inboxOf s cl' e := by
  unfold inboxOf
  rw [getCluster_modCluster]
  by_cases h : cl' = cl
  · subst h
    rw [if_pos rfl, hi, hh]
  · rw [if_neg h]

theorem copies_setInbox (s : State) (cl cl' e : Nat) (l : List Queued) :
    (getCluster (setInbox s cl e l) cl').copies = (getCluster s cl').copies := by
  unfold setInbox
  rw [getCluster_modCluster]
  by_cases h : cl' = cl
  · subst h
    rw [if_pos rfl]
    split <;> rfl
  · rw [if_neg h]

theorem tfind_putCopy (s : State) (cl key : Nat) (x : Copy) : tfind (getCluster (putCopy s cl key x) cl).copies key = some x := by
  rw [putCopy, getCluster_modCluster_self]
  exact tfind_tput_self ..

/-! ### Acceptance (R176, R185, R190) -/

/-- What acceptance leaves: the rest of the inbox, and the copy in place i, in the order of acceptance. -/
def copyEntered (s : State) (cl l i : Nat) (rest : List Queued) (x : Copy) : State :=
  modCluster (setInbox s cl l rest) cl fun c => { c with
    copies := tput c.copies (4 * l + i) { x with seq := c.copySeq }, copySeq := c.copySeq + 1 }

theorem inboxOf_copyEntered (s : State) (cl l i : Nat) (rest : List Queued) (x : Copy) :
    inboxOf (copyEntered s cl l i rest x) cl l = rest := by
  refine (inboxOf_modCluster ?_ ?_ _ cl cl l).trans (inboxOf_setInbox_self ..)
  · exact fun _ => rfl
  · exact fun _ => rfl

theorem tfind_copyEntered (s : State) (cl l i : Nat) (rest : List Queued) (x : Copy) :
    ∃ n, tfind (getCluster (copyEntered s cl l i rest x) cl).copies (4 * l + i) = some { x with seq := n } := by
  rw [copyEntered, getCluster_modCluster_self]
  exact ⟨_, tfind_tput_self ..⟩

/-- The Ladle's lowest free place takes the copy that acceptance makes of the oldest command. -/
theorem execLadleAccept_enters {s s1 : State} {cl l i : Nat} {q : Queued} {rest : List Queued} {x : Copy} {cached : Bool}
    (hl : l < 2) (hi : i < 4) (inbox : inboxOf s cl l = q :: rest) (free : tfind (getCluster s cl).copies (4 * l + i) = none)
    (taken : ∀ j, j < i → (tfind (getCluster s cl).copies (4 * l + j)).isSome = true)
    (accepted : acceptCopy s cl l q cached = (s1, some x)) :
    execLadleAccept cl l cached s = .next (copyEntered s1 cl l i rest x) := by
  have place : (List.range 4).find? (fun i => (tfind (getCluster s cl).copies (4 * l + i)).isNone) = some i := by
    rw [List.find?_range_eq_some]
    refine ⟨by rw [free]; rfl, List.mem_range.2 hi, fun j hj => ?_⟩
    obtain ⟨y, hy⟩ := Option.isSome_iff_exists.1 (taken j hj)
    rw [hy]
    rfl
  unfold execLadleAccept
  rw [if_neg (by omega), inbox, place]
  dsimp only
  rw [accepted]
  rfl

section
variable {s s1 s2 : State} {cl l : Nat} {q : Queued} {b m : BitVec 512} {cached : Bool}
  (read : readParams s cl l (ladleReq s cl q) q cached = (s1, .block b))
include read

/-- A copy with no follow-on enters as its block says: it ends at once with status 5 where the block is malformed (R181). -/
theorem acceptCopy_plain (kind : imgKind q.msg ≠ 2) : acceptCopy s cl l q cached = (s1, some (newCopy q (some b) none
    (if pbBad s1 (imgRind q.msg) b then some { status := 5, prog := BitVec.allOnes 32 } else none))) := by
  unfold acceptCopy
  dsimp only
  rw [read]
  dsimp only
  rw [if_neg kind]
  by_cases bad : pbBad s1 (imgRind q.msg) b = true
  · exact (if_pos bad).trans (by rw [if_pos bad]; rfl)
  · exact (if_neg bad).trans (by rw [if_neg bad])

/-- A copy with a follow-on that can be read enters with it, if its block is good and the follow-on names a Press of this node
(R190). -/
theorem acceptCopy_follow (kind : imgKind q.msg = 2) (follow : acceptRead s1 (ladleReq s cl q) (imgArg q.msg) 5 4 = (s2, .block m)) :
    acceptCopy s cl l q cached = (s2, some (if pbBad s1 (imgRind q.msg) b || followBad s2 m then
      newCopy q (some b) none (some { status := 5, prog := BitVec.allOnes 32 }) else newCopy q (some b) (some m) none)) := by
  unfold acceptCopy
  dsimp only
  rw [read]
  dsimp only
  rw [if_pos kind, follow]
  dsimp only
  by_cases bad : (pbBad s1 (imgRind q.msg) b || followBad s2 m) = true
  · exact (if_pos bad).trans (by rw [if_pos bad]; rfl)
  · exact (if_neg bad).trans (by rw [if_neg bad])

/-- A copy whose follow-on cannot be read ends at once (R190). -/
theorem acceptCopy_noFollow {st : Nat} (kind : imgKind q.msg = 2)
    (follow : acceptRead s1 (ladleReq s cl q) (imgArg q.msg) 5 4 = (s2, .unusable st)) :
    acceptCopy s cl l q cached = (s2, some (newCopy q (some b) none
      (some { status := st, fva := if st = 4 then imgArg q.msg else 0, prog := BitVec.allOnes 32 }))) := by
  unfold acceptCopy
  dsimp only
  rw [read]
  dsimp only
  rw [if_pos kind, follow]

end

/-- A follow-on is good that names a Press of this node. -/
theorem followBad_eq_false_iff (s : State) (m : BitVec 512) :
    followBad s m = false ↔ msgDk m = 2 ∧ msgDst m / 2 ^ 17 % 2 ^ 12 = s.node ∧ msgDst m % 64 < 4 := by
  simp [followBad, nameNode, and_assoc]

/-! ### The movement of a chunk (R181, R187, R211, R216) -/

/-- A step may move chunk n of the copy x in place p of Ladle l. -/
structure MayMove (s : State) (cl l p n : Nat) (x : Copy) : Prop where
  ladle : l < 2
  place : p < 4
  held : tfind (getCluster s cl).copies (4 * l + p) = some x
  running : x.ending = none
  going : x.stopping = false
  fresh : n ∉ x.done
  low : firstPiece x.block ≤ n
  high : n < endPiece x.block
  permit : pbXform x.block = 1 → blockPermitted s cl l x (n / 8) = true

theorem MayMove.passes {s : State} {cl l p n : Nat} {x : Copy} (h : MayMove s cl l p n x) :
    ¬ (2 ≤ l ∨ 4 ≤ p ∨ x.ending.isSome ∨ x.stopping ∨ x.done.contains n ∨ n < firstPiece x.block ∨ endPiece x.block ≤ n
      ∨ (pbXform x.block = 1 ∧ !blockPermitted s cl l x (n / 8))) := by
  rintro (bad | bad | bad | bad | bad | bad | bad | ⟨expands, bad⟩)
  · exact absurd h.ladle (Nat.not_lt.2 bad)
  · exact absurd h.place (Nat.not_lt.2 bad)
  · exact absurd bad (by simp [h.running])
  · exact absurd bad (by simp [h.going])
  · exact h.fresh (List.contains_iff_mem.1 bad)
  · exact absurd h.low (Nat.not_le.2 bad)
  · exact absurd h.high (Nat.not_lt.2 bad)
  · exact absurd bad (by simp [h.permit expands])

/-- What a piece that is moved changes of its copy: it is done, or only issued, and permits are taken and given back. -/
theorem movePiece_copy {r : Req} {x y : Copy} {n : Nat} {s s1 : State} {m : Moved} (h : movePiece r x n s = (s1, m, y)) :
    y = { x with done := n :: x.done, late := y.late, places := y.places } ∧ (pbXform x.block ≠ 1 → y.places = x.places)
      ∧ y.late = if issuesLate s x then n :: x.late else x.late := by
  have taken (z : Copy) (bs : List Byte) : takePlace z n bs = { z with places := (takePlace z n bs).places } := by
    unfold takePlace
    dsimp only
    (repeat' split) <;> rfl
  unfold movePiece at h
  dsimp only at h
  split at h
  · next expands =>
    obtain rfl : _ = y := congrArg (fun z => z.2.2) h
    refine ⟨?_, fun plain => absurd expands plain, ?_⟩ <;> rw [taken]
  · obtain rfl : _ = y := congrArg (fun z => z.2.2) h
    exact ⟨rfl, fun _ => rfl, rfl⟩
  · obtain rfl : _ = y := congrArg (fun z => z.2.2) h
    exact ⟨rfl, fun _ => rfl, rfl⟩

/-- Words are only issued where the command has rel = 0, no follow-on waits for them, and no block is compressed (R187, R190). -/
theorem issuesLate_true {s : State} {x : Copy} (h : issuesLate s x = true) :
    ordRel (imgOrd x.cmd.msg) = false ∧ x.follow = none ∧ pbXform x.block ≠ 2 := by
  simp only [issuesLate, mayIssue, Bool.and_eq_true, Bool.not_eq_true', bne_iff_ne, ne_eq, Option.isNone_iff_eq_none] at h
  obtain ⟨⟨⟨hrel, -⟩, hfollow⟩, hx⟩ := h
  exact ⟨hrel, hfollow, hx⟩

section
variable {s s1 : State} {cl l p n : Nat} {x y : Copy} (h : MayMove s cl l p n x)
include h

/-- A chunk that has been moved, of a copy that posts no bits, is entered. -/
theorem execChunkComplete_done (moved : movePiece (ladleReq s cl x.cmd) x n s = (s1, .done, y)) (bits : pbBmap x.block = 0) :
    execChunkComplete cl l p n s = .next (putCopy (countEnergy s1 (unitKey 2 (2 * cl + l)) 4 (pieceBytes y.block / 64)
      (ladleReq s cl x.cmd).rind (ladleReq s cl x.cmd).launch) cl (4 * l + p) y) := by
  have block : y.block = x.block := by rw [(movePiece_copy moved).1]
  unfold execChunkComplete
  dsimp only
  rw [h.held]
  dsimp only
  rw [if_neg h.passes, moved]
  dsimp only
  rw [postBits, if_pos (block ▸ bits)]

/-- A chunk that fails ends its copy. -/
theorem execChunkComplete_failed {e : Ending} (moved : movePiece (ladleReq s cl x.cmd) x n s = (s1, .failed e, y)) :
    execChunkComplete cl l p n s = .next (putCopy s1 cl (4 * l + p) (failCopy (issuesLate s x) x n e)) := by
  unfold execChunkComplete
  dsimp only
  rw [h.held]
  dsimp only
  rw [if_neg h.passes, moved]

end

/-- A copy whose first chunk fails, with nothing written, ends there: off is the failed word, unless the words before it in the
chunk have only been issued (R182, R187). -/
theorem failCopy_first {late : Bool} {x : Copy} {n : Nat} {e : Ending} (first : n = firstPiece x.block) (fresh : x.done = [])
    (low : e.status < 8) : ∃ w, failCopy late x n e = { x with ending := some { e with prog := w } }
      ∧ (late = false → w = e.prog) := by
  have lowest : firstUndone (writtenPieces x) (x.done.length + 1) (firstPiece x.block) = n := by
    rw [writtenPieces, fresh, first]
    rfl
  unfold failCopy
  dsimp only
  rw [lowest, if_neg (show ¬ (e.status = 8 ∨ e.status = 9) by omega)]
  exact ⟨_, rfl, fun h => by rw [h]; exact if_pos ⟨rfl, rfl⟩⟩

/-- An expanding copy that gets no permit waits (R211). -/
theorem execChunkComplete_noPermit {s : State} {cl l p n : Nat} {x : Copy} (held : tfind (getCluster s cl).copies (4 * l + p) = some x)
    (expands : pbXform x.block = 1) (refused : blockPermitted s cl l x (n / 8) = false) : execChunkComplete cl l p n s = .next s := by
  unfold execChunkComplete
  dsimp only
  rw [held]
  exact if_pos (by simp [expands, refused])

/-! ### The objects of a finished command (R183, R187, R294) -/

theorem sendFillD_eq (s : State) (r : Reply) (v : Dword) :
    sendFillD s r v = { s with net := s.net ++ Rules.fillSent r (v.setWidth 512) } := by
  unfold sendFillD sendFill Rules.fillSent
  split
  · rw [List.append_nil]
  · rfl

/-- The packets that s has put in flight are one series. -/
theorem asSeries_append (s : State) (l : List Flight) : asSeries { s with net := s.net ++ l } s
    = { s with net := s.net ++ l.map fun f => { f with series := s.tick + 1 } } := by
  simp [asSeries]

/-- The status word of a command that was used lies as R182 gives. -/
theorem statusWord_setWidth {e : Ending} (used : e.prog ≠ BitVec.allOnes 32) (tag : Nat) :
    (statusWord e tag).setWidth 512 = Rules.statusOf e.prog tag e.status ∧ statusWord e tag
      = (Rules.statusOf e.prog tag e.status).setWidth 64 := by
  have := e.prog.isLt
  have bound : e.prog.toNat * 2 ^ 32 + tag % 2 ^ 16 * 2 ^ 16 + e.status % 256 < 2 ^ 64 := by omega
  unfold statusWord Rules.statusOf
  rw [if_neg used]
  constructor
  · apply BitVec.eq_of_toNat_eq
    rw [BitVec.toNat_setWidth, BitVec.toNat_ofNat, BitVec.toNat_ofNat]
    exact congrArg (Nat.mod · _) (Nat.mod_eq_of_lt bound)
  · exact (BitVec.setWidth_ofNat_of_le (by decide) _).symm

theorem postCounter_eq (s : State) (ctr : Dword) (rind : Nat) (launch : Option Nat) (o : Ord) : postCounter s ctr rind launch o
    = { s with net := s.net ++ if ctr.getLsbD 63 = true then [{ Rules.hardware launch (.post ctr 1 rind) with ord := o }] else [] } := by
  unfold postCounter bitAt
  split
  · rfl
  · rw [List.append_nil]

/-- The objects of a command are all that its end puts in flight, whether it was used or not. -/
theorem postObjects_world (s : State) (q : Queued) (e : Ending) (tag : Nat) (port : Option Nat) (pbva ctr : Dword) :
    { postObjects s q e tag port pbva ctr with net := s.net } = s := by
  unfold postObjects
  dsimp only
  rw [sendFillD_eq, postCounter_eq]
  cases port <;> split <;> rfl

/-- A finished command puts its objects in flight, and nothing else changes. -/
theorem postObjects_eq (s : State) (q : Queued) {e : Ending} (tag : Nat) (port : Option Nat) (pbva ctr : Dword)
    (used : e.prog ≠ BitVec.allOnes 32) : postObjects s q e tag port pbva ctr
      = { s with net := s.net ++ Rules.objects s q e tag port pbva ctr } := by
  obtain ⟨wide, word⟩ := statusWord_setWidth used tag
  unfold postObjects
  dsimp only
  rw [sendFillD_eq, wide, word]
  unfold Rules.objects
  dsimp only
  rw [← asSeries_append]
  refine congrArg (asSeries · s) ?_
  by_cases done : e.status = 0
  · rw [if_pos done, postCounter_eq]
    simp only [done, true_and]
    cases port <;> simp [launchPacket, Rules.hardware, postOrd, Ord.issued, completionMessage]
  · rw [if_neg done]
    cases port <;> simp [done, launchPacket, Rules.hardware, postOrd, Ord.issued, completionMessage]

/-! ### The end of a copy (R183, R190, R192) -/

/-- A place of a Ladle made free. -/
def copyRemoved (s : State) (cl key : Nat) : State := modCluster s cl fun c => { c with copies := tdel c.copies key }

/-- A finished copy puts its objects in flight, and its place is free. -/
theorem finishCopy_eq (s : State) (cl key : Nat) (x : Copy) {e : Ending} (used : e.prog ≠ BitVec.allOnes 32) :
    finishCopy s cl key x e = { copyRemoved s cl key with
      net := s.net ++ Rules.objects s x.cmd e (pbTag x.block) (copyPort x.cmd) (imgPbva x.cmd.msg) (pbCtr x.block) } :=
  postObjects_eq _ x.cmd (pbTag x.block) (copyPort x.cmd) (imgPbva x.cmd.msg) (pbCtr x.block) used

theorem finishCopy_clusters (s : State) (cl key : Nat) (x : Copy) (e : Ending) :
    (finishCopy s cl key x e).clusters = (copyRemoved s cl key).clusters :=
  (congrArg State.clusters (postObjects_world (copyRemoved s cl key) x.cmd e (pbTag x.block) (copyPort x.cmd)
    (imgPbva x.cmd.msg) (pbCtr x.block)) :)

theorem tfind_finishCopy (s : State) (cl key : Nat) (x : Copy) (e : Ending) :
    tfind (getCluster (finishCopy s cl key x e) cl).copies key = none := by
  rw [getCluster, finishCopy_clusters, ← getCluster, copyRemoved, getCluster_modCluster_self]
  exact (tfind_tdel ..).trans (if_pos rfl)

theorem inboxOf_finishCopy (s : State) (cl key : Nat) (x : Copy) (e : Ending) (c i : Nat) :
    inboxOf (finishCopy s cl key x e) c i = inboxOf s c i := by
  rw [inboxOf, getCluster, finishCopy_clusters]
  refine inboxOf_modCluster ?_ ?_ s cl c i
  · exact fun _ => rfl
  · exact fun _ => rfl

section
variable {s s1 : State} {cl l p : Nat} {x : Copy} {e : Ending} (held : tfind (getCluster s cl).copies (4 * l + p) = some x)
include held

/-- A copy that has ended, or has moved everything, finishes, unless a follow-on goes first (R183, R190). -/
theorem execLadleCompletion_ends (ends : x.ending = some e ∨ (x.ending = none ∧ x.stopping = false ∧ allMoved x = true
      ∧ e = { status := 0, prog := BitVec.ofNat 32 (pbLen x.block) })) (last : x.follow = none ∨ e.status ≠ 0) :
    execLadleCompletion cl l p s = .next (finishCopy s cl (4 * l + p) x e) := by
  have ending : copyEnding x = some e ∧ ¬ (x.ending.isNone ∧ x.stopping) := by
    rcases ends with ended | ⟨running, going, moved, rfl⟩
    · simp [copyEnding, ended]
    · simp [copyEnding, running, going, moved, offWord]
  unfold execLadleCompletion
  dsimp only
  rw [held]
  dsimp only
  rw [ending.1]
  dsimp only
  rw [if_neg ending.2]
  rcases last with alone | failed
  · rw [alone]
  · cases x.follow with
    | none => rfl
    | some m => exact if_pos failed

/-- A copy that stops finishes with status 1 at a word boundary (R192). -/
theorem execLadleCompletion_stops {off : Nat} (running : x.ending = none) (stopping : x.stopping = true)
    (words : stopWords (ladleReq s cl x.cmd) x s = (s1, off)) :
    execLadleCompletion cl l p s = .next (finishCopy s1 cl (4 * l + p) x { status := 1, prog := BitVec.ofNat 32 off }) := by
  have ending : copyEnding x = some { status := 1, prog := offWord (copyOff x) } := by
    simp [copyEnding, running, stopping]
  unfold execLadleCompletion
  dsimp only
  rw [held]
  dsimp only
  rw [ending]
  dsimp only
  rw [if_pos (by simp [running, stopping]), words]
  rfl

end

/-! ### Follow-ons (R190) -/

/-- The follow-on as it goes to its Press, with the sys bit of the copy. -/
def followSent (q : Queued) (m : BitVec 512) : Queued :=
  let m := putFld m (128 + 8) 1 (BitVec.ofBool (bitAt (msgPayload q.msg) 32))
  { msg := m, body := 0, launch := q.launch, owner := none, ord := sendOrd false false
    reply := { ctx := ctxKey (imgCore m) (imgCtx m), gen := imgGen m, reg := imgReg m, inTrap := q.reply.inTrap } }

theorem imgReg_putSys (m : BitVec 512) (v : BitVec 1) : imgReg (putFld m (128 + 8) 1 v) = imgReg m := by
  have field : fld (msgPayload (putFld m (128 + 8) 1 v)) 11 5 = fld (msgPayload m) 11 5 := by
    apply BitVec.eq_of_getLsbD_eq
    intro j hj
    simp only [fld, msgPayload, BitVec.getLsbD_extractLsb']
    rw [getLsbD_putFld, if_neg (by omega)]
  exact congrArg BitVec.toNat field

/-- The cluster of the Press that a follow-on names. -/
def followCluster (m : BitVec 512) : Nat := coreOfField (msgDst m / 64 % 2 ^ 11) / 8

/-- A follow-on is put in the inbox of its Press where there is room. -/
theorem sendFollow_eq (s : State) (q : Queued) {m : BitVec 512} (press : msgDst m % 64 < 4) :
    sendFollow s q m =
      if (inboxOf s (followCluster m) (2 + msgDst m % 64)).length < 16 then
        (setInbox s (followCluster m) (2 + msgDst m % 64)
          (inboxOf s (followCluster m) (2 + msgDst m % 64) ++ [followSent q m]), true)
      else (s, false) := by
  have dst (v : BitVec 1) : msgDst (putFld m (128 + 8) 1 v) = msgDst m :=
    congrArg BitVec.toNat (fld_putFld_disjoint m v (.inl (by decide)))
  have unit : (8 * coreCluster (nameCore (msgDst m)) + 2 + msgDst m % 64) / 8 = followCluster m
      ∧ (8 * coreCluster (nameCore (msgDst m)) + 2 + msgDst m % 64) % 8 = 2 + msgDst m % 64 := by
    have : coreCluster (nameCore (msgDst m)) = followCluster m := rfl
    omega
  have size : inboxSize (2 + msgDst m % 64) = 16 := if_neg (by omega)
  unfold sendFollow placeCommand
  dsimp only
  rw [dst, unit.1, unit.2, size]
  rfl

section
variable {s : State} {cl l p : Nat} {x : Copy} {m : BitVec 512} (held : tfind (getCluster s cl).copies (4 * l + p) = some x)
  (running : x.ending = none) (going : x.stopping = false) (moved : allMoved x = true) (follow : x.follow = some m)
  (refused : x.retry ≠ 0) (due : x.retry ≤ s.cycle)
include held running going moved follow refused due

/-- A refused follow-on is offered again once its time has come (R190). -/
theorem execFollowOnResend_due : execFollowOnResend cl l p s
    = .next (offerFollow s cl (4 * l + p) x { status := 0, prog := BitVec.ofNat 32 (pbLen x.block) } m) := by
  have ending : copyEnding x = some { status := 0, prog := BitVec.ofNat 32 (pbLen x.block) } := by
    simp [copyEnding, running, going, moved, offWord]
  unfold execFollowOnResend
  dsimp only
  rw [held]
  dsimp only
  rw [ending, follow]
  exact if_pos ⟨rfl, refused, due⟩

end

/-- With room in its inbox the follow-on goes there, and the copy finishes. -/
theorem offerFollow_room {s : State} {m : BitVec 512} (press : msgDst m % 64 < 4)
    (room : (inboxOf s (followCluster m) (2 + msgDst m % 64)).length < 16) (cl key : Nat) (x : Copy) (e : Ending) :
    offerFollow s cl key x e m = finishCopy (setInbox s (followCluster m) (2 + msgDst m % 64)
      (inboxOf s (followCluster m) (2 + msgDst m % 64) ++ [followSent x.cmd m])) cl key { x with follow := none } e := by
  unfold offerFollow
  rw [sendFollow_eq s x.cmd press, if_pos room]

/-- A full inbox refuses it, for 64 cycles. -/
theorem offerFollow_full {s : State} {m : BitVec 512} (press : msgDst m % 64 < 4)
    (full : 16 ≤ (inboxOf s (followCluster m) (2 + msgDst m % 64)).length) (cl key : Nat) (x : Copy) (e : Ending) :
    offerFollow s cl key x e m = putCopy s cl key { x with retry := s.cycle + 64 } := by
  unfold offerFollow
  rw [sendFollow_eq s x.cmd press, if_neg (Nat.not_lt.2 full)]

/-! ### The clauses of O52 on Ladles -/

section
variable {s s1 s2 : State} {cl l i : Nat} {q : Queued} {rest : List Queued} {b : BitVec 512} {cached : Bool}

theorem ladleAccept_enters {x : Copy} (hl : l < 2) (hi : i < 4) (inbox : Rules.waiting s cl l = q :: rest)
    (free : tfind (getCluster s cl).copies (4 * l + i) = none)
    (taken : ∀ j, j < i → (tfind (getCluster s cl).copies (4 * l + j)).isSome = true)
    (accepted : acceptCopy s cl l q cached = (s1, some x)) :
    ∃ t, exec (.ladleAccept cl l cached) s = .next t ∧ Rules.waiting t cl l = rest ∧ { t with clusters := s1.clusters } = s1
      ∧ ∃ n, tfind (getCluster t cl).copies (4 * l + i) = some { x with seq := n } :=
  ⟨_, execLadleAccept_enters hl hi inbox free taken accepted, inboxOf_copyEntered .., rfl, tfind_copyEntered ..⟩

end

/-- The clauses in order: acceptance without and with a follow-on, a chunk moved or failed, one without its permit, the end of a
copy, its stop, and the resending of its follow-on. -/
theorem ladleEvents : Rules.LadleEvents := by
  refine ⟨?_, ?_, ?_, ?_, ?_, ?_, ?_⟩
  · intro cl l i q rest b cached s s1 hl hi inbox free taken kind read
    obtain ⟨t, ht, left, world, n, copy⟩ := ladleAccept_enters hl hi inbox free taken (acceptCopy_plain read kind)
    exact ⟨t, n, ht, left, copy, world⟩
  · intro cl l i q rest b cached s s1 s2 hl hi inbox free taken kind read press entered
    refine ⟨fun m follow => ?_, fun st follow => ?_⟩
    · obtain ⟨t, ht, left, world, copy⟩ := ladleAccept_enters hl hi inbox free taken (acceptCopy_follow read kind follow)
      have bad : (pbBad s1 (imgRind q.msg) b || followBad s2 m) = true ↔ pbBad s1 (imgRind q.msg) b = true ∨ ¬ press m := by
        rw [Bool.or_eq_true, ← Bool.not_eq_false (followBad s2 m)]
        exact or_congr_right (not_congr (followBad_eq_false_iff s2 m))
      refine ⟨t, ht, left, world, fun good named => ?_, fun refused => ?_⟩
      · rw [if_neg (fun h => (bad.1 h).elim (Bool.eq_false_iff.1 good) (· named))] at copy
        exact copy
      · rw [if_pos (bad.2 refused)] at copy
        exact copy
    · obtain ⟨t, ht, left, world, copy⟩ := ladleAccept_enters hl hi inbox free taken (acceptCopy_noFollow read kind follow)
      exact ⟨t, ht, left, world, copy⟩
  · intro cl l p n x y s s1 hl hp held running going fresh low high permit
    have may : MayMove s cl l p n x := ⟨hl, hp, held, running, going, fresh, low, high, permit⟩
    refine ⟨fun moved bits => ?_, fun e moved first started unmoved => ?_⟩
    · obtain ⟨copy, places, late⟩ := movePiece_copy moved
      refine ⟨_, execChunkComplete_done may moved bits, tfind_putCopy .., copy, places, ?_, ?_⟩
      · rw [late]
        split
        · next issued => exact .inr ⟨rfl, issuesLate_true issued⟩
        · exact .inl rfl
      · have world := countEnergy_world s1 (unitKey 2 (2 * cl + l)) 4 (pieceBytes y.block / 64) (ladleReq s cl x.cmd).rind
          (ladleReq s cl x.cmd).launch
        exact ⟨(congrArg State.mem world :), (congrArg State.cav world :), (congrArg State.top world :),
          (congrArg State.net world :), (congrArg State.ctxs world :)⟩
    · obtain ⟨w, ended, progress⟩ := failCopy_first (late := issuesLate s x) first unmoved started
      refine ⟨_, w, execChunkComplete_failed may moved, ?_, fun released => progress ?_, rfl, rfl, rfl⟩
      · rw [tfind_putCopy, ended]
      · exact Bool.eq_false_iff.2 fun issued => absurd released (Bool.eq_false_iff.1 (issuesLate_true issued).1)
  · intro cl l p n x s held expands refused
    exact execChunkComplete_noPermit held expands refused
  · intro cl l p x e s held ends used last
    refine ⟨_, execLadleCompletion_ends held ends last, tfind_finishCopy .., ?_⟩
    rw [finishCopy_eq s cl _ x used]
    exact ⟨rfl, rfl⟩
  · intro cl l p off x s s1 held running stopping words bound
    have used : BitVec.ofNat 32 off ≠ BitVec.allOnes 32 := fun h => by
      have := congrArg BitVec.toNat h
      simp at this
      omega
    refine ⟨_, execLadleCompletion_stops held running stopping words, tfind_finishCopy .., ?_⟩
    rw [finishCopy_eq s1 cl _ x used]
    exact ⟨rfl, rfl⟩
  · intro cl l p x m s held running going moved follow refused due press c
    have offered := execFollowOnResend_due held running going moved follow refused due
    refine ⟨fun full => ?_, fun room => ?_⟩
    · rw [offerFollow_full press full] at offered
      exact ⟨_, offered, tfind_putCopy .., rfl⟩
    · rw [offerFollow_room press room] at offered
      refine ⟨_, followSent x.cmd m, offered, tfind_finishCopy .., ?_, rfl, imgReg_putSys .., rfl, fun b hb => ?_⟩
      · exact (inboxOf_finishCopy ..).trans (inboxOf_setInbox_self ..)
      · exact bitAt_putFld_outside m _ (by omega)

end Sys2Proof.Machine
end

section
/-!
PROOFS. The events of the streams (R198, R200, R202, R204, R207, R211): the refill of a read stream's ring, the drain of a write
stream's to memory, and the end of a stream that closes. Then obligation O52.
-/

namespace Sys2Proof.Machine

/-! ### The bytes of a value -/

@[simp] theorem length_bytesOf {m : Nat} (x : BitVec m) (n : Nat) : (bytesOf x n).length = n := by
  induction n generalizing x with
  | zero => rfl
  | succ n ih => rw [bytesOf, List.length_cons, ih]

theorem getD_bytesOf {m n j : Nat} (x : BitVec m) (h : j < n) : (bytesOf x n).getD j 0 = x.extractLsb' (8 * j) 8 := by
  induction n generalizing x j with
  | zero => exact absurd h (Nat.not_lt_zero j)
  | succ n ih =>
    cases j with
    | zero =>
      apply BitVec.eq_of_getLsbD_eq
      intro b hb
      simp [bytesOf, hb]
    | succ j =>
      rw [bytesOf, List.getD_cons_succ, ih _ (Nat.lt_of_succ_lt_succ h)]
      apply BitVec.eq_of_getLsbD_eq
      intro b hb
      simp only [BitVec.getLsbD_extractLsb', BitVec.getLsbD_ushiftRight, hb, decide_true, Bool.true_and]
      congr 1
      omega

/-! ### What the bit of a stream register leaves alone -/

theorem makeRunnable_world (s : State) (k port : Nat) (hit : Bool) :
    { makeRunnable s k port hit with ctxs := s.ctxs, cores := s.cores } = s := by
  unfold makeRunnable wakeCore
  dsimp only
  (repeat' split) <;> rfl

theorem wakeReg_world (s : State) (k reg : Nat) : { wakeReg s k reg with ctxs := s.ctxs, cores := s.cores } = s := by
  unfold wakeReg
  (repeat' split)
  · exact makeRunnable_world ..
  · rfl
  · exact makeRunnable_world ..
  · rfl
  · rfl

theorem streamBit_world (s : State) (slot : Nat) : { streamBit s slot with ctxs := s.ctxs, cores := s.cores } = s := by
  unfold streamBit
  split
  · rfl
  · next t _ =>
    dsimp only
    split
    · rfl
    · split
      · exact (congrArg (fun u : State => { u with ctxs := s.ctxs }) (wakeReg_world (modCtx s t.ctx _) t.ctx (32 + t.reg)) :)
      · rfl

theorem streamBit_streams (s : State) (slot : Nat) : (streamBit s slot).streams = s.streams :=
  (congrArg State.streams (streamBit_world s slot) :)

/-- A stream closed: its slot is free, and besides that contexts and cores alone change. -/
theorem endStream_world (s : State) (key : Nat) (t : Stream) :
    { endStream s key t with ctxs := s.ctxs, cores := s.cores } = { s with streams := tdel s.streams key } := by
  unfold endStream
  dsimp only
  split
  · exact (congrArg (fun u : State => { u with ctxs := s.ctxs }) (wakeReg_world
      (unbindReg { s with streams := tdel s.streams key } t.ctx t.reg) t.ctx (32 + t.reg)) :)
  · rfl

/-! ### Refills (R198, R202, R211) -/

/-- A stream entered in its slot, and n elements counted that its Ladle has moved. -/
def streamEntered (s : State) (key : Nat) (u : Stream) (r : Req) (n : Nat) : State :=
  let s := countElements s u r n
  { s with streams := tput s.streams key u }

theorem streamEntered_world (s : State) (key : Nat) (u : Stream) (r : Req) (n : Nat) :
    { streamEntered s key u r n with streams := s.streams, rinds := s.rinds, launches := s.launches } = s :=
  (congrArg (fun t : State => { t with streams := s.streams }) (countEnergy_world s
    (unitKey 2 (2 * coreCluster (ctxCore u.ctx) + streamLadle u.desc)) 4 n r.rind r.launch) :)

theorem tfind_streamEntered (s : State) (key : Nat) (u : Stream) (r : Req) (n : Nat) :
    tfind (streamBit (streamEntered s key u r n) key).streams key = some u := by
  rw [streamBit_streams]
  exact tfind_tput_self ..

theorem streamEntered_tabs (s : State) (key : Nat) (u : Stream) (r : Req) (n : Nat) :
    SameTabs s (streamBit (streamEntered s key u r n) key) := by
  have entered := streamEntered_world s key u r n
  obtain ⟨mem, cav, top⟩ := streamBit_tabs (streamEntered s key u r n) key
  exact ⟨mem.trans (congrArg State.mem entered :), cav.trans (congrArg State.cav entered :),
    top.trans (congrArg State.top entered :)⟩

/-- A read stream that is not failed is refilled while elements are left and its ring has a free slot. -/
theorem execStreamRefill_plain {cn i : Nat} {x : Stream} {s : State} (hi : i < 16)
    (held : tfind s.streams (cn * 16 + i) = some x) (reads : streamWrite x.desc = false) (plain : streamXform x.desc = 0)
    (sound : x.fail = none) (left : x.far < streamCount x.desc) (room : x.far / 64 < x.pos / 64 + streamSlots x.desc) :
    execStreamRefill cn i s = .next (
      let got := readElements s (streamReq s x) x (min ((x.far / 64 + 1) * 64) (streamCount x.desc) - x.far) x.far
      streamBit (streamEntered got.1 (cn * 16 + i) got.2 (streamReq s x) (got.2.far - x.far)) (cn * 16 + i)) := by
  have goes : ¬ (16 ≤ i ∨ streamWrite x.desc ∨ x.fail.isSome ∨ streamCount x.desc ≤ x.far
      ∨ x.pos / 64 + streamSlots x.desc ≤ x.far / 64
      ∨ (streamXform x.desc = 1 ∧ !permitFree s (coreCluster cn) (streamLadle x.desc))) := by
    simp [reads, sound, plain, hi, left, room]
  unfold execStreamRefill
  dsimp only
  rw [held]
  dsimp only
  rw [if_neg goes, if_neg (by simp [plain])]
  rfl

section
variable {s s1 : State} {r : Req} {x : Stream} {m : Nat} (plain : streamXform x.desc = 0)
include plain

/-- One element that can be read is placed in the ring. -/
theorem readElements_ok {v : Vec}
    (access : engAccess s r { op := .load, n := 64, va := streamAddr x.desc x.far } = (s1, .ok v)) :
    readElements s r x 1 x.far = (putRing s1 x x.far (bytesOf v 64), { x with far := x.far + 1 }) := by
  rw [readElements_succ, plain, show ((0 : Nat) == 3) = false from rfl, access]
  rfl

/-- The first element whose access traps is recorded, and the ring stays as it is (R202). -/
theorem readElements_fault {code : Nat} (cause : code ≠ 0)
    (access : engAccess s r { op := .load, n := 64, va := streamAddr x.desc x.far } = (s1, .fault code)) :
    readElements s r x (m + 1) x.far = (s1, { x with fail := some (x.far, code, 1, streamAddr x.desc x.far) }) := by
  have recorded : streamCause (.fault code) = code := by
    cases code with
    | zero => exact absurd rfl cause
    | succ c => rfl
  rw [readElements_succ, plain, show ((0 : Nat) == 3) = false from rfl, access]
  dsimp only
  rw [recorded]

end

/-- A refill of an expanding stream waits for a permit of its Ladle (R211). -/
theorem execStreamRefill_noPermit {cn i : Nat} {x : Stream} {s : State} (held : tfind s.streams (cn * 16 + i) = some x)
    (expands : streamXform x.desc = 1) (refused : permitFree s (cn / 8) (streamLadle x.desc) = false) :
    execStreamRefill cn i s = .next s := by
  unfold execStreamRefill
  dsimp only
  rw [held]
  exact if_pos (by simp [expands, refused, coreCluster])

/-- Byte j of a ring element stands in storage at the element's place, and no other byte changes. -/
theorem memGet_putRing (s : State) (t : Stream) (n : Nat) (v : Vec) :
    (∀ j, j < 64 → memGet (putRing s t n (bytesOf v 64)).mem (ringAddr (ctxCore t.ctx) t.desc n + j) = v.extractLsb' (8 * j) 8)
    ∧ ∀ a, (a < ringAddr (ctxCore t.ctx) t.desc n ∨ ringAddr (ctxCore t.ctx) t.desc n + 64 ≤ a) →
      memGet (putRing s t n (bytesOf v 64)).mem a = memGet s.mem a := by
  have stored (a : Nat) := memGet_memPuts s.mem (ringAddr (ctxCore t.ctx) t.desc n) a (bytesOf v 64)
  rw [length_bytesOf] at stored
  refine ⟨fun j hj => (stored _).trans ?_, fun a ha => (stored a).trans (if_neg (by omega))⟩
  rw [if_pos (by omega), Nat.add_sub_cancel_left, getD_bytesOf v hj]

/-! ### Drains (R200, R204, R207) -/

/-- The fills that answer the SCLOSEs of a stream. -/
def closeFills (t : Stream) : List Flight :=
  (t.closing.map (fun d => Rules.fillSent { ctx := t.ctx, gen := t.gen, reg := d.1, inTrap := d.2 }
    ((closeWord t).setWidth 512))).flatten

theorem foldl_sendFillD (ctx : Nat) (gen : BitVec 8) (v : Dword) (l : List (Nat × Bool)) (s : State) :
    l.foldl (fun s e => sendFillD s { ctx := ctx, gen := gen, reg := e.1, inTrap := e.2 } v) s
      = { s with net := s.net ++ (l.map (fun d => Rules.fillSent { ctx := ctx, gen := gen, reg := d.1, inTrap := d.2 }
          (v.setWidth 512))).flatten } := by
  induction l generalizing s with
  | nil => rw [List.foldl_nil, List.map_nil, List.flatten_nil, List.append_nil]
  | cons d l ih => rw [List.foldl_cons, ih, sendFillD_eq, List.map_cons, List.flatten_cons, List.append_assoc]

/-- A stream that is done is closed, and its SCLOSEs are answered. -/
theorem drainDone_world (s : State) (key : Nat) (t : Stream) :
    { drainDone s key t with ctxs := s.ctxs, cores := s.cores }
      = { s with streams := tdel s.streams key, net := s.net ++ closeFills t } := by
  have ended := endStream_world s key t
  have net : (endStream s key t).net = s.net := (congrArg State.net ended :)
  rw [drainDone, foldl_sendFillD, net]
  exact (congrArg (fun u : State => { u with net := s.net ++ closeFills t }) ended :)

theorem tfind_drainDone (s : State) (key : Nat) (t : Stream) : tfind (drainDone s key t).streams key = none := by
  rw [(congrArg State.streams (drainDone_world s key t) :)]
  exact (tfind_tdel ..).trans (if_pos rfl)

section
variable {cn i : Nat} {x : Stream} {s : State} (hi : i < 16) (held : tfind s.streams (cn * 16 + i) = some x)
  (writes : streamWrite x.desc = true)
include hi held writes

/-- A closing stream with nothing left for the Ladle to write is done. -/
theorem execStreamDrain_done (closed : x.closed = true) (drained : streamDrained x = true) :
    execStreamDrain cn i s = .next (drainDone s (cn * 16 + i) x) := by
  unfold execStreamDrain
  dsimp only
  rw [held]
  dsimp only
  rw [if_neg (by simp [writes, hi]), if_pos (by simp [closed, drained])]

/-- One element pushed is written to memory under its byte enables, once its slot is full or the stream closes. -/
theorem execStreamDrain_one {s1 : State} {v : Vec} (sound : x.fail = none) (pushed : x.pos = x.far + 1)
    (inside : x.far < streamCount x.desc) (due : x.closed = true ∨ x.pos % 64 = 0)
    (good : scratchGood s (viewAddrs (ringAddr (ctxCore x.ctx) x.desc x.far) 64 false) = true)
    (access : engAccess s (streamReq s x) { op := .store, n := 64, va := streamAddr x.desc x.far
                                            data := readVec s (ringAddr (ctxCore x.ctx) x.desc x.far) 64
                                            be := x.masks.headD 0 } = (s1, .ok v)) :
    execStreamDrain cn i s = .next (
      let u : Stream := { x with far := x.far + 1, masks := x.masks.drop 1 }
      let s2 := streamEntered s1 (cn * 16 + i) u (streamReq s x) 1
      if u.closed && streamDrained u then drainDone s2 (cn * 16 + i) u else streamBit s2 (cn * 16 + i)) := by
  have one : writeElements s (streamReq s x) x 1 = (s1, { x with far := x.far + 1, masks := x.masks.drop 1 }) := by
    rw [writeElements_succ]
    dsimp only
    rw [if_neg (Nat.not_le.2 inside), good, access]
    rfl
  have most : min ((x.far / 64 + 1) * 64) x.pos - x.far = 1 := by omega
  have undrained : streamDrained x = false := by simp [streamDrained, writes, sound, pushed]
  have goes : ¬ (x.fail.isSome ∨ x.pos ≤ x.far ∨ (!x.closed ∧ x.pos < (x.far / 64 + 1) * 64)) := by
    rcases due with closed | full
    · simp [sound, pushed, closed]
    · simp [sound, pushed]
      omega
  unfold execStreamDrain
  dsimp only
  rw [held]
  dsimp only
  rw [if_neg (by simp [writes, hi]), if_neg (by simp [undrained]), if_neg goes, most, one]
  dsimp only
  rw [Nat.add_sub_cancel_left]
  rfl

end

/-- The word of a write stream's SCLOSE that has not failed: the index of the first element that has not been written. -/
theorem closeWord_sound {t : Stream} (writes : streamWrite t.desc = true) (sound : t.fail = none)
    (inside : t.far ≤ streamCount t.desc) : closeWord t = BitVec.ofNat 64 (t.far % 2 ^ 48 * 2 ^ 16) := by
  unfold closeWord at64
  rw [if_pos writes, sound, Nat.min_eq_left inside]
  apply BitVec.eq_of_toNat_eq
  simp only [BitVec.toNat_ofNat]
  omega

/-- That of a failed one carries the cause and the failure too. -/
theorem closeWord_failed {t : Stream} {n code acc : Nat} {ea : Dword} (writes : streamWrite t.desc = true)
    (failed : t.fail = some (n, code, acc, ea)) (byte : code < 256) :
    closeWord t = BitVec.ofNat 64 (min t.far (streamCount t.desc) % 2 ^ 48 * 2 ^ 16 + code * 2 ^ 8 + 2) := by
  have low : at64 code 8 ||| 2 = BitVec.ofNat 64 (code * 2 ^ 8 + 2) := at64_or_ofNat (b := 2) (by decide)
  unfold closeWord
  dsimp only
  rw [if_pos writes, failed]
  dsimp only
  rw [Nat.mod_eq_of_lt byte, BitVec.or_assoc, low, at64_or_ofNat (by omega)]
  apply BitVec.eq_of_toNat_eq
  simp only [BitVec.toNat_ofNat]
  omega

theorem Stream.closed_iff (t : Stream) : t.closed = true ↔ t.closing ≠ [] ∨ t.bound = false := by
  cases h : t.closing <;> simp [Stream.closed, h]

/-! ### The clauses of O52 on streams -/

/-- The clauses in order: the refill of the last element, one that fails, one without its permit, the drain of one element, and
the end of a failed stream. -/
theorem streamEvents : Rules.StreamEvents := by
  refine ⟨?_, ?_, ?_, ?_, ?_⟩
  · intro cn i x v s s1 hi held reads plain sound last room access
    have one : min ((x.far / 64 + 1) * 64) (streamCount x.desc) - x.far = 1 := by omega
    have step := execStreamRefill_plain hi held reads plain sound (by omega) room
    rw [one, readElements_ok plain access] at step
    obtain ⟨mem, cav, top⟩ := streamEntered_tabs (putRing s1 x x.far (bytesOf v 64)) (cn * 16 + i) { x with far := x.far + 1 }
      (streamReq s x) (x.far + 1 - x.far)
    obtain ⟨element, others⟩ := memGet_putRing s1 x x.far v
    refine ⟨_, step, tfind_streamEntered .., fun j hj => ?_, fun a ha => ?_, cav, top⟩
    · exact (congrArg (memGet · _) mem).trans (element j hj)
    · exact (congrArg (memGet · _) mem).trans (others a ha)
  · intro cn i code x s s1 hi held reads plain sound left room access cause
    obtain ⟨m, many⟩ : ∃ m, min ((x.far / 64 + 1) * 64) (streamCount x.desc) - x.far = m + 1 :=
      Nat.exists_eq_succ_of_ne_zero (by omega)
    have step := execStreamRefill_plain hi held reads plain sound left room
    rw [many, readElements_fault plain cause access] at step
    exact ⟨_, step, tfind_streamEntered ..⟩
  · intro cn i x s held expands _ refused
    exact execStreamRefill_noPermit held expands refused
  · intro cn i x v s s1 hi held writes sound pushed inside good access
    refine ⟨fun openly bound full => ?_, fun closed owed => ?_⟩
    · have step := execStreamDrain_one hi held writes sound pushed inside (.inr full) good access
      have unclosed : x.closed = false := by simp [Stream.closed, openly, bound]
      dsimp only at step
      rw [show Stream.closed { x with far := x.far + 1, masks := x.masks.drop 1 } = false from unclosed] at step
      obtain ⟨mem, cav, top⟩ := streamEntered_tabs s1 (cn * 16 + i) { x with far := x.far + 1, masks := x.masks.drop 1 }
        (streamReq s x) 1
      exact ⟨_, step, tfind_streamEntered s1 .., mem, cav, top⟩
    · have closes : x.closed = true := (Stream.closed_iff x).2 closed
      have step := execStreamDrain_one hi held writes sound pushed inside (.inl closes) good access
      obtain ⟨u, hu⟩ : ∃ u : Stream, u = { x with far := x.far + 1, masks := x.masks.drop 1 } := ⟨_, rfl⟩
      have done : (u.closed && streamDrained u) = true := by
        rw [Bool.and_eq_true, hu]
        exact ⟨closes, by simp [streamDrained, owed, pushed]⟩
      have word : closeWord u = BitVec.ofNat 64 (x.pos % 2 ^ 48 * 2 ^ 16) := by
        rw [pushed, hu]
        exact closeWord_sound writes sound inside
      dsimp only at step
      rw [← hu, if_pos done] at step
      have entered := streamEntered_world s1 (cn * 16 + i) u (streamReq s x) 1
      have world := drainDone_world (streamEntered s1 (cn * 16 + i) u (streamReq s x) 1) (cn * 16 + i) u
      refine ⟨_, step, tfind_drainDone .., (congrArg State.mem world :).trans (congrArg State.mem entered :),
        (congrArg State.cav world :).trans (congrArg State.cav entered :),
        (congrArg State.top world :).trans (congrArg State.top entered :),
        (congrArg State.net world :).trans (congrArg₂ (· ++ ·) (congrArg State.net entered :) ?_)⟩
      rw [closeFills, word, hu]
  · intro cn i n code acc ea x s hi held writes closing owed failed byte
    have closed : x.closed = true := (Stream.closed_iff x).2 closing
    have step := execStreamDrain_done hi held writes closed (by simp [streamDrained, owed, failed])
    have world := drainDone_world s (cn * 16 + i) x
    have answers := (congrArg State.net world :)
    rw [closeFills, closeWord_failed writes failed byte] at answers
    exact ⟨_, step, tfind_drainDone .., (congrArg State.mem world :), answers⟩

/-- Settles O52: each clause is what one step of a Ladle does, read off its own equation (exec…_ lemmas), with what the step
leaves alone. -/
theorem ladleAndStreamEvents : Obligations.LadleAndStreamEvents := ⟨ladleEvents, streamEvents⟩

end Sys2Proof.Machine
end

section
/-!
PROOFS. A store to a scratchpad (R163, R164), and the refutation of obligation O9 by a store of zero bytes.
-/

namespace Sys2Proof.Machine

/-! ### A scratchpad's addresses -/

theorem windowOf_eq_scratch {a : Nat} (h : windowOf a = .scratch) : 0x80000000000 ≤ a ∧ a < 0x90000000000 := by
  by_contra outside
  unfold windowOf at h
  rw [if_neg outside] at h
  (repeat' split at h) <;> contradiction

/-- A byte of a scratchpad is stored at its own address. -/
theorem place_scratch (s : State) {a : Nat} (h : windowOf a = .scratch) : place s a = a := by
  have := windowOf_eq_scratch h
  exact if_neg (by omega)

theorem windowOf_group {a : Nat} (h : windowOf a = .scratch) : windowOf (a / 8 * 8) = .scratch := by
  have := windowOf_eq_scratch h
  unfold windowOf
  rw [if_neg (by omega), if_neg (by omega), if_neg (by omega), if_neg (by omega), if_pos (by omega)]

/-- The bytes of a group share its code (R164). -/
theorem halfBad_group (s : State) {a : Nat} (h : windowOf a = .scratch) : halfBad s (a / 8 * 8) = halfBad s a := by
  unfold halfBad codeUnit
  rw [h, windowOf_group h]
  dsimp only
  rw [Nat.mul_div_cancel _ (by decide)]

/-- The units of code under bytes of a scratchpad are their groups. -/
theorem exists_of_mem_byteHalves {s : State} {addrs : List Nat} (scratch : ∀ a ∈ addrs, windowOf a = .scratch) {h : Nat}
    (mem : h ∈ byteHalves s addrs) : ∃ a ∈ addrs, h = a / 8 * 8 := by
  obtain ⟨a, ha, mem⟩ := List.mem_flatMap.1 (List.mem_eraseDups.1 mem)
  rw [scratch a ha] at mem
  exact ⟨a, ha, List.mem_singleton.1 mem⟩

/-! ### What a store of at least one byte writes -/

/-- The cells of a store without byte enables. -/
theorem cellsOf_allOnes (addr : Nat → Nat) {n : Nat} (data : Vec) (h : n ≤ 64) : cellsOf addr n data (BitVec.allOnes 64)
    = (List.range n).map fun i => (addr i, (data >>> (8 * i)).setWidth 8) := by
  unfold cellsOf
  rw [List.filter_eq_self.2]
  intro i hi
  have := List.mem_range.1 hi
  rw [BitVec.getLsbD_allOnes]
  exact decide_eq_true (by omega)

/-- Storage after bytes are stored from an address on. -/
theorem memGet_foldl_memPut (m : Tab Byte) (a n : Nat) (f : Nat → Byte) (b : Nat) :
    memGet ((List.range n).foldl (fun m i => memPut m (a + i) (f i)) m) b
      = if a ≤ b ∧ b < a + n then f (b - a) else memGet m b := by
  induction n with
  | zero => exact (if_neg (by omega)).symm
  | succ n ih =>
    rw [List.range_succ, List.foldl_append, List.foldl_cons, List.foldl_nil, memGet_memPut, ih]
    by_cases last : b = a + n
    · rw [if_pos last, if_pos (by omega), last, Nat.add_sub_cancel_left]
    · rw [if_neg last]
      exact if_congr (by omega) rfl rfl

section
variable {s : State} {a n : Nat} (data : Vec) (size : n ≤ 64) (scratch : ∀ j, j < n → windowOf (a + j) = .scratch)
  (correct : Rules.correct s a n)
include size scratch

/-- The bytes put at a scratchpad's addresses stand there, and no other byte of storage changes. -/
theorem memGet_putCells_scratch (b : Nat) :
    memGet (putCells s (cellsOf (fun i => a + i) n data (BitVec.allOnes 64))).mem b
      = if a ≤ b ∧ b < a + n then (data >>> (8 * (b - a))).setWidth 8 else memGet s.mem b := by
  rw [← memGet_foldl_memPut s.mem a n (fun i => (data >>> (8 * i)).setWidth 8), cellsOf_allOnes _ _ size, putCells,
    List.foldl_map]
  refine congrArg (memGet · b) (List.foldl_ext _ _ _ fun m i hi => ?_)
  rw [place_scratch s (scratch i (List.mem_range.1 hi))]

include correct

/-- With correct codes under it, the whole of a store to a scratchpad is put. -/
theorem scratchWrite_correct : ∃ t, SameTabs s t ∧ scratchWrite s (cellsOf (fun i => a + i) n data (BitVec.allOnes 64))
    = putCells t (cellsOf (fun i => a + i) n data (BitVec.allOnes 64)) := by
  have addrs : (cellsOf (fun i => a + i) n data (BitVec.allOnes 64)).map (fun e => e.1) = (List.range n).map (a + ·) := by
    rw [cellsOf_allOnes _ _ size, List.map_map]
    rfl
  have sound : ∀ h ∈ byteHalves s ((List.range n).map (a + ·)), halfBad s h = false := by
    intro h mem
    have inside : ∀ b ∈ (List.range n).map (a + ·), ∃ j, j < n ∧ b = a + j := fun b hb => by
      obtain ⟨j, hj, rfl⟩ := List.mem_map.1 hb
      exact ⟨j, List.mem_range.1 hj, rfl⟩
    obtain ⟨b, hb, rfl⟩ := exists_of_mem_byteHalves (fun b hb => by
      obtain ⟨j, hj, rfl⟩ := inside b hb
      exact scratch j hj) mem
    obtain ⟨j, hj, rfl⟩ := inside b hb
    rw [halfBad_group s (scratch j hj), correct j hj]
  unfold scratchWrite
  dsimp only
  rw [addrs, List.filter_eq_nil_iff.2 fun h mem => by simp [sound h mem]]
  refine ⟨_, foldl_sameTabs healHalf_tabs _ s, rfl⟩

end

/-- What O9 says holds of a store of at least one byte: it changes exactly its bytes (R163, R164). -/
theorem changesItsBytesOnly_of_scratchpadStore {s s' : State} {a : Access} {v : Vec} (store : a.op = .store) (nonempty : 0 < a.n)
    (size : a.n ≤ 64) (scratch : ∀ j, j < a.n → windowOf (paLocal a.pa + j) = .scratch)
    (correct : Rules.correct s (paLocal a.pa) a.n) (performed : performAt s a = (s', .ok v)) :
    (∀ j, j < a.n → memGet s'.mem (paLocal a.pa + j) = a.data.extractLsb' (8 * j) 8)
      ∧ ∀ b, (b < paLocal a.pa ∨ paLocal a.pa + a.n ≤ b) → memGet s'.mem b = memGet s.mem b := by
  obtain ⟨t, ⟨mem, -, -⟩, written⟩ := scratchWrite_correct a.data size scratch correct
  have result : s' = fireBitmaps (homeWrite s a.home (paLocal a.pa) a.n a.data (BitVec.allOnes 64) (accessView s a) (accessVia a))
      (paLocal a.pa) a.n (accessView s a) := by
    unfold performAt at performed
    dsimp only at performed
    split at performed
    · cases performed
    · rw [store] at performed
      exact (congrArg Prod.fst performed).symm
  have home : homeWrite s a.home (paLocal a.pa) a.n a.data (BitVec.allOnes 64) (accessView s a) (accessVia a)
      = putCells t (cellsOf (fun i => paLocal a.pa + i) a.n a.data (BitVec.allOnes 64)) := by
    unfold homeWrite
    rw [show windowOf (paLocal a.pa) = .scratch from scratch 0 nonempty]
    exact written
  have stored (b : Nat) : memGet s'.mem b = if paLocal a.pa ≤ b ∧ b < paLocal a.pa + a.n
      then (a.data >>> (8 * (b - paLocal a.pa))).setWidth 8 else memGet s.mem b := by
    rw [result, (fireBitmaps_tabs ..).1, home, memGet_putCells_scratch a.data size scratch, mem]
  refine ⟨fun j hj => ?_, fun b hb => (stored b).trans (if_neg (by omega))⟩
  rw [stored, if_pos (by omega), Nat.add_sub_cancel_left]
  apply BitVec.eq_of_getLsbD_eq
  intro i hi
  simp [hi]

/-! ### A store of zero bytes -/

/-- Core 0's cluster holds line 0 of HBM in its L2, and has written 7 to the line's first byte. -/
def dirtyLineState : State :=
  { State.reset with
    l2 := [(l2Key 0 0, { replica := none, dirty := true })]
    top := [(0, 7)] }

/-- A store of no bytes at address 0 in the column view. -/
def zeroByteStore : Access :=
  { ctx := 0, gen := 0, inTrap := false, op := .store, dest := .none, n := 0, pa := 0, va := 0, data := 0, expect := 0, pkind := 0
    home := 0, col := some true, nalloc := false, rind := 0, launch := none, size := 0 }

/-- The column view recalls the row sector from the L2 before anything is stored (R152), and its written byte goes down to
memory. -/
theorem performAt_zeroByteStore : (performAt dirtyLineState zeroByteStore).2 = .ok 0
    ∧ memGet dirtyLineState.mem 0 = 0 ∧ memGet (performAt dirtyLineState zeroByteStore).1.mem 0 = 7 := by
  decide +kernel

/-- Refutes O9: it does not ask for a byte, and a store of none need not be to a scratchpad. The premises hold of zeroByteStore,
which in dirtyLineState moves a byte of HBM from the L2 to memory. Of a store of at least one byte the claim holds
(changesItsBytesOnly_of_scratchpadStore). -/
theorem not_scratchpadStoreChangesItsBytesOnly : ¬ Obligations.ScratchpadStoreChangesItsBytesOnly := by
  intro changes
  obtain ⟨done, before, after⟩ := performAt_zeroByteStore
  obtain ⟨-, kept⟩ := changes dirtyLineState (performAt dirtyLineState zeroByteStore).1 zeroByteStore 0 rfl (by decide)
    (fun j hj => absurd hj (Nat.not_lt_zero j)) (fun j hj => absurd hj (Nat.not_lt_zero j)) (Prod.ext rfl done)
  rw [kept 0 (.inr (by decide)), before] at after
  exact absurd after (by decide)

end Sys2Proof.Machine
end

section
/-!
PROOFS. The head of a read stream that no longer corrects in its ring (R25, R164, R199): an instruction that reads it traps and pops
nothing, so O19 fails.
-/

namespace Sys2Proof.Machine

/-- An instruction of a seated context that meets a struck head, and nothing that is tested before it, takes a data-error trap
(log 88). -/
theorem issue_struckHead {s : State} {u : Named} {r : Nat} (body : State → Ctx → State × Done)
    (seated : stRoam (actor s).st = false) (agrees : streamConflict s s.me u = none)
    (full : issueTest (actor s) (u.reads ++ u.writes ++ u.tests) = .pass)
    (registers : badRegister s s.me (u.reads ++ u.merges) = none) (loops : loopBad s s.me (actor s) u = false)
    (delivered : streamFault s s.me u = none) (struck : ringBad s s.me u.reads = some r) :
    issue s u body
      = .next (takeTrap s s.me (simpleTrap 0x0E (BitVec.ofNat 64 (0x2000 + r))) (resumeAddr (actor s))) := by
  simp only [issue, classBad_seated u seated, agrees, full, registers, loops, delivered, struck, Bool.false_eq_true, if_false]

/-- VADD is a masked write of lanes (R266). -/
theorem exec_vadd (d a b : BitVec 5) (t m : BitVec 3) (z : BitVec 1) (s : State) : exec (.vadd d a b t m z) s
    = vecOp d m (z == 1) (intBytes t) [vr a, vr b] (fun c => (lanes (c.readV a.toNat) (intBytes t)).zipWith
        (fun x y => ofSigned (8 * intBytes t) (laneInt t x + laneInt t y)) (lanes (c.readV b.toNat) (intBytes t))) s := rfl

/-- A descriptor of one element at address 0, with a ring of two slots at the base of the scratchpad (R195). -/
def oneElement (write : Nat) : BitVec 512 :=
  BitVec.ofNat 512 (2 ^ 160 + 2 ^ 176 + 2 ^ 192 + 2 * 2 ^ 216 + write * 2 ^ 228)

/-- A read stream on v24 of context 0 whose element stands in its ring. -/
def headStream : Stream := { filledStream with reg := 24, desc := oneElement 0 }

/-- The descriptor is well formed and the register full (R196, R199), as struckRingState has it. -/
theorem headStream_sound : streamBad headStream.desc = false ∧ streamFull headStream = true := by
  decide +kernel

/-- The machine after reset but for that stream and a strike on the first 8 bytes of its head. -/
def struckRingState : State :=
  applyStrike { State.reset with streams := [(0, headStream)] } (.pad (ringAddr 0 headStream.desc 0 / 8))

/-- Only the stream register itself is left out: p1, the mask, and v3, the destination. -/
theorem ready_struckRingState : Ready struckRingState [65, 35] where
  roams h := absurd h (by decide)
  full := by decide +kernel
  plain := by decide +kernel
  sound _ _ := rfl
  loops _ _ := rfl

/-- The state that VADD v3, v24, v24 leaves: v24 is register 56. -/
def struckHeadTrapped : State :=
  takeTrap struckRingState 0 (simpleTrap 0x0E (BitVec.ofNat 64 (0x2000 + 56))) (resumeAddr (actor struckRingState))

theorem exec_vadd_struckHead : exec (.vadd 3 24 24 2 1 1) struckRingState = .next struckHeadTrapped := by
  rw [exec_vadd, vecOp]
  exact issue_struckHead _ (by decide +kernel) (by decide +kernel) (by decide +kernel) (by decide +kernel) (by decide +kernel)
    (by decide +kernel) (by decide +kernel)

theorem streams_struckHeadTrapped : tfind struckHeadTrapped.streams 0 = some headStream := by
  decide +kernel

/-- Refutes O19: its clause on pops does not ask that the 64 bytes of the head correct. In struckRingState they do not, and VADD of
v24 traps without a pop. -/
theorem not_streamsArePoppedAndPushed : ¬ Obligations.StreamsArePoppedAndPushed := by
  rintro ⟨pops, -⟩
  obtain ⟨t, run, -, popped, -⟩ := pops (.vadd 3 24 24 2 1 1) _ struckRingState 24 0 headStream (.inl rfl) rfl (by decide)
    (by decide) (by decide) (by decide +kernel) rfl (by decide +kernel) rfl ready_struckRingState (by decide) (by decide) rfl
  obtain rfl := Host.Outcome.next.inj (exec_vadd_struckHead.symm.trans run)
  rw [streams_struckHeadTrapped] at popped
  exact absurd popped (by decide)

end Sys2Proof.Machine
end

section
/-!
PROOFS. SCFG on a register against which an error record stands (R120, R206): the register is empty as its stream opens, a write
stream's too, so O45 fails.
-/

namespace Sys2Proof.Machine

/-! ### The opening of a stream -/

theorem bindStream_world (s : State) (k key reg : Nat) (d : BitVec 512) :
    { bindStream s k key reg d with ctxs := s.ctxs, cores := s.cores, streams := s.streams } = s :=
  congrArg (fun z : State => { z with streams := s.streams }) (streamBit_world _ key)

/-- With an error record the bit of the register stays empty, whatever the stream has room for. -/
theorem isEmpty_bindStream_recorded {s : State} {k reg : Nat} {e : TrapRec} (record : tfind (getCtx s k).errs (32 + reg) = some e)
    (key : Nat) (d : BitVec 512) : (getCtx (bindStream s k key reg d) k).isEmpty (32 + reg) = true := by
  have same (t : Tab Stream) : getCtx { s with streams := t } k = getCtx s k := rfl
  unfold bindStream streamBit
  dsimp only
  rw [tfind_tput_self]
  simp [same, record, isEmpty_setEmpty]

/-- The end of an instruction that answers leaves a register empty that its effect left empty. -/
theorem isEmpty_answered {w : State} {k r : Nat} (empty : (getCtx w k).isEmpty r = true) (d : BitVec 5) (x pc : Dword)
    (written : Nat → Bool) :
    (getCtx (modCtx (freshRegs (answer w k d x) k written) k fun y => ended (nextPc y pc)) k).isEmpty r = true := by
  rw [getCtx_modCtx_self, getCtx_freshRegs, getCtx_congr (answer_ctxs ..), getCtx_modCtx_self]
  show (nextPc _ _).isEmpty r = true
  rw [isEmpty_nextPc, isEmpty_setEmpty, empty, ite_self]

section
variable {d a : BitVec 5} {b : BitVec 3} {s s1 : State} {blk : Vec} {key : Nat}
  (ready : Ready s [a.toNat, d.toNat, 56 + b.toNat]) (aligned : ((actor s).readG a.toNat).toNat % 64 = 0)
  (read : blockRead s s.me ((actor s).readG a.toNat) 64 = (s1, .ok blk)) (good : streamBad blk = false)
  (free : freeStream s1 (ctxCore s.me) = some key) (past : (pendingOf s1 s.me).isEmpty = true)
include ready aligned read good free past

/-- SCFG of a good descriptor, with a free slot and no earlier access under way, opens the stream and fills 0 (R206). -/
theorem exec_scfg_opens : exec (.scfg d a b) s
    = .next (modCtx (freshRegs (answer (bindStream s1 s.me key (streamReg b) blk) s.me d 0) s.me [d.toNat].contains) s.me
        fun y => ended (nextPc y (actor s).pc)) := by
  have plain : streamSlot s s.me (streamReg b) = none := by
    have := ready.plain (56 + b.toNat) (by simp) (by omega) (by omega)
    rwa [show 56 + b.toNat - 32 = streamReg b by unfold streamReg; omega] at this
  show execScfg d a b s = _
  unfold execScfg
  refine issue_gRegs _ ?_ ready ?_ rfl rfl ?_ rfl
  · simp [plain, withBlock, aligned, read, good, free, past]
  · simp [gr, streamNum, streamReg]
    omega
  · have := a.isLt
    have := d.isLt
    simp [gr]
    omega

/-- After it a register with an error record is empty. -/
theorem isEmpty_scfg_recorded {e : TrapRec} (record : tfind (actor s).errs (56 + b.toNat) = some e) :
    ∃ t, exec (.scfg d a b) s = .next t ∧ (actor t).isEmpty (56 + b.toNat) = true := by
  refine ⟨_, exec_scfg_opens ready aligned read good free past, ?_⟩
  have kept := blockRead_sameButTrail read
  have number : 56 + b.toNat = 32 + streamReg b := by unfold streamReg; omega
  have me : (answer (bindStream s1 s.me key (streamReg b) blk) s.me d 0).me = s.me :=
    (congrArg State.me (answer_world ..) :).trans ((congrArg State.me (bindStream_world ..) :).trans kept.me)
  have still : tfind (getCtx s1 s.me).errs (32 + streamReg b) = some e := by
    rw [kept.proj s.me Ctx.errs fun _ _ => rfl, ← number]
    exact record
  rw [actor, modCtx_me, freshRegs_me, me, number]
  exact isEmpty_answered (isEmpty_bindStream_recorded still key blk) ..

end

/-! ### A write stream opened on such a register -/

/-- The descriptor of a write stream stands at the start of dataPage, g3 names it, and v25 waits for a value. -/
def descriptorState : State :=
  { State.reset with
    mem := [(0x10014, 1), (0x10016, 1), (0x10018, 1), (0x1001B, 2), (0x1001C, 16)]
    ctxs := [(0, { Ctx.initial 0 with g := [(3, 0x30000)], empty := [(57, true)] })]
    clusters := [(0, { rind := some 0 })]
    rmap := [(0, 0)]
    tlbs := [(0, [dataPage]), (2048, [dataPage])] }

/-- v25 of context 0, register 57 in the numbering of R40. -/
def v25Reply : Reply := { streamReply with reg := 57 }

/-- An error packet for v25 and then a fill of it have arrived (R120, R330): the fill sets v25 full and leaves the record. -/
def recordedState : State := applyFill (applyError descriptorState v25Reply { code := 0x17 }) v25Reply 0

theorem record_recordedState : tfind (actor recordedState).errs 57 = some { code := 0x17 } := by
  decide +kernel

theorem ready_recordedState : Ready recordedState [3, 1, 57] where
  roams h := absurd h (by decide +kernel)
  full := by decide +kernel
  plain := by decide +kernel
  sound _ _ := rfl
  loops _ _ := rfl

/-- SCFG's read of the descriptor. -/
def descriptorRead : State × BlockRes := blockRead recordedState recordedState.me ((actor recordedState).readG 3) 64

theorem descriptorRead_ok : descriptorRead.2 = .ok (oneElement 1) := by
  decide +kernel

/-- The first stream slot of core 0 is free then, and no access of the context is under way. -/
theorem descriptorRead_free : tfind descriptorRead.1.streams (ctxCore recordedState.me * 16 + 0) = none
    ∧ freeStream descriptorRead.1 (ctxCore recordedState.me) = some 0
    ∧ (pendingOf descriptorRead.1 recordedState.me).isEmpty = true := by
  decide +kernel

/-- Refutes O45: its clause on SCFG lets a write stream's register be full whatever stands against it. In recordedState v25 is full
and has an error record, and with that record the model keeps the bit of the new stream empty (R120). -/
theorem not_streamInstructions : ¬ Obligations.StreamInstructions := by
  rintro ⟨⟨opens, -⟩, -⟩
  have read : descriptorRead = (descriptorRead.1, .ok (oneElement 1)) := eq_pair_of_snd descriptorRead_ok
  have good : streamBad (oneElement 1) = false := by decide +kernel
  obtain ⟨vacant, free, past⟩ := descriptorRead_free
  obtain ⟨-, -, opens⟩ := opens 1 3 1 recordedState _ _ ready_recordedState (by decide +kernel) read
  obtain ⟨t, w, run, answers, -, -, bit⟩ := opens 0 good (by decide) vacant (fun i hi => absurd hi (Nat.not_lt_zero i)) past
  obtain ⟨t', run', empty⟩ := isEmpty_scfg_recorded (d := 1) (a := 3) (b := 1) ready_recordedState (by decide +kernel) read good
    free past record_recordedState
  obtain rfl := Host.Outcome.next.inj (run.symm.trans run')
  have kept : (actor t).isEmpty (56 + (1#3).toNat) = (actor w).isEmpty (56 + (1#3).toNat) := answers.empty _
  exact absurd (empty.symm.trans (kept.trans bit)) (by decide +kernel)

end Sys2Proof.Machine
end

section
/-!
PROOFS. The reductions of VRED (R235, R276): the shared end of an instruction that writes one v register, the lanes that a
reduction takes, and the tree of R235.
-/

namespace Sys2Proof.Machine

/-! ### An instruction that writes one v register -/

/-- An instruction that writes one v register and nothing else, when nothing stops it. -/
theorem issue_writeV {s : State} {u : Named} {rs : List Nat} (d : BitVec 5) (F : Ctx → Vec) (h : Ready s rs)
    (hu : u.writes = [vr d])
    (hm : ∀ r ∈ u.reads ++ u.writes ++ u.tests ++ u.merges ++ u.names, r ∈ rs) (hc : u.ctl = none) (hn : u.noStream = none) :
    ∃ t, issue s u (pureBody fun c => c.writeV d.toNat (F c)) = .next t
      ∧ FallsThrough s t ∧ OnlyRegs s t [32 + d.toNat] ∧ (actor t).readV d.toNat = F (actor s) := by
  obtain ⟨t, run, -, own, world⟩ := issue_pure (fun c => c.writeV d.toNat (F c)) h hm hc hn
  rw [hu] at world
  refine ⟨t, run, ⟨?_, ?_⟩, ?_, ?_⟩
  · rw [own]
    exact loopStep_nextPc rfl rfl rfl rfl
  · rw [own]
    rfl
  · refine onlyRegs_intro (pcOf := fun y => nextPc y (actor s).pc) own world (.inl rfl) (fun r _ _ => readG_writeV ..)
      (fun r other => ?_) (fun r _ => readP_writeV ..) rfl
    rw [readV_writeV, if_neg (by simpa using other)]
  · rw [own]
    exact (readV_nextPc ..).trans (readV_writeV_self ..)

/-! ### Lanes -/

theorem lane_eq (x : Vec) (n i : Nat) : lane x n i = Rules.lane x n i := by
  rw [lane, Rules.lane, BitVec.toNat_ushiftRight, Nat.shiftRight_eq_div_pow]

theorem laneInt_eq (t : BitVec 3) (x : Nat) : laneInt t x = Rules.val t x := by
  unfold laneInt Rules.val intSigned
  by_cases signed : t.toNat < 4
  · simp only [signed, decide_true, if_true, true_and]
    rfl
  · simp [signed]

theorem intHi_eq (t : BitVec 3) : intHi (8 * intBytes t) (intSigned t) = Rules.hi t := by
  simp [intHi, Rules.hi, intSigned, intBytes]

theorem intLo_eq (t : BitVec 3) : intLo (8 * intBytes t) (intSigned t) = Rules.lo t := by
  simp [intLo, Rules.lo, intSigned, intBytes]

/-- The lanes of n bytes that a reduction of v[a] under p[m] takes, an inactive one as none. -/
def redLanes (c : Ctx) (a : BitVec 5) (m : BitVec 3) (n : Nat) : List (Option Nat) :=
  (List.range (64 / n)).map fun i => if Rules.active c m n i then some (Rules.lane (c.readV a.toNat) n i) else none

/-- The value that lane i of n bytes gives to a reduction: g of an active lane, e of another. -/
def redValue {α : Type} (c : Ctx) (a : BitVec 5) (m : BitVec 3) (n : Nat) (g : Nat → α) (e : α) (i : Nat) : α :=
  if Rules.active c m n i then g (Rules.lane (c.readV a.toNat) n i) else e

theorem redLanes_map {α : Type} (c : Ctx) (a : BitVec 5) (m : BitVec 3) (n : Nat) (g : Nat → α) (e : α) :
    (redLanes c a m n).map (fun x => x.elim e g) = (List.range (64 / n)).map (redValue c a m n g e) := by
  rw [redLanes, List.map_map]
  refine List.map_congr_left fun i _ => ?_
  rw [Function.comp_apply, redValue]
  split <;> rfl

theorem redLanes_foldl {α : Type} (c : Ctx) (a : BitVec 5) (m : BitVec 3) (n : Nat) (f : α → α → α) (g : Nat → α) (e : α) :
    (redLanes c a m n).foldl (fun r x => f r (x.elim e g)) e
      = (List.range (64 / n)).foldl (fun r i => f r (redValue c a m n g e i)) e := by
  rw [← List.foldl_map (f := fun x : Option Nat => x.elim e g) (g := f), redLanes_map, List.foldl_map]

/-! ### The tree of R235 -/

/-- One stage adds the neighbours 2i and 2i + 1. -/
theorem treeStage_map (f : Nat → Nat) (n : Nat) : treeStage ((List.range (2 * n)).map f)
    = (List.range n).map fun i => Fmt.fp32.addBits .nearestEven (f (2 * i)) (f (2 * i + 1)) := by
  induction n generalizing f with
  | zero => rfl
  | succ n ih =>
    have tail := ih fun i => f (i + 2)
    rw [Nat.mul_succ, List.range_succ_eq_map, List.range_succ_eq_map, List.range_succ_eq_map]
    simpa [treeStage, Function.comp_def, Nat.mul_succ, Nat.add_right_comm] using tail

/-- The tree splits at its leaves as it does at its root. -/
theorem tree_succ (k : Nat) (f : Nat → Nat) :
    Rules.tree (k + 1) f = Rules.tree k fun i => Fmt.fp32.addBits .nearestEven (f (2 * i)) (f (2 * i + 1)) := by
  induction k generalizing f with
  | zero => rfl
  | succ k ih =>
    rw [Rules.tree, ih, ih, Rules.tree]
    simp only [Nat.mul_add, Nat.pow_succ', Nat.add_right_comm]

theorem treeSum_range (k : Nat) (f : Nat → Nat) : treeSum k ((List.range (2 ^ k)).map f) = Rules.tree k f := by
  induction k generalizing f with
  | zero => rfl
  | succ k ih => rw [treeSum, Nat.pow_succ', treeStage_map, ih, tree_succ]

/-! ### What each form of VRED leaves -/

/-- A completed instruction that leaves the low 512 bits of x in v[d] and changes nothing else. -/
def LeavesInV (s : State) (o : Host.Outcome State Fault Refusal) (d : BitVec 5) (x : Int) : Prop :=
  ∃ t, o = .next t ∧ FallsThrough s t ∧ OnlyRegs s t [32 + d.toNat] ∧ (((actor t).readV d.toNat).toNat : Int) = x % 2 ^ 512

/-- The registers that a reduction of v[a] under p[m] into v[d] names. -/
def redNamed (d a : BitVec 5) (m : BitVec 3) : Named :=
  { reads := [vr a, pr m], writes := [vr d], vec := true, merges := maskMerges (vr d) m }

theorem redNamed_mem (d a : BitVec 5) (m : BitVec 3) : ∀ r ∈ (redNamed d a m).reads ++ (redNamed d a m).writes
    ++ (redNamed d a m).tests ++ (redNamed d a m).merges ++ (redNamed d a m).names,
    r ∈ [32 + a.toNat, 64 + m.toNat, 32 + d.toNat] := by
  simp only [redNamed, maskMerges, vr, pr]
  split <;> simp

theorem vred_eq_issue (d a : BitVec 5) (m : BitVec 3) (n : Nat) (f : List (Option Nat) → Nat) (s : State) : vred d a m n f s
    = issue s (redNamed d a m) (pureBody fun c => c.writeV d.toNat (BitVec.ofNat 512 (f (redLanes c a m n)))) := by
  simp only [vred, redLanes, lane_eq]
  rfl

section
variable {s : State} {d a : BitVec 5} {m : BitVec 3} (h : Ready s [32 + a.toNat, 64 + m.toNat, 32 + d.toNat])
include h

theorem vred_leaves (n : Nat) (f : List (Option Nat) → Nat) :
    LeavesInV s (vred d a m n f s) d (f (redLanes (actor s) a m n) : Nat) := by
  rw [vred_eq_issue]
  obtain ⟨t, run, falls, only, value⟩ := issue_writeV (u := redNamed d a m) d
    (fun c => BitVec.ofNat 512 (f (redLanes c a m n))) h rfl (redNamed_mem d a m) rfl rfl
  refine ⟨t, run, falls, only, ?_⟩
  rw [value, BitVec.toNat_ofNat, Int.natCast_emod, Nat.cast_pow, Nat.cast_ofNat]

theorem vredInt_leaves (t : BitVec 3) (f : Int → Int → Int) (ident : Int) :
    LeavesInV s (vredInt d a t m f ident s) d
      ((List.range (64 / intBytes t)).foldl (fun r i => f r (redValue (actor s) a m (intBytes t) (Rules.val t) ident i)) ident
        % 2 ^ 64) := by
  have leaves := vred_leaves h (intBytes t) fun xs =>
    ofSigned 64 (xs.foldl (fun r x => f r (x.elim ident (Rules.val t))) ident)
  rw [redLanes_foldl, ofSigned, Int.toNat_of_nonneg (Int.emod_nonneg _ (by decide))] at leaves
  convert leaves using 1
  rw [vredInt]
  congr 1
  funext xs
  congr 2
  funext r x
  cases x <;> simp [laneInt_eq]

theorem vredTree_leaves (t : BitVec 3) (f : Nat → Nat) :
    LeavesInV s (vredTree d a t m f s) d
      (Rules.tree (if t = 0 then 4 else 5)
        (redValue (actor s) a m (fltBytes t.toNat) (fun x => f (toFp32 t x)) 0x80000000) : Nat) := by
  have count : 64 / fltBytes t.toNat = 2 ^ (if t = 0 then 4 else 5) := by
    have single : t = 0 ↔ t.toNat = 0 := BitVec.toNat_inj.symm
    rw [fltBytes]
    simp only [single]
    split <;> rfl
  have leaves := vred_leaves h (fltBytes t.toNat) fun xs =>
    treeSum (if t = 0 then 4 else 5) (xs.map fun x => x.elim 0x80000000 fun v => f (toFp32 t v))
  rw [redLanes_map, count, treeSum_range] at leaves
  convert leaves using 1
  rw [vredTree]
  congr 1
  funext xs
  congr 2
  funext x
  cases x <;> rfl

theorem vredExt_leaves (t : BitVec 3) (f : Nat → Nat → Nat) (ident : Nat) :
    LeavesInV s (vredExt d a t m f ident s) d
      ((List.range (64 / fltBytes t.toNat)).foldl
        (fun r i => f r (redValue (actor s) a m (fltBytes t.toNat) (toFp32 t) ident i)) ident : Nat) := by
  have leaves := vred_leaves h (fltBytes t.toNat) fun xs => xs.foldl (fun r x => f r (x.elim ident (toFp32 t))) ident
  rw [redLanes_foldl] at leaves
  convert leaves using 1
  rw [vredExt]
  congr 1
  funext xs
  congr 1
  funext r x
  cases x <;> rfl

end

/-- The identity of VRMIN is the largest value of the type (R276). -/
theorem exec_vrminInt (d a : BitVec 5) (t m : BitVec 3) (s : State) :
    exec (.vrminInt d a t m) s = vredInt d a t m min (Rules.hi t) s := by
  rw [← intHi_eq]
  rfl

/-- The identity of VRMAX is the smallest value of the type (R276). -/
theorem exec_vrmaxInt (d a : BitVec 5) (t m : BitVec 3) (s : State) :
    exec (.vrmaxInt d a t m) s = vredInt d a t m max (Rules.lo t) s := by
  rw [← intLo_eq]
  rfl

/-- Settles O16: each of the seven forms of VRED is one of the three above, with the lane values of its type. -/
theorem reductionsWriteResult : Obligations.ReductionsWriteResult := by
  unfold Obligations.ReductionsWriteResult
  intro i d a m x s form _ ready
  unfold Rules.red at form
  split at form <;> cases form
  · exact vredInt_leaves ready _ (· + ·) 0
  · rw [exec_vrminInt]
    exact vredInt_leaves ready _ min _
  · rw [exec_vrmaxInt]
    exact vredInt_leaves ready _ max _
  · exact vredTree_leaves ready _ fun x => x
  · exact vredTree_leaves ready _ fun x => Fmt.fp32.mulBits .nearestEven x x
  · exact vredExt_leaves ready _ Fmt.fp32.minBits 0x7F800000
  · exact vredExt_leaves ready _ Fmt.fp32.maxBits 0xFF800000

end Sys2Proof.Machine
end

section
/-!
PROOFS. The branches (R243, R247): a branch is a transfer when its test holds and moves to the next word otherwise, so
issue_transfer and issue_next give its two outcomes.
-/

namespace Sys2Proof.Machine

/-! ### Immediates and targets (R32, R49) -/

theorem hImm_eq_joined (c : Ctx) : c.hImm = Rules.joined c := rfl

/-- A sign-extended immediate is its signed number (R49). -/
theorem immS_eq_ofInt (c : Ctx) (i : BitVec 16) : immS c i = BitVec.ofInt 64 (Rules.immI c i) := by
  unfold immS Rules.immI
  rw [hImm_eq_joined]
  cases Rules.joined c <;> rfl

/-- The model's branch target counts the immediate in words from the word's own address (R243). -/
theorem branchTarget_eq_target (c : Ctx) (o : BitVec 16) : branchTarget c o = Rules.target c (Rules.immI c o) := by
  have words : BitVec.ofInt 64 (Rules.immI c o) * 4 = BitVec.ofInt 64 (Rules.immI c o * 4) := by
    rw [BitVec.ofInt_mul]; rfl
  rw [branchTarget, immS_eq_ofInt, words, Rules.target, BitVec.ofInt_add, BitVec.ofInt_natCast, BitVec.ofNat_toNat,
    BitVec.setWidth_eq]

/-! ### The tests of R243 as arithmetic -/

theorem isZero_eq (x : Dword) : isZero x = decide (x.toInt = 0) := by
  rw [isZero, Bool.beq_eq_decide_eq]
  exact decide_eq_decide.2 (by rw [← BitVec.toInt_inj]; rfl)

theorem isNeg_eq (x : Dword) : isNeg x = decide (x.toInt < 0) := BitVec.msb_eq_toInt

theorem isPos_eq (x : Dword) : isPos x = decide (0 < x.toInt) := by
  have zero : (x != 0) = !decide (x.toInt = 0) := congrArg not (isZero_eq x)
  have neg : x.msb = decide (x.toInt < 0) := isNeg_eq x
  rw [isPos, zero, neg]
  grind

theorem isOdd_eq (x : Dword) : isOdd x = decide (x.toNat % 2 = 1) := by
  rw [isOdd, bitAt, BitVec.getLsbD, Nat.testBit_zero]

/-! ### The two outcomes -/

/-- Where a branch that completes goes: to its target when it is taken, and to the next word otherwise (R243, R247). -/
def BranchEnds (s t : State) (o : BitVec 16) (taken : Bool) : Prop :=
  OnlyRegs s t []
    ∧ (taken = true → (actor t).pc = Rules.target (actor s) (Rules.immI (actor s) o)
        ∧ Rules.loopAfter (actor s) (Rules.target (actor s) (Rules.immI (actor s) o)) (actor t).loopCnt)
    ∧ (taken = false → FallsThrough s t)

/-- A branch that nothing stops ends in one of its two ways. -/
theorem issue_branch {s : State} {u : Named} {rs : List Nat} {o : BitVec 16} (taken : Bool) (body : State → Ctx → State × Done)
    (hb : body s (actor s) = (s, if taken then .jump (branchTarget (actor s) o) else .next)) (h : Ready s rs)
    (hm : ∀ r ∈ u.reads ++ u.writes ++ u.tests ++ u.merges ++ u.names, r ∈ rs) (hw : u.writes = []) (hc : u.ctl = none)
    (hn : u.noStream = none) : ∃ t, issue s u body = .next t ∧ BranchEnds s t o taken := by
  cases taken with
  | false =>
    obtain ⟨t, run, falls, only⟩ := issue_next body hb h (fun r m => hm r (List.mem_append_left _ m)) hw
      (classBad_ready h hc hm) hn
    exact ⟨t, run, only, (nomatch ·), fun _ => falls⟩
  | true =>
    rw [branchTarget_eq_target] at hb
    obtain ⟨t, run, pc, -, loop, only⟩ := issue_transfer false body hb h hw hm hc hn
    exact ⟨t, run, only, fun _ => ⟨pc, loop⟩, (nomatch ·)⟩

/-- BCC with a test of g[a]. -/
theorem branchOn_ends {s : State} (a : BitVec 5) (o : BitVec 16) (test : Dword → Bool) (h : Ready s [a.toNat]) :
    ∃ t, branchOn a o test s = .next t ∧ BranchEnds s t o (test ((actor s).readG a.toNat)) :=
  issue_branch _ _ rfl h (by simp [gr]) rfl rfl rfl

/-- br names no register. -/
theorem execBr_ends {s : State} (o : BitVec 16) (h : Ready s []) :
    ∃ t, execBr o s = .next t ∧ BranchEnds s t o true :=
  issue_branch true _ rfl h (by simp) rfl rfl rfl

/-- BEMP and BFUL, of a register that the context may name (R35). -/
theorem branchFull_ends {s : State} {a : BitVec 5} (o : BitVec 16) (want : Bool) (h : Ready s [])
    (low : stRoam (actor s).st = true → a.toNat ≤ 6) :
    ∃ t, branchFull a o want s = .next t ∧ BranchEnds s t o (decide ((actor s).isEmpty a.toNat = want)) := by
  have named : (stRoam (actor s).st && decide (6 < a.toNat)) = false := by
    cases roams : stRoam (actor s).st with
    | false => rfl
    | true => simpa using low roams
  unfold branchFull
  dsimp only
  rw [if_neg (by simp [named])]
  exact issue_branch _ _ (by simp only [decide_eq_true_eq]) h (by simp) rfl rfl rfl

/-- The branches that test a register run the tests of R243. -/
theorem exec_branch {i : Instr} {a : BitVec 5} {o : BitVec 16} {test : Dword → Bool} {s : State}
    (form : Rules.branch i = some (a, o, test)) (h : Ready s [a.toNat]) :
    ∃ t, exec i s = .next t ∧ BranchEnds s t o (test ((actor s).readG a.toNat)) := by
  have tested (f : Dword → Bool) (same : ∀ x, f x = test x) :
      ∃ t, branchOn a o f s = .next t ∧ BranchEnds s t o (test ((actor s).readG a.toNat)) :=
    funext same ▸ branchOn_ends a o f h
  cases i with
  | beqz => cases form; exact tested isZero isZero_eq
  | bnez => cases form; exact tested (fun x => !isZero x) fun x => by simp only [isZero_eq, ← decide_not, ne_eq]
  | bltz => cases form; exact tested isNeg isNeg_eq
  | bgez => cases form; exact tested (fun x => !isNeg x) fun x => by simp only [isNeg_eq, ← decide_not, Int.not_lt]
  | bgtz => cases form; exact tested isPos isPos_eq
  | blez => cases form; exact tested (fun x => !isPos x) fun x => by simp only [isPos_eq, ← decide_not, Int.not_lt]
  | br => cases form; exact execBr_ends o (h.mono (by simp))
  | bodd => cases form; exact tested isOdd isOdd_eq
  | bevn => cases form; exact tested (fun x => !isOdd x) fun x => by simp only [isOdd_eq, ← decide_not, Nat.mod_two_not_eq_one]
  | _ => exact nomatch form

/-- Settles O2: a branch on a register by exec_branch, one on a full/empty bit by branchFull_ends. -/
theorem branchGoesWhereTheTestSays : Obligations.BranchGoesWhereTheTestSays := by
  constructor
  · intro i a o test s form h
    exact exec_branch form h
  · intro i a o want s form h named
    have ends : ∃ t, exec i s = .next t ∧ BranchEnds s t o (decide ((actor s).isEmpty a.toNat = want)) := by
      cases i with
      | bemp => cases form; exact branchFull_ends o true h named
      | bful => cases form; exact branchFull_ends o false h named
      | _ => exact nomatch form
    obtain ⟨t, run, only, taken, falls⟩ := ends
    exact ⟨t, run, only, fun e => taken (decide_eq_true e), fun e => falls (decide_eq_false e)⟩

end Sys2Proof.Machine
end

section
/-!
PROOFS. The loops (R245, R247): what startLoop does outside a loop and in one, and the loop test of a NOP.
-/

namespace Sys2Proof.Machine

/-- The loop registers that start n iterations over the l words after a LOOP word (R247). -/
def loopStarted (c : Ctx) (n : Dword) (l : BitVec 10) : Ctx :=
  { c with loopCnt := n, loopEnd := (c.pc + zx l * 4) &&& ~~~3#64, loopLen := bit64 (stTrap c.st) 10 ||| zx l }

theorem startLoop_active {s : State} {c : Ctx} (n : Dword) (l : BitVec 10) (h : c.loopCnt ≠ 0) :
    startLoop s c n l = (s, .trap { code := 0x07, eaddr := c.pc }) := if_pos h

theorem startLoop_none {s : State} {c : Ctx} (l : BitVec 10) (h : c.loopCnt = 0) :
    startLoop s c 0 l = (s, .jump (c.pc + 4 + zx l * 4)) := by
  rw [startLoop, if_neg (not_not.2 h), if_pos rfl]

theorem startLoop_some {s : State} {c : Ctx} {n : Dword} (l : BitVec 10) (h : c.loopCnt = 0) (hn : n ≠ 0) :
    startLoop s c n l = (setCtx s s.me (loopStarted c n l), .next) := by
  rw [startLoop, if_neg (not_not.2 h), if_neg hn]
  rfl

/-! ### The layout of the loop registers -/

/-- A word count as a byte count. -/
theorem zx_mul_four (l : BitVec 10) : zx l * 4 = BitVec.ofNat 64 (4 * l.toNat) := by
  rw [Nat.mul_comm, BitVec.ofNat_mul, BitVec.ofNat_toNat]
  rfl

/-- The multiple of 4 below an address, as a number. -/
theorem toNat_div_four_mul_four (x : Dword) : (x / 4 * 4).toNat = x.toNat / 4 * 4 := by
  rw [BitVec.toNat_mul, BitVec.toNat_udiv, show (4 : Dword).toNat = 4 from rfl]
  omega

/-- Clearing bits 1:0 of an address rounds it down to a multiple of 4. -/
theorem and_not_three (x : Dword) : x &&& ~~~3#64 = x / 4 * 4 := by
  have shifts : (x / 4 * 4 : Dword) = (x >>> 2) <<< 2 := by
    apply BitVec.eq_of_toNat_eq
    rw [toNat_div_four_mul_four, BitVec.toNat_shiftLeft, BitVec.toNat_ushiftRight, Nat.shiftLeft_eq,
      Nat.shiftRight_eq_div_pow]
    omega
  rw [shifts]
  apply BitVec.eq_of_getLsbD_eq
  intro j hj
  have mask : (~~~3#64).getLsbD j = decide (2 ≤ j) := by revert j; decide
  rw [BitVec.getLsbD_and, mask, BitVec.getLsbD_shiftLeft, BitVec.getLsbD_ushiftRight]
  by_cases h : j < 2
  · simp [h]
  · simp [h, hj, show 2 ≤ j by omega, show 2 + (j - 2) = j by omega]

/-- loop.end is the last word of the body. -/
theorem loopStarted_loopEnd (c : Ctx) (n : Dword) (l : BitVec 10) :
    (loopStarted c n l).loopEnd = c.pc / 4 * 4 + BitVec.ofNat 64 (4 * l.toNat) := by
  show (c.pc + zx l * 4) &&& ~~~3#64 = _
  rw [zx_mul_four, and_not_three]
  apply BitVec.eq_of_toNat_eq
  rw [toNat_div_four_mul_four, BitVec.toNat_add, BitVec.toNat_add, toNat_div_four_mul_four, BitVec.toNat_ofNat]
  omega

/-- loop.len holds the length of the body, with loop.tr above it. -/
theorem loopStarted_loopLen (c : Ctx) (n : Dword) (l : BitVec 10) :
    (loopStarted c n l).loopLen = BitVec.ofNat 64 ((if stTrap c.st then 1024 else 0) + l.toNat) := by
  have tr : bit64 (stTrap c.st) 10 = at64 (if stTrap c.st then 1 else 0) 10 := by cases stTrap c.st <;> rfl
  have len : zx l = BitVec.ofNat 64 l.toNat := (BitVec.ofNat_toNat 64 l).symm
  show bit64 (stTrap c.st) 10 ||| zx l = _
  rw [tr, len, at64_or_ofNat l.isLt]
  split <;> rfl

/-- A body of at least one word ends after its LOOP word. -/
theorem ne_loopStarted_loopEnd (c : Ctx) (n : Dword) {l : BitVec 10} (hl : l ≠ 0) : c.pc ≠ (loopStarted c n l).loopEnd := by
  have pos : l.toNat ≠ 0 := fun e => hl (BitVec.eq_of_toNat_eq e)
  have small := l.isLt
  rw [loopStarted_loopEnd]
  intro e
  have e := congrArg BitVec.toNat e
  rw [BitVec.toNat_add, toNat_div_four_mul_four, BitVec.toNat_ofNat] at e
  omega

/-! ### The LOOP words -/

/-- What a LOOP word of n iterations leaves outside a loop (R247). -/
structure LoopEntered (s t : State) (n : Dword) (l : Nat) : Prop where
  g : ∀ r, (actor t).readG r = (actor s).readG r
  v : ∀ r, (actor t).readV r = (actor s).readV r
  skips : n = 0 → (actor t).pc = (actor s).pc + BitVec.ofNat 64 (4 + 4 * l) ∧ (actor t).loopCnt = 0
    ∧ (actor t).loopEnd = (actor s).loopEnd ∧ (actor t).loopLen = (actor s).loopLen
  starts : n ≠ 0 → (actor t).pc = (actor s).pc + 4 ∧ (actor t).loopCnt = n
    ∧ (actor t).loopEnd = (actor s).pc / 4 * 4 + BitVec.ofNat 64 (4 * l)
    ∧ (actor t).loopLen = BitVec.ofNat 64 ((if stTrap (actor s).st then 1024 else 0) + l)
  only : OnlyActor s t []

/-- A loop of no iterations: the transfer past the body ends no loop, since none is active. -/
theorem jumpPc_loopCnt_zero {c : Ctx} (w dest : Dword) (h : c.loopCnt = 0) : (jumpPc c w dest).loopCnt = 0 := by
  rw [jumpPc, if_neg fun active => active.1 h, h]

/-- An effect that starts a loop enters it or skips its body. -/
theorem issue_startLoop {s : State} {u : Named} {rs : List Nat} {n : Dword} {l : BitVec 10} (body : State → Ctx → State × Done)
    (hb : body s (actor s) = startLoop s (actor s) n l) (h : Ready s rs) (hr : stRoam (actor s).st = false)
    (hm : ∀ r ∈ u.reads ++ u.writes ++ u.tests ++ u.merges, r ∈ rs) (hw : u.writes = []) (hn : u.noStream = none)
    (hl : l ≠ 0) (h0 : (actor s).loopCnt = 0) : ∃ t, issue s u body = .next t ∧ LoopEntered s t n l.toNat := by
  by_cases zero : n = 0
  · rw [zero, startLoop_none l h0] at hb
    obtain ⟨t, run, -, own, only⟩ := issue_jump body hb (onlyCtx_self s) h hm (classBad_seated u hr) (by simp [hn])
    refine ⟨t, run, fun r => ?_, fun r => ?_, fun _ => ?_, fun e => absurd zero e, hw ▸ only⟩
    · rw [own]; exact readG_jumpPc ..
    · rw [own]; exact readV_jumpPc ..
    · rw [own]
      refine ⟨(jumpPc_pc ..).trans ?_, jumpPc_loopCnt_zero _ _ h0, jumpPc_loopEnd .., jumpPc_loopLen ..⟩
      rw [zx_mul_four, BitVec.ofNat_add, ← BitVec.add_assoc]
      rfl
  · rw [startLoop_some l h0 zero] at hb
    obtain ⟨t, run, -, own, only⟩ := issue_own body hb (onlyCtx_set s _) h hm (classBad_seated u hr) (by simp [hn])
    have past : nextPc (loopStarted (actor s) n l) (actor s).pc = { loopStarted (actor s) n l with pc := (actor s).pc + 4 } :=
      if_neg fun last => ne_loopStarted_loopEnd (actor s) n hl last.1
    rw [past] at own
    refine ⟨t, run, fun r => ?_, fun r => ?_, fun e => absurd e zero, fun _ => ?_, hw ▸ only⟩
    · rw [own]; rfl
    · rw [own]; rfl
    · rw [own]
      exact ⟨rfl, rfl, loopStarted_loopEnd _ n l, loopStarted_loopLen _ n l⟩

/-- REP and REPS ask for a body of at least one word (R245). -/
theorem length_ne_zero_of_wellFormed {a : BitVec 5} {l : BitVec 10} (wf : WellFormed (.rep a l) ∨ WellFormed (.reps a l)) :
    l ≠ 0 := by
  rcases wf with wf | wf
  · exact bne_iff_ne.1 wf
  · exact bne_iff_ne.1 (Bool.and_eq_true_iff.1 wf).1

/-- A LOOP word outside a loop. -/
theorem exec_loop {i : Instr} {rs : List Nat} {n : Dword} {l : Nat} {s : State} (form : Rules.loop s i = some (rs, n, l))
    (wf : WellFormed i) (h : Ready s rs) (hr : stRoam (actor s).st = false) (h0 : (actor s).loopCnt = 0) :
    ∃ t, exec i s = .next t ∧ LoopEntered s t n l := by
  cases i with
  | rep a len =>
    cases form
    show ∃ t, execRep a len s = _ ∧ _
    unfold execRep
    exact issue_startLoop _ rfl h hr (by simp [gr]) rfl rfl (length_ne_zero_of_wellFormed (.inl wf)) h0
  | reps a len =>
    obtain ⟨x, stream, e⟩ := Option.map_eq_some_iff.1 form
    cases e
    show ∃ t, execReps a len s = _ ∧ _
    unfold execReps
    refine issue_startLoop _ ?_ h hr (by simp) rfl rfl (length_ne_zero_of_wellFormed (.inr wf)) h0
    rw [if_neg (not_not.2 h0), stream]
    rfl
  | _ => exact nomatch form

/-- Settles O4: a LOOP word outside a loop by exec_loop and in one by the trap of startLoop, a NOP by the loop test of nextPc. -/
theorem loopStarts : Obligations.LoopStarts := by
  refine ⟨fun i rs n l s form wf h hr h0 => ?_, fun i l rs s form _ h hr active => ?_, fun s h last tr => ?_⟩
  · obtain ⟨t, run, g, v, skips, starts, only⟩ := exec_loop form wf h hr h0
    exact ⟨t, run, g, v, skips, starts, only⟩
  · obtain ⟨a, ⟨rfl, rfl⟩ | ⟨rfl, rfl⟩⟩ := form
    · show execRep a l s = _
      unfold execRep
      exact issue_trap _ (startLoop_active _ l active) h (by simp [gr]) (classBad_seated _ hr) rfl
    · show execReps a l s = _
      unfold execReps
      exact issue_trap _ (if_pos active) h (by simp) (classBad_seated _ hr) rfl
  · obtain ⟨t, run, ⟨⟨again, final, plain⟩, -⟩, only⟩ := issue_next (u := {}) (fun s _ => (s, .next)) rfl h (by simp) rfl
      (classBad_ready h rfl (by simp)) rfl
    refine ⟨t, run, (congrArg Ctx.loopEnd only.rest :), (congrArg Ctx.loopLen only.rest :), fun more => ?_, fun few => ?_⟩
    · refine again ⟨last, fun zero => ?_, tr⟩ more
      rw [zero] at more
      exact absurd more (by decide)
    · by_cases zero : (actor s).loopCnt = 0
      · obtain ⟨cnt, pc⟩ := plain fun ends => ends.2.1 zero
        exact ⟨cnt.trans zero, pc.trans (congrArg (· + 4) last)⟩
      · exact final ⟨last, zero, tr⟩ few

end Sys2Proof.Machine
end

section
/-!
PROOFS. TRAP and ERET (R249, R384): their effects set the pc themselves, so that nothing follows them.
-/

namespace Sys2Proof.Machine

/-- An effect that has set the pc itself is the whole of the instruction. -/
theorem issue_moved {s w : State} {u : Named} {rs : List Nat} (body : State → Ctx → State × Done)
    (hb : body s (actor s) = (w, .moved)) (h : Ready s rs) (hm : ∀ r ∈ u.reads ++ u.writes ++ u.tests ++ u.merges ++ u.names, r ∈ rs)
    (hc : u.ctl = none) (hn : u.noStream = none) : issue s u body = .next w := by
  rw [issue_ready body h hm hc (by simp [hn]), hb]
  rfl

theorem exec_trap {s : State} (code : BitVec 12) (h : Ready s []) :
    exec (.trap code) s = .next (takeTrap s s.me { code := 0x08, eaddr := code.setWidth 64 } ((actor s).pc + 4)) := by
  show execTrap code s = _
  unfold execTrap
  exact issue_moved _ rfl h (by simp) rfl rfl

/-! ### What a return from a trap restores (R384) -/

/-- st after a return: the saved one, but for dem, gen and ctx. -/
def returnedSt (c : Ctx) : Dword :=
  putFld (putFld (stBit c.est 4 (stDem c.st)) 32 8 (stGen c.st)) 8 8 (BitVec.ofNat 8 (stCtx c.st))

/-- A register's error record put back, where one was saved (R379). -/
def withRecord (errs : Tab TrapRec) (r : Nat) (saved : Option TrapRec) : Tab TrapRec :=
  match saved with
  | some e => tput errs r e
  | none => errs

theorem tfind_withRecord_self {errs : Tab TrapRec} {r : Nat} (saved : Option TrapRec) (h : tfind errs r = none) :
    tfind (withRecord errs r saved) r = saved := by
  cases saved with
  | some e => exact tfind_tput_self ..
  | none => exact h

theorem tfind_withRecord_other (errs : Tab TrapRec) {r j : Nat} (saved : Option TrapRec) (h : j ≠ r) :
    tfind (withRecord errs r saved) j = tfind errs j := by
  cases saved with
  | some e => exact tfind_tput_other _ _ h
  | none => rfl

/-- The error records after a return: those of g1 and g2 are the saved ones. -/
def returnedErrs (c : Ctx) : Tab TrapRec :=
  withRecord (withRecord (tdel (tdel c.errs 1) 2) 1 c.errTsv1) 2 c.errTsv2

/-- g1 and g2 with their full/empty bits, as saved. -/
def returnedRegs (c : Ctx) : Ctx :=
  (((c.writeG 1 c.tsv1).writeG 2 c.tsv2).setEmpty 1 (!bitAt c.tfInfo 4)).setEmpty 2 (!bitAt c.tfInfo 5)

/-- The context after a return. -/
def returned (c : Ctx) : Ctx :=
  { returnedRegs c with
    st := returnedSt c, tfInfo := 0, errs := returnedErrs c, errTsv1 := none, errTsv2 := none, pc := c.epc, hint := none
    trail := { c.trail with moves := 0 } }

theorem returnTrap_eq (s : State) (k : Nat) :
    returnTrap s k = modCore (freshRegs (setCtx s k (returned (getCtx s k))) k fun r => r == 1 || r == 2) (ctxCore k)
      fun x => { x with block := none, left := none } := rfl

theorem getCtx_returnTrap (s : State) (k j : Nat) :
    getCtx (returnTrap s k) j = if j = k then returned (getCtx s k) else getCtx s j := by
  rw [returnTrap_eq, getCtx_modCore, getCtx_freshRegs, getCtx_setCtx]

theorem returnTrap_world (s : State) (k : Nat) :
    { returnTrap s k with ctxs := s.ctxs, cores := s.cores, badReg := s.badReg } = s := rfl

theorem readG_returned (c : Ctx) (r : Nat) :
    (returned c).readG r = if r = 2 then c.tsv2 else if r = 1 then c.tsv1 else c.readG r := by
  show (returnedRegs c).readG r = _
  simp only [returnedRegs, readG_setEmpty, readG_writeG, ne_eq, OfNat.ofNat_ne_zero, one_ne_zero, not_false_eq_true, and_true]

theorem isEmpty_returned (c : Ctx) (r : Nat) :
    (returned c).isEmpty r = if r = 2 then !c.tfInfo.getLsbD 5 else if r = 1 then !c.tfInfo.getLsbD 4 else c.isEmpty r := by
  show (returnedRegs c).isEmpty r = _
  simp only [returnedRegs, isEmpty_setEmpty, isEmpty_writeG, bitAt, ne_eq, OfNat.ofNat_ne_zero, one_ne_zero, not_false_eq_true,
    and_true]

theorem tfind_returnedErrs (c : Ctx) :
    tfind (returnedErrs c) 1 = c.errTsv1 ∧ tfind (returnedErrs c) 2 = c.errTsv2 := by
  constructor
  · exact (tfind_withRecord_other _ _ (by decide)).trans (tfind_withRecord_self _ (by simp [tfind_tdel]))
  · refine tfind_withRecord_self _ ((tfind_withRecord_other _ _ (by decide)).trans ?_)
    rw [tfind_tdel, if_pos rfl]

/-- A field written with the same field of another value takes its bits there. -/
theorem getLsbD_putFld_fld (x y : Dword) (lo n j : Nat) (hj : j < 64) :
    (putFld x lo n (fld y lo n)).getLsbD j = if lo ≤ j ∧ j < lo + n then y.getLsbD j else x.getLsbD j := by
  rw [getLsbD_putFld]
  refine if_ctx_congr Iff.rfl (fun h => ?_) fun _ => rfl
  simp [fld, hj, show j - lo < n by omega, show lo + (j - lo) = j by omega]

theorem getLsbD_returnedSt (c : Ctx) {b : Nat} (hb : b < 64) : (returnedSt c).getLsbD b =
    if b = 4 ∨ (8 ≤ b ∧ b < 16) ∨ (32 ≤ b ∧ b < 40) then c.st.getLsbD b else c.est.getLsbD b := by
  have dem : BitVec.ofBool (stDem c.st) = fld c.st 4 1 := by
    apply BitVec.eq_of_getLsbD_eq
    intro j hj
    obtain rfl : j = 0 := by omega
    simp [stDem, bitAt, fld]
  have ctx : BitVec.ofNat 8 (stCtx c.st) = fld c.st 8 8 := by rw [stCtx, fldN, BitVec.ofNat_toNat, BitVec.setWidth_eq]
  rw [returnedSt, stBit, dem, ctx, stGen, getLsbD_putFld_fld _ _ _ _ _ hb, getLsbD_putFld_fld _ _ _ _ _ hb,
    getLsbD_putFld_fld _ _ _ _ _ hb]
  grind

theorem returned_frame (c : Ctx) : (returned c).v = c.v ∧ (returned c).p = c.p ∧ (returned c).loopCnt = c.loopCnt := by
  simp [returned, returnedRegs]

/-- ERET in a handler of a seated context is a return from the trap. -/
theorem exec_eret {s : State} (h : Ready s [1, 2]) (sys : stSys (actor s).st = true) (handler : stTrap (actor s).st = true)
    (seated : stRoam (actor s).est = false) : exec .eret s = .next (returnTrap s s.me) := by
  show execEret s = _
  unfold execEret
  refine issue_moved _ ?_ h (by simp) rfl rfl
  rw [if_neg (by simp [sys, handler]), if_neg (by simp [seated])]

/-- Settles O23: TRAP by exec_trap, ERET by what returnTrap restores. -/
theorem trapAndReturn : Obligations.TrapAndReturn := by
  refine ⟨fun code s h => exec_trap code h, fun s h sys handler seated => ⟨_, exec_eret h sys handler seated, ?_⟩⟩
  have own : actor (returnTrap s s.me) = returned (actor s) := (getCtx_returnTrap s s.me s.me).trans (if_pos rfl)
  obtain ⟨errs1, errs2⟩ := tfind_returnedErrs (actor s)
  obtain ⟨v, p, cnt⟩ := returned_frame (actor s)
  rw [own]
  refine ⟨readG_returned _ 1, readG_returned _ 2, isEmpty_returned _ 1, isEmpty_returned _ 2, errs1, errs2,
    fun b hb => getLsbD_returnedSt _ hb, rfl, rfl, rfl, fun x h1 h2 => ?_, v, p, cnt, fun k hk => ?_, returnTrap_world s s.me⟩
  · rw [readG_returned, isEmpty_returned, if_neg h2, if_neg h1, if_neg h2, if_neg h1]
    exact ⟨rfl, rfl⟩
  · rw [getCtx_returnTrap, if_neg hk]

end Sys2Proof.Machine
end

section
/-!
PROOFS. SNAP (R251, R399, R400): what a raised trigger does to its Rind, and the two ends of SNAP: it waits on the trigger, or
the number of a snapshot that has latched fills g[d] at once.
-/

namespace Sys2Proof.Machine

/-! ### The raised trigger -/

/-- Each core of a list counts one snapshot that it missed (R400). -/
def countMissed (s : State) (cores : List Nat) : State :=
  cores.foldl (fun s cn => modCore s cn fun c => { c with miss := c.miss + 1 }) s

theorem getCore_countMissed_of_notMem {cores : List Nat} {cn : Nat} (h : cn ∉ cores) (s : State) :
    getCore (countMissed s cores) cn = getCore s cn := by
  induction cores generalizing s with
  | nil => rfl
  | cons x cores ih =>
    obtain ⟨ne, rest⟩ := List.ne_and_not_mem_of_not_mem_cons h
    rw [countMissed, List.foldl_cons]
    exact (ih rest _).trans (by rw [getCore_modCore, if_neg ne])

/-- A core that stands in the list once counts once. -/
theorem miss_countMissed {cores : List Nat} {cn : Nat} (once : cores.Nodup) (h : cn ∈ cores) (s : State) :
    (getCore (countMissed s cores) cn).miss = (getCore s cn).miss + 1 := by
  induction cores generalizing s with
  | nil => exact nomatch h
  | cons x cores ih =>
    obtain ⟨new, rest⟩ := List.nodup_cons.1 once
    rw [countMissed, List.foldl_cons]
    rcases List.mem_cons.1 h with rfl | h
    · rw [← countMissed, getCore_countMissed_of_notMem new, getCore_modCore_self]
    · rw [← countMissed, ih rest h, getCore_modCore, if_neg (ne_of_mem_of_not_mem h new)]

theorem countMissed_sameCtxs (s : State) (cores : List Nat) : SameCtxs s (countMissed s cores) :=
  foldl_sameCtxs (f := fun s cn => modCore s cn fun c => { c with miss := c.miss + 1 }) (fun _ _ => ⟨rfl, rfl, rfl⟩) cores s

theorem countMissed_net (s : State) (cores : List Nat) : (countMissed s cores).net = s.net := by
  induction cores generalizing s with
  | nil => rfl
  | cons x cores ih => exact ih _

/-- The cores of a Rind are listed once each. -/
theorem nodup_rindCores (s : State) (r : Nat) : (rindCores s r).Nodup := by
  refine List.nodup_flatMap.2 ⟨fun c _ => List.nodup_range.map fun i j e => by omega, ?_⟩
  refine (List.nodup_range.filter _).imp fun {c d} ne => List.disjoint_left.2 fun x hc hd => ne ?_
  obtain ⟨i, hi, rfl⟩ := List.mem_map.1 hc
  obtain ⟨j, hj, e⟩ := List.mem_map.1 hd
  have := List.mem_range.1 hi
  have := List.mem_range.1 hj
  omega

section Raised

variable {s : State} {r : Nat} (src : Dword)

theorem raiseTrigger_latching {g : Trigger} (h : (getRind s r).trigger = some g) : raiseTrigger s r src = s := by
  unfold raiseTrigger
  simp only [h]

theorem raiseTrigger_joins (h : (getRind s r).trigger = none) (soon : s.cycle < (getRind s r).joinTo) :
    raiseTrigger s r src = s := by
  unfold raiseTrigger
  simp only [h]
  exact if_pos soon

theorem raiseTrigger_missed (h : (getRind s r).trigger = none) (later : (getRind s r).joinTo ≤ s.cycle)
    (held : (getRind s r).held = true) : raiseTrigger s r src = countMissed s (rindCores s r) := by
  unfold raiseTrigger
  simp only [h]
  exact (if_neg (not_lt.2 later)).trans (if_pos held)

theorem raiseTrigger_starts (h : (getRind s r).trigger = none) (later : (getRind s r).joinTo ≤ s.cycle)
    (free : (getRind s r).held = false) :
    raiseTrigger s r src
      = modRind s r fun x => { x with trigger := some { cycle := s.cycle, src := src, ts := s.ts, waiters := [] } } := by
  unfold raiseTrigger
  simp only [h]
  exact (if_neg (not_lt.2 later)).trans (if_neg (by simp [free]))

end Raised

theorem raiseTrigger_sameCtxs (s : State) (r : Nat) (src : Dword) : SameCtxs s (raiseTrigger s r src) := by
  cases h : (getRind s r).trigger with
  | some g => rw [raiseTrigger_latching src h]; exact ⟨rfl, rfl, rfl⟩
  | none =>
    rcases lt_or_ge s.cycle (getRind s r).joinTo with soon | later
    · rw [raiseTrigger_joins src h soon]; exact ⟨rfl, rfl, rfl⟩
    · cases held : (getRind s r).held with
      | true => rw [raiseTrigger_missed src h later held]; exact countMissed_sameCtxs ..
      | false => rw [raiseTrigger_starts src h later held]; exact ⟨rfl, rfl, rfl⟩

/-! ### SNAP -/

/-- The state in which the acting context's SNAP has raised the trigger of its Rind. -/
def snapRaised (s : State) : State :=
  raiseTrigger s (stRind (actor s).st) (at64 (coreField (ctxCore s.me)) 29)

/-- A snapshot has latched that SNAP joins or misses: its number is known at once. -/
def snapLate (s : State) (r : Rind) : Bool := r.trigger.isNone && (r.held || decide (s.cycle < r.joinTo))

/-- A reply that waits for the trigger of its Rind to latch. -/
def withWaiter (reply : Reply) (r : Rind) : Rind :=
  match r.trigger with
  | some t => { r with trigger := some { t with waiters := t.waiters ++ [reply] } }
  | none => r

theorem trigger_withWaiter {r : Rind} {g : Trigger} (reply : Reply) (h : r.trigger = some g) :
    (withWaiter reply r).trigger = some { g with waiters := g.waiters ++ [reply] } := by
  unfold withWaiter
  simp only [h]

/-- The state of a SNAP that waits on the trigger: g[d] is empty, and its fill comes with the latch. -/
def snapWaiting (s : State) (d : BitVec 5) : State :=
  modRind (modCtx (snapRaised s) s.me fun c => c.setEmpty d.toNat true) (stRind (actor s).st)
    (withWaiter (replyOf s s.me d.toNat))

/-- The effect of SNAP in system mode with every earlier access performed. -/
theorem execSnap_eq_issue (d : BitVec 5) (s : State) : ∃ body, execSnap d s = issue s { writes := [gr d] } body
    ∧ (stSys (actor s).st = true → (pendingOf s s.me).isEmpty = true →
      body s (actor s) =
        (if snapLate s (getRind s (stRind (actor s).st)) then
          answer (snapRaised s) s.me d (zx (getRind s (stRind (actor s).st)).latches)
        else snapWaiting s d, .next)) := by
  refine ⟨_, rfl, fun sys performed => ?_⟩
  dsimp only
  rw [if_neg (by simp [sys]), if_neg (by simp [performed])]
  have reply : replyOf (snapRaised s) s.me d.toNat = replyOf s s.me d.toNat := by
    have same : getCtx (snapRaised s) s.me = getCtx s s.me := getCtx_congr (raiseTrigger_sameCtxs ..).2.2 _
    unfold replyOf
    rw [same]
  unfold answer
  rw [reply]
  by_cases late : snapLate s (getRind s (stRind (actor s).st)) = true
  · rw [if_pos late]
    exact if_pos late
  · rw [if_neg late]
    exact if_neg late

/-- A SNAP that waits on the trigger has completed: g[d] is empty, and the Rind holds its reply. -/
structure SnapWaits (s t : State) (d : BitVec 5) : Prop where
  pc : FallsThrough s t
  empty : ∀ x, (actor t).isEmpty x = if x ≠ 0 ∧ x = d.toNat then true else (actor s).isEmpty x
  net : t.net = (snapRaised s).net
  rind : getRind t (stRind (actor s).st)
    = withWaiter (replyOf s s.me d.toNat) (getRind (snapRaised s) (stRind (actor s).st))

section Snap

variable {d : BitVec 5} {s : State} (h : Ready s [d.toNat]) (sys : stSys (actor s).st = true)
  (performed : (pendingOf s s.me).isEmpty = true)
include h sys performed

theorem execSnap_waits (starts : snapLate s (getRind s (stRind (actor s).st)) = false) :
    ∃ t, execSnap d s = .next t ∧ SnapWaits s t d := by
  obtain ⟨body, run, effect⟩ := execSnap_eq_issue d s
  have effect := effect sys performed
  rw [if_neg (by simp [starts])] at effect
  refine ⟨_, run.trans (issue_gRegs body effect h (by simp [gr]) rfl rfl (by simp [gr]; omega) rfl), ?_⟩
  have own : actor (modCtx (freshRegs (snapWaiting s d) s.me ([gr d] : List Nat).contains) s.me
      fun y => ended (nextPc y (actor s).pc)) = ended (nextPc ((actor s).setEmpty d.toNat true) (actor s).pc) := by
    obtain ⟨me, -, ctxs⟩ := raiseTrigger_sameCtxs s (stRind (actor s).st) (at64 (coreField (ctxCore s.me)) 29)
    have acts : (snapRaised s).me = s.me := me
    have holds : getCtx (snapRaised s) s.me = actor s := getCtx_congr ctxs _
    simp [snapWaiting, actor, acts, holds]
  refine ⟨?_, fun x => ?_, ?_, ?_⟩
  · rw [FallsThrough, own]
    exact ⟨loopStep_nextPc (setEmpty_loopEnd ..) (setEmpty_loopCnt ..) (setEmpty_st ..) (setEmpty_loopLen ..), rfl⟩
  · rw [own]
    refine (isEmpty_nextPc ..).trans ((isEmpty_setEmpty ..).trans ?_)
    exact if_congr ⟨fun ⟨e, h0⟩ => ⟨e ▸ h0, e⟩, fun ⟨h0, e⟩ => ⟨e, e ▸ h0⟩⟩ rfl rfl
  · unfold snapWaiting
    generalize snapRaised s = w
    rfl
  · simp [snapWaiting]

theorem execSnap_answers (late : snapLate s (getRind s (stRind (actor s).st)) = true) :
    ∃ t, execSnap d s = .next t
      ∧ Rules.Answers s (snapRaised s) t d (zx (getRind s (stRind (actor s).st)).latches) := by
  obtain ⟨body, run, effect⟩ := execSnap_eq_issue d s
  have effect := effect sys performed
  rw [if_pos late] at effect
  rw [run]
  exact issue_answers body effect (SameCtxs.butTrail (raiseTrigger_sameCtxs ..)) h (by simp [gr]) rfl rfl (by simp [gr]; omega)
    rfl rfl

end Snap

/-- Settles O30: the trigger that SNAP meets decides whether it waits (execSnap_waits) or is answered (execSnap_answers). -/
theorem snapRaisesTheTrigger : Obligations.SnapRaisesTheTrigger := by
  intro d s h sys performed r me
  show ∃ t, execSnap d s = _ ∧ _
  cases trigger : (getRind s r).trigger with
  | some g =>
    have notLate : snapLate s (getRind s r) = false := by simp [snapLate, trigger]
    obtain ⟨t, run, pc, empty, net, rind⟩ := execSnap_waits h sys performed notLate
    have raised : snapRaised s = s := raiseTrigger_latching _ trigger
    rw [raised] at net rind
    refine ⟨t, run, pc, empty, (nomatch ·), fun g' e => ?_, (nomatch ·), (nomatch ·)⟩
    cases e
    exact ⟨(congrArg Rind.trigger rind).trans (trigger_withWaiter me trigger), net⟩
  | none =>
    rcases lt_or_ge s.cycle (getRind s r).joinTo with soon | later
    · have late : snapLate s (getRind s r) = true := by simp [snapLate, trigger, soon]
      obtain ⟨t, run, ans⟩ := execSnap_answers h sys performed late
      have raised : snapRaised s = s := raiseTrigger_joins _ trigger soon
      rw [raised] at ans
      refine ⟨t, run, ans.pc, ans.empty, fun _ later => absurd later (not_le.2 soon), fun _ => (nomatch ·),
        fun _ later => absurd later (not_le.2 soon), fun _ _ => ⟨ans.net, (congrArg State.rinds ans.world :), fun cn _ => ?_⟩⟩
      exact (congrArg (fun x : State => (getCore x cn).miss) ans.world :)
    · cases held : (getRind s r).held with
      | true =>
        have late : snapLate s (getRind s r) = true := by simp [snapLate, trigger, held]
        obtain ⟨t, run, ans⟩ := execSnap_answers h sys performed late
        have raised : snapRaised s = countMissed s (rindCores s r) := raiseTrigger_missed _ trigger later held
        rw [raised] at ans
        have same : actor (countMissed s (rindCores s r)) = actor s := by
          obtain ⟨acts, -, ctxs⟩ := countMissed_sameCtxs s (rindCores s r)
          show getCtx _ (countMissed s (rindCores s r)).me = _
          rw [acts, getCtx_congr ctxs]
        refine ⟨t, run, ans.pc, fun x => by rw [ans.empty, same], fun _ _ => (nomatch ·), fun _ => (nomatch ·), fun _ _ _ => ⟨?_, ?_⟩,
          fun _ soon => absurd later (not_le.2 soon)⟩
        · exact ans.net.trans (congrArg (· ++ _) (countMissed_net ..))
        · intro cn hcn
          have miss : (getCore t cn).miss = (getCore (countMissed s (rindCores s r)) cn).miss :=
            (congrArg (fun x : State => (getCore x cn).miss) ans.world :)
          rw [miss, miss_countMissed (nodup_rindCores s r) hcn]
      | false =>
        have notLate : snapLate s (getRind s r) = false := by simp [snapLate, trigger, held, later]
        obtain ⟨t, run, pc, empty, net, rind⟩ := execSnap_waits h sys performed notLate
        have raised := raiseTrigger_starts (at64 (coreField (ctxCore s.me)) 29) trigger later held
        rw [snapRaised, raised] at net rind
        refine ⟨t, run, pc, empty, fun _ _ _ => ⟨?_, net⟩, fun _ => (nomatch ·), fun _ _ => (nomatch ·),
          fun _ soon => absurd later (not_le.2 soon)⟩
        refine (congrArg Rind.trigger rind).trans
          (trigger_withWaiter (g := { cycle := s.cycle, src := _, ts := s.ts, waiters := [] }) me ?_)
        rw [getRind_modRind_self]
        rfl

end Sys2Proof.Machine
end

section
/-!
PROOFS. The values of the integer instructions (R237 to R242) as exact arithmetic.
-/

namespace Sys2Proof.Machine

/-! ### Results at a width (R238) -/

/-- The low word of a register holds its signed number modulo 2^32. -/
theorem lo32_eq_ofInt (x : Dword) : lo32 x = BitVec.ofInt 32 x.toInt :=
  (BitVec.signExtend_eq_setWidth_of_le x (by decide)).symm

/-- An operation whose exact result is z at both widths. -/
theorem atWidth_eq_narrow {w : BitVec 1} {f64 : Dword → Dword → Dword} {f32 : BitVec 32 → BitVec 32 → BitVec 32} {x y : Dword}
    {z : Int} (h64 : w ≠ 1 → f64 x y = BitVec.ofInt 64 z) (h32 : w = 1 → f32 (lo32 x) (lo32 y) = BitVec.ofInt 32 z) :
    atWidth w f64 f32 x y = Rules.narrow w z := by
  unfold atWidth Rules.narrow
  by_cases h : w = 1
  · rw [if_pos h, if_pos h, h32 h]
    rfl
  · rw [if_neg h, if_neg h, h64 h]

/-- An operation of the ring of integers modulo 2^n, on the whole registers at either width. -/
theorem atWidth_ring (f : ∀ n, BitVec n → BitVec n → BitVec n) (F : Int → Int → Int)
    (hf : ∀ n a b, f n (BitVec.ofInt n a) (BitVec.ofInt n b) = BitVec.ofInt n (F a b)) (w : BitVec 1) (x y : Dword) :
    atWidth w (f 64) (f 32) x y = Rules.narrow w (F x.toInt y.toInt) := by
  refine atWidth_eq_narrow (fun _ => ?_) fun _ => ?_
  · rw [← hf, BitVec.ofInt_toInt, BitVec.ofInt_toInt]
  · rw [← hf, lo32_eq_ofInt, lo32_eq_ofInt]

/-- An operation that computes one function of signed numbers at every width. -/
theorem atWidth_signed (f : ∀ n, BitVec n → BitVec n → BitVec n) (F : Int → Int → Int)
    (hf : ∀ n (x y : BitVec n), f n x y = BitVec.ofInt n (F x.toInt y.toInt)) (w : BitVec 1) (x y : Dword) :
    atWidth w (f 64) (f 32) x y = Rules.narrow w (F (Rules.sOf w x) (Rules.sOf w y)) := by
  refine atWidth_eq_narrow (fun h => ?_) fun h => ?_
  · rw [Rules.sOf, Rules.sOf, if_neg h, if_neg h, hf]
  · rw [Rules.sOf, Rules.sOf, if_pos h, if_pos h, hf]
    rfl

/-- An operation that computes one function of unsigned numbers at every width. -/
theorem atWidth_unsigned (f : ∀ n, BitVec n → BitVec n → BitVec n) (F : Nat → Nat → Int)
    (hf : ∀ n (x y : BitVec n), f n x y = BitVec.ofInt n (F x.toNat y.toNat)) (w : BitVec 1) (x y : Dword) :
    atWidth w (f 64) (f 32) x y = Rules.narrow w (F (Rules.uOf w x) (Rules.uOf w y)) := by
  refine atWidth_eq_narrow (fun h => ?_) fun h => ?_
  · rw [Rules.uOf, Rules.uOf, if_neg h, if_neg h, hf]
  · rw [Rules.uOf, Rules.uOf, if_pos h, if_pos h, hf, lo32, lo32, BitVec.toNat_setWidth, BitVec.toNat_setWidth]

/-! ### The shifts -/

section Shifts

variable {n : Nat} (x : BitVec n) (amt : Nat)

theorem shlV_eq_ofInt : shlV x amt = BitVec.ofInt n ((x.toNat * 2 ^ amt : Nat) : Int) := by
  have shift : shlV x amt = x <<< amt := by
    unfold shlV
    split
    · next h => exact (BitVec.shiftLeft_eq_zero h).symm
    · rfl
  rw [shift, BitVec.ofInt_natCast]
  apply BitVec.eq_of_toNat_eq
  rw [BitVec.toNat_shiftLeft, Nat.shiftLeft_eq, BitVec.toNat_ofNat]

theorem shrV_eq_ofInt : shrV x amt = BitVec.ofInt n ((x.toNat / 2 ^ amt : Nat) : Int) := by
  have shift : shrV x amt = x >>> amt := by
    unfold shrV
    split
    · next h => exact (BitVec.ushiftRight_eq_zero h).symm
    · rfl
  rw [shift, BitVec.ofInt_natCast, ← Nat.shiftRight_eq_div_pow, ← BitVec.toNat_ushiftRight, BitVec.ofNat_toNat,
    BitVec.setWidth_eq]

theorem sarV_eq_ofInt : sarV x amt = BitVec.ofInt n (x.toInt / 2 ^ amt) := by
  have shift : sarV x amt = x.sshiftRight amt := by
    unfold sarV
    split
    · next h =>
      apply BitVec.eq_of_getLsbD_eq
      intro j hj
      rw [BitVec.getLsbD_sshiftRight]
      cases x.msb <;> simp [hj, show ¬ amt + j < n by omega]
    · rfl
  rw [shift, ← Nat.cast_ofNat (n := 2), ← Nat.cast_pow, ← Int.shiftRight_eq_div_pow, ← BitVec.toInt_sshiftRight, BitVec.ofInt_toInt]

end Shifts

theorem amtOf_eq (y : Dword) : amtOf y = Rules.amt y := by
  rw [amtOf, fldN_eq_div_mod, pow_zero, Nat.div_one]
  rfl

/-! ### Division (R239) -/

section Division

variable {n : Nat} (x y : BitVec n)

theorem eq_zero_iff_toInt : y = 0 ↔ y.toInt = 0 := by rw [← BitVec.toInt_inj, show (0 : BitVec n).toInt = 0 from BitVec.toInt_zero]

theorem eq_zero_iff_toNat : y = 0 ↔ y.toNat = 0 := by rw [← BitVec.toNat_inj, show (0 : BitVec n).toNat = 0 from BitVec.toNat_zero]

theorem allOnes_eq_ofInt (n : Nat) : BitVec.allOnes n = BitVec.ofInt n (-1) := by
  rw [BitVec.ofInt_neg, ← BitVec.neg_one_eq_allOnes]
  rfl

theorem divS_eq_ofInt : divS x y = BitVec.ofInt n (if y.toInt = 0 then -1 else x.toInt.tdiv y.toInt) := by
  unfold divS
  by_cases h : y = 0
  · rw [if_pos h, if_pos ((eq_zero_iff_toInt y).1 h), allOnes_eq_ofInt]
  · rw [if_neg h, if_neg (mt (eq_zero_iff_toInt y).2 h)]
    exact BitVec.eq_of_toInt_eq ((BitVec.toInt_sdiv x y).trans (BitVec.toInt_ofInt _).symm)

theorem remS_eq_ofInt : remS x y = BitVec.ofInt n (if y.toInt = 0 then x.toInt else x.toInt.tmod y.toInt) := by
  unfold remS
  by_cases h : y = 0
  · rw [if_pos h, if_pos ((eq_zero_iff_toInt y).1 h), BitVec.ofInt_toInt]
  · rw [if_neg h, if_neg (mt (eq_zero_iff_toInt y).2 h), ← BitVec.toInt_srem, BitVec.ofInt_toInt]

theorem divU_eq_ofInt : divU x y = BitVec.ofInt n (if y.toNat = 0 then -1 else ((x.toNat / y.toNat : Nat) : Int)) := by
  unfold divU
  by_cases h : y = 0
  · rw [if_pos h, if_pos ((eq_zero_iff_toNat y).1 h), allOnes_eq_ofInt]
  · rw [if_neg h, if_neg (mt (eq_zero_iff_toNat y).2 h), BitVec.ofInt_natCast, ← BitVec.toNat_udiv, BitVec.ofNat_toNat,
      BitVec.setWidth_eq]

theorem remU_eq_ofInt : remU x y = BitVec.ofInt n ((x.toNat % y.toNat : Nat) : Int) := by
  rw [BitVec.ofInt_natCast]
  unfold remU
  by_cases h : y = 0
  · rw [if_pos h, (eq_zero_iff_toNat y).1 h, Nat.mod_zero, BitVec.ofNat_toNat, BitVec.setWidth_eq]
  · rw [if_neg h, ← BitVec.toNat_umod, BitVec.ofNat_toNat, BitVec.setWidth_eq]

end Division

/-! ### Orders -/

theorem ltS_eq (x y : Dword) : ltS x y = decide (x.toInt < y.toInt) := rfl
theorem ltU_eq (x y : Dword) : ltU x y = decide (x.toNat < y.toNat) := rfl

/-- A comparison as a number. -/
theorem boolD_decide (p : Prop) [Decidable p] : boolD (decide p) = if p then 1 else 0 := by
  unfold boolD
  simp only [decide_eq_true_eq]

/-! ### Counts of bits (R237) -/

theorem clzN_eq (x : Dword) (n : Nat) : clzN x n = n - (x.toNat % 2 ^ n).size := by
  induction n with
  | zero => exact (Nat.zero_sub _).symm
  | succ n ih =>
    have low : (x.toNat % 2 ^ n).size ≤ n := Nat.size_le.2 (Nat.mod_lt _ (Nat.two_pow_pos n))
    have split : x.toNat % 2 ^ (n + 1) = x.toNat % 2 ^ n + 2 ^ n * (x.getLsbD n).toNat := by
      rw [Nat.mod_pow_succ, BitVec.getLsbD, Nat.toNat_testBit]
    rw [clzN]
    cases bit : x.getLsbD n with
    | false =>
      have same : x.toNat % 2 ^ (n + 1) = x.toNat % 2 ^ n := by rw [split, bit, Bool.toNat_false, Nat.mul_zero, Nat.add_zero]
      rw [same, ih, if_neg Bool.false_ne_true]
      omega
    | true =>
      have high : n < (x.toNat % 2 ^ (n + 1)).size := Nat.lt_size.2 (by rw [split, bit, Bool.toNat_true, Nat.mul_one]; omega)
      rw [if_pos rfl]
      omega

theorem ctzN_eq (x : Dword) (n i : Nat) :
    i + ctzN x n i = ((List.range' i n).find? fun j => x.getLsbD j).getD (i + n) := by
  induction n generalizing i with
  | zero => rfl
  | succ n ih =>
    rw [List.range'_succ, List.find?_cons, ctzN]
    cases x.getLsbD i with
    | true => rfl
    | false =>
      have next := ih (i + 1)
      rw [Nat.add_right_comm i 1 n] at next
      simp only [Bool.false_eq_true, if_false]
      rw [← Nat.add_assoc, ← Nat.add_assoc]
      exact next

theorem popN_eq (x : Dword) (n : Nat) : popN x n = (List.range n).countP fun i => x.getLsbD i := by
  induction n with
  | zero => rfl
  | succ n ih =>
    rw [List.range_succ, List.countP_append, List.countP_singleton, popN, ih, Nat.add_comm]

theorem clzN_eq_leading (x : Dword) : clzN x 64 = Rules.leading x := by
  rw [clzN_eq, Nat.mod_eq_of_lt x.isLt, Rules.leading]

theorem ctzN_eq_trailing (x : Dword) : ctzN x 64 0 = Rules.trailing x := by
  have found := ctzN_eq x 64 0
  rw [Nat.zero_add, Nat.zero_add, ← List.range_eq_range'] at found
  exact found

theorem popN_eq_ones (x : Dword) : popN x 64 = Rules.ones x := popN_eq x 64

end Sys2Proof.Machine
end

section
/-!
PROOFS. The integer instructions (R237 to R242): each is one of the register forms with the value of its table, and issue_writeG
writes it.
-/

namespace Sys2Proof.Machine

/-- An instruction has written x to g[d] and nothing else (R49, R237). -/
def WritesG (s : State) (o : Host.Outcome State Fault Refusal) (d : BitVec 5) (x : Dword) : Prop :=
  ∃ t, o = .next t ∧ (actor t).readG d.toNat = (if d = 0 then 0 else x) ∧ FallsThrough s t ∧ OnlyRegs s t [d.toNat]

/-! ### The three forms -/

section Forms

variable {s : State} {d a b : BitVec 5}

theorem aluRR_writes {f g : Dword → Dword → Dword} (same : ∀ x y, g x y = f x y) (h : Ready s [a.toNat, b.toNat, d.toNat]) :
    WritesG s (aluRR d a b g s) d (f ((actor s).readG a.toNat) ((actor s).readG b.toNat)) := by
  rw [← same]
  exact issue_writeG d (fun c => g (c.readG a.toNat) (c.readG b.toNat)) h rfl (by simp [gr]) rfl rfl

theorem aluR_writes {f g : Dword → Dword} (same : ∀ x, g x = f x) (h : Ready s [a.toNat, d.toNat]) :
    WritesG s (aluR d a g s) d (f ((actor s).readG a.toNat)) := by
  rw [← same]
  exact issue_writeG d (fun c => g (c.readG a.toNat)) h rfl (by simp [gr]) rfl rfl

theorem aluRI_writes {im : Ctx → Dword} {g : Dword → Dword → Dword} {x : Dword}
    (same : g ((actor s).readG a.toNat) (im (actor s)) = x) (h : Ready s [d.toNat, a.toNat]) :
    WritesG s (aluRI d a im g s) d x := by
  rw [← same]
  exact issue_writeG d (fun c => g (c.readG a.toNat) (im c)) h rfl (by simp [gr]) rfl rfl

end Forms

/-! ### INTR on two registers (R237 to R239) -/

theorem execAdd_value (w : BitVec 1) (x y : Dword) :
    atWidth w (· + ·) (· + ·) x y = Rules.narrow w (x.toInt + y.toInt) :=
  atWidth_ring (fun _ => (· + ·)) (· + ·) (fun _ a b => (BitVec.ofInt_add a b).symm) w x y

theorem execSub_value (w : BitVec 1) (x y : Dword) :
    atWidth w (· - ·) (· - ·) x y = Rules.narrow w (x.toInt - y.toInt) :=
  atWidth_ring (fun _ => (· - ·)) (· - ·)
    (fun _ a b => by rw [Int.sub_eq_add_neg, BitVec.ofInt_add, BitVec.ofInt_neg, BitVec.sub_eq_add_neg]) w x y

theorem execMul_value (w : BitVec 1) (x y : Dword) :
    atWidth w (· * ·) (· * ·) x y = Rules.narrow w (x.toInt * y.toInt) :=
  atWidth_ring (fun _ => (· * ·)) (· * ·) (fun _ a b => (BitVec.ofInt_mul a b).symm) w x y

theorem execShl_value (w : BitVec 1) (x y : Dword) :
    atWidth w (fun x _ => shlV x (amtOf y)) (fun x _ => shlV x (amtOf y)) x y = Rules.shl w x (Rules.amt y) :=
  amtOf_eq y ▸ atWidth_unsigned (fun _ x _ => shlV x (amtOf y)) (fun u _ => ((u * 2 ^ amtOf y : Nat) : Int))
    (fun _ x _ => shlV_eq_ofInt x _) w x y

theorem execShr_value (w : BitVec 1) (x y : Dword) :
    atWidth w (fun x _ => shrV x (amtOf y)) (fun x _ => shrV x (amtOf y)) x y = Rules.shr w x (Rules.amt y) :=
  amtOf_eq y ▸ atWidth_unsigned (fun _ x _ => shrV x (amtOf y)) (fun u _ => ((u / 2 ^ amtOf y : Nat) : Int))
    (fun _ x _ => shrV_eq_ofInt x _) w x y

theorem execSar_value (w : BitVec 1) (x y : Dword) :
    atWidth w (fun x _ => sarV x (amtOf y)) (fun x _ => sarV x (amtOf y)) x y = Rules.sar w x (Rules.amt y) :=
  amtOf_eq y ▸ atWidth_signed (fun _ x _ => sarV x (amtOf y)) (fun v _ => v / 2 ^ amtOf y)
    (fun _ x _ => sarV_eq_ofInt x _) w x y

theorem execDiv_value (w : BitVec 1) (x y : Dword) : atWidth w divS divS x y
    = if Rules.sOf w y = 0 then Rules.narrow w (-1) else Rules.narrow w ((Rules.sOf w x).tdiv (Rules.sOf w y)) :=
  (atWidth_signed (fun _ => divS) (fun u v => if v = 0 then -1 else u.tdiv v) (fun _ => divS_eq_ofInt) w x y).trans
    (apply_ite ..)

theorem execDivn_value (w : BitVec 1) (x y : Dword) : atWidth w divU divU x y
    = if Rules.uOf w y = 0 then Rules.narrow w (-1)
      else Rules.narrow w ((Rules.uOf w x / Rules.uOf w y : Nat) : Int) :=
  (atWidth_unsigned (fun _ => divU) (fun u v => if v = 0 then -1 else ((u / v : Nat) : Int)) (fun _ => divU_eq_ofInt) w x y).trans
    (apply_ite ..)

theorem execRem_value (w : BitVec 1) (x y : Dword) : atWidth w remS remS x y
    = if Rules.sOf w y = 0 then Rules.narrow w (Rules.sOf w x)
      else Rules.narrow w ((Rules.sOf w x).tmod (Rules.sOf w y)) :=
  (atWidth_signed (fun _ => remS) (fun u v => if v = 0 then u else u.tmod v) (fun _ => remS_eq_ofInt) w x y).trans
    (apply_ite ..)

theorem execRemn_value (w : BitVec 1) (x y : Dword) :
    atWidth w remU remU x y = Rules.narrow w ((Rules.uOf w x % Rules.uOf w y : Nat) : Int) :=
  atWidth_unsigned (fun _ => remU) (fun u v => ((u % v : Nat) : Int)) (fun _ => remU_eq_ofInt) w x y

/-- The choice of the register with the smaller number. -/
theorem ite_lt_eq_ite_le {β : Type} [LinearOrder β] (num : Dword → β) (x y : Dword) :
    (if decide (num y < num x) = true then y else x) = if num x ≤ num y then x else y := by
  simp only [decide_eq_true_eq, ← not_le, ite_not]

/-- The choice of the register with the larger number: where the numbers are equal, so are the registers. -/
theorem ite_lt_eq_ite_le_of_injective {β : Type} [LinearOrder β] {num : Dword → β} (inj : Function.Injective num) (x y : Dword) :
    (if decide (num x < num y) = true then y else x) = if num x ≤ num y then y else x := by
  simp only [decide_eq_true_eq]
  rcases lt_trichotomy (num x) (num y) with h | h | h
  · rw [if_pos h, if_pos h.le]
  · rw [inj h, ite_self, ite_self]
  · rw [if_neg h.not_gt, if_neg h.not_ge]

theorem toInt_injective : Function.Injective (BitVec.toInt : Dword → Int) := fun _ _ => BitVec.eq_of_toInt_eq

theorem toNat_injective : Function.Injective (BitVec.toNat : Dword → Nat) := fun _ _ => BitVec.eq_of_toNat_eq

theorem intrWritesResult : Rules.IntrWritesResult := by
  intro i d a b f s form h
  show WritesG s (exec i s) d _
  have writes {g : Dword → Dword → Dword} (run : exec i s = aluRR d a b g s) (same : ∀ x y, g x y = f x y) :
      WritesG s (exec i s) d (f ((actor s).readG a.toNat) ((actor s).readG b.toNat)) := run ▸ aluRR_writes same h
  cases i with
  | add _ _ _ w => cases form; exact writes (rfl : execAdd d a b w s = _) (execAdd_value w)
  | sub _ _ _ w => cases form; exact writes (rfl : execSub d a b w s = _) (execSub_value w)
  | and => cases form; exact writes (rfl : execAnd d a b s = _) fun _ _ => rfl
  | or => cases form; exact writes (rfl : execOr d a b s = _) fun _ _ => rfl
  | xor => cases form; exact writes (rfl : execXor d a b s = _) fun _ _ => rfl
  | andn => cases form; exact writes (rfl : execAndn d a b s = _) fun _ _ => rfl
  | shl _ _ _ w => cases form; exact writes (rfl : execShl d a b w s = _) (execShl_value w)
  | shr _ _ _ w => cases form; exact writes (rfl : execShr d a b w s = _) (execShr_value w)
  | sar _ _ _ w => cases form; exact writes (rfl : execSar d a b w s = _) (execSar_value w)
  | slt => cases form; exact writes (rfl : execSlt d a b s = _) fun _ _ => boolD_decide _
  | sltn => cases form; exact writes (rfl : execSltn d a b s = _) fun _ _ => boolD_decide _
  | min => cases form; exact writes (rfl : execMin d a b s = _) (ite_lt_eq_ite_le BitVec.toInt)
  | max => cases form; exact writes (rfl : execMax d a b s = _) (ite_lt_eq_ite_le_of_injective toInt_injective)
  | minn => cases form; exact writes (rfl : execMinn d a b s = _) (ite_lt_eq_ite_le BitVec.toNat)
  | maxn => cases form; exact writes (rfl : execMaxn d a b s = _) (ite_lt_eq_ite_le_of_injective toNat_injective)
  | mul _ _ _ w => cases form; exact writes (rfl : execMul d a b w s = _) (execMul_value w)
  | mulh => cases form; exact writes (rfl : execMulh d a b s = _) fun _ _ => rfl
  | mulhn => cases form; exact writes (rfl : execMulhn d a b s = _) fun _ _ => (BitVec.ofInt_natCast ..).symm
  | div _ _ _ w => cases form; exact writes (rfl : execDiv d a b w s = _) (execDiv_value w)
  | divn _ _ _ w => cases form; exact writes (rfl : execDivn d a b w s = _) (execDivn_value w)
  | rem _ _ _ w => cases form; exact writes (rfl : execRem d a b w s = _) (execRem_value w)
  | remn _ _ _ w => cases form; exact writes (rfl : execRemn d a b w s = _) (execRemn_value w)
  | _ => exact nomatch form

/-! ### One register (R237, R241) -/

/-- The shifts of SHI at 32 bits are those of atWidth. -/
theorem sx32_shlV (x : Dword) (m : Nat) : sx32 (shlV (lo32 x) m) = Rules.shl 1 x m :=
  atWidth_unsigned (fun _ x _ => shlV x m) (fun u _ => ((u * 2 ^ m : Nat) : Int)) (fun _ x _ => shlV_eq_ofInt x m) 1 x x

theorem sx32_shrV (x : Dword) (m : Nat) : sx32 (shrV (lo32 x) m) = Rules.shr 1 x m :=
  atWidth_unsigned (fun _ x _ => shrV x m) (fun u _ => ((u / 2 ^ m : Nat) : Int)) (fun _ x _ => shrV_eq_ofInt x m) 1 x x

theorem sx32_sarV (x : Dword) (m : Nat) : sx32 (sarV (lo32 x) m) = Rules.sar 1 x m :=
  atWidth_signed (fun _ x _ => sarV x m) (fun v _ => v / 2 ^ m) (fun _ x _ => sarV_eq_ofInt x m) 1 x x

theorem oneSourceWritesResult : Rules.OneSourceWritesResult := by
  intro i d a f s form h
  show WritesG s (exec i s) d _
  have writes {g : Dword → Dword} (run : exec i s = aluR d a g s) (same : ∀ x, g x = f x) :
      WritesG s (exec i s) d (f ((actor s).readG a.toNat)) := run ▸ aluR_writes same h
  cases i with
  | clz => cases form; exact writes (rfl : execClz d a s = _) fun x => congrArg _ (clzN_eq_leading x)
  | ctz => cases form; exact writes (rfl : execCtz d a s = _) fun x => congrArg _ (ctzN_eq_trailing x)
  | popc => cases form; exact writes (rfl : execPopc d a s = _) fun x => congrArg _ (popN_eq_ones x)
  | shli _ _ m => cases form; exact writes (rfl : execShli d a m s = _) fun x => shlV_eq_ofInt x _
  | shri _ _ m => cases form; exact writes (rfl : execShri d a m s = _) fun x => shrV_eq_ofInt x _
  | sari _ _ m => cases form; exact writes (rfl : execSari d a m s = _) fun x => sarV_eq_ofInt x _
  | shliW _ _ m => cases form; exact writes (rfl : execShliW d a m s = _) fun x => sx32_shlV x _
  | shriW _ _ m => cases form; exact writes (rfl : execShriW d a m s = _) fun x => sx32_shrV x _
  | sariW _ _ m => cases form; exact writes (rfl : execSariW d a m s = _) fun x => sx32_sarV x _
  | _ => exact nomatch form

/-! ### Immediates (R49, R240) -/

/-- A payload above an immediate, as a number. -/
theorem toNat_append_eq {m n : Nat} (p : BitVec m) (i : BitVec n) : (p ++ i).toNat = p.toNat * 2 ^ n + i.toNat := by
  rw [BitVec.toNat_append, ← Nat.shiftLeft_add_eq_or_of_lt i.isLt, Nat.shiftLeft_eq]

theorem toInt_immS (c : Ctx) (i : BitVec 16) : (immS c i).toInt = Rules.immI c i := by
  unfold immS Rules.immI
  rw [hImm_eq_joined]
  cases Rules.joined c with
  | none => exact BitVec.toInt_signExtend_of_le (by decide)
  | some p => exact BitVec.toInt_signExtend_of_le (by decide)

theorem toNat_immZ (c : Ctx) (i : BitVec 16) : (immZ c i).toNat = Rules.immN c i := by
  unfold immZ Rules.immN
  rw [hImm_eq_joined]
  cases Rules.joined c with
  | none => exact BitVec.toNat_setWidth_of_le (by decide)
  | some p => exact (BitVec.toNat_setWidth_of_le (by decide)).trans (toNat_append_eq p i)

theorem immZ_eq_ofNat (c : Ctx) (i : BitVec 16) : immZ c i = BitVec.ofNat 64 (Rules.immN c i) := by
  rw [← toNat_immZ, BitVec.ofNat_toNat, BitVec.setWidth_eq]

theorem add_immS (c : Ctx) (x : Dword) (i : BitVec 16) : x + immS c i = BitVec.ofInt 64 (x.toInt + Rules.immI c i) := by
  rw [BitVec.ofInt_add, BitVec.ofInt_toInt, immS_eq_ofInt]

/-! ### LHI (R242) -/

/-- A written field as a number: the bits above it, the field, and the bits below it. -/
theorem toNat_putFld {m n : Nat} (x : BitVec m) (lo : Nat) (v : BitVec n) (h : lo + n ≤ m) :
    (putFld x lo n v).toNat = 2 ^ lo * (2 ^ n * (x.toNat / 2 ^ (lo + n)) + v.toNat) + x.toNat % 2 ^ lo := by
  apply Nat.eq_of_testBit_eq
  intro j
  have bits : (putFld x lo n v).toNat.testBit j = _ := getLsbD_putFld x lo v j
  rw [bits, Nat.testBit_two_pow_mul_add _ (Nat.mod_lt _ (Nat.two_pow_pos lo)), Nat.testBit_two_pow_mul_add _ v.isLt,
    Nat.testBit_mod_two_pow, Nat.testBit_div_two_pow]
  by_cases below : j < lo
  · rw [if_neg (by omega), if_pos below, decide_eq_true below, Bool.true_and, BitVec.getLsbD]
  by_cases inside : j < lo + n
  · rw [if_pos (by omega), if_neg below, if_pos (by omega), decide_eq_true (by omega : j < m), Bool.true_and, BitVec.getLsbD]
  · rw [if_neg (by omega), if_neg below, if_neg (by omega), BitVec.getLsbD, show j - lo - n + (lo + n) = j by omega]

/-- A field exchanged for another: the old field is taken away at its place, the new one added. -/
theorem toNat_putFld_exchange {m n : Nat} (x : BitVec m) (lo : Nat) (v : BitVec n) (h : lo + n ≤ m) :
    (putFld x lo n v).toNat = x.toNat - x.toNat / 2 ^ lo % 2 ^ n * 2 ^ lo + v.toNat * 2 ^ lo := by
  have outer := Nat.div_add_mod x.toNat (2 ^ lo)
  have inner := Nat.div_add_mod (x.toNat / 2 ^ lo) (2 ^ n)
  rw [Nat.div_div_eq_div_mul, ← pow_add] at inner
  rw [toNat_putFld x lo v h]
  generalize x.toNat / 2 ^ (lo + n) = high at inner ⊢
  generalize x.toNat / 2 ^ lo % 2 ^ n = field at inner ⊢
  generalize x.toNat % 2 ^ lo = low at outer ⊢
  rw [← inner, Nat.mul_add] at outer
  rw [← outer, Nat.mul_add, Nat.mul_comm field, Nat.mul_comm v.toNat]
  omega

/-- The quarters of a dword lie in it. -/
theorem putFld_quarter (x : Dword) (q : BitVec 2) (i : BitVec 16) : putFld x (16 * q.toNat) 16 i
    = BitVec.ofNat 64 (x.toNat - x.toNat / 2 ^ (16 * q.toNat) % 2 ^ 16 * 2 ^ (16 * q.toNat) + i.toNat * 2 ^ (16 * q.toNat)) := by
  rw [← toNat_putFld_exchange x (16 * q.toNat) i (by omega), BitVec.ofNat_toNat, BitVec.setWidth_eq]

theorem immediateWritesResult : Rules.ImmediateWritesResult := by
  intro i d rs x s form h
  show WritesG s (exec i s) d x
  have writes {a : BitVec 5} {im : Ctx → Dword} {g : Dword → Dword → Dword} (run : exec i s = aluRI d a im g s)
      (regs : rs = [a.toNat]) (value : g ((actor s).readG a.toNat) (im (actor s)) = x) : WritesG s (exec i s) d x :=
    run ▸ aluRI_writes value (regs ▸ h)
  cases i with
  | addi _ a k => cases form; exact writes (rfl : execAddi d a k s = _) rfl (add_immS ..)
  | andi _ a k => cases form; exact writes (rfl : execAndi d a k s = _) rfl (congrArg _ (immZ_eq_ofNat ..))
  | ori _ a k => cases form; exact writes (rfl : execOri d a k s = _) rfl (congrArg _ (immZ_eq_ofNat ..))
  | xori _ a k => cases form; exact writes (rfl : execXori d a k s = _) rfl (congrArg _ (immZ_eq_ofNat ..))
  | slti _ a k =>
    cases form
    exact writes (rfl : execSlti d a k s = _) rfl ((boolD_decide _).trans (by rw [toInt_immS]))
  | sltin _ a k =>
    cases form
    exact writes (rfl : execSltin d a k s = _) rfl ((boolD_decide _).trans (by rw [toNat_immZ]))
  | addpc _ k =>
    cases form
    show WritesG s (execAddpc d k s) d _
    unfold execAddpc
    have value : (actor s).pc + immS (actor s) k = BitVec.ofInt 64 ((actor s).pc.toNat + Rules.immI (actor s) k) := by
      rw [BitVec.ofInt_add, BitVec.ofInt_natCast, BitVec.ofNat_toNat, BitVec.setWidth_eq, immS_eq_ofInt]
    rw [← value]
    exact issue_writeG d (fun c => c.pc + immS c k) h rfl (by simp [gr]) rfl rfl
  | lhi _ q k =>
    cases form
    show WritesG s (execLhi d q k s) d _
    unfold execLhi
    rw [← putFld_quarter]
    exact issue_writeG d (fun c => putFld (c.readG d.toNat) (16 * q.toNat) 16 k) h rfl (by simp [gr]) rfl rfl
  | _ => exact nomatch form

/-- Settles O1: the three groups of R237 to R242. -/
theorem scalarResults : Obligations.ScalarResults :=
  ⟨intrWritesResult, oneSourceWritesResult, immediateWritesResult⟩

end Sys2Proof.Machine
end
